-- ==== Sys2Proof/Word.lean ====
section
/-! DEFINITION. The word types of the machine and their plainest arithmetic (R3, R4). -/

namespace Sys2Proof

/-- One byte. -/
abbrev Byte := BitVec 8

/-- A 32-bit lane word (R86). -/
abbrev Word := BitVec 32

/-- A 64-bit register (R74). -/
abbrev DWord := BitVec 64

/-- A lane register viewed across its 64 lanes (R110): lane `j` in bits `[32j+31:32j]`. -/
abbrev Wide := BitVec 2048

/-- A set of lanes, bit `i` for lane `i` (R74). -/
abbrev Lanes := BitVec 64

end Sys2Proof
end

