-- ==== Sys2Proof/Syntax.lean ====
section
/-! DEFINITION. The syntax: one constructor for every row of spec/opcode_table.json. The 180 encoded rows
take the fields of their encoding, in ascending bit position; the 77 happenings of the table take what the
outside, or the choice of the agent that acts, supplies. -/

namespace Sys2Proof

/-- A fixed set of the streams an instruction can issue in (R61, R270): the hitter stream of an ordinary
group, its setter stream, and the hitter stream that runs in a core's handler slot (handler kernel or
machine-check kernel). -/
inductive Stream where
  | hitter | setter | handler
  deriving DecidableEq, Repr

/-- The ports at which one group issues (R61, R68): its two PC slots and its setter. -/
inductive Port where
  | slot0 | slot1 | setter
  deriving DecidableEq, Repr

/-- A command of a migration engine (R184, R185): the page of an address space that moves, and the page it
moves to (`newTier = 3` is NVMe; a page on NVMe has no physical address, R167). Where `block` holds the base of an
attention-cache directory and a CSIZE, the block that the table entry at `va` names moves, `newPhys` being its new ADDR (R288). -/
structure MigCommand where
  root     : Nat
  va       : BitVec 64
  newTier  : BitVec 2
  newPhys  : Nat
  newCode  : BitVec 3
  size     : Nat
  block    : Option (Nat × BitVec 7)
  deriving DecidableEq, Repr

/-- A firmware image as it arrives (R328): its header and its body. -/
structure FirmwareImage where
  wellFormed : Bool
  version    : BitVec 64
  length     : Nat
  digest     : BitVec 384
  rsaKey     : List (BitVec 8)
  rsaSig     : List (BitVec 8)
  slhKey     : List (BitVec 8)
  slhSig     : List (BitVec 8)
  body       : List (BitVec 8)
  components : List (BitVec 32 × List (BitVec 8))
  deriving DecidableEq, Repr

/-- The rows of the opcode table. -/
inductive Instr where
  /-- `abs.s32` (R359): Writes the wrapped absolute value of a signed 32-bit source in each active lane. -/
  | abs (d : BitVec 7) (w : Bool) (a : BitVec 8)
  /-- `acquire` (R360): Parks the group until its full register allotment is granted. -/
  | acquire
  /-- `acrd` (R362): Engine command that reads one accumulator column into the active lanes. -/
  | acrd (d : BitVec 7) (a : BitVec 8)
  /-- `acwr` (R362): Engine command that writes a lane value into one accumulator column. -/
  | acwr (d : BitVec 7) (a : BitVec 8)
  /-- `acz` (R362): Engine command that zeroes a 64 x 64 accumulator block. -/
  | acz (d : BitVec 7)
  /-- `add` (R364): 32-bit lane add, or 64-bit add of setter registers, wrapping. -/
  | add (d : BitVec 7) (w : Bool) (a : BitVec 8) (b : BitVec 8)
  /-- `add` (R152): 16-bit two-address form of the 32-bit add. -/
  | add16 (s : BitVec 5) (d : BitVec 6)
  /-- `add.s64` (R364): 64-bit add on lane register pairs, wrapping. -/
  | addPair (d : BitVec 7) (a : BitVec 8) (b : BitVec 8)
  /-- `add.wide` (R364): Adds two 4,096-bit wide pairs modulo 2^4096 across every lane. -/
  | addWide (d : BitVec 7) (a : BitVec 8) (b : BitVec 8)
  /-- `and` (R365): Bitwise AND of two sources in each active lane, or of two setter registers. -/
  | and (d : BitVec 7) (w : Bool) (a : BitVec 8) (b : BitVec 8)
  /-- `and` (R152): 16-bit two-address form of and. -/
  | and16 (s : BitVec 5) (d : BitVec 6)
  /-- `atom` (R229): Per-lane atomic read, operation and write at the home of each address. -/
  | atom (s : BitVec 3) (q : BitVec 2) (t : BitVec 2) (x : BitVec 3) (m : BitVec 7) (d : BitVec 7)
  /-- `bar.arv` (R234): Arrives at a barrier word, returns the phase token, and completes the phase on the last arrival. -/
  | barArv (d : BitVec 7) (a : BitVec 8)
  /-- `bar.wait` (R234): Parks the stream until the barrier word's phase differs from the token. -/
  | barWait (a : BitVec 8) (b : BitVec 8)
  /-- `bcast` (R369): Copies one lane's value to every active lane. -/
  | bcast (d : BitVec 7) (w : Bool) (a : BitVec 7) (b : BitVec 8)
  /-- `bfx.s32` (R370): Extracts a bit field, sign-extended. -/
  | bfxS32 (d : BitVec 7) (w : Bool) (a : BitVec 8) (b : BitVec 8)
  /-- `bfx.z32` (R370): Extracts a bit field, zero-extended. -/
  | bfxZ32 (d : BitVec 7) (w : Bool) (a : BitVec 8) (b : BitVec 8)
  /-- `bfi` (R370): Inserts the low bits of a source into a field of the destination. -/
  | bfi (d : BitVec 7) (a : BitVec 8) (b : BitVec 8)
  /-- `br` (R373): Predicated branch that moves or splits the issuing path. -/
  | br (h : BitVec 2) (n : Bool) (p : BitVec 3) (o : BitVec 18)
  /-- `brev` (R374): Reverses the bits of the source in each active lane. -/
  | brev (d : BitVec 7) (w : Bool) (a : BitVec 8)
  /-- `call` (R375): Writes the link and moves the whole path to the target. -/
  | call (o : BitVec 18)
  /-- `cancel` (R255): Ends a task subtree and parks until its reclamation finishes. -/
  | cancel (d : BitVec 7) (a : BitVec 8)
  /-- `cas` (R230): Per-lane compare-and-swap at the home of each address. -/
  | cas (s : BitVec 3) (q : BitVec 2) (t : BitVec 2) (m : BitVec 7) (d : BitVec 7)
  /-- `cexp.f32` (R379): CORDIC 2^x to a chosen precision. -/
  | cexp (d : BitVec 7) (w : Bool) (a : BitVec 8) (n : BitVec 8)
  /-- `clog.f32` (R379): CORDIC log2 x to a chosen precision. -/
  | clog (d : BitVec 7) (w : Bool) (a : BitVec 8) (n : BitVec 8)
  /-- `csin.f32` (R379): CORDIC sin(pi x) to a chosen precision. -/
  | csin (d : BitVec 7) (w : Bool) (a : BitVec 8) (n : BitVec 8)
  /-- `catan.f32` (R379): CORDIC atan(x)/pi to a chosen precision. -/
  | catan (d : BitVec 7) (w : Bool) (a : BitVec 8) (n : BitVec 8)
  /-- `csqrt.f32` (R379): CORDIC square root to a chosen precision. -/
  | csqrt (d : BitVec 7) (w : Bool) (a : BitVec 8) (n : BitVec 8)
  /-- `crsq.f32` (R379): CORDIC reciprocal square root to a chosen precision. -/
  | crsq (d : BitVec 7) (w : Bool) (a : BitVec 8) (n : BitVec 8)
  /-- `crcp.f32` (R379): CORDIC reciprocal to a chosen precision. -/
  | crcp (d : BitVec 7) (w : Bool) (a : BitVec 8) (n : BitVec 8)
  /-- `ctanh.f32` (R379): CORDIC tanh to a chosen precision. -/
  | ctanh (d : BitVec 7) (w : Bool) (a : BitVec 8) (n : BitVec 8)
  /-- `CORDIC_RESULT` (R160): The CORDIC unit writes its result n + 8 clocks after issue. -/
  | cordicResult (grp : Nat) (serial : Nat)
  /-- `clz` (R380): Counts leading zero bits in each active lane. -/
  | clz (d : BitVec 7) (w : Bool) (a : BitVec 8)
  /-- `cmp.cc.s32` (R382): Signed 32-bit compare writing a predicate. -/
  | cmpS32P (d : BitVec 3) (c : BitVec 3) (a : BitVec 8) (b : BitVec 8)
  /-- `cmp.cc.s32` (R382): Signed 32-bit compare writing all-ones or zero to a lane register. -/
  | cmpS32V (d : BitVec 4) (c : BitVec 3) (a : BitVec 8) (b : BitVec 8)
  /-- `cmp.cc.z32` (R382): Unsigned 32-bit compare writing a predicate. -/
  | cmpZ32P (d : BitVec 3) (c : BitVec 3) (a : BitVec 8) (b : BitVec 8)
  /-- `cmp.cc.z32` (R382): Unsigned 32-bit compare writing a lane register. -/
  | cmpZ32V (d : BitVec 4) (c : BitVec 3) (a : BitVec 8) (b : BitVec 8)
  /-- `cpy` (R180): Sends a strided copy descriptor to the cluster's copy engine. -/
  | cpy (a : BitVec 8) (b : BitVec 8)
  /-- `cpyg` (R180): Sends an indexed gather copy descriptor to the copy engine. -/
  | cpyg (a : BitVec 8) (b : BitVec 8)
  /-- `COPY_COMPLETE` (R182): A copy completes when every destination byte is written or ends at its first faulting byte. -/
  | copyComplete (cmd : Nat)
  /-- `cvt` (R385): Converts a lane value from one format to another with one rounding. -/
  | cvt (d : BitVec 6) (a : BitVec 6) (g : BitVec 6) (f : BitVec 6)
  /-- `dqnt.f32` (R388): Dequantises an 8-bit or 4-bit element times an f32 scale to f32. -/
  | dqnt (d : BitVec 6) (a : BitVec 6) (b : BitVec 6) (f : BitVec 6)
  /-- `drain` (R390): Engine command that writes a 64 x 64 accumulator block to scratchpad. -/
  | drain (d : BitVec 7)
  /-- `drain.t` (R390): Engine command that writes an accumulator block to scratchpad transposed. -/
  | drainT (d : BitVec 7)
  /-- `echo` (R262): Sends an echo probe from a barrier word and parks until it dies or reports a cycle. -/
  | echo (d : BitVec 7) (a : BitVec 8)
  /-- `elect` (R392): Sets the predicate bit of the lowest active lane only. -/
  | elect (p : BitVec 3)
  /-- `eret` (R393): Leaves the handler and resumes the trapped group as the trap kind gives. -/
  | eret
  /-- `eret.end` (R275): Leaves the handler and ends the trapped group. -/
  | eretEnd
  /-- `exit` (R395): Ends the setter stream, or the lanes of the hitter path, and the group when none remain. -/
  | exit
  /-- `extr.s32` (R120): Engine command that recovers digits of a wide pair into 32-bit lanes. -/
  | extrS32 (d : BitVec 7) (a : BitVec 8) (b : BitVec 8)
  /-- `extr.s64` (R120): Engine command that recovers digits of a wide pair into 64-bit lane pairs. -/
  | extrS64 (d : BitVec 7) (a : BitVec 8) (b : BitVec 8)
  /-- `fadd.f32` (R398): f32 add with one rounding. -/
  | fadd (d : BitVec 7) (w : Bool) (a : BitVec 8) (b : BitVec 8)
  /-- `fadd.f32` (R152): 16-bit two-address form of fadd.f32. -/
  | fadd16 (s : BitVec 5) (d : BitVec 6)
  /-- `fsub.f32` (R398): f32 subtract with one rounding. -/
  | fsub (d : BitVec 7) (w : Bool) (a : BitVec 8) (b : BitVec 8)
  /-- `fsub.f32` (R152): 16-bit two-address form of fsub.f32. -/
  | fsub16 (s : BitVec 5) (d : BitVec 6)
  /-- `fmul.f32` (R398): f32 multiply with one rounding. -/
  | fmul (d : BitVec 7) (w : Bool) (a : BitVec 8) (b : BitVec 8)
  /-- `fmul.f32` (R152): 16-bit two-address form of fmul.f32. -/
  | fmul16 (s : BitVec 5) (d : BitVec 6)
  /-- `ffma.f32` (R398): f32 fused multiply-add with one rounding. -/
  | ffma (d : BitVec 7) (a : BitVec 8) (b : BitVec 8)
  /-- `fmin.f32` (R398): f32 minimum under the NaN rules of R149. -/
  | fmin (d : BitVec 7) (w : Bool) (a : BitVec 8) (b : BitVec 8)
  /-- `fmin.f32` (R152): 16-bit two-address form of fmin.f32. -/
  | fmin16 (s : BitVec 5) (d : BitVec 6)
  /-- `fmax.f32` (R398): f32 maximum under the NaN rules of R149. -/
  | fmax (d : BitVec 7) (w : Bool) (a : BitVec 8) (b : BitVec 8)
  /-- `fmax.f32` (R152): 16-bit two-address form of fmax.f32. -/
  | fmax16 (s : BitVec 5) (d : BitVec 6)
  /-- `fadd.f16` (R398): f16 or bf16 add with one rounding. -/
  | faddH (d : BitVec 6) (a : BitVec 6) (b : BitVec 6) (t : BitVec 3)
  /-- `fsub.f16` (R398): f16 or bf16 subtract with one rounding. -/
  | fsubH (d : BitVec 6) (a : BitVec 6) (b : BitVec 6) (t : BitVec 3)
  /-- `fmul.f16` (R398): f16 or bf16 multiply with one rounding. -/
  | fmulH (d : BitVec 6) (a : BitVec 6) (b : BitVec 6) (t : BitVec 3)
  /-- `ffma.f16` (R398): f16 or bf16 fused multiply-add. -/
  | ffmaH (d : BitVec 6) (a : BitVec 6) (b : BitVec 6) (t : BitVec 3)
  /-- `fmin.f16` (R398): f16 or bf16 minimum. -/
  | fminH (d : BitVec 6) (a : BitVec 6) (b : BitVec 6) (t : BitVec 3)
  /-- `fmax.f16` (R398): f16 or bf16 maximum. -/
  | fmaxH (d : BitVec 6) (a : BitVec 6) (b : BitVec 6) (t : BitVec 3)
  /-- `fcmp.cc.f32` (R401): f32 compare writing a predicate. -/
  | fcmpF32P (d : BitVec 3) (c : BitVec 3) (a : BitVec 8) (b : BitVec 8)
  /-- `fcmp.cc.f32` (R401): f32 compare writing a lane register. -/
  | fcmpF32V (d : BitVec 4) (c : BitVec 3) (a : BitVec 8) (b : BitVec 8)
  /-- `fcmp.cc.f16` (R401): f16 compare writing a predicate. -/
  | fcmpF16P (d : BitVec 3) (c : BitVec 3) (a : BitVec 8) (b : BitVec 8)
  /-- `fcmp.cc.f16` (R401): f16 compare writing a lane register. -/
  | fcmpF16V (d : BitVec 4) (c : BitVec 3) (a : BitVec 8) (b : BitVec 8)
  /-- `fcmp.cc.bf16` (R401): bf16 compare writing a predicate. -/
  | fcmpBf16P (d : BitVec 3) (c : BitVec 3) (a : BitVec 8) (b : BitVec 8)
  /-- `fcmp.cc.bf16` (R401): bf16 compare writing a lane register. -/
  | fcmpBf16V (d : BitVec 4) (c : BitVec 3) (a : BitVec 8) (b : BitVec 8)
  /-- `fence` (R221): Orders the accesses of its own path and stream as an acquire, release or both at a scope. -/
  | fence (s : BitVec 3) (k : BitVec 2)
  /-- `fsh` (R403): Funnel shift of a 64-bit lane pair to a 32-bit result. -/
  | fsh (d : BitVec 7) (w : Bool) (a : BitVec 8) (b : BitVec 8)
  /-- `gset` (R404): Writes the pitch and guard of GMODE. -/
  | gset (a : BitVec 8) (b : BitVec 8)
  /-- `gth` (R406): Gathers one element per active lane from a per-lane 64-bit address. -/
  | gth (s : BitVec 3) (q : BitVec 2) (t : BitVec 3) (a : BitVec 7) (d : BitVec 7)
  /-- `jmp` (R407): Moves the whole path to the target. -/
  | jmp (o : BitVec 18)
  /-- `join` (R408): Waits at the innermost rejoin record and merges the two paths. -/
  | join
  /-- `kvx` (R292): Translates sequence positions to row addresses for reading. -/
  | kvx (n : BitVec 3) (b : BitVec 7) (a : BitVec 7) (d : BitVec 7)
  /-- `kvx.w` (R292): Translates positions for writing, allocating, promoting or copying blocks. -/
  | kvxW (n : BitVec 3) (b : BitVec 7) (a : BitVec 7) (d : BitVec 7)
  /-- `kvfork` (R295): Forks sequences into new slots sharing their blocks. -/
  | kvfork (n : BitVec 3) (b : BitVec 7) (a : BitVec 7) (d : BitVec 7)
  /-- `kvskip` (R300): Writes a predicate marking blocks that cannot matter. -/
  | kvskip (n : BitVec 3) (b : BitVec 7) (a : BitVec 7) (d : BitVec 7)
  /-- `kvrel` (R296): Releases sequences and returns freed blocks to the pool. -/
  | kvrel (n : BitVec 3) (a : BitVec 7) (d : BitVec 7)
  /-- `KV_ACTION_COMPLETE` (R293): A promotion or copy-on-write for held lanes completes and their addresses are written. -/
  | kvActionComplete (grp : Nat) (serial : Nat)
  /-- `launch` (R254): Reads a launch record from scratchpad and appends a grid to a device task queue. -/
  | launch (d : BitVec 7) (a : BitVec 8)
  /-- `ld` (R416): Loads one element per active lane, or one value into a setter register. -/
  | ld (d : BitVec 5) (t : BitVec 3) (n : BitVec 5) (e : BitVec 11)
  /-- `ld.acq` (R416): Ordered load that is an acquire point at a scope. -/
  | ldAcq (d : BitVec 5) (t : BitVec 3) (n : BitVec 5) (s : BitVec 3)
  /-- `ldq` (R417): Setter load that pushes the value onto a set queue. -/
  | ldq (d : BitVec 5) (t : BitVec 3) (n : BitVec 5) (e : BitVec 11)
  /-- `ldq.acq` (R417): Ordered setter queue load with acquire. -/
  | ldqAcq (d : BitVec 5) (t : BitVec 3) (n : BitVec 5) (s : BitVec 3)
  /-- `lds` (R419): Loads from the team's scratchpad. -/
  | lds (d : BitVec 5) (t : BitVec 3) (n : BitVec 5) (e : BitVec 11)
  /-- `lds.acq` (R419): Scratchpad load that is an acquire point. -/
  | ldsAcq (d : BitVec 5) (t : BitVec 3) (n : BitVec 5) (s : BitVec 3)
  /-- `litscan` (R203): Writes a snapshot of a region's lit pages into scratchpad. -/
  | litscan (a : BitVec 8) (b : BitVec 8)
  /-- `lred` (R422): Reduces a register over participant lanes and writes the result to every active lane. -/
  | lred (d : BitVec 7) (a : BitVec 7) (p : BitVec 3) (f : BitVec 4)
  /-- `mad.s32` (R424): Signed multiply-add into the destination, narrowed once. -/
  | madS32 (d : BitVec 7) (a : BitVec 8) (b : BitVec 8)
  /-- `mad.z32` (R424): Unsigned multiply-add into the destination, narrowed once. -/
  | madZ32 (d : BitVec 7) (a : BitVec 8) (b : BitVec 8)
  /-- `min.s32` (R425): Signed 32-bit minimum. -/
  | minS32 (d : BitVec 7) (w : Bool) (a : BitVec 8) (b : BitVec 8)
  /-- `min.s32` (R152): 16-bit two-address form of min.s32. -/
  | minS3216 (s : BitVec 5) (d : BitVec 6)
  /-- `min.z32` (R425): Unsigned 32-bit minimum. -/
  | minZ32 (d : BitVec 7) (w : Bool) (a : BitVec 8) (b : BitVec 8)
  /-- `max.s32` (R425): Signed 32-bit maximum. -/
  | maxS32 (d : BitVec 7) (w : Bool) (a : BitVec 8) (b : BitVec 8)
  /-- `max.s32` (R152): 16-bit two-address form of max.s32. -/
  | maxS3216 (s : BitVec 5) (d : BitVec 6)
  /-- `max.z32` (R425): Unsigned 32-bit maximum. -/
  | maxZ32 (d : BitVec 7) (w : Bool) (a : BitVec 8) (b : BitVec 8)
  /-- `mma` (R135): Gang-wide matrix pass accumulating an exact product into the accumulator store. -/
  | mma (d : BitVec 7) (a : BitVec 8) (b : BitVec 8)
  /-- `mma.sp` (R137): Gang-wide matrix pass with a 2-of-4 compressed P operand. -/
  | mmaSp (d : BitVec 7) (a : BitVec 8) (b : BitVec 8)
  /-- `mmc` (R136): Compresses dense columns to 2-of-4 form on the lane datapath. -/
  | mmc (d : BitVec 7) (a : BitVec 8) (b : BitVec 8)
  /-- `mmd` (R139): Gang-wide pass forming weight and data gradient tiles from the resident buffer. -/
  | mmd (d : BitVec 7) (a : BitVec 8) (b : BitVec 8)
  /-- `mmd.ld` (R138): Loads the PME's resident bf16 buffer from the accumulator. -/
  | mmdLd (d : BitVec 7)
  /-- `PME_GRANT` (R143): The arbiter grants a reservation-table request when its arrays are free. -/
  | pmeGrant (pme : Nat)
  /-- `PASS_COMPLETE` (R132): A matrix pass writes each updated accumulator element once and ORs its flags into the owning members. -/
  | passComplete (pme : Nat) (req : Nat)
  /-- `ENGINE_COMMAND_COMPLETE` (R115): An engine command's result is written to registers or the context image and mx falls. -/
  | engineCommandComplete (pme : Nat) (req : Nat)
  /-- `mov` (R432): Copies a source to a lane register, or a setter register to another. -/
  | mov (d : BitVec 7) (w : Bool) (a : BitVec 8)
  /-- `mov` (R431): 16-bit form of mov. -/
  | mov16 (s : BitVec 5) (d : BitVec 6)
  /-- `mov` (R432): Setter push of a 64-bit register onto a set queue, waiting while it is full. -/
  | movPush (n : BitVec 3) (a : BitVec 8)
  /-- `mov` (R433): Writes a uniform register from one value. -/
  | movS (d : BitVec 7) (a : BitVec 8)
  /-- `mov.hi` (R433): Writes the high 32 bits of a uniform register. -/
  | movHi (d : BitVec 7) (a : BitVec 8)
  /-- `movi` (R434): Writes a zero-extended 16-bit immediate. -/
  | movi (d : BitVec 7) (w : Bool) (i : BitVec 16)
  /-- `movh` (R434): Writes a 16-bit immediate to the high half, keeping the low half. -/
  | movh (d : BitVec 7) (i : BitVec 16)
  /-- `mul` (R435): Low 32 bits of a lane product, or 64 bits of a setter product. -/
  | mul (d : BitVec 7) (w : Bool) (a : BitVec 8) (b : BitVec 8)
  /-- `mul` (R152): 16-bit two-address form of mul. -/
  | mul16 (s : BitVec 5) (d : BitVec 6)
  /-- `mul.s64` (R435): Low 64 bits of a product on lane pairs. -/
  | mulPair (d : BitVec 7) (a : BitVec 8) (b : BitVec 8)
  /-- `mulh.s32` (R436): High 32 bits of a signed product. -/
  | mulhS32 (d : BitVec 7) (w : Bool) (a : BitVec 8) (b : BitVec 8)
  /-- `mulh.z32` (R436): High 32 bits of an unsigned product. -/
  | mulhZ32 (d : BitVec 7) (w : Bool) (a : BitVec 8) (b : BitVec 8)
  /-- `neg` (R437): Negates the source, wrapping. -/
  | neg (d : BitVec 7) (w : Bool) (a : BitVec 8)
  /-- `not` (R437): Bitwise complement. -/
  | not (d : BitVec 7) (w : Bool) (a : BitVec 8)
  /-- `popc` (R437): Counts set bits. -/
  | popc (d : BitVec 7) (w : Bool) (a : BitVec 8)
  /-- `nop` (R438): Changes no state. -/
  | nop
  /-- `or` (R439): Bitwise OR of two sources. -/
  | or (d : BitVec 7) (w : Bool) (a : BitVec 8) (b : BitVec 8)
  /-- `or` (R152): 16-bit two-address form of or. -/
  | or16 (s : BitVec 5) (d : BitVec 6)
  /-- `pack.s32` (R117): Engine command packing signed lane elements as digits of a wide register. -/
  | packS32 (d : BitVec 7) (a : BitVec 8)
  /-- `pack.z32` (R117): Engine command packing unsigned lane elements as digits. -/
  | packZ32 (d : BitVec 7) (a : BitVec 8)
  /-- `pack.rev.s32` (R117): Packs signed elements in reverse digit order. -/
  | packRevS32 (d : BitVec 7) (a : BitVec 8)
  /-- `pack.rev.z32` (R117): Packs unsigned elements in reverse digit order. -/
  | packRevZ32 (d : BitVec 7) (a : BitVec 8)
  /-- `pmul` (R118): Engine command multiplying two signed wide registers exactly with a guard check. -/
  | pmul (d : BitVec 7) (a : BitVec 8) (b : BitVec 8)
  /-- `pmul.uns` (R118): Engine command multiplying two unsigned 2,048-bit integers. -/
  | pmulUns (d : BitVec 7) (a : BitVec 8) (b : BitVec 8)
  /-- `prio` (R257): Sets the group's priority level, capped at its launch priority. -/
  | prio (a : BitVec 8)
  /-- `qnt` (R444): Quantises a product of two f32 values to an 8-bit or 4-bit format. -/
  | qnt (d : BitVec 6) (a : BitVec 6) (b : BitVec 6) (f : BitVec 6)
  /-- `rdst` (R446): Reads a state register into a lane, uniform or setter register. -/
  | rdst (d : BitVec 7) (a : BitVec 8) (b : BitVec 8)
  /-- `release` (R447): Returns the group to its prologue allotment. -/
  | release
  /-- `replay` (R448): Leaves the handler and re-executes the faulting lanes. -/
  | replay
  /-- `ret` (R449): Moves the path to the link address. -/
  | ret
  /-- `rng` (R450): Writes a Philox random word per active lane and advances RNGCTR. -/
  | rng (d : BitVec 7) (w : Bool)
  /-- `sar` (R452): Arithmetic right shift. -/
  | sar (d : BitVec 7) (w : Bool) (a : BitVec 8) (b : BitVec 8)
  /-- `shl` (R452): Left shift. -/
  | shl (d : BitVec 7) (w : Bool) (a : BitVec 8) (b : BitVec 8)
  /-- `shl` (R152): 16-bit two-address form of shl. -/
  | shl16 (s : BitVec 5) (d : BitVec 6)
  /-- `shr` (R452): Logical right shift. -/
  | shr (d : BitVec 7) (w : Bool) (a : BitVec 8) (b : BitVec 8)
  /-- `shr` (R152): 16-bit two-address form of shr. -/
  | shr16 (s : BitVec 5) (d : BitVec 6)
  /-- `scan` (R454): Inclusive or exclusive prefix reduction over participant lanes. -/
  | scan (x : Bool) (d : BitVec 7) (a : BitVec 7) (p : BitVec 3) (f : BitVec 4)
  /-- `sct` (R456): Scatters one element per active lane to a per-lane address. -/
  | sct (s : BitVec 3) (q : BitVec 2) (t : BitVec 3) (a : BitVec 7) (d : BitVec 7)
  /-- `sel` (R457): Selects between two sources per lane by a predicate. -/
  | sel (d : BitVec 5) (p : BitVec 3) (a : BitVec 8) (b : BitVec 8)
  /-- `setrj` (R458): Sets the path's pending rejoin address. -/
  | setrj (o : BitVec 18)
  /-- `shmap` (R193): Creates a shade region with every page dark. -/
  | shmap (a : BitVec 8)
  /-- `shlit` (R204): Lights and holds a range of region pages. -/
  | shlit (a : BitVec 8) (b : BitVec 8)
  /-- `shfade` (R204): Clears HELD on a page range and fades clean pages. -/
  | shfade (a : BitVec 8) (b : BitVec 8)
  /-- `shfl.idx` (R463): Reads another lane's value chosen per lane. -/
  | shflIdx (d : BitVec 7) (w : Bool) (a : BitVec 7) (b : BitVec 8)
  /-- `shfl.up` (R463): Reads the value of the lane a uniform offset below. -/
  | shflUp (d : BitVec 7) (w : Bool) (a : BitVec 7) (r : Bool) (b : BitVec 8)
  /-- `shfl.dn` (R463): Reads the value of the lane a uniform offset above. -/
  | shflDn (d : BitVec 7) (w : Bool) (a : BitVec 7) (r : Bool) (b : BitVec 8)
  /-- `shfl.xor` (R463): Reads the value of the lane at index xor offset. -/
  | shflXor (d : BitVec 7) (w : Bool) (a : BitVec 7) (r : Bool) (b : BitVec 8)
  /-- `spawn` (R82): Creates one thread per active lane in the die's bin for a kernel. -/
  | spawn (a : BitVec 6) (o : BitVec 18)
  /-- `st` (R467): Stores one element per active lane, or one setter value. -/
  | st (d : BitVec 5) (t : BitVec 3) (n : BitVec 5) (e : BitVec 11)
  /-- `st.rel` (R467): Ordered store that is a release access at a scope. -/
  | stRel (d : BitVec 5) (t : BitVec 3) (n : BitVec 5) (s : BitVec 3)
  /-- `stm` (R468): Byte-masked store of up to four bytes per lane. -/
  | stm (s : BitVec 3) (q : BitVec 2) (a : BitVec 7) (d : BitVec 7)
  /-- `sts` (R470): Stores to the team's scratchpad. -/
  | sts (d : BitVec 5) (t : BitVec 3) (n : BitVec 5) (e : BitVec 11)
  /-- `sts.rel` (R470): Scratchpad store that is a release access. -/
  | stsRel (d : BitVec 5) (t : BitVec 3) (n : BitVec 5) (s : BitVec 3)
  /-- `sub` (R471): 32-bit lane subtract, or 64-bit setter subtract, wrapping. -/
  | sub (d : BitVec 7) (w : Bool) (a : BitVec 8) (b : BitVec 8)
  /-- `sub` (R152): 16-bit two-address form of sub. -/
  | sub16 (s : BitVec 5) (d : BitVec 6)
  /-- `sub.s64` (R471): 64-bit subtract on lane pairs. -/
  | subPair (d : BitVec 7) (a : BitVec 8) (b : BitVec 8)
  /-- `sub.wide` (R471): Subtracts two wide pairs modulo 2^4096 across every lane. -/
  | subWide (d : BitVec 7) (a : BitVec 8) (b : BitVec 8)
  /-- `trap` (R275): Raises the SOFTWARE trap with a 16-bit code. -/
  | trap (a : BitVec 8)
  /-- `vserve` (R309): Posts an action message to a volley mailbox. -/
  | vserve (d : BitVec 7) (a : BitVec 8) (b : BitVec 8)
  /-- `vcatch` (R310): Requests the oldest unreceived observation of a mailbox into scratchpad. -/
  | vcatch (a : BitVec 8) (b : BitVec 8)
  /-- `vpoll` (R311): Returns the mailbox state at issue. -/
  | vpoll (d : BitVec 7) (a : BitVec 8)
  /-- `vote.ball` (R157): Sets the predicate bit of each active lane with a nonzero value. -/
  | voteBall (a : BitVec 7) (p : BitVec 3)
  /-- `vote.any` (R157): Writes all-ones to active lanes when some active lane is nonzero. -/
  | voteAny (a : BitVec 7) (p : BitVec 3)
  /-- `vote.all` (R157): Writes all-ones to active lanes when every active lane is nonzero. -/
  | voteAll (a : BitVec 7) (p : BitVec 3)
  /-- `vote.eq` (R157): Writes all-ones to active lanes when all active lanes are equal. -/
  | voteEq (a : BitVec 7) (p : BitVec 3)
  /-- `wait` (R177): Blocks its stream until an in-flight counter is at or below a threshold. -/
  | wait (d : BitVec 7) (a : BitVec 8)
  /-- `wrst` (R478): Writes a state register. -/
  | wrst (d : BitVec 7) (a : BitVec 8)
  /-- `xadd` (R480): Packed add of four 8-bit sub-elements. -/
  | xadd (d : BitVec 6) (a : BitVec 6) (b : BitVec 6) (f : BitVec 6)
  /-- `xmul` (R480): Packed multiply of four 8-bit sub-elements. -/
  | xmul (d : BitVec 6) (a : BitVec 6) (b : BitVec 6) (f : BitVec 6)
  /-- `xfma` (R480): Packed fused multiply-add of four 8-bit sub-elements. -/
  | xfma (d : BitVec 6) (a : BitVec 6) (b : BitVec 6) (f : BitVec 6)
  /-- `xmax` (R480): Packed maximum of four 8-bit sub-elements. -/
  | xmax (d : BitVec 6) (a : BitVec 6) (b : BitVec 6) (f : BitVec 6)
  /-- `xmin` (R480): Packed minimum of four 8-bit sub-elements. -/
  | xmin (d : BitVec 6) (a : BitVec 6) (b : BitVec 6) (f : BitVec 6)
  /-- `xor` (R481): Bitwise XOR of two sources. -/
  | xor (d : BitVec 7) (w : Bool) (a : BitVec 8) (b : BitVec 8)
  /-- `xor` (R152): 16-bit two-address form of xor. -/
  | xor16 (s : BitVec 5) (d : BitVec 6)
  /-- `yield` (R258): Group switch that makes the group the youngest at its level. -/
  | yield
  /-- `PERFORM_LOAD` (R213): An ordered-after load entry reads each byte from the buffers on its path or the home value. -/
  | performLoad (entry : Nat)
  /-- `PERFORM_STORE` (R213): A store entry whose ordering and release conditions hold is appended to its leaf buffer. -/
  | performStore (entry : Nat)
  /-- `PERFORM_ATOMIC` (R213): An atomic reads, computes and writes home values in one step. -/
  | performAtomic (entry : Nat)
  /-- `PROPAGATE` (R213): A buffered write moves to the parent node or into its home values. -/
  | propagate (wr : Nat)
  /-- `DISPATCH` (R213): An engine command leaves the out-queue for its engine queue. -/
  | dispatch (entry : Nat)
  /-- `ENGINE_ACCESS` (R213): An engine performs its next read or write as an access of the issuing group. -/
  | engineAccess (cmd : Nat)
  /-- `LOAD_DATA_RETURN` (R172): The last sector of a load returns and all active lanes' values are written at once. -/
  | loadDataReturn (grp : Nat) (serial : Nat)
  /-- `COUNTER_FALL` (R175): An in-flight counter falls in issue order when its instruction completes. -/
  | counterFall (grp : Nat) (path : BitVec 3)
  /-- `MIGRATION_COMMAND` (R184): A migration engine takes a page-move command and opens a write-protect window or copies line by line. -/
  | migrationCommand (queue : BitVec 5) (cmd : MigCommand)
  /-- `MIGRATION_SWITCHOVER` (R184): The engine writes the new leaf entry, invalidates translations and replays parked writes. -/
  | migrationSwitchover (mig : Nat)
  /-- `FADE_STEP` (R200): A fade candidate's fade step drains accesses, rejudges the page and makes it dark or abandons the fade. -/
  | fadeStep (root : Nat) (base : Nat) (page : Nat)
  /-- `TEAM_ADMISSION` (R250): The distributor places a gang's teams on cores when room is free. -/
  | teamAdmission (task : BitVec 40) (cores : List (BitVec 10))
  /-- `QUEUE_APPEND` (R247): A launch waiting for queue room is appended when room appears. -/
  | queueAppend (queue : BitVec 6)
  /-- `PRIORITY_AGING` (R248): A waiting queue item's effective priority rises by one per full millisecond. -/
  | priorityAging (task : BitVec 40)
  /-- `STARVATION_BOUND` (R259): A group ready for 512 clocks without issuing takes the next datapath ahead of priority. -/
  | starvationBound (grp : Nat)
  /-- `ACQUIRE_GRANT` (R260): A pending acquire is granted when the register budget allows, or beyond it when all are blocked. -/
  | acquireGrant (core : BitVec 10)
  /-- `BIN_TIMER_EXPIRY` (R83): A bin's timer expires and launches a group of the threads present. `key` is the address of the
  kernel's record and its root table. -/
  | binTimerExpiry (die : BitVec 4) (key : BitVec 64 × Nat) (core : BitVec 10)
  /-- `ECHO_TIMEOUT` (R262): A stream parked on a barrier or gang hold for 2 ms sends an echo probe. -/
  | echoTimeout (grp : Nat) (stream : Port)
  /-- `GRID_COMPLETE` (R249): A grid's last group ends and its completion word is written once its writes reach home. -/
  | gridComplete (task : BitVec 40)
  /-- `RECLAMATION_COMPLETE` (R256): Reclamation of a cancelled subtree finishes and the parked cancel retires. -/
  | reclamationComplete (task : BitVec 40)
  /-- `HANDLER_ENTRY` (R271): The handler slot takes the next trap entry, saves the group to its image and starts the handler. -/
  | handlerEntry (core : BitVec 10)
  /-- `MACHINE_CHECK` (R273): A handler fault or fatal register or image error runs the machine-check kernel. -/
  | machineCheck (core : BitVec 10) (cause : BitVec 8)
  /-- `CHECKPOINT` (R282): At each debug period the grid stops and its images, windows and accumulators are saved. -/
  | checkpoint (task : BitVec 40)
  /-- `VSERVE_PERFORM` (R309): A posted action is judged at the mailbox and accepted or refused with a status. -/
  | vservePerform (die : BitVec 4) (mbox : BitVec 8)
  /-- `VCATCH_PERFORM` (R310): The oldest observation, or a NONE header, is written into scratchpad. -/
  | vcatchPerform (die : BitVec 4) (mbox : BitVec 8)
  /-- `VBRECV_READ` (R312): A court reads vbrecv, stalling until a step is open. -/
  | vbrecvRead (die : BitVec 4) (mbox : BitVec 8)
  /-- `VBSEND_WRITE` (R313): A court write of vbsend closes the open step and posts its observation. -/
  | vbsendWrite (die : BitVec 4) (mbox : BitVec 8)
  /-- `SHOT_CLOCK_EXPIRY` (R314): The shot clock expires, stopping the court, posting TIMEOUT and ending the episode. -/
  | shotClockExpiry (die : BitVec 4) (mbox : BitVec 8)
  /-- `COURT_QUANTUM` (R303): A runnable court's 10-microsecond quantum expires and the core passes to the next court. -/
  | courtQuantum (die : BitVec 4) (hart : BitVec 5)
  /-- `COURT_EXCEPTION` (R302): An exception, ecall or ebreak in a court ends its episode with FAULT. -/
  | courtException (die : BitVec 4) (mbox : BitVec 8)
  /-- `LAUNCH_COMMAND` (R247): Host command that submits a launch record as a task-tree root. -/
  | launchCommand (pair : BitVec 4)
  /-- `CANCEL_COMMAND` (R255): Host command that cancels a task subtree. -/
  | cancelCommand (pair : BitVec 4)
  /-- `PREEMPT` (R278): Host command that pre-empts a grid and writes its status word. -/
  | preempt (pair : BitVec 4)
  /-- `RESUME` (R279): Host command that re-admits a pre-empted grid's saved teams. -/
  | resume (pair : BitVec 4)
  /-- `INVALIDATE` (R166): Host command that invalidates translations of an address space module-wide. -/
  | invalidate (pair : BitVec 4)
  /-- `POOL_ADD` (R485): Host command that adds a 64 KiB page to a backing pool. -/
  | poolAdd (pair : BitVec 4)
  /-- `REGION_DEL` (R483): Host command that removes a shade region. -/
  | regionDel (pair : BitVec 4)
  /-- `COURT_START` (R304): Host command that starts a court bound to a mailbox. -/
  | courtStart (pair : BitVec 4)
  /-- `WINDOW_OPEN` (R236): Host command that opens a reduction window on the module. -/
  | windowOpen (pair : BitVec 4)
  /-- `COLLECTIVE` (R241): Host command that starts a ring collective on the module. -/
  | collective (pair : BitVec 4)
  /-- `HANDLER_SET` (R322): Host command that sets a core's handler record. -/
  | handlerSet (pair : BitVec 4)
  /-- `DEBUG_ATTACH` (R284): Host command that attaches a debug block to a debug grid. -/
  | debugAttach (pair : BitVec 4)
  /-- `ERR_RING` (R333): Host command that sets a die's error ring and zeroes its header. -/
  | errRing (pair : BitVec 4)
  /-- `ATTEST` (R330): Host command that writes a signed quote of the attestation log. -/
  | attest (pair : BitVec 4)
  /-- `WINDOW_CLOSE` (R240): Host command that closes a reduction window and writes its status. -/
  | windowClose (pair : BitVec 4)
  /-- `COURT_STOP` (R305): Host command that stops a court and unbinds its mailbox. -/
  | courtStop (pair : BitVec 4)
  /-- `CTX_POOL` (R484): Host command that sets the context pool. -/
  | ctxPool (pair : BitVec 4)
  /-- `BAD_OP` (R322): A submission with an unknown OP completes with status BAD_OP. -/
  | badOp (pair : BitVec 4)
  /-- `COMPLETION_WRITE` (R325): A finished command's or event's completion entry is written when the ring has room. -/
  | completionWrite (pair : BitVec 4)
  /-- `ILLEGAL_INSTRUCTION` (R357): A fetched word that decodes to no instruction, such as major op 0x7F or a reserved unary minor, raises Illegal Instruction as a refused trap. -/
  | illegalInstruction
  /-- `FETCH_FAULT` (R335): A fetch whose translation fails or whose page lacks X raises the cause as a refused trap at the instruction's address. -/
  | fetchFault (cause : BitVec 8)
  /-- `COURT_INSTRUCTION` (R301): A court core executes one ordinary RV64GC instruction of court code, counting toward the shot clock's cycle limit. -/
  | courtInstruction (die : BitVec 4) (mbox : BitVec 8)
  /-- `EPOCH_MERGE` (R238): An epoch merges its members' contributions in ascending module order into the home value. -/
  | epochMerge (base : BitVec 64) (off : Nat) (remote : List (Nat × BitVec 32))
  /-- `FIRMWARE_IMAGE` (R328): A firmware image arrives, is checked, and either starts the module or is discarded. -/
  | firmwareImage (image : FirmwareImage)
  /-- `MEMBER_ABSENT` (R239): A member silent for 50 microseconds is declared absent and waiting epochs merge without it. -/
  | memberAbsent (member : Nat)
  /-- `CHUNK_HOP` (R242): A ring-collective chunk arrives at a member, which adds and rounds its element and passes it on or writes it. -/
  | chunkHop (coll : Nat) (chunk : Nat) (data : List (BitVec 16)) (contributed : List Nat)
  /-- `HQTAIL_DOORBELL` (R323): A write of TAIL rings the doorbell for new submissions. -/
  | hqtailDoorbell (pair : BitVec 4) (value : BitVec 64)
  /-- `HQTAIL_RESYNC` (R323): A write with RESYNC set clears STALL and restarts consumption at TAIL. -/
  | hqtailResync (pair : BitVec 4) (value : BitVec 64)
  /-- `HQHEAD_WRITE` (R325): The host passes completion entries, freeing completion-ring room. -/
  | hqheadWrite (pair : BitVec 4) (value : BitVec 64)
  /-- `REGISTER_WRITE` (R5): A write to a device register with no row of its own acts by its Access codes. -/
  | registerWrite (addr : Nat) (value : BitVec 64)
  /-- `POWER_UP` (R327): At power-up or module reset the boot ROM self-tests every die and awaits an image. -/
  | powerUp (failed : BitVec 18)
  /-- `LIVENESS_FLIT` (R239): A module sends a liveness flit on each Mirvy link at least every 10 microseconds. -/
  | livenessFlit (link : Nat)
  /-- `THROTTLE_ENTRY` (R331): A die enters a higher throttle state when TMAX or package power crosses a limit. -/
  | throttleEntry (die : BitVec 4) (tmax : BitVec 12) (overPower : Bool)
  /-- `THROTTLE_EXIT` (R331): A die leaves a throttle state 5 degrees below its entry temperature. -/
  | throttleExit (die : BitVec 4) (tmax : BitVec 12)
  /-- `THERMAL_STOP` (R331): At 115 degrees the module stops and BOOTST.STAGE reads FAILED. -/
  | thermalStop (die : BitVec 4) (tmax : BitVec 12)
  /-- `ROW_DISTURB` (R332): An over-threshold HBM row counter at precharge triggers a neighbour refresh. -/
  | rowDisturb (die : BitVec 4) (saturated : Bool) (parityBad : Bool)
  /-- `HOST_MEMORY_WRITE` (R170): A host write enters device memory with a new halo. -/
  | hostMemoryWrite (addr : Nat) (bytes : List (BitVec 8))
  /-- `HOST_MEMORY_READ` (R170): A host read leaves the module after its halo check. -/
  | hostMemoryRead (addr : Nat) (len : Nat)
  /-- `ETHERNET_RECEIVE` (R170): An Ethernet frame received enters the module with halos computed. -/
  | ethernetReceive (port : Bool) (addr : Nat) (bytes : List (BitVec 8))
  /-- `ETHERNET_SEND` (R170): Data leaving the module at an Ethernet send is halo-checked and the transfer stops with HALO_ERR on a mismatch. -/
  | ethernetSend (port : Bool) (addr : Nat) (len : Nat)
  /-- `FABRIC_BRING_UP` (R15): At fabric bring-up the pod configuration descriptor is written, which fixes the MODULE number that LOCID reports. -/
  | fabricBringUp (module : BitVec 12)
  deriving DecidableEq, Repr

end Sys2Proof
end

