-- ==== Sys2Proof/Decode.lean ====
section
/-! DEFINITION. The decoder and the encoder, both written from the layouts of spec/18 (R334-R357), R114, R152, R226 and
R289. `decode st lo hi` reads the instruction whose first halfword is `lo` (and, for a 32-bit one, whose second is `hi`) in
stream `st`; it answers `none` exactly where R357 raises Illegal Instruction from the encoding alone. -/

namespace Sys2Proof

/-! ### Limits of fields (R35, R114, R348, R352) -/

/-- R35: the pop codes `q0`-`q7`. -/
def isPop (c : BitVec 8) : Bool := decide (132 ≤ c.toNat) && decide (c.toNat ≤ 139)

/-- R35: a pop or a peek code. -/
def isQueueCode (c : BitVec 8) : Bool := decide (132 ≤ c.toNat) && decide (c.toNat ≤ 147)

/-- R35: the latch codes `l0`-`l3`. -/
def isLatchCode (c : BitVec 8) : Bool := decide (128 ≤ c.toNat) && decide (c.toNat ≤ 131)

/-- R35: an `s` register code. -/
def isSCode (c : BitVec 8) : Bool := decide (152 ≤ c.toNat) && decide (c.toNat ≤ 215)

/-- R114: a uniform code is any source code except 0-131 and 149. -/
def isUniform (c : BitVec 8) : Bool := decide (132 ≤ c.toNat) && decide (c.toNat ≠ 149)

/-- R64: two pop operands of one queue. -/
def samePop (a b : BitVec 8) : Bool := isPop a && (a == b)

/-- R347: a setter register field names `a0`-`a31`. -/
def isA (c : BitVec 8) : Bool := decide (c.toNat < 32)

/-- R347: as `isA`, for the destination field. -/
def isA7 (d : BitVec 7) : Bool := decide (d.toNat < 32)

/-- R352: an `s` destination. -/
def isS7 (d : BitVec 7) : Bool := decide (d.toNat < 64)

/-- R35: a `v` register code. -/
def isV (c : BitVec 8) : Bool := decide (c.toNat < 128)

/-- R352: an even `v` code, which names a pair. -/
def isPairV (c : BitVec 8) : Bool := decide (c.toNat < 128) && decide (c.toNat % 2 = 0)

/-- R352: a 64-bit pair source: an even `v` code, a pop, a code 148-151, an `s` register or a constant. -/
def isPairSrc (c : BitVec 8) : Bool :=
  isPairV c || isPop c || decide (148 ≤ c.toNat)

/-- An even 7-bit register number. -/
def even7 (d : BitVec 7) : Bool := decide (d.toNat % 2 = 0)

/-- An even 6-bit register number. -/
def even6 (d : BitVec 6) : Bool := decide (d.toNat % 2 = 0)

/-- R37, R347: with `nw` = 1 the destination field is zero. -/
def nwOk (w : Bool) (d : BitVec 7) : Bool := !w || decide (d = 0#7)

/-- R348: the P3109 type codes. -/
def isP3109 (f : BitVec 6) : Bool :=
  decide (16 < f.toNat) && decide (f.toNat < 48) && decide (f.toNat % 8 ≠ 0)

/-- R348: the type codes that name a type. -/
def namesType (f : BitVec 6) : Bool := decide (f.toNat ≤ 14) || isP3109 f

/-- R348: `s64` and `z64`. -/
def is64Type (f : BitVec 6) : Bool := decide (f.toNat = 13) || decide (f.toNat = 14)

/-- R387, R443: the types of `qnt` and `dqnt`. -/
def isQuantType (f : BitVec 6) : Bool := decide (f.toNat ≤ 5) || isP3109 f

/-- R479: the types of the packed instructions. -/
def isPackedType (f : BitVec 6) : Bool :=
  decide (f.toNat ≤ 1) || decide (f.toNat = 4) || decide (f.toNat = 5) || isP3109 f

/-- R339: a 64-bit load names an even register. -/
def loadReg (t : BitVec 3) (d : BitVec 5) : Bool := decide (t.toNat < 6) || decide (d.toNat % 2 = 0)

/-- R339, R340: an odd store type names a register (even for T = 7); T = 0, 2 or 4 an alternate-data code 0-7. -/
def storeReg (t : BitVec 3) (d : BitVec 5) : Bool :=
  if t.toNat % 2 = 1 then decide (t.toNat ≠ 7) || decide (d.toNat % 2 = 0)
  else decide (t.toNat ≠ 6) && decide (d.toNat < 8)

/-- R405, R455: S is a scope, and zero without an order. -/
def scopeOk (q : BitVec 2) (s : BitVec 3) : Bool :=
  decide (s.toNat ≠ 7) && (decide (q.toNat ≠ 0) || decide (s.toNat = 0))

/-- R478: the state registers an ordinary `wrst` may write. -/
def isWritable (d : BitVec 7) : Bool := decide (8 ≤ d.toNat) && decide (d.toNat ≤ 15)

/-- R357 steps 1 and 3 to 6: the encoded instruction is valid in the stream and every field is within its limit. The
happenings of the table have no encoding. -/
def Instr.legalIn (st : Stream) : Instr → Bool
  | .abs d w _ => st != .setter && (nwOk w d)
  | .acquire => st == .hitter
  | .acrd _ a => st != .setter && (isSCode a)
  | .acwr d a => st != .setter && (isS7 d && !isQueueCode a)
  | .acz d => st != .setter && (isS7 d)
  | .add d w a b => if st = .setter then !w && isA7 d && isA a && isA b else nwOk w d && !samePop a b
  | .add16 _ _ => st != .setter
  | .addPair d a b => st != .setter && (even7 d && isPairSrc a && isPairSrc b && !samePop a b)
  | .addWide d a b => st != .setter && (even7 d && isPairV a && isPairV b)
  | .and d w a b => if st = .setter then !w && isA7 d && isA a && isA b else nwOk w d && !samePop a b
  | .and16 _ _ => st != .setter
  | .atom s _ t x _ d => st != .setter && (decide (s.toNat ≠ 7) && !(decide (x.toNat = 7) && decide (t.toNat = 3)) && (decide (x.toNat = 7) || decide (t.toNat < 2) || even7 d))
  | .barArv d a => if st = .setter then isA7 d && isA a else isS7 d && isUniform a
  | .barWait a b => if st = .setter then isA a && isA b else isUniform a && isUniform b && !samePop a b
  | .bcast d w _ b => st != .setter && (nwOk w d && isUniform b)
  | .bfxS32 d w a b => st != .setter && (nwOk w d && !samePop a b)
  | .bfxZ32 d w a b => st != .setter && (nwOk w d && !samePop a b)
  | .bfi _ a b => st != .setter && (!samePop a b)
  | .br h _ _ _ => st != .setter && (decide (h.toNat ≠ 3))
  | .brev d w _ => st != .setter && (nwOk w d)
  | .call _ => true
  | .cancel d a => if st = .setter then isA7 d && isA a else isS7 d && isUniform a
  | .cas s _ t _ d => st != .setter && (decide (s.toNat ≠ 7) && (if t.toNat < 2 then decide (d.toNat ≠ 127) else even7 d && decide (d.toNat ≤ 124)))
  | .cexp d w _ n => st != .setter && (nwOk w d && decide (4 ≤ n.toNat) && decide (n.toNat ≤ 40))
  | .clog d w _ n => st != .setter && (nwOk w d && decide (4 ≤ n.toNat) && decide (n.toNat ≤ 40))
  | .csin d w _ n => st != .setter && (nwOk w d && decide (4 ≤ n.toNat) && decide (n.toNat ≤ 40))
  | .catan d w _ n => st != .setter && (nwOk w d && decide (4 ≤ n.toNat) && decide (n.toNat ≤ 40))
  | .csqrt d w _ n => st != .setter && (nwOk w d && decide (4 ≤ n.toNat) && decide (n.toNat ≤ 40))
  | .crsq d w _ n => st != .setter && (nwOk w d && decide (4 ≤ n.toNat) && decide (n.toNat ≤ 40))
  | .crcp d w _ n => st != .setter && (nwOk w d && decide (4 ≤ n.toNat) && decide (n.toNat ≤ 40))
  | .ctanh d w _ n => st != .setter && (nwOk w d && decide (4 ≤ n.toNat) && decide (n.toNat ≤ 40))
  | .clz d w _ => st != .setter && (nwOk w d)
  | .cmpS32P _ c a b => st != .setter && (decide (c.toNat < 6) && !samePop a b)
  | .cmpS32V _ c a b => st != .setter && (decide (c.toNat < 6) && !samePop a b)
  | .cmpZ32P _ c a b => st != .setter && (decide (c.toNat < 6) && !samePop a b)
  | .cmpZ32V _ c a b => st != .setter && (decide (c.toNat < 6) && !samePop a b)
  | .cpy a b => if st = .setter then isA a && isA b else isUniform a && isUniform b && !samePop a b
  | .cpyg a b => if st = .setter then isA a && isA b else isUniform a && isUniform b && !samePop a b
  | .cvt d a g f => st != .setter && (namesType f && namesType g && (!is64Type f || even6 d) && (!is64Type g || even6 a))
  | .dqnt _ _ _ f => st != .setter && (isQuantType f)
  | .drain d => st != .setter && (isS7 d)
  | .drainT d => st != .setter && (isS7 d)
  | .echo d a => st != .setter && (isS7 d && isUniform a)
  | .elect _ => st != .setter
  | .eret => st == .handler
  | .eretEnd => st == .handler
  | .exit => true
  | .extrS32 _ a b => st != .setter && (isPairV a && isUniform b)
  | .extrS64 d a b => st != .setter && (even7 d && isPairV a && isUniform b)
  | .fadd d w a b => st != .setter && (nwOk w d && !samePop a b)
  | .fadd16 _ _ => st != .setter
  | .fsub d w a b => st != .setter && (nwOk w d && !samePop a b)
  | .fsub16 _ _ => st != .setter
  | .fmul d w a b => st != .setter && (nwOk w d && !samePop a b)
  | .fmul16 _ _ => st != .setter
  | .ffma _ a b => st != .setter && (!samePop a b)
  | .fmin d w a b => st != .setter && (nwOk w d && !samePop a b)
  | .fmin16 _ _ => st != .setter
  | .fmax d w a b => st != .setter && (nwOk w d && !samePop a b)
  | .fmax16 _ _ => st != .setter
  | .faddH _ _ _ t => st != .setter && (decide (t.toNat < 2))
  | .fsubH _ _ _ t => st != .setter && (decide (t.toNat < 2))
  | .fmulH _ _ _ t => st != .setter && (decide (t.toNat < 2))
  | .ffmaH _ _ _ t => st != .setter && (decide (t.toNat < 2))
  | .fminH _ _ _ t => st != .setter && (decide (t.toNat < 2))
  | .fmaxH _ _ _ t => st != .setter && (decide (t.toNat < 2))
  | .fcmpF32P _ c a b => st != .setter && (decide (c.toNat < 7) && !samePop a b)
  | .fcmpF32V _ c a b => st != .setter && (decide (c.toNat < 7) && !samePop a b)
  | .fcmpF16P _ c a b => st != .setter && (decide (c.toNat < 7) && !samePop a b)
  | .fcmpF16V _ c a b => st != .setter && (decide (c.toNat < 7) && !samePop a b)
  | .fcmpBf16P _ c a b => st != .setter && (decide (c.toNat < 7) && !samePop a b)
  | .fcmpBf16V _ c a b => st != .setter && (decide (c.toNat < 7) && !samePop a b)
  | .fence s k => (decide (k.toNat ≠ 0) && decide (s.toNat ≠ 7))
  | .fsh d w a _ => st != .setter && (nwOk w d && isPairV a)
  | .gset a b => st != .setter && (isUniform a && isUniform b && !samePop a b)
  | .gth s q t a d => st != .setter && (even7 a && (decide (t.toNat < 6) || even7 d) && decide (q.toNat ≤ 1) && scopeOk q s)
  | .jmp _ => true
  | .join => st != .setter
  | .kvx _ _ _ d => st != .setter && (even7 d)
  | .kvxW _ _ _ d => st != .setter && (even7 d)
  | .kvfork _ _ _ _ => st != .setter
  | .kvskip _ _ _ d => st != .setter && (decide (d.toNat ≤ 7))
  | .kvrel _ _ _ => st != .setter
  | .launch d a => if st = .setter then isA7 d && isA a else isS7 d && isUniform a
  | .ld d t _ _ => if st = .setter then true else loadReg t d
  | .ldAcq d t _ s => if st = .setter then decide (s.toNat ≤ 6) else loadReg t d && decide (s.toNat ≤ 6)
  | .ldq d _ _ _ => st == .setter && (decide (d.toNat < 8))
  | .ldqAcq d _ _ s => st == .setter && (decide (d.toNat < 8) && decide (s.toNat ≤ 6))
  | .lds d t _ _ => st != .setter && (loadReg t d)
  | .ldsAcq d t _ s => st != .setter && (loadReg t d && decide (s.toNat ≤ 1))
  | .litscan a b => if st = .setter then isA a && isA b else isUniform a && isUniform b && !samePop a b
  | .lred _ _ _ f => st != .setter && (decide (f.toNat ≤ 12))
  | .madS32 _ a b => st != .setter && (!samePop a b)
  | .madZ32 _ a b => st != .setter && (!samePop a b)
  | .minS32 d w a b => st != .setter && (nwOk w d && !samePop a b)
  | .minS3216 _ _ => st != .setter
  | .minZ32 d w a b => st != .setter && (nwOk w d && !samePop a b)
  | .maxS32 d w a b => st != .setter && (nwOk w d && !samePop a b)
  | .maxS3216 _ _ => st != .setter
  | .maxZ32 d w a b => st != .setter && (nwOk w d && !samePop a b)
  | .mma d a b => st != .setter && (isS7 d && decide (a.toNat ≤ 120) && decide (b.toNat ≤ 120))
  | .mmaSp d a b => st != .setter && (isS7 d && decide (a.toNat ≤ 116) && decide (b.toNat ≤ 112))
  | .mmc d a b => st != .setter && (decide (d.toNat ≤ 116) && decide (a.toNat ≤ 112) && isUniform b)
  | .mmd d a b => st != .setter && (isS7 d && decide (a.toNat ≤ 120) && decide (b.toNat ≤ 120))
  | .mmdLd d => st != .setter && (isS7 d)
  | .mov d w a => if st = .setter then !w && isA7 d && isA a else nwOk w d
  | .mov16 _ _ => st != .setter
  | .movPush _ a => st == .setter && (isA a)
  | .movS d _ => st != .setter && (isS7 d)
  | .movHi d _ => st != .setter && (isS7 d)
  | .movi d w _ => st != .setter && (nwOk w d)
  | .movh _ _ => st != .setter
  | .mul d w a b => if st = .setter then !w && isA7 d && isA a && isA b else nwOk w d && !samePop a b
  | .mul16 _ _ => st != .setter
  | .mulPair d a b => st != .setter && (even7 d && isPairSrc a && isPairSrc b && !samePop a b)
  | .mulhS32 d w a b => st != .setter && (nwOk w d && !samePop a b)
  | .mulhZ32 d w a b => st != .setter && (nwOk w d && !samePop a b)
  | .neg d w _ => st != .setter && (nwOk w d)
  | .not d w _ => st != .setter && (nwOk w d)
  | .popc d w _ => st != .setter && (nwOk w d)
  | .nop => true
  | .or d w a b => if st = .setter then !w && isA7 d && isA a && isA b else nwOk w d && !samePop a b
  | .or16 _ _ => st != .setter
  | .packS32 _ _ => st != .setter
  | .packZ32 _ _ => st != .setter
  | .packRevS32 _ _ => st != .setter
  | .packRevZ32 _ _ => st != .setter
  | .pmul d a b => st != .setter && (even7 d && isV a && isV b)
  | .pmulUns d a b => st != .setter && (even7 d && isV a && isV b)
  | .prio a => if st = .setter then isA a else isUniform a
  | .qnt _ _ _ f => st != .setter && (isQuantType f)
  | .rdst d a b => if st = .setter then decide (a.toNat ≤ 21) && decide (b.toNat = 2) && isA7 d else decide (a.toNat ≤ 21) && (decide (b.toNat = 0) || (decide (b.toNat = 1) && isS7 d))
  | .release => st != .setter
  | .replay => st == .handler
  | .ret => true
  | .rng d w => st != .setter && (nwOk w d)
  | .sar d w a b => st != .setter && (nwOk w d && !samePop a b)
  | .shl d w a b => if st = .setter then !w && isA7 d && isA a && isA b else nwOk w d && !samePop a b
  | .shl16 _ _ => st != .setter
  | .shr d w a b => if st = .setter then !w && isA7 d && isA a && isA b else nwOk w d && !samePop a b
  | .shr16 _ _ => st != .setter
  | .scan _ _ _ _ f => st != .setter && (decide (f.toNat ≤ 12) && decide (f.toNat ≠ 9))
  | .sct s q t a d => st != .setter && (even7 a && decide (t.toNat % 2 = 1) && (decide (t.toNat ≠ 7) || even7 d) && decide (q.toNat % 2 = 0) && scopeOk q s)
  | .sel _ _ a b => st != .setter && (!samePop a b)
  | .setrj _ => st != .setter
  | .shmap a => if st = .setter then isA a else isUniform a
  | .shlit a b => if st = .setter then isA a && isA b else isUniform a && isUniform b && !samePop a b
  | .shfade a b => if st = .setter then isA a && isA b else isUniform a && isUniform b && !samePop a b
  | .shflIdx d w _ _ => st != .setter && (nwOk w d)
  | .shflUp d w _ _ _ => st != .setter && (nwOk w d)
  | .shflDn d w _ _ _ => st != .setter && (nwOk w d)
  | .shflXor d w _ _ _ => st != .setter && (nwOk w d)
  | .spawn _ _ => st != .setter
  | .st d t _ _ => if st = .setter then decide (t.toNat % 2 = 1) else storeReg t d
  | .stRel d t _ s => if st = .setter then decide (t.toNat % 2 = 1) && decide (s.toNat ≤ 6) else storeReg t d && decide (s.toNat ≤ 6)
  | .stm s q a d => st != .setter && (even7 a && even7 d && decide (q.toNat % 2 = 0) && scopeOk q s)
  | .sts d t _ _ => st != .setter && (storeReg t d)
  | .stsRel d t _ s => st != .setter && (storeReg t d && decide (s.toNat ≤ 1))
  | .sub d w a b => if st = .setter then !w && isA7 d && isA a && isA b else nwOk w d && !samePop a b
  | .sub16 _ _ => st != .setter
  | .subPair d a b => st != .setter && (even7 d && isPairSrc a && isPairSrc b && !samePop a b)
  | .subWide d a b => st != .setter && (even7 d && isPairV a && isPairV b)
  | .trap a => if st = .setter then isA a else isUniform a
  | .vserve d a b => if st = .setter then isA7 d && isA a && isA b else isS7 d && isUniform a && isUniform b && !samePop a b
  | .vcatch a b => if st = .setter then isA a && isA b else isUniform a && isUniform b && !samePop a b
  | .vpoll d a => if st = .setter then isA7 d && isA a else isS7 d && isUniform a
  | .voteBall _ _ => st != .setter
  | .voteAny _ _ => st != .setter
  | .voteAll _ _ => st != .setter
  | .voteEq _ _ => st != .setter
  | .wait d a => if st = .setter then decide (d.toNat ≤ 6) && isA a else decide (d.toNat ≤ 6) && isUniform a
  | .wrst d a => match st with | .hitter => isUniform a && isWritable d | .setter => false | .handler => isUniform a && (isWritable d || decide (d.toNat = 21))
  | .xadd _ _ _ f => st != .setter && (isPackedType f)
  | .xmul _ _ _ f => st != .setter && (isPackedType f)
  | .xfma _ _ _ f => st != .setter && (isPackedType f)
  | .xmax _ _ _ f => st != .setter && (isPackedType f)
  | .xmin _ _ _ f => st != .setter && (isPackedType f)
  | .xor d w a b => if st = .setter then !w && isA7 d && isA a && isA b else nwOk w d && !samePop a b
  | .xor16 _ _ => st != .setter
  | .yield => st != .setter
  | .cordicResult _ _ => false
  | .copyComplete _ => false
  | .kvActionComplete _ _ => false
  | .pmeGrant _ => false
  | .passComplete _ _ => false
  | .engineCommandComplete _ _ => false
  | .performLoad _ => false
  | .performStore _ => false
  | .performAtomic _ => false
  | .propagate _ => false
  | .dispatch _ => false
  | .engineAccess _ => false
  | .loadDataReturn _ _ => false
  | .counterFall _ _ => false
  | .epochMerge _ _ _ => false
  | .livenessFlit _ => false
  | .memberAbsent _ => false
  | .chunkHop _ _ _ _ => false
  | .migrationCommand _ _ => false
  | .migrationSwitchover _ => false
  | .fadeStep _ _ _ => false
  | .teamAdmission _ _ => false
  | .queueAppend _ => false
  | .priorityAging _ => false
  | .starvationBound _ => false
  | .acquireGrant _ => false
  | .binTimerExpiry _ _ _ => false
  | .echoTimeout _ _ => false
  | .gridComplete _ => false
  | .reclamationComplete _ => false
  | .handlerEntry _ => false
  | .machineCheck _ _ => false
  | .checkpoint _ => false
  | .vservePerform _ _ => false
  | .vcatchPerform _ _ => false
  | .vbrecvRead _ _ => false
  | .vbsendWrite _ _ => false
  | .shotClockExpiry _ _ => false
  | .courtQuantum _ _ => false
  | .courtException _ _ => false
  | .launchCommand _ => false
  | .cancelCommand _ => false
  | .preempt _ => false
  | .resume _ => false
  | .invalidate _ => false
  | .poolAdd _ => false
  | .regionDel _ => false
  | .courtStart _ => false
  | .windowOpen _ => false
  | .collective _ => false
  | .handlerSet _ => false
  | .debugAttach _ => false
  | .errRing _ => false
  | .attest _ => false
  | .windowClose _ => false
  | .courtStop _ => false
  | .ctxPool _ => false
  | .badOp _ => false
  | .hqtailDoorbell _ _ => false
  | .hqtailResync _ _ => false
  | .hqheadWrite _ _ => false
  | .completionWrite _ => false
  | .registerWrite _ _ => false
  | .powerUp _ => false
  | .firmwareImage _ => false
  | .throttleEntry _ _ _ => false
  | .throttleExit _ _ => false
  | .thermalStop _ _ => false
  | .rowDisturb _ _ _ => false
  | .hostMemoryWrite _ _ => false
  | .hostMemoryRead _ _ => false
  | .ethernetReceive _ _ _ => false
  | .illegalInstruction => false
  | .fetchFault _ => false
  | .courtInstruction _ _ => false
  | .ethernetSend _ _ _ => false
  | .fabricBringUp _ => false

/-! ### Reading the fields (R152, R334-R346) -/

/-- A 16-bit form (R152): bits [15:12] choose the form, D is [11:6] and S is [5:1]. -/
def fields16 (w : BitVec 16) : Instr :=
  match (w.extractLsb' 12 4).toNat with
  | 0 => .add16 (w.extractLsb' 1 5) (w.extractLsb' 6 6)
  | 1 => .sub16 (w.extractLsb' 1 5) (w.extractLsb' 6 6)
  | 2 => .and16 (w.extractLsb' 1 5) (w.extractLsb' 6 6)
  | 3 => .or16 (w.extractLsb' 1 5) (w.extractLsb' 6 6)
  | 4 => .xor16 (w.extractLsb' 1 5) (w.extractLsb' 6 6)
  | 5 => .shl16 (w.extractLsb' 1 5) (w.extractLsb' 6 6)
  | 6 => .shr16 (w.extractLsb' 1 5) (w.extractLsb' 6 6)
  | 7 => .mov16 (w.extractLsb' 1 5) (w.extractLsb' 6 6)
  | 8 => .minS3216 (w.extractLsb' 1 5) (w.extractLsb' 6 6)
  | 9 => .maxS3216 (w.extractLsb' 1 5) (w.extractLsb' 6 6)
  | 10 => .mul16 (w.extractLsb' 1 5) (w.extractLsb' 6 6)
  | 11 => .fadd16 (w.extractLsb' 1 5) (w.extractLsb' 6 6)
  | 12 => .fsub16 (w.extractLsb' 1 5) (w.extractLsb' 6 6)
  | 13 => .fmul16 (w.extractLsb' 1 5) (w.extractLsb' 6 6)
  | 14 => .fmin16 (w.extractLsb' 1 5) (w.extractLsb' 6 6)
  | _ => .fmax16 (w.extractLsb' 1 5) (w.extractLsb' 6 6)

/-- A 32-bit word by its major op, bits [7:1] (R351). A fixed bit of the row that does not hold its value is a reserved
field or code (R7, R357 steps 4 and 5). `push` says that the word is read in the setter, where `mov` with d 32-39 pushes (R347). -/
def fields32 (push : Bool) (w : BitVec 32) : Option Instr :=
  match (w.extractLsb' 1 7).toNat with
  | 0x00 =>
      some (.add (w.extractLsb' 8 7) (w.extractLsb' 15 1 == 1#1) (w.extractLsb' 16 8) (w.extractLsb' 24 8))
  | 0x01 =>
      some (.sub (w.extractLsb' 8 7) (w.extractLsb' 15 1 == 1#1) (w.extractLsb' 16 8) (w.extractLsb' 24 8))
  | 0x02 =>
      some (.mul (w.extractLsb' 8 7) (w.extractLsb' 15 1 == 1#1) (w.extractLsb' 16 8) (w.extractLsb' 24 8))
  | 0x03 =>
      some (.mulhS32 (w.extractLsb' 8 7) (w.extractLsb' 15 1 == 1#1) (w.extractLsb' 16 8) (w.extractLsb' 24 8))
  | 0x04 =>
      some (.mulhZ32 (w.extractLsb' 8 7) (w.extractLsb' 15 1 == 1#1) (w.extractLsb' 16 8) (w.extractLsb' 24 8))
  | 0x05 =>
      if w.extractLsb' 15 1 = 0#1 then some (.madS32 (w.extractLsb' 8 7) (w.extractLsb' 16 8) (w.extractLsb' 24 8))
      else none
  | 0x06 =>
      if w.extractLsb' 15 1 = 0#1 then some (.madZ32 (w.extractLsb' 8 7) (w.extractLsb' 16 8) (w.extractLsb' 24 8))
      else none
  | 0x07 =>
      some (.minS32 (w.extractLsb' 8 7) (w.extractLsb' 15 1 == 1#1) (w.extractLsb' 16 8) (w.extractLsb' 24 8))
  | 0x08 =>
      some (.minZ32 (w.extractLsb' 8 7) (w.extractLsb' 15 1 == 1#1) (w.extractLsb' 16 8) (w.extractLsb' 24 8))
  | 0x09 =>
      some (.maxS32 (w.extractLsb' 8 7) (w.extractLsb' 15 1 == 1#1) (w.extractLsb' 16 8) (w.extractLsb' 24 8))
  | 0x0A =>
      some (.maxZ32 (w.extractLsb' 8 7) (w.extractLsb' 15 1 == 1#1) (w.extractLsb' 16 8) (w.extractLsb' 24 8))
  | 0x0B =>
      some (.and (w.extractLsb' 8 7) (w.extractLsb' 15 1 == 1#1) (w.extractLsb' 16 8) (w.extractLsb' 24 8))
  | 0x0C =>
      some (.or (w.extractLsb' 8 7) (w.extractLsb' 15 1 == 1#1) (w.extractLsb' 16 8) (w.extractLsb' 24 8))
  | 0x0D =>
      some (.xor (w.extractLsb' 8 7) (w.extractLsb' 15 1 == 1#1) (w.extractLsb' 16 8) (w.extractLsb' 24 8))
  | 0x0E =>
      some (.shl (w.extractLsb' 8 7) (w.extractLsb' 15 1 == 1#1) (w.extractLsb' 16 8) (w.extractLsb' 24 8))
  | 0x0F =>
      some (.shr (w.extractLsb' 8 7) (w.extractLsb' 15 1 == 1#1) (w.extractLsb' 16 8) (w.extractLsb' 24 8))
  | 0x10 =>
      some (.sar (w.extractLsb' 8 7) (w.extractLsb' 15 1 == 1#1) (w.extractLsb' 16 8) (w.extractLsb' 24 8))
  | 0x11 =>
      some (.fsh (w.extractLsb' 8 7) (w.extractLsb' 15 1 == 1#1) (w.extractLsb' 16 8) (w.extractLsb' 24 8))
  | 0x12 =>
      some (.bfxS32 (w.extractLsb' 8 7) (w.extractLsb' 15 1 == 1#1) (w.extractLsb' 16 8) (w.extractLsb' 24 8))
  | 0x13 =>
      some (.bfxZ32 (w.extractLsb' 8 7) (w.extractLsb' 15 1 == 1#1) (w.extractLsb' 16 8) (w.extractLsb' 24 8))
  | 0x14 =>
      if w.extractLsb' 15 1 = 0#1 then some (.bfi (w.extractLsb' 8 7) (w.extractLsb' 16 8) (w.extractLsb' 24 8))
      else none
  | 0x15 =>
      if push = true ∧ w.extractLsb' 11 5 = 4#5 ∧ w.extractLsb' 24 8 = 0#8 then some (.movPush (w.extractLsb' 8 3) (w.extractLsb' 16 8))
      else if w.extractLsb' 24 8 = 2#8 then some (.abs (w.extractLsb' 8 7) (w.extractLsb' 15 1 == 1#1) (w.extractLsb' 16 8))
      else if w.extractLsb' 24 8 = 6#8 then some (.brev (w.extractLsb' 8 7) (w.extractLsb' 15 1 == 1#1) (w.extractLsb' 16 8))
      else if w.extractLsb' 24 8 = 4#8 then some (.clz (w.extractLsb' 8 7) (w.extractLsb' 15 1 == 1#1) (w.extractLsb' 16 8))
      else if w.extractLsb' 24 8 = 0#8 then some (.mov (w.extractLsb' 8 7) (w.extractLsb' 15 1 == 1#1) (w.extractLsb' 16 8))
      else if w.extractLsb' 15 1 = 0#1 ∧ w.extractLsb' 24 8 = 7#8 then some (.movS (w.extractLsb' 8 7) (w.extractLsb' 16 8))
      else if w.extractLsb' 15 1 = 0#1 ∧ w.extractLsb' 24 8 = 8#8 then some (.movHi (w.extractLsb' 8 7) (w.extractLsb' 16 8))
      else if w.extractLsb' 24 8 = 1#8 then some (.neg (w.extractLsb' 8 7) (w.extractLsb' 15 1 == 1#1) (w.extractLsb' 16 8))
      else if w.extractLsb' 24 8 = 3#8 then some (.not (w.extractLsb' 8 7) (w.extractLsb' 15 1 == 1#1) (w.extractLsb' 16 8))
      else if w.extractLsb' 24 8 = 5#8 then some (.popc (w.extractLsb' 8 7) (w.extractLsb' 15 1 == 1#1) (w.extractLsb' 16 8))
      else none
  | 0x16 =>
      if w.extractLsb' 15 1 = 0#1 then some (.addPair (w.extractLsb' 8 7) (w.extractLsb' 16 8) (w.extractLsb' 24 8))
      else none
  | 0x17 =>
      if w.extractLsb' 15 1 = 0#1 then some (.subPair (w.extractLsb' 8 7) (w.extractLsb' 16 8) (w.extractLsb' 24 8))
      else none
  | 0x18 =>
      if w.extractLsb' 15 1 = 0#1 then some (.mulPair (w.extractLsb' 8 7) (w.extractLsb' 16 8) (w.extractLsb' 24 8))
      else none
  | 0x19 =>
      if w.extractLsb' 15 1 = 0#1 then some (.addWide (w.extractLsb' 8 7) (w.extractLsb' 16 8) (w.extractLsb' 24 8))
      else none
  | 0x1A =>
      if w.extractLsb' 15 1 = 0#1 then some (.subWide (w.extractLsb' 8 7) (w.extractLsb' 16 8) (w.extractLsb' 24 8))
      else none
  | 0x1B =>
      some (.sel (w.extractLsb' 8 5) (w.extractLsb' 13 3) (w.extractLsb' 16 8) (w.extractLsb' 24 8))
  | 0x1C =>
      if w.extractLsb' 11 1 = 0#1 ∧ w.extractLsb' 15 1 = 0#1 then some (.cmpS32P (w.extractLsb' 8 3) (w.extractLsb' 12 3) (w.extractLsb' 16 8) (w.extractLsb' 24 8))
      else if w.extractLsb' 15 1 = 1#1 then some (.cmpS32V (w.extractLsb' 8 4) (w.extractLsb' 12 3) (w.extractLsb' 16 8) (w.extractLsb' 24 8))
      else none
  | 0x1D =>
      if w.extractLsb' 11 1 = 0#1 ∧ w.extractLsb' 15 1 = 0#1 then some (.cmpZ32P (w.extractLsb' 8 3) (w.extractLsb' 12 3) (w.extractLsb' 16 8) (w.extractLsb' 24 8))
      else if w.extractLsb' 15 1 = 1#1 then some (.cmpZ32V (w.extractLsb' 8 4) (w.extractLsb' 12 3) (w.extractLsb' 16 8) (w.extractLsb' 24 8))
      else none
  | 0x1E =>
      if w.extractLsb' 11 1 = 0#1 ∧ w.extractLsb' 15 1 = 0#1 then some (.fcmpF32P (w.extractLsb' 8 3) (w.extractLsb' 12 3) (w.extractLsb' 16 8) (w.extractLsb' 24 8))
      else if w.extractLsb' 15 1 = 1#1 then some (.fcmpF32V (w.extractLsb' 8 4) (w.extractLsb' 12 3) (w.extractLsb' 16 8) (w.extractLsb' 24 8))
      else none
  | 0x1F =>
      if w.extractLsb' 11 1 = 0#1 ∧ w.extractLsb' 15 1 = 0#1 then some (.fcmpF16P (w.extractLsb' 8 3) (w.extractLsb' 12 3) (w.extractLsb' 16 8) (w.extractLsb' 24 8))
      else if w.extractLsb' 15 1 = 1#1 then some (.fcmpF16V (w.extractLsb' 8 4) (w.extractLsb' 12 3) (w.extractLsb' 16 8) (w.extractLsb' 24 8))
      else none
  | 0x20 =>
      if w.extractLsb' 11 1 = 0#1 ∧ w.extractLsb' 15 1 = 0#1 then some (.fcmpBf16P (w.extractLsb' 8 3) (w.extractLsb' 12 3) (w.extractLsb' 16 8) (w.extractLsb' 24 8))
      else if w.extractLsb' 15 1 = 1#1 then some (.fcmpBf16V (w.extractLsb' 8 4) (w.extractLsb' 12 3) (w.extractLsb' 16 8) (w.extractLsb' 24 8))
      else none
  | 0x21 =>
      some (.fadd (w.extractLsb' 8 7) (w.extractLsb' 15 1 == 1#1) (w.extractLsb' 16 8) (w.extractLsb' 24 8))
  | 0x22 =>
      some (.fsub (w.extractLsb' 8 7) (w.extractLsb' 15 1 == 1#1) (w.extractLsb' 16 8) (w.extractLsb' 24 8))
  | 0x23 =>
      some (.fmul (w.extractLsb' 8 7) (w.extractLsb' 15 1 == 1#1) (w.extractLsb' 16 8) (w.extractLsb' 24 8))
  | 0x24 =>
      if w.extractLsb' 15 1 = 0#1 then some (.ffma (w.extractLsb' 8 7) (w.extractLsb' 16 8) (w.extractLsb' 24 8))
      else none
  | 0x25 =>
      some (.fmin (w.extractLsb' 8 7) (w.extractLsb' 15 1 == 1#1) (w.extractLsb' 16 8) (w.extractLsb' 24 8))
  | 0x26 =>
      some (.fmax (w.extractLsb' 8 7) (w.extractLsb' 15 1 == 1#1) (w.extractLsb' 16 8) (w.extractLsb' 24 8))
  | 0x27 =>
      if w.extractLsb' 29 3 = 0#3 then some (.faddH (w.extractLsb' 8 6) (w.extractLsb' 14 6) (w.extractLsb' 20 6) (w.extractLsb' 26 3))
      else if w.extractLsb' 29 3 = 1#3 then some (.fsubH (w.extractLsb' 8 6) (w.extractLsb' 14 6) (w.extractLsb' 20 6) (w.extractLsb' 26 3))
      else if w.extractLsb' 29 3 = 2#3 then some (.fmulH (w.extractLsb' 8 6) (w.extractLsb' 14 6) (w.extractLsb' 20 6) (w.extractLsb' 26 3))
      else if w.extractLsb' 29 3 = 3#3 then some (.ffmaH (w.extractLsb' 8 6) (w.extractLsb' 14 6) (w.extractLsb' 20 6) (w.extractLsb' 26 3))
      else if w.extractLsb' 29 3 = 4#3 then some (.fminH (w.extractLsb' 8 6) (w.extractLsb' 14 6) (w.extractLsb' 20 6) (w.extractLsb' 26 3))
      else if w.extractLsb' 29 3 = 5#3 then some (.fmaxH (w.extractLsb' 8 6) (w.extractLsb' 14 6) (w.extractLsb' 20 6) (w.extractLsb' 26 3))
      else none
  | 0x28 =>
      some (.cvt (w.extractLsb' 8 6) (w.extractLsb' 14 6) (w.extractLsb' 20 6) (w.extractLsb' 26 6))
  | 0x29 =>
      some (.qnt (w.extractLsb' 8 6) (w.extractLsb' 14 6) (w.extractLsb' 20 6) (w.extractLsb' 26 6))
  | 0x2A =>
      some (.dqnt (w.extractLsb' 8 6) (w.extractLsb' 14 6) (w.extractLsb' 20 6) (w.extractLsb' 26 6))
  | 0x2B =>
      some (.xadd (w.extractLsb' 8 6) (w.extractLsb' 14 6) (w.extractLsb' 20 6) (w.extractLsb' 26 6))
  | 0x2C =>
      some (.xmul (w.extractLsb' 8 6) (w.extractLsb' 14 6) (w.extractLsb' 20 6) (w.extractLsb' 26 6))
  | 0x2D =>
      some (.xfma (w.extractLsb' 8 6) (w.extractLsb' 14 6) (w.extractLsb' 20 6) (w.extractLsb' 26 6))
  | 0x2E =>
      some (.xmax (w.extractLsb' 8 6) (w.extractLsb' 14 6) (w.extractLsb' 20 6) (w.extractLsb' 26 6))
  | 0x2F =>
      some (.xmin (w.extractLsb' 8 6) (w.extractLsb' 14 6) (w.extractLsb' 20 6) (w.extractLsb' 26 6))
  | 0x30 =>
      some (.cexp (w.extractLsb' 8 7) (w.extractLsb' 15 1 == 1#1) (w.extractLsb' 16 8) (w.extractLsb' 24 8))
  | 0x31 =>
      some (.clog (w.extractLsb' 8 7) (w.extractLsb' 15 1 == 1#1) (w.extractLsb' 16 8) (w.extractLsb' 24 8))
  | 0x32 =>
      some (.csin (w.extractLsb' 8 7) (w.extractLsb' 15 1 == 1#1) (w.extractLsb' 16 8) (w.extractLsb' 24 8))
  | 0x33 =>
      some (.catan (w.extractLsb' 8 7) (w.extractLsb' 15 1 == 1#1) (w.extractLsb' 16 8) (w.extractLsb' 24 8))
  | 0x34 =>
      some (.csqrt (w.extractLsb' 8 7) (w.extractLsb' 15 1 == 1#1) (w.extractLsb' 16 8) (w.extractLsb' 24 8))
  | 0x35 =>
      some (.crsq (w.extractLsb' 8 7) (w.extractLsb' 15 1 == 1#1) (w.extractLsb' 16 8) (w.extractLsb' 24 8))
  | 0x36 =>
      some (.crcp (w.extractLsb' 8 7) (w.extractLsb' 15 1 == 1#1) (w.extractLsb' 16 8) (w.extractLsb' 24 8))
  | 0x37 =>
      some (.ctanh (w.extractLsb' 8 7) (w.extractLsb' 15 1 == 1#1) (w.extractLsb' 16 8) (w.extractLsb' 24 8))
  | 0x38 =>
      if w.extractLsb' 23 1 = 0#1 then some (.shflIdx (w.extractLsb' 8 7) (w.extractLsb' 15 1 == 1#1) (w.extractLsb' 16 7) (w.extractLsb' 24 8))
      else none
  | 0x39 =>
      some (.shflUp (w.extractLsb' 8 7) (w.extractLsb' 15 1 == 1#1) (w.extractLsb' 16 7) (w.extractLsb' 23 1 == 1#1) (w.extractLsb' 24 8))
  | 0x3A =>
      some (.shflDn (w.extractLsb' 8 7) (w.extractLsb' 15 1 == 1#1) (w.extractLsb' 16 7) (w.extractLsb' 23 1 == 1#1) (w.extractLsb' 24 8))
  | 0x3B =>
      some (.shflXor (w.extractLsb' 8 7) (w.extractLsb' 15 1 == 1#1) (w.extractLsb' 16 7) (w.extractLsb' 23 1 == 1#1) (w.extractLsb' 24 8))
  | 0x3C =>
      if w.extractLsb' 23 1 = 0#1 then some (.bcast (w.extractLsb' 8 7) (w.extractLsb' 15 1 == 1#1) (w.extractLsb' 16 7) (w.extractLsb' 24 8))
      else none
  | 0x3D =>
      if w.extractLsb' 8 3 = 0#3 then some (.lred (w.extractLsb' 11 7) (w.extractLsb' 18 7) (w.extractLsb' 25 3) (w.extractLsb' 28 4))
      else none
  | 0x3E =>
      if w.extractLsb' 9 2 = 0#2 then some (.scan (w.extractLsb' 8 1 == 1#1) (w.extractLsb' 11 7) (w.extractLsb' 18 7) (w.extractLsb' 25 3) (w.extractLsb' 28 4))
      else none
  | 0x3F =>
      if w.extractLsb' 8 17 = 0#17 ∧ w.extractLsb' 28 4 = 4#4 then some (.elect (w.extractLsb' 25 3))
      else if w.extractLsb' 8 10 = 0#10 ∧ w.extractLsb' 28 4 = 0#4 then some (.voteBall (w.extractLsb' 18 7) (w.extractLsb' 25 3))
      else if w.extractLsb' 8 10 = 0#10 ∧ w.extractLsb' 28 4 = 1#4 then some (.voteAny (w.extractLsb' 18 7) (w.extractLsb' 25 3))
      else if w.extractLsb' 8 10 = 0#10 ∧ w.extractLsb' 28 4 = 2#4 then some (.voteAll (w.extractLsb' 18 7) (w.extractLsb' 25 3))
      else if w.extractLsb' 8 10 = 0#10 ∧ w.extractLsb' 28 4 = 3#4 then some (.voteEq (w.extractLsb' 18 7) (w.extractLsb' 25 3))
      else none
  | 0x40 =>
      if w.extractLsb' 16 16 = 0#16 then some (.rng (w.extractLsb' 8 7) (w.extractLsb' 15 1 == 1#1))
      else none
  | 0x41 =>
      some (.movi (w.extractLsb' 8 7) (w.extractLsb' 15 1 == 1#1) (w.extractLsb' 16 16))
  | 0x42 =>
      if w.extractLsb' 15 1 = 0#1 then some (.movh (w.extractLsb' 8 7) (w.extractLsb' 16 16))
      else none
  | 0x43 =>
      some (.ld (w.extractLsb' 8 5) (w.extractLsb' 13 3) (w.extractLsb' 16 5) (w.extractLsb' 21 11))
  | 0x44 =>
      some (.st (w.extractLsb' 8 5) (w.extractLsb' 13 3) (w.extractLsb' 16 5) (w.extractLsb' 21 11))
  | 0x45 =>
      some (.lds (w.extractLsb' 8 5) (w.extractLsb' 13 3) (w.extractLsb' 16 5) (w.extractLsb' 21 11))
  | 0x46 =>
      some (.sts (w.extractLsb' 8 5) (w.extractLsb' 13 3) (w.extractLsb' 16 5) (w.extractLsb' 21 11))
  | 0x47 =>
      some (.ldq (w.extractLsb' 8 5) (w.extractLsb' 13 3) (w.extractLsb' 16 5) (w.extractLsb' 21 11))
  | 0x48 =>
      if w.extractLsb' 21 8 = 0#8 then some (.ldAcq (w.extractLsb' 8 5) (w.extractLsb' 13 3) (w.extractLsb' 16 5) (w.extractLsb' 29 3))
      else if w.extractLsb' 21 8 = 128#8 then some (.ldqAcq (w.extractLsb' 8 5) (w.extractLsb' 13 3) (w.extractLsb' 16 5) (w.extractLsb' 29 3))
      else if w.extractLsb' 21 8 = 64#8 then some (.ldsAcq (w.extractLsb' 8 5) (w.extractLsb' 13 3) (w.extractLsb' 16 5) (w.extractLsb' 29 3))
      else if w.extractLsb' 21 8 = 32#8 then some (.stRel (w.extractLsb' 8 5) (w.extractLsb' 13 3) (w.extractLsb' 16 5) (w.extractLsb' 29 3))
      else if w.extractLsb' 21 8 = 96#8 then some (.stsRel (w.extractLsb' 8 5) (w.extractLsb' 13 3) (w.extractLsb' 16 5) (w.extractLsb' 29 3))
      else none
  | 0x49 =>
      if w.extractLsb' 13 2 = 0#2 then some (.gth (w.extractLsb' 8 3) (w.extractLsb' 11 2) (w.extractLsb' 15 3) (w.extractLsb' 18 7) (w.extractLsb' 25 7))
      else if w.extractLsb' 13 2 = 1#2 then some (.sct (w.extractLsb' 8 3) (w.extractLsb' 11 2) (w.extractLsb' 15 3) (w.extractLsb' 18 7) (w.extractLsb' 25 7))
      else if w.extractLsb' 13 5 = 2#5 then some (.stm (w.extractLsb' 8 3) (w.extractLsb' 11 2) (w.extractLsb' 18 7) (w.extractLsb' 25 7))
      else none
  | 0x4A =>
      some (.br (w.extractLsb' 8 2) (w.extractLsb' 10 1 == 1#1) (w.extractLsb' 11 3) (w.extractLsb' 14 18))
  | 0x4B =>
      if w.extractLsb' 8 6 = 1#6 then some (.call (w.extractLsb' 14 18))
      else if w.extractLsb' 8 6 = 0#6 then some (.jmp (w.extractLsb' 14 18))
      else if w.extractLsb' 8 6 = 2#6 then some (.setrj (w.extractLsb' 14 18))
      else none
  | 0x4C =>
      if w.extractLsb' 8 24 = 4#24 then some (.acquire)
      else if w.extractLsb' 8 24 = 3#24 then some (.exit)
      else if w.extractLsb' 8 24 = 1#24 then some (.join)
      else if w.extractLsb' 8 24 = 0#24 then some (.nop)
      else if w.extractLsb' 8 24 = 5#24 then some (.release)
      else if w.extractLsb' 8 24 = 2#24 then some (.ret)
      else none
  | 0x4D =>
      if w.extractLsb' 15 1 = 0#1 then some (.rdst (w.extractLsb' 8 7) (w.extractLsb' 16 8) (w.extractLsb' 24 8))
      else none
  | 0x4E =>
      if w.extractLsb' 15 1 = 0#1 ∧ w.extractLsb' 24 8 = 0#8 then some (.wrst (w.extractLsb' 8 7) (w.extractLsb' 16 8))
      else none
  | 0x4F =>
      some (.spawn (w.extractLsb' 8 6) (w.extractLsb' 14 18))
  | 0x50 =>
      if w.extractLsb' 15 1 = 0#1 ∧ w.extractLsb' 24 8 = 0#8 then some (.packS32 (w.extractLsb' 8 7) (w.extractLsb' 16 8))
      else none
  | 0x51 =>
      if w.extractLsb' 15 1 = 0#1 ∧ w.extractLsb' 24 8 = 0#8 then some (.packZ32 (w.extractLsb' 8 7) (w.extractLsb' 16 8))
      else none
  | 0x52 =>
      if w.extractLsb' 15 1 = 0#1 ∧ w.extractLsb' 24 8 = 0#8 then some (.packRevS32 (w.extractLsb' 8 7) (w.extractLsb' 16 8))
      else none
  | 0x53 =>
      if w.extractLsb' 15 1 = 0#1 ∧ w.extractLsb' 24 8 = 0#8 then some (.packRevZ32 (w.extractLsb' 8 7) (w.extractLsb' 16 8))
      else none
  | 0x54 =>
      if w.extractLsb' 15 1 = 0#1 then some (.pmul (w.extractLsb' 8 7) (w.extractLsb' 16 8) (w.extractLsb' 24 8))
      else none
  | 0x55 =>
      if w.extractLsb' 15 1 = 0#1 then some (.pmulUns (w.extractLsb' 8 7) (w.extractLsb' 16 8) (w.extractLsb' 24 8))
      else none
  | 0x56 =>
      if w.extractLsb' 15 1 = 0#1 then some (.extrS32 (w.extractLsb' 8 7) (w.extractLsb' 16 8) (w.extractLsb' 24 8))
      else none
  | 0x57 =>
      if w.extractLsb' 15 1 = 0#1 then some (.extrS64 (w.extractLsb' 8 7) (w.extractLsb' 16 8) (w.extractLsb' 24 8))
      else none
  | 0x58 =>
      if w.extractLsb' 8 8 = 0#8 then some (.gset (w.extractLsb' 16 8) (w.extractLsb' 24 8))
      else none
  | 0x59 =>
      if w.extractLsb' 15 1 = 0#1 then some (.mma (w.extractLsb' 8 7) (w.extractLsb' 16 8) (w.extractLsb' 24 8))
      else none
  | 0x5A =>
      if w.extractLsb' 15 1 = 0#1 then some (.mmaSp (w.extractLsb' 8 7) (w.extractLsb' 16 8) (w.extractLsb' 24 8))
      else none
  | 0x5B =>
      if w.extractLsb' 15 1 = 0#1 then some (.mmd (w.extractLsb' 8 7) (w.extractLsb' 16 8) (w.extractLsb' 24 8))
      else none
  | 0x5C =>
      if w.extractLsb' 15 17 = 0#17 then some (.mmdLd (w.extractLsb' 8 7))
      else none
  | 0x5D =>
      if w.extractLsb' 15 1 = 0#1 then some (.mmc (w.extractLsb' 8 7) (w.extractLsb' 16 8) (w.extractLsb' 24 8))
      else none
  | 0x5E =>
      if w.extractLsb' 15 17 = 0#17 then some (.acz (w.extractLsb' 8 7))
      else none
  | 0x5F =>
      if w.extractLsb' 15 1 = 0#1 ∧ w.extractLsb' 24 8 = 0#8 then some (.acrd (w.extractLsb' 8 7) (w.extractLsb' 16 8))
      else none
  | 0x60 =>
      if w.extractLsb' 15 1 = 0#1 ∧ w.extractLsb' 24 8 = 0#8 then some (.acwr (w.extractLsb' 8 7) (w.extractLsb' 16 8))
      else none
  | 0x61 =>
      if w.extractLsb' 15 17 = 0#17 then some (.drain (w.extractLsb' 8 7))
      else none
  | 0x62 =>
      if w.extractLsb' 15 17 = 0#17 then some (.drainT (w.extractLsb' 8 7))
      else none
  | 0x63 =>
      if w.extractLsb' 15 1 = 0#1 ∧ w.extractLsb' 24 8 = 0#8 then some (.wait (w.extractLsb' 8 7) (w.extractLsb' 16 8))
      else none
  | 0x64 =>
      if w.extractLsb' 8 8 = 0#8 then some (.cpy (w.extractLsb' 16 8) (w.extractLsb' 24 8))
      else none
  | 0x65 =>
      if w.extractLsb' 8 8 = 0#8 then some (.cpyg (w.extractLsb' 16 8) (w.extractLsb' 24 8))
      else none
  | 0x66 =>
      if w.extractLsb' 8 8 = 0#8 ∧ w.extractLsb' 24 8 = 0#8 then some (.shmap (w.extractLsb' 16 8))
      else none
  | 0x67 =>
      if w.extractLsb' 8 8 = 0#8 then some (.litscan (w.extractLsb' 16 8) (w.extractLsb' 24 8))
      else none
  | 0x68 =>
      if w.extractLsb' 8 8 = 0#8 then some (.shlit (w.extractLsb' 16 8) (w.extractLsb' 24 8))
      else none
  | 0x69 =>
      if w.extractLsb' 8 8 = 0#8 then some (.shfade (w.extractLsb' 16 8) (w.extractLsb' 24 8))
      else none
  | 0x6A =>
      if w.extractLsb' 13 19 = 0#19 then some (.fence (w.extractLsb' 8 3) (w.extractLsb' 11 2))
      else none
  | 0x6B =>
      some (.atom (w.extractLsb' 8 3) (w.extractLsb' 11 2) (w.extractLsb' 13 2) (w.extractLsb' 15 3) (w.extractLsb' 18 7) (w.extractLsb' 25 7))
  | 0x6C =>
      if w.extractLsb' 15 3 = 0#3 then some (.cas (w.extractLsb' 8 3) (w.extractLsb' 11 2) (w.extractLsb' 13 2) (w.extractLsb' 18 7) (w.extractLsb' 25 7))
      else none
  | 0x6D =>
      if w.extractLsb' 15 1 = 0#1 ∧ w.extractLsb' 24 8 = 0#8 then some (.barArv (w.extractLsb' 8 7) (w.extractLsb' 16 8))
      else none
  | 0x6E =>
      if w.extractLsb' 8 8 = 0#8 then some (.barWait (w.extractLsb' 16 8) (w.extractLsb' 24 8))
      else none
  | 0x6F =>
      if w.extractLsb' 15 1 = 0#1 ∧ w.extractLsb' 24 8 = 0#8 then some (.launch (w.extractLsb' 8 7) (w.extractLsb' 16 8))
      else none
  | 0x70 =>
      if w.extractLsb' 15 1 = 0#1 ∧ w.extractLsb' 24 8 = 0#8 then some (.cancel (w.extractLsb' 8 7) (w.extractLsb' 16 8))
      else none
  | 0x71 =>
      if w.extractLsb' 8 24 = 0#24 then some (.yield)
      else none
  | 0x72 =>
      if w.extractLsb' 8 8 = 0#8 ∧ w.extractLsb' 24 8 = 0#8 then some (.prio (w.extractLsb' 16 8))
      else none
  | 0x73 =>
      if w.extractLsb' 15 1 = 0#1 ∧ w.extractLsb' 24 8 = 0#8 then some (.echo (w.extractLsb' 8 7) (w.extractLsb' 16 8))
      else none
  | 0x74 =>
      if w.extractLsb' 8 8 = 0#8 ∧ w.extractLsb' 24 8 = 0#8 then some (.trap (w.extractLsb' 16 8))
      else none
  | 0x75 =>
      if w.extractLsb' 8 24 = 0#24 then some (.eret)
      else if w.extractLsb' 8 24 = 1#24 then some (.eretEnd)
      else none
  | 0x76 =>
      if w.extractLsb' 8 24 = 0#24 then some (.replay)
      else none
  | 0x77 =>
      some (.kvx (w.extractLsb' 8 3) (w.extractLsb' 11 7) (w.extractLsb' 18 7) (w.extractLsb' 25 7))
  | 0x78 =>
      some (.kvxW (w.extractLsb' 8 3) (w.extractLsb' 11 7) (w.extractLsb' 18 7) (w.extractLsb' 25 7))
  | 0x79 =>
      some (.kvfork (w.extractLsb' 8 3) (w.extractLsb' 11 7) (w.extractLsb' 18 7) (w.extractLsb' 25 7))
  | 0x7A =>
      some (.kvskip (w.extractLsb' 8 3) (w.extractLsb' 11 7) (w.extractLsb' 18 7) (w.extractLsb' 25 7))
  | 0x7B =>
      if w.extractLsb' 11 7 = 0#7 then some (.kvrel (w.extractLsb' 8 3) (w.extractLsb' 18 7) (w.extractLsb' 25 7))
      else none
  | 0x7C =>
      if w.extractLsb' 15 1 = 0#1 then some (.vserve (w.extractLsb' 8 7) (w.extractLsb' 16 8) (w.extractLsb' 24 8))
      else none
  | 0x7D =>
      if w.extractLsb' 8 8 = 0#8 then some (.vcatch (w.extractLsb' 16 8) (w.extractLsb' 24 8))
      else none
  | 0x7E =>
      if w.extractLsb' 15 1 = 0#1 ∧ w.extractLsb' 24 8 = 0#8 then some (.vpoll (w.extractLsb' 8 7) (w.extractLsb' 16 8))
      else none
  | _ => none

/-- R357: the instruction of the halfwords `lo` and `hi` in stream `st`; `none` is Illegal Instruction. Bit 0 of the first
halfword gives the length (R334). -/
def decode (st : Stream) (lo hi : BitVec 16) : Option Instr :=
  let i? := if lo.getLsbD 0 then fields32 (st == .setter) (hi ++ lo) else some (fields16 lo)
  match i? with
  | some i => if i.legalIn st then some i else none
  | none => none

/-- R334: the length of an encoded instruction in bytes. -/
def Instr.len : Instr → Nat
  | .add16 _ _ => 2
  | .sub16 _ _ => 2
  | .and16 _ _ => 2
  | .or16 _ _ => 2
  | .xor16 _ _ => 2
  | .shl16 _ _ => 2
  | .shr16 _ _ => 2
  | .mov16 _ _ => 2
  | .minS3216 _ _ => 2
  | .maxS3216 _ _ => 2
  | .mul16 _ _ => 2
  | .fadd16 _ _ => 2
  | .fsub16 _ _ => 2
  | .fmul16 _ _ => 2
  | .fmin16 _ _ => 2
  | .fmax16 _ _ => 2
  | _ => 4

/-! ### The encoder, from the same layouts -/

/-- The bit of a Bool field. -/
def bitOf (b : Bool) : BitVec 1 := if b then 1#1 else 0#1

/-- The word of an encoded instruction (a 16-bit form stands in bits [15:0]); zero for a happening. -/
def Instr.word : Instr → BitVec 32
  | .abs d w a => 2#8 ++ a ++ bitOf w ++ d ++ 43#8
  | .acquire => 1177#32
  | .acrd d a => 0#8 ++ a ++ 0#1 ++ d ++ 191#8
  | .acwr d a => 0#8 ++ a ++ 0#1 ++ d ++ 193#8
  | .acz d => 0#17 ++ d ++ 189#8
  | .add d w a b => b ++ a ++ bitOf w ++ d ++ 1#8
  | .add16 s d => 0#16 ++ 0#4 ++ d ++ s ++ 0#1
  | .addPair d a b => b ++ a ++ 0#1 ++ d ++ 45#8
  | .addWide d a b => b ++ a ++ 0#1 ++ d ++ 51#8
  | .and d w a b => b ++ a ++ bitOf w ++ d ++ 23#8
  | .and16 s d => 0#16 ++ 2#4 ++ d ++ s ++ 0#1
  | .atom s q t x m d => d ++ m ++ x ++ t ++ q ++ s ++ 215#8
  | .barArv d a => 0#8 ++ a ++ 0#1 ++ d ++ 219#8
  | .barWait a b => b ++ a ++ 221#16
  | .bcast d w a b => b ++ 0#1 ++ a ++ bitOf w ++ d ++ 121#8
  | .bfxS32 d w a b => b ++ a ++ bitOf w ++ d ++ 37#8
  | .bfxZ32 d w a b => b ++ a ++ bitOf w ++ d ++ 39#8
  | .bfi d a b => b ++ a ++ 0#1 ++ d ++ 41#8
  | .br h n p o => o ++ p ++ bitOf n ++ h ++ 149#8
  | .brev d w a => 6#8 ++ a ++ bitOf w ++ d ++ 43#8
  | .call o => o ++ 407#14
  | .cancel d a => 0#8 ++ a ++ 0#1 ++ d ++ 225#8
  | .cas s q t m d => d ++ m ++ 0#3 ++ t ++ q ++ s ++ 217#8
  | .cexp d w a n => n ++ a ++ bitOf w ++ d ++ 97#8
  | .clog d w a n => n ++ a ++ bitOf w ++ d ++ 99#8
  | .csin d w a n => n ++ a ++ bitOf w ++ d ++ 101#8
  | .catan d w a n => n ++ a ++ bitOf w ++ d ++ 103#8
  | .csqrt d w a n => n ++ a ++ bitOf w ++ d ++ 105#8
  | .crsq d w a n => n ++ a ++ bitOf w ++ d ++ 107#8
  | .crcp d w a n => n ++ a ++ bitOf w ++ d ++ 109#8
  | .ctanh d w a n => n ++ a ++ bitOf w ++ d ++ 111#8
  | .clz d w a => 4#8 ++ a ++ bitOf w ++ d ++ 43#8
  | .cmpS32P d c a b => b ++ a ++ 0#1 ++ c ++ 0#1 ++ d ++ 57#8
  | .cmpS32V d c a b => b ++ a ++ 1#1 ++ c ++ d ++ 57#8
  | .cmpZ32P d c a b => b ++ a ++ 0#1 ++ c ++ 0#1 ++ d ++ 59#8
  | .cmpZ32V d c a b => b ++ a ++ 1#1 ++ c ++ d ++ 59#8
  | .cpy a b => b ++ a ++ 201#16
  | .cpyg a b => b ++ a ++ 203#16
  | .cvt d a g f => f ++ g ++ a ++ d ++ 81#8
  | .dqnt d a b f => f ++ b ++ a ++ d ++ 85#8
  | .drain d => 0#17 ++ d ++ 195#8
  | .drainT d => 0#17 ++ d ++ 197#8
  | .echo d a => 0#8 ++ a ++ 0#1 ++ d ++ 231#8
  | .elect p => 4#4 ++ p ++ 127#25
  | .eret => 235#32
  | .eretEnd => 491#32
  | .exit => 921#32
  | .extrS32 d a b => b ++ a ++ 0#1 ++ d ++ 173#8
  | .extrS64 d a b => b ++ a ++ 0#1 ++ d ++ 175#8
  | .fadd d w a b => b ++ a ++ bitOf w ++ d ++ 67#8
  | .fadd16 s d => 0#16 ++ 11#4 ++ d ++ s ++ 0#1
  | .fsub d w a b => b ++ a ++ bitOf w ++ d ++ 69#8
  | .fsub16 s d => 0#16 ++ 12#4 ++ d ++ s ++ 0#1
  | .fmul d w a b => b ++ a ++ bitOf w ++ d ++ 71#8
  | .fmul16 s d => 0#16 ++ 13#4 ++ d ++ s ++ 0#1
  | .ffma d a b => b ++ a ++ 0#1 ++ d ++ 73#8
  | .fmin d w a b => b ++ a ++ bitOf w ++ d ++ 75#8
  | .fmin16 s d => 0#16 ++ 14#4 ++ d ++ s ++ 0#1
  | .fmax d w a b => b ++ a ++ bitOf w ++ d ++ 77#8
  | .fmax16 s d => 0#16 ++ 15#4 ++ d ++ s ++ 0#1
  | .faddH d a b t => 0#3 ++ t ++ b ++ a ++ d ++ 79#8
  | .fsubH d a b t => 1#3 ++ t ++ b ++ a ++ d ++ 79#8
  | .fmulH d a b t => 2#3 ++ t ++ b ++ a ++ d ++ 79#8
  | .ffmaH d a b t => 3#3 ++ t ++ b ++ a ++ d ++ 79#8
  | .fminH d a b t => 4#3 ++ t ++ b ++ a ++ d ++ 79#8
  | .fmaxH d a b t => 5#3 ++ t ++ b ++ a ++ d ++ 79#8
  | .fcmpF32P d c a b => b ++ a ++ 0#1 ++ c ++ 0#1 ++ d ++ 61#8
  | .fcmpF32V d c a b => b ++ a ++ 1#1 ++ c ++ d ++ 61#8
  | .fcmpF16P d c a b => b ++ a ++ 0#1 ++ c ++ 0#1 ++ d ++ 63#8
  | .fcmpF16V d c a b => b ++ a ++ 1#1 ++ c ++ d ++ 63#8
  | .fcmpBf16P d c a b => b ++ a ++ 0#1 ++ c ++ 0#1 ++ d ++ 65#8
  | .fcmpBf16V d c a b => b ++ a ++ 1#1 ++ c ++ d ++ 65#8
  | .fence s k => 0#19 ++ k ++ s ++ 213#8
  | .fsh d w a b => b ++ a ++ bitOf w ++ d ++ 35#8
  | .gset a b => b ++ a ++ 177#16
  | .gth s q t a d => d ++ a ++ t ++ 0#2 ++ q ++ s ++ 147#8
  | .jmp o => o ++ 151#14
  | .join => 409#32
  | .kvx n b a d => d ++ a ++ b ++ n ++ 239#8
  | .kvxW n b a d => d ++ a ++ b ++ n ++ 241#8
  | .kvfork n b a d => d ++ a ++ b ++ n ++ 243#8
  | .kvskip n b a d => d ++ a ++ b ++ n ++ 245#8
  | .kvrel n a d => d ++ a ++ 0#7 ++ n ++ 247#8
  | .launch d a => 0#8 ++ a ++ 0#1 ++ d ++ 223#8
  | .ld d t n e => e ++ n ++ t ++ d ++ 135#8
  | .ldAcq d t n s => s ++ 0#8 ++ n ++ t ++ d ++ 145#8
  | .ldq d t n e => e ++ n ++ t ++ d ++ 143#8
  | .ldqAcq d t n s => s ++ 128#8 ++ n ++ t ++ d ++ 145#8
  | .lds d t n e => e ++ n ++ t ++ d ++ 139#8
  | .ldsAcq d t n s => s ++ 64#8 ++ n ++ t ++ d ++ 145#8
  | .litscan a b => b ++ a ++ 207#16
  | .lred d a p f => f ++ p ++ a ++ d ++ 123#11
  | .madS32 d a b => b ++ a ++ 0#1 ++ d ++ 11#8
  | .madZ32 d a b => b ++ a ++ 0#1 ++ d ++ 13#8
  | .minS32 d w a b => b ++ a ++ bitOf w ++ d ++ 15#8
  | .minS3216 s d => 0#16 ++ 8#4 ++ d ++ s ++ 0#1
  | .minZ32 d w a b => b ++ a ++ bitOf w ++ d ++ 17#8
  | .maxS32 d w a b => b ++ a ++ bitOf w ++ d ++ 19#8
  | .maxS3216 s d => 0#16 ++ 9#4 ++ d ++ s ++ 0#1
  | .maxZ32 d w a b => b ++ a ++ bitOf w ++ d ++ 21#8
  | .mma d a b => b ++ a ++ 0#1 ++ d ++ 179#8
  | .mmaSp d a b => b ++ a ++ 0#1 ++ d ++ 181#8
  | .mmc d a b => b ++ a ++ 0#1 ++ d ++ 187#8
  | .mmd d a b => b ++ a ++ 0#1 ++ d ++ 183#8
  | .mmdLd d => 0#17 ++ d ++ 185#8
  | .mov d w a => 0#8 ++ a ++ bitOf w ++ d ++ 43#8
  | .mov16 s d => 0#16 ++ 7#4 ++ d ++ s ++ 0#1
  | .movPush n a => 0#8 ++ a ++ 4#5 ++ n ++ 43#8
  | .movS d a => 7#8 ++ a ++ 0#1 ++ d ++ 43#8
  | .movHi d a => 8#8 ++ a ++ 0#1 ++ d ++ 43#8
  | .movi d w i => i ++ bitOf w ++ d ++ 131#8
  | .movh d i => i ++ 0#1 ++ d ++ 133#8
  | .mul d w a b => b ++ a ++ bitOf w ++ d ++ 5#8
  | .mul16 s d => 0#16 ++ 10#4 ++ d ++ s ++ 0#1
  | .mulPair d a b => b ++ a ++ 0#1 ++ d ++ 49#8
  | .mulhS32 d w a b => b ++ a ++ bitOf w ++ d ++ 7#8
  | .mulhZ32 d w a b => b ++ a ++ bitOf w ++ d ++ 9#8
  | .neg d w a => 1#8 ++ a ++ bitOf w ++ d ++ 43#8
  | .not d w a => 3#8 ++ a ++ bitOf w ++ d ++ 43#8
  | .popc d w a => 5#8 ++ a ++ bitOf w ++ d ++ 43#8
  | .nop => 153#32
  | .or d w a b => b ++ a ++ bitOf w ++ d ++ 25#8
  | .or16 s d => 0#16 ++ 3#4 ++ d ++ s ++ 0#1
  | .packS32 d a => 0#8 ++ a ++ 0#1 ++ d ++ 161#8
  | .packZ32 d a => 0#8 ++ a ++ 0#1 ++ d ++ 163#8
  | .packRevS32 d a => 0#8 ++ a ++ 0#1 ++ d ++ 165#8
  | .packRevZ32 d a => 0#8 ++ a ++ 0#1 ++ d ++ 167#8
  | .pmul d a b => b ++ a ++ 0#1 ++ d ++ 169#8
  | .pmulUns d a b => b ++ a ++ 0#1 ++ d ++ 171#8
  | .prio a => 0#8 ++ a ++ 229#16
  | .qnt d a b f => f ++ b ++ a ++ d ++ 83#8
  | .rdst d a b => b ++ a ++ 0#1 ++ d ++ 155#8
  | .release => 1433#32
  | .replay => 237#32
  | .ret => 665#32
  | .rng d w => 0#16 ++ bitOf w ++ d ++ 129#8
  | .sar d w a b => b ++ a ++ bitOf w ++ d ++ 33#8
  | .shl d w a b => b ++ a ++ bitOf w ++ d ++ 29#8
  | .shl16 s d => 0#16 ++ 5#4 ++ d ++ s ++ 0#1
  | .shr d w a b => b ++ a ++ bitOf w ++ d ++ 31#8
  | .shr16 s d => 0#16 ++ 6#4 ++ d ++ s ++ 0#1
  | .scan x d a p f => f ++ p ++ a ++ d ++ 0#2 ++ bitOf x ++ 125#8
  | .sct s q t a d => d ++ a ++ t ++ 1#2 ++ q ++ s ++ 147#8
  | .sel d p a b => b ++ a ++ p ++ d ++ 55#8
  | .setrj o => o ++ 663#14
  | .shmap a => 0#8 ++ a ++ 205#16
  | .shlit a b => b ++ a ++ 209#16
  | .shfade a b => b ++ a ++ 211#16
  | .shflIdx d w a b => b ++ 0#1 ++ a ++ bitOf w ++ d ++ 113#8
  | .shflUp d w a r b => b ++ bitOf r ++ a ++ bitOf w ++ d ++ 115#8
  | .shflDn d w a r b => b ++ bitOf r ++ a ++ bitOf w ++ d ++ 117#8
  | .shflXor d w a r b => b ++ bitOf r ++ a ++ bitOf w ++ d ++ 119#8
  | .spawn a o => o ++ a ++ 159#8
  | .st d t n e => e ++ n ++ t ++ d ++ 137#8
  | .stRel d t n s => s ++ 32#8 ++ n ++ t ++ d ++ 145#8
  | .stm s q a d => d ++ a ++ 2#5 ++ q ++ s ++ 147#8
  | .sts d t n e => e ++ n ++ t ++ d ++ 141#8
  | .stsRel d t n s => s ++ 96#8 ++ n ++ t ++ d ++ 145#8
  | .sub d w a b => b ++ a ++ bitOf w ++ d ++ 3#8
  | .sub16 s d => 0#16 ++ 1#4 ++ d ++ s ++ 0#1
  | .subPair d a b => b ++ a ++ 0#1 ++ d ++ 47#8
  | .subWide d a b => b ++ a ++ 0#1 ++ d ++ 53#8
  | .trap a => 0#8 ++ a ++ 233#16
  | .vserve d a b => b ++ a ++ 0#1 ++ d ++ 249#8
  | .vcatch a b => b ++ a ++ 251#16
  | .vpoll d a => 0#8 ++ a ++ 0#1 ++ d ++ 253#8
  | .voteBall a p => 0#4 ++ p ++ a ++ 127#18
  | .voteAny a p => 1#4 ++ p ++ a ++ 127#18
  | .voteAll a p => 2#4 ++ p ++ a ++ 127#18
  | .voteEq a p => 3#4 ++ p ++ a ++ 127#18
  | .wait d a => 0#8 ++ a ++ 0#1 ++ d ++ 199#8
  | .wrst d a => 0#8 ++ a ++ 0#1 ++ d ++ 157#8
  | .xadd d a b f => f ++ b ++ a ++ d ++ 87#8
  | .xmul d a b f => f ++ b ++ a ++ d ++ 89#8
  | .xfma d a b f => f ++ b ++ a ++ d ++ 91#8
  | .xmax d a b f => f ++ b ++ a ++ d ++ 93#8
  | .xmin d a b f => f ++ b ++ a ++ d ++ 95#8
  | .xor d w a b => b ++ a ++ bitOf w ++ d ++ 27#8
  | .xor16 s d => 0#16 ++ 4#4 ++ d ++ s ++ 0#1
  | .yield => 227#32
  | _ => 0#32

/-- The halfwords of an encoded instruction: the first, then the second (zero for a 16-bit form). -/
def Instr.encode (i : Instr) : BitVec 16 × BitVec 16 :=
  (i.word.extractLsb' 0 16, i.word.extractLsb' 16 16)

/-- Whether a row of the table has an encoding. -/
def Instr.isEncoded (i : Instr) : Bool := i.legalIn .hitter || i.legalIn .setter || i.legalIn .handler

/-- The streams in which `decodeTableWord` tries a word of the table, in this order. A word that the setter reads as a push
(`mov qN, aS`, R347) is the table's row MOV_PUSH, although the hitter reads it as `mov v(32+N), vS`. -/
def tableReading (lo hi : BitVec 16) : Option (Stream × Instr) :=
  match decode .setter lo hi with
  | some (.movPush n a) => some (.setter, .movPush n a)
  | other =>
    match decode .hitter lo hi with
    | some i => some (.hitter, i)
    | none =>
      match other with
      | some i => some (.setter, i)
      | none =>
        match decode .handler lo hi with
        | some i => some (.handler, i)
        | none => none

/-- The first halfword of a table word: bits 15..0. -/
def tableLo (w : Nat) : BitVec 16 := BitVec.ofNat 16 w

/-- The second halfword of a table word of more than 16 bits: bits 31..16. -/
def tableHi (nbits w : Nat) : BitVec 16 := if nbits ≤ 16 then 0#16 else BitVec.ofNat 16 (w / 65536)

/-- The instruction this decoder reads from an instruction whose bits are `w`, numbered as the opcode table numbers them. -/
def decodeTableWord (nbits w : Nat) : Option Instr :=
  match tableReading (tableLo w) (tableHi nbits w) with
  | some (_, i) => some i
  | none => none

end Sys2Proof
end

