-- ==== Sys2Proof/Config.lean ====
section
/-! DEFINITION. What an implementation fixes, and the free values (notes/assumptions). A free value is an opaque
constant: nothing can evaluate it, so whatever is proved holds for every value of it. -/

namespace Sys2Proof.Config

/-- R2: the lanes of a group of the HW-16. -/
def gwidth : Nat := 64

/-- R328, R330: SHA-384, as an uninterpreted function of the bytes (FIPS 180; the spec names it and does not define it). -/
opaque sha384 : List (BitVec 8) → BitVec 384

/-- R328: whether an RSA-3072 RSASSA-PSS signature over a digest verifies under a public key. -/
opaque rsaVerify : List (BitVec 8) → BitVec 384 → List (BitVec 8) → Bool

/-- R328: whether an SLH-DSA-SHA2-192s signature over a digest verifies under a public key. -/
opaque slhVerify : List (BitVec 8) → BitVec 384 → List (BitVec 8) → Bool

/-- R330: the RSA-3072 signature that the device identity key makes over a digest: 3,072 bits. -/
opaque rsaSign : BitVec 384 → Vector (BitVec 8) 384

/-- R330: the SLH-DSA-SHA2-192s signature that the device identity key makes over a digest: 16,224 bytes by FIPS 205 (log 1). -/
opaque slhSign : BitVec 384 → Vector (BitVec 8) 16224

/-- R328: the hash of the RSA public key that is fused in H0. -/
opaque fusedRsaHash : BitVec 384

/-- R328: the hash of the SLH-DSA public key that is fused in H0. -/
opaque fusedSlhHash : BitVec 384

/-- R328: the fused minimum version. -/
opaque fusedMinVersion : Nat

/-- R166: whether a translation that finds an older entry in its core's cache uses it, by the clock and the page (log 8). -/
opaque staleTranslation : Nat → Nat → Bool

/-- R336: whether a changed halfword is fetched as it stood at the launch, by the clock and the address (log 9). -/
opaque staleFetch : Nat → Nat → Bool

/-- R236, R241: the address space (its root table) in which the addresses of a window's or a collective's descriptor lie, by BASE or SRC
(log 31). -/
opaque windowSpace : Nat → Nat

/-- R237: the bytes that the memory of another HOME module holds in a window when it opens, by the window and the offset (log 16). -/
opaque homeByte : Nat → Nat → BitVec 8

/-- R241: whether the copy of a collective's descriptor that another member was given differs from this module's, by the collective and the
member (log 74). -/
opaque copyDiffers : Nat → Nat → Bool

/-- R331: the lowest core-rail voltage and the mean process code of a die, as its sensors give them, by the clock and the die (log 75). -/
opaque railLow : Nat → Nat → BitVec 12
opaque processCode : Nat → Nat → BitVec 8

end Sys2Proof.Config
end

