-- ==== Sys2Proof/Machine/Bits.lean ====
section
/-! DEFINITION. Bit fields, lanes and byte strings: the notation of R3 and R4 that every meaning uses. -/

namespace Sys2Proof.Machine

/-- R3: `Bits(x, hi, lo)` of a natural number. -/
def bitsOf (x hi lo : Nat) : Nat := x / 2 ^ lo % 2 ^ (hi + 1 - lo)

/-- R3: bit `i` of a natural number. -/
def bitAt (x i : Nat) : Bool := Nat.testBit x i

/-- R3: `Sext(x, n)` as an integer. -/
def sextOf (x n : Nat) : Int :=
  let y := x % 2 ^ n
  if y < 2 ^ (n - 1) then (y : Int) else (y : Int) - (2 ^ n : Nat)

/-- R3: `Wrap_n` of an integer, as a natural number below `2^n`. -/
def wrapOf (n : Nat) (x : Int) : Nat := (x % ((2 ^ n : Nat) : Int)).toNat

/-- R4: the number that little-endian bytes hold. -/
def ofBytes : List (BitVec 8) → Nat
  | [] => 0
  | b :: bs => b.toNat + 256 * ofBytes bs

/-- R4: the `n` little-endian bytes of a number. -/
def toBytes : Nat → Nat → List (BitVec 8)
  | 0, _ => []
  | n + 1, x => BitVec.ofNat 8 x :: toBytes n (x / 256)

/-- R110: the value of lane `j` of a register. -/
def lane (x : Wide) (j : Nat) : Word := x.extractLsb' (32 * j) 32

/-- The number whose `n` 32-bit digits are `f 0 … f (n - 1)`. -/
def packLanes (f : Nat → Word) : Nat → Nat
  | 0 => 0
  | n + 1 => packLanes f n + (f n).toNat * 2 ^ (32 * n)

/-- A register from its lanes. -/
def wideOf (f : Nat → Word) : Wide := BitVec.ofNat 2048 (packLanes f 64)

/-- The number whose `n` bits are `f 0 … f (n - 1)`. -/
def packBits (f : Nat → Bool) : Nat → Nat
  | 0 => 0
  | n + 1 => packBits f n + (if f n then 2 ^ n else 0)

/-- A lane set from its members. -/
def lanesOf (f : Nat → Bool) : Lanes := BitVec.ofNat 64 (packBits f 64)

/-- The lanes of a group (R2). -/
def allLanes : List Nat := List.range Config.gwidth

/-- The members of a lane set, in ascending order. -/
def members (m : Lanes) : List Nat := allLanes.filter (fun j => m.getLsbD j)

/-- The lowest lane of a set; 0 when it is empty. -/
def lowest (m : Lanes) : Nat := (members m).headD 0

/-- The number of lanes of a set. -/
def count (m : Lanes) : Nat := (members m).length

/-- A register in which the lanes of `m` take `f` and the others keep `old`. -/
def laneWrite (m : Lanes) (f : Nat → Word) (old : Wide) : Wide :=
  wideOf (fun j => if m.getLsbD j then f j else lane old j)

/-- A lane set in which the lanes of `m` take `f` and the others take 0 (R144). -/
def predWrite (m : Lanes) (f : Nat → Bool) : Lanes := lanesOf (fun j => m.getLsbD j && f j)

/-- Steps one after another, each of which may have to wait. -/
def foldWaiting {α β : Type} (f : α → β → Option α) (l : List β) (a : α) : Option α := l.foldl (fun acc x => acc.bind (fun y => f y x)) (some a)

/-- Replaces every element that `p` holds of. -/
def updateWhere {α : Type} (p : α → Bool) (f : α → α) (l : List α) : List α :=
  l.map (fun x => if p x then f x else x)

/-- The sum of a list of integers. -/
def sumInt (l : List Int) : Int := l.foldl (· + ·) 0

/-- The greatest element of a list, or 0. -/
def maxNat (l : List Nat) : Nat := l.foldl Nat.max 0

/-- Inserts into a list that rises in the order `le`. -/
def insertBy {α : Type} (le : α → α → Bool) (x : α) : List α → List α
  | [] => [x]
  | y :: ys => if le x y then x :: y :: ys else y :: insertBy le x ys

/-- Sorts a list. -/
def sortBy {α : Type} (le : α → α → Bool) (l : List α) : List α := l.foldr (insertBy le) []

/-- `a` rounded up to a multiple of `n`. -/
def roundUp (a n : Nat) : Nat := (a + n - 1) / n * n

end Sys2Proof.Machine
end

