-- ==== Sys2Proof/Machine/State.lean ====
section
/-! DEFINITION. The state of the module as plain data. Every piece of state that spec/ names has one home here
(INVENTORY.md, "State", lists them with their rules and reset values). -/

namespace Sys2Proof.Machine

/-- Bytes by address: strictly rising addresses, no entry of value 0, which is what an unlisted byte reads as
(log 2). Device memory, scratchpads, court memory and host memory all have this form. -/
abbrev Mem := List Host.Cell

/-- Why the machine stops with a fault. No step and no meaning raises one: every condition of the spec is a trap,
an exception or a completion status, and takes a next state (safe). -/
inductive Fault where
  /-- The state is none that the module can be in; no meaning raises it (safe). -/
  | unreachable
  deriving DecidableEq, Repr

/-- Why an instruction is refused. -/
inductive Refusal where
  /-- Raised by `exec` for an instruction that has no meaning yet (safe). -/
  | notModelled (mnemonic : String)
  deriving DecidableEq, Repr

/-! ### The abstract memory machine (R210-R219) -/

/-- A byte address of the memory machine: device memory by its storage key (log 7), a team's scratchpad window by offset,
or a byte of a shade region by address space and virtual address (R187). -/
inductive Loc where
  | mem (key : Nat)
  | spad (team off : Nat)
  | region (root va : Nat)
  deriving DecidableEq, Repr

/-- The tag (G, S) of a synchronising write (R216): the writer's place in the scope tree, and the scope code (R179).
`outside` marks a host or the device writing at `.s`. -/
structure Tag where
  grp     : Nat
  team    : Nat
  core    : BitVec 10
  outside : Bool
  scope   : BitVec 3
  deriving DecidableEq, Repr

/-- A scope node (R211). -/
inductive Node where
  | grp (uid : Nat) | team (uid : Nat) | cluster (n : Nat) | die (n : Nat) | module | fabric
  deriving DecidableEq, Repr

/-- A performed write that stands in the visibility buffer of `node` (R210). `id` rises in the order of performing. -/
structure BufWrite where
  id     : Nat
  node   : Node
  loc    : Loc
  size   : Nat
  /-- The virtual address of a write to device memory. -/
  va     : Nat
  data   : BitVec 64
  /-- The instruction writes every byte of the sector (R171). -/
  full   : Bool
  tag    : Option Tag
  grp    : Nat
  serial : Nat
  deriving DecidableEq, Repr

/-- What an out-queue entry does when it performs (R213). An atomic carries its operation, its type and the modes captured at
issue (R229); `fence` is the acquire point of a fence (R219); `engine` is a command to dispatch. -/
inductive EntryKind where
  | load
  | store
  | atomic (op : BitVec 3) (ty : BitVec 2) (fmode : BitVec 64) (draw : BitVec 32)
  | cas (ty : BitVec 2)
  | fence
  | engine (cmd : Nat)
  /-- The release of a `spawn` whose threads stand in the bin of a kernel and an address space (R465). -/
  | spawn (key : BitVec 64) (root : Nat)
  /-- A `vserve`, whose message is read when it performs at its mailbox (R224, R309). -/
  | mailbox
  deriving DecidableEq, Repr

/-- An out-queue entry (R210, R213): one naturally aligned unit of up to 8 bytes of one lane. `mask` are the lanes whose later accesses come
after it in path order, which grow as its path merges (R215). `after` are the entries it is ordered after, `weak` those only through an
acquire point (R219). -/
structure Entry where
  id        : Nat
  serial    : Nat
  setter    : Bool
  mask      : Lanes
  lane      : Nat
  byteOff   : Nat
  kind      : EntryKind
  loc       : Loc
  size      : Nat
  /-- The virtual address of an access to device memory. -/
  va        : Nat
  /-- A contribution to a reduction window: its base, and the offset in it (R225, R237). -/
  win       : Option (Nat × Nat)
  data      : BitVec 64
  data2     : BitVec 64
  acq       : Option (BitVec 3)
  rel       : Option (BitVec 3)
  after     : List Nat
  weak      : List Nat
  overtaken : Bool
  reads     : List Tag
  full      : Bool
  deriving DecidableEq, Repr

/-- A mark in a group's path order that later entries are ordered by (R215): a rejoin, an acquire fence or a release fence. -/
inductive MarkKind where
  | join | acqFence (point : Nat) | relFence (scope : BitVec 3)
  deriving DecidableEq, Repr

/-- A mark with the serial at which it issued and the lanes of its path and of those that it has merged into. -/
structure Mark where
  serial : Nat
  setter : Bool
  mask   : Lanes
  kind   : MarkKind
  deriving DecidableEq, Repr

/-- A synchronising write that a load of the group has read, with the serial of the load, for fences (R219). -/
structure ReadTag where
  serial : Nat
  setter : Bool
  mask   : Lanes
  tag    : Tag
  deriving DecidableEq, Repr

/-! ### Instructions in flight (R172-R175) -/

/-- One returned piece of a load or an atomic: `size` bytes at `byteOff` of a lane's element. -/
structure Got where
  lane    : Nat
  byteOff : Nat
  size    : Nat
  data    : BitVec 64
  deriving DecidableEq, Repr

/-- Where a pending result goes. -/
inductive Dest where
  | none
  | v (d : Nat) (pair : Bool)
  | s (d : Nat)
  | a (d : Nat)
  | q (n : Nat)
  deriving DecidableEq, Repr

/-- An action on a block of an attention cache (R293): the address of the table entry, the entry as it stood and as it is to stand, the
directory, the format and the channels of its blocks, whether it is a promotion, whether the block is tracked after it (R297), and the lengths
to which its lanes then raise LEN, each with the address of its slot's word (R292). -/
structure KvAct where
  entry   : Nat
  old     : BitVec 64
  new     : BitVec 64
  root    : Nat
  base    : Nat
  fmt     : BitVec 2
  dim     : Nat
  promote : Bool
  track   : Bool
  raises  : List (Nat × Nat)
  /-- The migration-engine queue in which the command of a promotion stands, and its place there (R293). -/
  queue   : BitVec 5
  order   : Nat
  deriving DecidableEq, Repr

/-- A tracked K block (R297): its address space, its address, or its place on NVMe where it lies there, its format and its channels. -/
structure TrackedBlock where
  root : Nat
  va   : Nat
  nvme : Bool
  fmt  : BitVec 2
  dim  : Nat
  deriving DecidableEq, Repr

/-- The writable state registers (R84, R100, R101, R104, R111, R257). -/
structure Modes where
  fmode   : DWord
  gmode   : DWord
  fflags  : DWord
  sticky  : DWord
  rngseed : DWord
  rngctr  : DWord
  prioCap   : BitVec 3
  prioLevel : BitVec 3
  bintime : DWord
  deriving DecidableEq, Repr

/-- What an atomic that holds its stream for lanes on dark pages keeps until they have performed (R196, R197): the records of the lanes that
have failed, the lanes under a write-protect window, and the modes of its issue. -/
structure AtomHold where
  recs  : List (Nat × BitVec 8 × BitVec 64 × Bool)
  mig   : Lanes
  modes : Modes
  deriving DecidableEq, Repr

/-- What an instruction in flight waits for. -/
inductive FlightKind where
  /-- Loads and gathers: the memory type code T (R348), what has returned, and whether the dark tag is to be set (R206). -/
  | load (ty : BitVec 3) (got : List Got) (dark absorb : Bool)
  /-- Stores and scatters (R175). -/
  | store
  /-- `atom` and `cas`: 64-bit or not, what has returned, flags gathered (R229), and what it keeps while it holds its stream (R197). -/
  | atom (wide : Bool) (got : List Got) (flags : BitVec 64) (hold : Option AtomHold)
  /-- A CORDIC result on its way (R160). -/
  | cordic (result : Wide)
  /-- A copy command (R178). -/
  | copy (cmd : Nat)
  /-- A PME command or pass (R115, R134); `hold` = a `pmul` that holds hitter issue (R119). -/
  | engine (req : Nat) (hold : Bool)
  /-- A mailbox command (R308). -/
  | mailbox
  /-- `kvx` with lanes that are held for actions (R293): the row addresses of the lanes, the actions, and the lanes that faulted. -/
  | kv (vals : List (Nat × BitVec 64)) (acts : List KvAct) (recs : List (Nat × BitVec 8 × BitVec 64 × Bool))
  deriving DecidableEq, Repr

/-- An instruction in flight. `path` is its counter (R174); `done` says that it has completed but an older one on its path has
not (R175). -/
structure InFlight where
  serial : Nat
  path   : Option (BitVec 3)
  kind   : FlightKind
  dest   : Dest
  lanes  : Lanes
  pc     : DWord
  done   : Bool
  deriving DecidableEq, Repr

/-! ### Streams, slots and paths -/

/-- A path (R68): a program counter with the lanes that follow it. `waiting` = it waits at a `join`. -/
structure Path where
  pc      : DWord
  mask    : Lanes
  rejoin  : Option DWord
  waiting : Bool
  deriving DecidableEq, Repr

/-- An entry of the divergence stack (R70, R276). -/
inductive StackEntry where
  | record (rejoin : DWord) (union arrived : Lanes)
  | path (p : Path)
  deriving DecidableEq, Repr

/-- A trap that a slot or the setter holds until the handler takes it (R264, R268). `records` are (lane, cause, address, out).
`saved` and `detail` carry what the detail area and `replay` need. `order` is the order in which traps were raised (R271). -/
structure TrapWord where
  cause   : BitVec 8
  kind    : BitVec 2
  chain   : Bool
  pc      : DWord
  mask    : Lanes
  records : List (Nat × BitVec 8 × BitVec 64 × Bool)
  detail  : List Byte
  /-- Where the path goes on after the instruction, or after the chain's last member (R275). -/
  next    : DWord
  /-- The address of the instruction that raised it, for the records (R268). -/
  instr   : DWord
  order   : Nat
  deriving DecidableEq, Repr

/-- What the registers that an open latch chain has written would hold without it (R81): `v` registers each with its dark and its absorbing
tag, `s` registers and predicates. What anything else writes to them meanwhile goes in too. -/
structure Undo where
  vs : List (Nat × Wide × Bool × Bool)
  ss : List (Nat × DWord)
  ps : List (Nat × Lanes)
  deriving DecidableEq, Repr

/-- A latch chain (R80), with what a trap of a later member restores (R81) beside the registers of the group's `Undo`: the address and the
serial of the head, the latches the run has written, its draws, the RNGCTR value that each member saw, the lane result of each, and what it
left in flight. -/
structure Chain where
  headPc  : DWord
  serial  : Nat
  written : BitVec 4
  draws   : DWord
  rngs    : List (DWord × DWord)
  results : List (DWord × Wide)
  flights : List Nat
  deriving DecidableEq, Repr

/-- Flags that have been raised while a latch chain is open (R81, R105): by which port, by the instruction of which serial, in which lanes;
`whole` are those that no lane of a slot's instruction raised, and what FFLAGS held when a chain began. -/
structure FlagMark where
  port   : Option Port
  serial : Nat
  lanes  : List (Nat × BitVec 6)
  whole  : DWord
  deriving DecidableEq, Repr

/-- A replay under way (R269): the address at which it ends, and the full mask of the path. -/
structure Replay where
  last : DWord
  full : Lanes
  deriving DecidableEq, Repr

/-- The fields of a kernel record (R55). -/
structure KernelRec where
  hit    : DWord
  set    : DWord
  team   : Nat
  nprod  : Nat
  roleOn : Bool
  vprod  : Nat
  vcons  : Nat
  gpref  : Nat
  gfall  : Nat
  regs   : Nat
  spsize : Nat
  spimg  : DWord
  args   : List DWord
  deriving DecidableEq, Repr

/-- Where a task stands (R248, R249, R255). -/
inductive TaskStage where
  | waiting | queued | running | reclaiming | complete | cancelled
  deriving DecidableEq, Repr

/-- A task of the task tree (R252): a grid, or a group launched from a bin. -/
structure Task where
  id       : BitVec 40
  parent   : Option (BitVec 40)
  queue    : BitVec 6
  order    : Nat
  raised   : Nat
  prio     : BitVec 3
  stage    : TaskStage
  krec     : KernelRec
  root     : Nat
  nteams   : Nat
  placed   : Nat
  args     : List DWord
  seed     : DWord
  done     : DWord
  debug    : Bool
  region   : Bool
  /-- Device memory and the NVMe tier as they stood at the launch, for fetches (R336). -/
  code     : Mem
  codeNvme : Mem
  endedByHandler : Bool
  preempted : Bool
  hostWait : Option (Nat × Nat)
  /-- A group launched from a bin, and no grid. -/
  ofBin    : Bool
  deriving DecidableEq, Repr

/-- What a parked or held stream waits for (R79, R261). -/
inductive Wait where
  | running
  /-- KIND 3: waits to issue or for its effect; retried at its next turn. -/
  | other
  /-- `wait` (R177). -/
  | counter (path : BitVec 3) (thr : BitVec 32)
  /-- Waits for an allocation, which holds the hitter issue of the group (R197); retried at its next turn. -/
  | alloc
  /-- An atomic holds the hitter issue of the group until its lanes on dark pages have performed (R196, R197); the serial of the instruction. -/
  | atomic (serial : Nat)
  /-- `litscan` waits until its writes have performed (R203); the serial of the instruction. -/
  | scan (serial : Nat)
  /-- `shlit` or `shfade` waits at a page step (R200, R204): the base of the region, the page, the pages left, and whether the step has
  begun; retried at its next turn. -/
  | pages (base page left : Nat) (begun : Bool)
  /-- KIND 1: `bar.wait` (R234). -/
  | barrier (off : Nat) (token : BitVec 16)
  /-- KIND 2: a gang-wide command (R126), with its pairing count. -/
  | gang (count : Nat)
  /-- `acquire` (R360). -/
  | acquire
  /-- A write waits for a migration switch-over (R184): the page. -/
  | migrating
  /-- `cancel` waits for reclamation of a task (R255); the result and the destination. -/
  | reclaim (task : BitVec 40) (count : Nat) (dest : Dest)
  /-- `launch` waits for room in the queue of its record (R254): the task as it is to be, without an id, in the order in which launches
  began to wait (R247). -/
  | launch (task : Task) (dest : Dest)
  /-- `kvx` waits for the actions of its held lanes (R293); the serial of the instruction. -/
  | action (serial : Nat)
  /-- Waits for the handler to take the trap it holds (R271). -/
  | trapped
  deriving DecidableEq, Repr

/-- A PC slot of a group (R70, R276). -/
structure Slot where
  path    : Option Path
  latches : Vector (Option Wide) 4
  trap    : Option TrapWord
  rpl     : Lanes
  held    : List (Nat × DWord)
  chain   : Option Chain
  replay  : Option Replay
  firstFmode : DWord
  firstGmode : DWord
  /-- R269: the RNGCTR value of the first issue, for each instruction to replay by its address. -/
  firstRngs  : List (DWord × DWord)
  /-- R81: the lane result of the first issue, for each member of the chain to replay by its address. -/
  firstRes   : List (DWord × Wide)
  wait    : Wait
  deriving DecidableEq, Repr

/-! ### Groups -/

/-- What runs in a group record (R270, R273). -/
inductive GroupKind where
  | ordinary | handler | mcheck
  deriving DecidableEq, Repr

/-- Identity and placement of a group: the read-only state registers (R15, R60, R252) and what launch fixed. -/
structure Ident where
  uid       : Nat
  kind      : GroupKind
  present   : Bool
  task      : BitVec 40
  core      : BitVec 10
  locModule : BitVec 12
  gslot     : BitVec 5
  team      : Nat
  gidx      : BitVec 4
  ngrp      : BitVec 5
  role      : Bool
  teamId    : BitVec 32
  nteams    : BitVec 32
  gang      : Nat
  gangSize  : BitVec 4
  gangPos   : BitVec 2
  root      : Nat
  full      : Nat
  image     : Option Nat
  laneTask  : List (BitVec 40)
  deriving DecidableEq, Repr

/-- The register classes (R74), the dark tags (R206) and the allotment (R76). -/
structure Regs where
  v       : Vector Wide 128
  dark    : BitVec 128
  absorb  : BitVec 128
  s       : Vector DWord 64
  a       : Vector DWord 32
  aLaunch : Vector DWord 32
  p       : Vector Lanes 8
  allot   : Nat
  deriving DecidableEq, Repr

/-- The registers through which the handler slot reads the trap it handles (R272). `entry` is RPLMASK as it stood at the entry,
`trapped` the uid of the group the entry concerns, `port` which of its streams, `notice` that it is a notice. -/
structure TrapRegs where
  trapcs  : DWord
  trappc  : DWord
  trapimg : DWord
  trapgrp : DWord
  rplmask : Lanes
  entry   : Lanes
  trapped : Nat
  notice  : Bool
  port    : Port
  deriving DecidableEq, Repr

/-- A group (R57), a handler run or a machine-check run. A set-queue entry carries the setter serial of its push (R67). -/
structure Group where
  id        : Ident
  regs      : Regs
  modes     : Modes
  slot0     : Slot
  slot1     : Slot
  stack     : List StackEntry
  /-- The lanes that have exited (R68, R395). -/
  exited    : Lanes
  setPc     : DWord
  setExited : Bool
  setTrap   : Option TrapWord
  setWait   : Wait
  queues    : Vector (List (DWord × Nat)) 8
  qhead     : Vector (BitVec 4) 8
  trapRegs  : TrapRegs
  age       : Nat
  serial    : Nat
  outq      : List Entry
  marks     : List Mark
  readTags  : List ReadTag
  horizon   : Nat
  inflight  : List InFlight
  flagMarks : List FlagMark
  /-- What the chain of each slot has to restore (R81). -/
  undo0     : Undo
  undo1     : Undo
  pairs     : Nat
  /-- The token of the latest arrival at each barrier word, by offset (R261). -/
  arrivals  : List (Nat × BitVec 16)
  /-- The clocks for which a PC slot, and for which the setter, has been ready without an issue (R259, log 6). -/
  ready     : Nat
  readySet  : Nat
  ended     : Bool
  stopped   : Bool
  /-- Its lines have left the register cache and stand in its context image (R260, R278). -/
  spilled   : Bool
  deriving DecidableEq, Repr

/-- A leaf entry of a page table (R164): the page, its size, its interleave code, its bits, and the address of the entry. -/
structure Leaf where
  page : Nat
  size : Nat
  code : BitVec 3
  mig  : Bool
  x    : Bool
  w    : Bool
  r    : Bool
  pte  : Nat
  deriving DecidableEq, Repr

/-- An entry of a core's translation cache (R166). -/
structure TlbEntry where
  core : BitVec 10
  root : Nat
  base : Nat
  leaf : Leaf
  deriving DecidableEq, Repr

/-! ### Teams, tasks and queues (R246-R252) -/

/-- A team (R58) with its scratchpad window (R251). -/
structure Team where
  uid     : Nat
  task    : BitVec 40
  teamId  : BitVec 32
  core    : BitVec 10
  base    : Nat
  size    : Nat
  spad    : Mem
  saved   : Option Nat
  deriving DecidableEq, Repr

/-- A host CANCEL whose reclamation is under way (R255, R325). -/
structure HostCancel where
  task  : BitVec 40
  count : Nat
  pair  : Nat
  sseq  : BitVec 32
  deriving DecidableEq, Repr

/-- A thread in a spawn bin (R82). -/
structure Thread where
  v0     : Word
  parent : BitVec 40
  prio   : BitVec 3
  tag    : Tag
  /-- The entry of its `spawn` in the out-queue of the spawning group (R465). -/
  entry  : Nat
  /-- The `BINTIME.TICKS` of its spawner (R83). -/
  ticks  : BitVec 32
  deriving DecidableEq, Repr

/-- A spawn bin of a die, keyed by the kernel and its address space (R83). -/
structure Bin where
  die     : Nat
  key     : BitVec 64
  root    : Nat
  krec    : KernelRec
  threads : List Thread
  ticks   : BitVec 32
  deriving DecidableEq, Repr

/-! ### Shade regions, pools, copies, migration (R178-R208) -/

/-- A lit page of a region (R199). Its bitmap is the comparison of its sectors with the shade image. -/
structure LitPage where
  index     : Nat
  phys      : Nat
  held      : Bool
  candidate : Bool
  /-- The group whose store has lit the page, has still to write it, and waits for another allocation (R197, R199). -/
  lighter   : Option Nat
  deriving DecidableEq, Repr

/-- A shade region (R188). -/
structure Region where
  root    : Nat
  base    : Nat
  size    : Nat
  esz     : Nat
  shade   : BitVec 64
  absorb  : Bool
  pool    : BitVec 8
  fade    : BitVec 2
  creator : Option (BitVec 40)
  lit     : List LitPage
  /-- The region has left the region table and its translated accesses still perform (R483); the queue pair whose REGION_DEL waits for them. -/
  gone    : Bool
  deleter : Option Nat
  deriving DecidableEq, Repr

/-- A backing pool (R190, R485). -/
structure Pool where
  num  : BitVec 8
  code : Option (BitVec 3)
  free : List Nat
  deriving DecidableEq, Repr

/-- A copy descriptor (R179). -/
structure CopyDesc where
  src   : DWord
  dst   : DWord
  idx   : DWord
  srcSp : Bool
  dstSp : Bool
  idxSp : Bool
  acq   : Bool
  rel   : Bool
  scope : BitVec 3
  dims  : List (Nat × Int × Int)
  deriving DecidableEq, Repr

/-- A copy command (R178-R183). `pos` is the visit ordinal, `holding` the byte read and not yet written. -/
structure CopyCmd where
  id       : Nat
  grp      : Nat
  team     : Nat
  serial   : Nat
  engine   : Nat
  gather   : Bool
  root     : Nat
  desc     : CopyDesc
  /-- The entries that its release writes are ordered after (R222). -/
  after    : List Nat
  base     : Nat
  pos      : Nat
  holding  : Option Byte
  fault    : Option (BitVec 8 × Int × Nat)
  dispatched : Bool
  deriving DecidableEq, Repr

/-- A copy fault a group has still to take (R182). -/
structure CopyFault where
  grp     : Nat
  serial  : Nat
  cause   : BitVec 8
  addr    : Int
  ordinal : Nat
  deriving DecidableEq, Repr

/-- A page move under way (R184, R185). -/
structure Migration where
  id       : Nat
  queue    : BitVec 5
  cmd      : MigCommand
  pte      : Nat
  oldPhys  : Nat
  oldCode  : BitVec 3
  /-- The move uses a write-protect window. -/
  window   : Bool
  /-- The bitmap of the lines that are copied, and the line that is being copied (R185). -/
  bitmap   : Nat
  copying  : Option Nat
  deriving DecidableEq, Repr

/-! ### The matrix engine (R123-R143) -/

/-- A format block (R128). -/
structure FormatBlock where
  pfmt : BitVec 8
  qfmt : BitVec 8
  pblk : Nat
  qblk : Nat
  pa   : Nat
  qa   : Nat
  pscf : BitVec 8
  qscf : BitVec 8
  pscale : Nat
  qscale : Nat
  acc  : BitVec 8
  rnd  : BitVec 8
  deriving DecidableEq, Repr

/-- The gang-wide commands (R126). -/
inductive PassOp where
  | mma | mmaSp | mmd | mmdLd
  deriving DecidableEq, Repr

/-- A block scale (R95, R130): m * 2^e, or NaN; `bad` = its word has a bit above the third field set. -/
inductive Scale where
  | val (m : Nat) (e : Int)
  | nan (bad : Bool)
  deriving DecidableEq, Repr

/-- What one member brings to a gang-wide command, all read at issue (R124, R426): its operand registers, their absorbing tags
(R207), its scales, its modes and its random state (R132). -/
structure Member where
  op     : PassOp
  row0   : Nat
  col0   : Nat
  drow   : Nat
  block  : FormatBlock
  pos    : Nat
  size   : Nat
  mask   : Lanes
  p      : List Wide
  q      : List Wide
  pAbs   : List Bool
  qAbs   : List Bool
  pScale : List Scale
  qScale : List Scale
  fmode  : DWord
  seed   : DWord
  count  : DWord
  glid0  : BitVec 32
  deriving DecidableEq, Repr

/-- What a PME request does (R115, R134, R140). `result` is a whole-register result computed from sources read at issue, with its
FFLAGS, whether a guard overflow occurred and is to trap (R119), and whether it takes a multiplier (R115). A `drain` holds the number of
words that it has written and the entries that its writes are ordered after (R217, R222). -/
inductive PmeCmd where
  | result (regs : List (Nat × Wide)) (flags : BitVec 64) (govf trap mul : Bool)
  | acz (row col : Nat)
  | acrd (d row col : Nat) (mask : Lanes)
  | acwr (row col : Nat) (mask : Lanes) (x : Wide)
  | drain (row col spad : Nat) (turned : Bool) (pos : Nat) (after : List Nat)
  | pass (gang gidx count : Nat) (m : Member)
  deriving DecidableEq, Repr

/-- A request in a PME's reservation table (R143). -/
structure PmeReq where
  id      : Nat
  pme     : Nat
  grp     : Nat
  team    : Nat
  serial  : Nat
  core    : BitVec 10
  level   : BitVec 3
  order   : Nat
  grants  : Nat
  granted : Bool
  checked : Bool
  /-- The request has left the out-queue of its group (R213). -/
  dispatched : Bool
  cmd     : PmeCmd
  deriving DecidableEq, Repr

/-! ### Courts and mailboxes (R301-R317) -/

/-- A loaded court object (R52): the contents of its sections. -/
structure CourtObject where
  va     : DWord
  text   : List Byte
  rodata : List Byte
  data   : List Byte
  bss    : Nat
  deriving DecidableEq, Repr

/-- A court (R301, R302): one hart, its memory and what bounds it. -/
structure Court where
  obj     : CourtObject
  rule    : BitVec 2
  mem     : Nat
  cycles  : Nat
  time    : Nat
  x       : Vector DWord 32
  f       : Vector DWord 32
  fcsr    : BitVec 8
  pc      : DWord
  resv    : Option (Nat × Nat)
  ram     : Mem
  running : Bool
  used    : Nat
  hart    : Option (BitVec 5)
  deriving DecidableEq, Repr

/-- A message (R306). -/
structure Message where
  status  : BitVec 32
  gen     : BitVec 32
  step    : BitVec 32
  payload : List Byte
  deriving DecidableEq, Repr

/-- A mailbox command that waits to perform (R309, R310): a `vserve` with its entry, or a `vcatch` with the entries that touch its bytes
before it. -/
structure MboxCmd where
  serve  : Bool
  grp    : Nat
  team   : Nat
  serial : Nat
  setter : Bool
  task   : BitVec 40
  off    : Nat
  dest   : Dest
  entry  : Nat
  after  : List Nat
  deriving DecidableEq, Repr

/-- An open step (R309, R312). -/
structure OpenStep where
  step    : BitVec 32
  gen     : BitVec 32
  adopted : Bool
  deriving DecidableEq, Repr

/-- A volley mailbox (R302-R317); one that is absent from the list is unbound and empty. -/
structure Mailbox where
  die    : BitVec 4
  num    : BitVec 8
  court  : Option Court
  ended  : Bool
  owner  : Option (BitVec 40)
  gen    : BitVec 32
  next   : BitVec 32
  opened : Option OpenStep
  obs    : List Message
  cmds   : List MboxCmd
  action : Mem
  obsBuf : Mem
  deriving DecidableEq, Repr

/-! ### Windows, collectives, host link, health -/

/-- An open reduction window (R236). `closed` = this module has closed it and its status is not yet written (R240). `arrived` are the
contributions of other members that wait for their epoch, by offset and member (R239), and `away` the bytes that merges have written where
HOME is another module (R237). -/
structure Window where
  id     : Nat
  base   : Nat
  size   : Nat
  op     : BitVec 4
  home   : Nat
  first  : Nat
  nmem   : Nat
  status : DWord
  absent : List Nat
  epochs : Nat
  partialEpoch : Bool
  closed : Bool
  arrived : List (Nat × Nat × BitVec 32)
  away   : List (Nat × Byte)
  deriving DecidableEq, Repr

/-- A contribution of this module that waits in its merge slot (R225, R237). -/
structure Contribution where
  base : Nat
  off  : Nat
  data : BitVec 32
  grp  : Nat
  serial : Nat
  root : Nat
  deriving DecidableEq, Repr

/-- A ring collective under way (R241). -/
structure Collective where
  id     : Nat
  kind   : BitVec 4
  rnd    : BitVec 3
  nmem   : Nat
  first  : Nat
  chunk  : Nat
  seed   : BitVec 64
  maskVa : DWord
  status : DWord
  dst    : DWord
  src    : DWord
  absent : List Nat
  written : List (Nat × List Nat)
  deriving DecidableEq, Repr

/-- A chunk that this member has passed on to the next one (R242). -/
structure Passed where
  coll : Nat
  chunk : Nat
  next : Nat
  data : List (BitVec 16)
  contributed : List Nat
  deriving DecidableEq, Repr

/-- A completion that waits for ring room (R325). -/
structure Completion where
  pair   : Nat
  result : BitVec 48
  op     : BitVec 8
  status : BitVec 8
  sseq   : BitVec 32
  deriving DecidableEq, Repr

/-- The registers of a host queue pair (R321), with the ring indexes of its consumer and its producer, and the number of completion
entries that the host has not passed (R325). -/
structure QueuePair where
  num   : Nat
  sqb   : DWord
  cqb   : DWord
  cq    : BitVec 4
  sq    : BitVec 4
  tail  : BitVec 12
  head  : BitVec 12
  cmp   : BitVec 32
  sub   : BitVec 32
  stall : Bool
  take  : Nat
  put   : Nat
  held  : Nat
  deriving DecidableEq, Repr

/-- The handler record and the handler slot of a core (R270, R271, R273). -/
structure CoreCtl where
  core    : BitVec 10
  root    : Nat
  handler : DWord
  mcheck  : DWord
  /-- The error records that await a notice entry (R281), each with its place in the order of traps. -/
  notices : List (Nat × Nat)
  halted  : Bool
  /-- A handler fault that awaits its machine check (R273): the cause. -/
  mcheckCause : Option (BitVec 8)
  /-- The group that the machine check concerns, where it is not the one of the handler run (R273). -/
  mcheckGroup : Option Nat
  deriving DecidableEq, Repr

/-- The context pool (R484). -/
structure CtxPool where
  pbase : Nat
  vbase : DWord
  nimg  : Nat
  nsave : Nat
  deriving DecidableEq, Repr

/-- A debug block that is attached (R284), with what it records (R282): the next ORDER, the entries in the log, the number of the next
checkpoint, the bytes used in the checkpoint area, the sectors accessed since the checkpoint with their parties (twice the party, plus 1 for
a write; party 0 is outside the module's groups), the sectors whose prior contents are kept, and whether a checkpoint is due. -/
structure DebugBlock where
  task   : BitVec 40
  ckpt   : Nat
  cksz   : Nat
  period : Nat
  logn   : Nat
  log    : Nat
  order  : Nat
  inLog  : Nat
  number : Nat
  used   : Nat
  touched : List (Loc × List Nat)
  saved  : List Loc
  due    : Bool
  /-- The checkpoint area has not been able to keep a sector since the last checkpoint (R284). -/
  full   : Bool
  recording : Bool
  deriving DecidableEq, Repr

/-- A die's monitor summary (R331) and error-ring address (R333). -/
structure DieCtl where
  die   : BitVec 4
  ring  : Option Nat
  rdevt : BitVec 16
  proc  : BitVec 8
  thr   : BitVec 2
  vmin  : BitVec 12
  tmax  : BitVec 12
  deriving DecidableEq, Repr

/-- The ways on which data leaves the module (R170). -/
inductive Way where
  | host
  | ethernet
  | nvme
  deriving DecidableEq, Repr

/-- A transfer out of the module, and whether it completed with HALO_ERR (R170): a host read or an Ethernet send with its bytes, or a copy out
to NVMe, whose bytes stand there. -/
structure Outward where
  way      : Way
  addr     : Nat
  bytes    : List Byte
  haloErr  : Bool
  deriving DecidableEq, Repr

/-- Which agent moves next: a port of a group issues, or a happening of the table takes place. -/
inductive Turn where
  | issue (grp : Nat) (port : Port)
  | happen (ev : Instr)
  deriving DecidableEq, Repr

/-- The state of the module. -/
structure State where
  /-- The group at the issue port (the model's own view: every other group stands in `others`), and which of its ports issues. -/
  g        : Group
  port     : Port
  others   : List Group
  agenda   : List Turn
  clock    : Nat
  /-- The ports that have had the first of their core's two datapaths in its current clock (R85, R259): core, group, port. -/
  datapaths : List (BitVec 10 × Nat × Port)
  nextUid  : Nat
  nextTrap : Nat
  /-- Device memory by storage key, its poisoned sectors (R171), the sectors that an ECC read finds uncorrectable (R171), the sectors that carry
  a halo which is not made from their bytes, with it (R170), and the tags of synchronising writes at home (R216). -/
  mem      : Mem
  poison   : List Nat
  failing  : List Nat
  halos    : List (Nat × BitVec 16)
  homeTags : List (Loc × Tag)
  bufs     : List BufWrite
  tlb      : List TlbEntry
  hostMem  : Mem
  /-- The NVMe tier by byte location (R167, R287), and the pages that lie there: address space, VA and location. -/
  nvme     : Mem
  nvmeAt   : List (Nat × Nat × Nat)
  teams    : List Team
  tasks    : List Task
  nextSeq  : BitVec 34
  cancels  : List HostCancel
  bins     : List Bin
  regions  : List Region
  pools    : List Pool
  copies   : List CopyCmd
  faults   : List CopyFault
  migs     : List Migration
  /-- Tracked K blocks (R297), and the directories that `kvfork` has used, for cancellation (R296). -/
  tracked  : List TrackedBlock
  kvDirs   : List (Nat × Nat)
  /-- Accumulator words that are not zero, by PME x 2^20 + row x 1024 + column (R141), and resident-buffer words (R138) by
  PME x 2^16 + u x 256 + v. -/
  acc      : List (Nat × Word)
  resident : List (Nat × BitVec 16)
  pme      : List PmeReq
  courtObjs : List CourtObject
  /-- The regions of loaded objects that have not been launched yet (R50). -/
  loadRegions : List Region
  mailboxes : List Mailbox
  windows  : List Window
  contribs : List Contribution
  colls    : List Collective
  passed   : List Passed
  pairs    : List QueuePair
  completions : List Completion
  cores    : List CoreCtl
  ctxPool  : Option CtxPool
  images   : List Nat
  saves    : List Nat
  recorders : List DebugBlock
  dies     : List DieCtl
  outward  : List Outward
  /-- `BOOTST` fields and `BOOTFAIL` (R329), the image that the ROM checks (R327), the attestation log (R330), the MODULE number (R15), and
  thermal stop (R331). -/
  bootStage  : BitVec 8
  bootImage  : Option FirmwareImage
  bootReason : BitVec 8
  bootFail   : BitVec 18
  attestLog  : List (BitVec 32 × BitVec 384)
  module   : BitVec 12
  stopped  : Bool
  deriving DecidableEq, Repr

/-! ### Reset -/

/-- An empty PC slot (R76, R79: latches cleared). -/
def Slot.empty : Slot where
  path := none
  latches := Vector.replicate 4 none
  trap := none
  rpl := 0
  held := []
  chain := none
  replay := none
  firstFmode := 0
  firstGmode := 0
  firstRngs := []
  firstRes := []
  wait := .running

/-- No chain is open. -/
def Undo.none : Undo where
  vs := []
  ss := []
  ps := []

/-- Registers as they stand at launch before the arguments: zero, with `p7` all-ones (R74, R76). -/
def Regs.launch : Regs where
  v := Vector.replicate 128 0
  dark := 0
  absorb := 0
  s := Vector.replicate 64 0
  a := Vector.replicate 32 0
  aLaunch := Vector.replicate 32 0
  p := (Vector.replicate 8 0).set 7 (BitVec.allOnes 64)
  allot := 24

/-- State registers at launch (R6): the Reset columns of R84, R100, R101, R104, R111. -/
def Modes.launch : Modes where
  fmode := 0
  gmode := 0
  fflags := 0
  sticky := 0
  rngseed := 0
  rngctr := 0
  prioCap := 0
  prioLevel := 0
  bintime := 200

/-- The handler registers outside the handler slot read as zero (R272). -/
def TrapRegs.zero : TrapRegs where
  trapcs := 0
  trappc := 0
  trapimg := 0
  trapgrp := 0
  rplmask := 0
  entry := 0
  trapped := 0
  notice := false
  port := .slot0

/-- The identity of no group. -/
def Ident.none : Ident where
  uid := 0
  kind := .ordinary
  present := false
  task := 0
  core := 0
  locModule := 0
  gslot := 0
  team := 0
  gidx := 0
  ngrp := 1
  role := false
  teamId := 0
  nteams := 1
  gang := 0
  gangSize := 1
  gangPos := 0
  root := 0
  full := 24
  image := .none
  laneTask := []

/-- A group record as it stands at launch, before its identity, paths and arguments are set (R6, R76). -/
def Group.launch : Group where
  id := Ident.none
  regs := Regs.launch
  modes := Modes.launch
  slot0 := Slot.empty
  slot1 := Slot.empty
  stack := []
  exited := 0
  setPc := 0
  setExited := true
  setTrap := none
  setWait := .running
  queues := Vector.replicate 8 []
  qhead := Vector.replicate 8 0
  trapRegs := TrapRegs.zero
  age := 0
  serial := 1
  outq := []
  marks := []
  readTags := []
  horizon := 0
  inflight := []
  flagMarks := []
  undo0 := Undo.none
  undo1 := Undo.none
  pairs := 0
  arrivals := []
  ready := 0
  readySet := 0
  ended := false
  stopped := false
  spilled := false

/-- A host queue pair at module reset (R321). -/
def QueuePair.reset (n : Nat) : QueuePair where
  num := n
  sqb := 0
  cqb := 0
  cq := 4
  sq := 4
  tail := 0
  head := 0
  cmp := 0
  sub := 0
  stall := false
  take := 0
  put := 0
  held := 0

/-- The module right after reset (R6, R327): the boot ROM has not run, no group exists, every ring and queue is empty. -/
def State.reset : State where
  g := Group.launch
  port := .slot0
  others := []
  agenda := []
  clock := 0
  datapaths := []
  nextUid := 1
  nextTrap := 1
  mem := []
  poison := []
  failing := []
  halos := []
  homeTags := []
  bufs := []
  tlb := []
  hostMem := []
  nvme := []
  nvmeAt := []
  teams := []
  tasks := []
  nextSeq := 1
  cancels := []
  bins := []
  regions := []
  pools := []
  copies := []
  faults := []
  migs := []
  tracked := []
  kvDirs := []
  acc := []
  resident := []
  pme := []
  courtObjs := []
  loadRegions := []
  mailboxes := []
  windows := []
  contribs := []
  colls := []
  passed := []
  pairs := (List.range 16).map QueuePair.reset
  completions := []
  cores := []
  ctxPool := none
  images := []
  saves := []
  recorders := []
  dies := []
  outward := []
  bootStage := 0
  bootImage := none
  bootReason := 0
  bootFail := 0
  attestLog := []
  module := 0
  stopped := false

end Sys2Proof.Machine
end

