-- ==== Sys2Proof/Machine/Memory.lean ====
section
/-! DEFINITION. Bytes of memory, the storage key of an address, the page-table walk, regions and home values
(R162-R173, R187-R189, R195, R212). -/

namespace Sys2Proof.Machine

/-! ### Bytes by address -/

/-- The byte at an address; an unlisted one reads 0 (log 2). -/
def Memory.read : Mem → Nat → Byte
  | [], _ => 0
  | (k, b) :: m, a => if k = a then b else Memory.read m a

/-- Writes one byte, keeping the canonical form. -/
def Memory.write : Mem → Nat → Byte → Mem
  | [], a, b => if b = 0 then [] else [(a, b)]
  | (k, c) :: m, a, b =>
    if a < k then (if b = 0 then (k, c) :: m else (a, b) :: (k, c) :: m)
    else if a = k then (if b = 0 then m else (k, b) :: m)
    else (k, c) :: Memory.write m a b

/-- Every address from `lo` on is rising and no entry is 0. -/
def Memory.wfFrom (lo : Nat) : Mem → Bool
  | [] => true
  | (k, b) :: m => decide (lo ≤ k) && decide (b ≠ 0) && Memory.wfFrom (k + 1) m

/-- The canonical form: strictly rising addresses, no entry of value 0. -/
def Memory.wf (m : Mem) : Bool := Memory.wfFrom 0 m

/-- The `n` bytes from an address. -/
def Memory.readBytes (m : Mem) (a : Nat) : Nat → List Byte
  | 0 => []
  | n + 1 => Memory.read m a :: Memory.readBytes m (a + 1) n

/-- The little-endian number in `n` bytes (R4). -/
def Memory.readNat (m : Mem) (a n : Nat) : Nat := ofBytes (Memory.readBytes m a n)

/-- Writes bytes from an address upward. -/
def Memory.writeBytes (m : Mem) (a : Nat) : List Byte → Mem
  | [] => m
  | b :: bs => Memory.writeBytes (Memory.write m a b) (a + 1) bs

/-- Writes the `n` little-endian bytes of a number (R4). -/
def Memory.writeNat (m : Mem) (a n v : Nat) : Mem := Memory.writeBytes m a (toBytes n v)

/-! ### Trap causes (R267) -/

/-- The causes of R267, R291 and R308 by their codes. -/
abbrev Cause := BitVec 8

def Cause.illegal : Cause := 0x01#8
def Cause.regUnallotted : Cause := 0x02#8
def Cause.latchInvalid : Cause := 0x03#8
def Cause.queueEmpty : Cause := 0x04#8
def Cause.queueDiverged : Cause := 0x05#8
def Cause.noRejoin : Cause := 0x06#8
def Cause.divOverflow : Cause := 0x07#8
def Cause.uniformMiss : Cause := 0x08#8
def Cause.modeDiverged : Cause := 0x09#8
def Cause.barDiverged : Cause := 0x0A#8
def Cause.barWord : Cause := 0x0B#8
def Cause.badSpawn : Cause := 0x0C#8
def Cause.launchDesc : Cause := 0x0D#8
def Cause.cancelDenied : Cause := 0x0E#8
def Cause.waitCycle : Cause := 0x0F#8
def Cause.software : Cause := 0x10#8
def Cause.pitchMode : Cause := 0x20#8
def Cause.guardOvf : Cause := 0x21#8
def Cause.mmaHandle : Cause := 0x22#8
def Cause.mmaDesc : Cause := 0x23#8
def Cause.mmaSparse : Cause := 0x24#8
def Cause.mmaMismatch : Cause := 0x25#8
def Cause.gangBroken : Cause := 0x26#8
def Cause.badVa : Cause := 0x30#8
def Cause.notMapped : Cause := 0x31#8
def Cause.badPte : Cause := 0x32#8
def Cause.permission : Cause := 0x33#8
def Cause.badPa : Cause := 0x34#8
def Cause.misaligned : Cause := 0x35#8
def Cause.poison : Cause := 0x36#8
def Cause.shadeFull : Cause := 0x37#8
def Cause.windowOp : Cause := 0x38#8
def Cause.migrating : Cause := 0x39#8
def Cause.copyDesc : Cause := 0x40#8
def Cause.copyFault : Cause := 0x41#8
def Cause.regionPriv : Cause := 0x42#8
def Cause.regionDesc : Cause := 0x43#8
def Cause.shadeArg : Cause := 0x44#8
def Cause.regionNone : Cause := 0x45#8
def Cause.memerrAsync : Cause := 0x60#8

/-! ### Physical addresses -/

/-- R167: the tier of a physical address; `none` where the map is reserved or holds device registers. -/
def tierOf (pa : Nat) : Option (BitVec 2) :=
  if pa ≤ 0x0_00FF_FFFF_FFFF then some 0
  else if 0x0_0200_0000_0000 ≤ pa ∧ pa ≤ 0x0_03FF_FFFF_FFFF then some 1
  else if 0x0_4000_0000_0000 ≤ pa ∧ pa ≤ 0x0_7FFF_FFFF_FFFF then some 2
  else none

/-- R173: the stack of an HBM address under an interleave code. -/
def stackOf (code : BitVec 3) (pa : Nat) : Nat :=
  if code.toNat < 4 then bitsOf pa (2 * code.toNat + 11) (2 * code.toNat + 8) else bitsOf pa 39 36

/-- R173: the stack-local address of an HBM address under an interleave code. -/
def localOf (code : BitVec 3) (pa : Nat) : Nat :=
  if code.toNat < 4 then
    pa % 2 ^ (2 * code.toNat + 8) + pa / 2 ^ (2 * code.toNat + 12) * 2 ^ (2 * code.toNat + 8)
  else pa % 2 ^ 36

/-- R173: the storage location a physical address names, written as the address that names it under code 0 (log 7). -/
def storageKey (code : BitVec 3) (pa : Nat) : Nat :=
  if tierOf pa = some 0 then
    let l := localOf code pa
    l % 256 + 256 * stackOf code pa + 4096 * (l / 256)
  else pa

/-- R173: the channel and the bank group of an HBM address in its stack, under an interleave code. -/
def channelOf (code : BitVec 3) (pa : Nat) : Nat × Nat :=
  let l := localOf code pa
  match code.toNat with
  | 5 => (bitsOf pa 20 16, bitsOf pa 9 8)
  | 6 => (bitsOf pa 20 16, bitsOf pa 13 12)
  | 7 => (bitsOf pa 20 16, bitsOf pa 22 21)
  | _ => (bitsOf l 12 8, bitsOf l 14 13)

/-- R173: the package of an LPDDR address: 256-byte runs over 32 packages, the first one at the start of the tier (DESIGN CHOICE, log 73). -/
def packageOf (pa : Nat) : Nat := (pa - 0x0_0200_0000_0000) / 256 % 32

/-- R23: the home die of a sector: the stack of an HBM address, and rotating 256-byte runs for the other tiers. -/
def homeDie (key : Nat) : Nat := bitsOf key 11 8

/-! ### The page-table walk -/

/-- What a translation needs (R165). -/
inductive Access where
  | read | write | fetch
  deriving DecidableEq, Repr

/-- R164: a leaf entry as its fields. -/
def leafOf (pte page size entry : Nat) : Leaf where
  page := page
  size := size
  code := BitVec.ofNat 3 (bitsOf pte 63 61)
  mig := bitAt pte 5
  x := bitAt pte 4
  w := bitAt pte 3
  r := bitAt pte 2
  pte := entry

/-- R163: the levels from the root, each with the lowest index bit, the index width, and the table size of the next level. -/
def walkLevels : List (Nat × Nat × Nat) := [(39, 17, 4096), (30, 9, 4096), (21, 9, 256), (16, 5, 1)]

/-- R163-R165: the walk from a table through the levels that are left. Tables are read as home bytes under interleave code 0, without poison
or tier (DESIGN CHOICE, log 82). -/
def walkFrom (m : Mem) (va : Nat) : List (Nat × Nat × Nat) → Nat → Except Cause Leaf
  | [], _ => .error Cause.badPte
  | (lo, n, next) :: rest, table =>
    let entry := table + 8 * (va / 2 ^ lo % 2 ^ n)
    let pte := Memory.readNat m entry 8
    let addr := bitsOf pte 51 8 * 256
    if bitAt pte 0 = false then .error Cause.notMapped
    else if bitsOf pte 60 52 ≠ 0 ∨ bitsOf pte 7 6 ≠ 0 then .error Cause.badPte
    else if bitAt pte 1 then
      if lo = 39 ∨ addr % 2 ^ lo ≠ 0 then .error Cause.badPte
      else .ok (leafOf pte addr (2 ^ lo) entry)
    else if bitsOf pte 63 61 ≠ 0 ∨ lo = 16 ∨ addr % next ≠ 0 then .error Cause.badPte
    else walkFrom m va rest addr

/-- R163: the leaf entry of a virtual address in the address space of a root table. -/
def walk (m : Mem) (root va : Nat) : Except Cause Leaf := walkFrom m va walkLevels root

/-- R165: the access needs its permission bit. -/
def Leaf.allows (l : Leaf) : Access → Bool
  | .read => l.r
  | .write => l.w
  | .fetch => l.x

/-- The physical address that a leaf gives a virtual address. -/
def Leaf.physical (l : Leaf) (va : Nat) : Nat := l.page + va % l.size

/-- What a translated address names. -/
inductive Target where
  | region (root va : Nat)
  | phys (pa : Nat) (leaf : Leaf)
  deriving DecidableEq, Repr

/-- The byte of the memory machine that a target names. -/
def Target.loc : Target → Loc
  | .region root va => .region root va
  | .phys pa l => .mem (storageKey l.code pa)

/-- R187: the region of an address space that holds an address, as translations find it. -/
def State.regionAt (s : State) (root va : Nat) : Option Region :=
  s.regions.find? (fun r => r.root == root && !r.gone && decide (r.base ≤ va) && decide (va < r.base + r.size))

/-- R483: the region whose bytes an access that was translated through it names. -/
def State.regionOf (s : State) (root va : Nat) : Option Region :=
  s.regions.find? (fun r => r.root == root && decide (r.base ≤ va) && decide (va < r.base + r.size))

/-- R166: the leaf that a core uses: its cached entry where that is still current or the core may still use it, else the walk. -/
def State.leafFor (s : State) (core : Option (BitVec 10)) (root va : Nat) : Except Cause Leaf :=
  let now := walk s.mem root va
  match s.tlb.find? (fun e => decide (some e.core = core) && e.root == root && decide (e.base ≤ va) &&
      decide (va < e.base + e.leaf.size)) with
  | none => now
  | some e => if now = .ok e.leaf then now
    else if Config.staleTranslation s.clock (va / 65536) then .ok e.leaf else now

/-- R162-R167, R187: a translation. `core = none` is an engine, which keeps no translation cache. -/
def State.translate (s : State) (core : Option (BitVec 10)) (root : Nat) (va : Int) (acc : Access) :
    Except Cause Target :=
  if va < 0 ∨ (2 ^ 56 : Nat) ≤ va then .error Cause.badVa
  else match s.regionAt root va.toNat with
    | some _ => if acc = .fetch then .error Cause.permission else .ok (.region root va.toNat)
    | none => match s.leafFor core root va.toNat with
      | .error c => .error c
      | .ok l =>
        if l.allows acc = false then .error Cause.permission
        else if tierOf (l.physical va.toNat) = none then .error Cause.badPa
        else .ok (.phys (l.physical va.toNat) l)

/-- R166: a core keeps the entry that a translation used. -/
def State.remember (s : State) (core : BitVec 10) (root va : Nat) : State :=
  match s.regionAt root va, s.leafFor (some core) root va with
  | none, .ok l =>
    let e : TlbEntry := { core := core, root := root, base := va / l.size * l.size, leaf := l }
    if e ∈ s.tlb then s
    else { s with tlb := e :: s.tlb.filter (fun x => !(decide (x.core = core) && x.root == root && x.base == e.base)) }
  | _, _ => s

/-- R166, R184: the entries of an address space, of a range, or of a leaf entry, leave every translation cache. -/
def State.dropTlb (s : State) (p : TlbEntry → Bool) : State := { s with tlb := s.tlb.filter (fun e => !(p e)) }

/-! ### Regions (R188, R189, R199) -/

/-- R189: the shade image at an address of a region. -/
def Region.shadeAt (r : Region) (va : Nat) : Byte := BitVec.ofNat 8 (r.shade.toNat / 256 ^ ((va - r.base) % r.esz))

/-- The page index of an address. -/
def Region.pageOf (r : Region) (va : Nat) : Nat := (va - r.base) / 65536

/-- The lit page of an index. -/
def Region.litPage (r : Region) (i : Nat) : Option LitPage := r.lit.find? (fun p => p.index == i)

/-- R190: the interleave code of the pages of a pool. -/
def State.poolCode (s : State) (n : BitVec 8) : BitVec 3 :=
  match s.pools.find? (fun p => p.num == n) with
  | some p => p.code.getD 0
  | none => 0

/-- The storage key of a byte of a lit page. -/
def State.litKey (s : State) (r : Region) (p : LitPage) (va : Nat) : Nat :=
  storageKey (s.poolCode r.pool) (p.phys + (va - r.base) % 65536)

/-- A region is named by its address space and its base. -/
def Region.same (r q : Region) : Bool := r.root == q.root && r.base == q.base

/-! ### Home values (R212) -/

/-- A team. -/
def State.team (s : State) (uid : Nat) : Option Team := s.teams.find? (fun t => t.uid == uid)

/-- Replaces the scratchpad of a team. -/
def State.setSpad (s : State) (uid : Nat) (f : Mem → Mem) : State :=
  { s with teams := s.teams.map (fun t => if t.uid == uid then { t with spad := f t.spad } else t) }

/-- The home value of a byte: the shade image is that of a dark page (R195). -/
def State.homeByte (s : State) : Loc → Byte
  | .mem k => Memory.read s.mem k
  | .spad t off => match s.team t with
    | some t => Memory.read t.spad off
    | none => 0
  | .region root va => match s.regionOf root va with
    | none => 0
    | some r => match r.litPage (r.pageOf va) with
      | some p => Memory.read s.mem (s.litKey r p va)
      | none => r.shadeAt va

/-- Writes a home value; a byte of a dark page has no storage and is not written (R196 allocates first). -/
def State.setHomeByte (s : State) (l : Loc) (b : Byte) : State :=
  match l with
  | .mem k => { s with mem := Memory.write s.mem k b }
  | .spad t off => s.setSpad t (fun m => Memory.write m off b)
  | .region root va => match s.regionOf root va with
    | none => s
    | some r => match r.litPage (r.pageOf va) with
      | some p => { s with mem := Memory.write s.mem (s.litKey r p va) b }
      | none => s

/-- The byte `n` above a byte (R210: accesses are naturally aligned units, so they stay within 8 bytes). -/
def Loc.add : Loc → Nat → Loc
  | .mem k, n => .mem (k + n)
  | .spad t off, n => .spad t (off + n)
  | .region root va, n => .region root (va + n)

/-- The home value of an aligned unit. -/
def State.homeRead (s : State) (l : Loc) (n : Nat) : Nat :=
  ofBytes ((List.range n).map (fun i => s.homeByte (l.add i)))

/-- Writes the home values of an aligned unit. -/
def State.homeWrite (s : State) (l : Loc) (n v : Nat) : State :=
  ((List.range n).zip (toBytes n v)).foldl (fun s p => s.setHomeByte (l.add p.1) p.2) s

/-- The storage key of a byte of device memory; `none` for scratchpad and for a dark page. -/
def State.keyOf (s : State) : Loc → Option Nat
  | .mem k => some k
  | .spad _ _ => none
  | .region root va => match s.regionOf root va with
    | none => none
    | some r => (r.litPage (r.pageOf va)).map (fun p => s.litKey r p va)

/-- R169: the sector, the line and the coding block of a storage key. -/
def sectorOf (key : Nat) : Nat := key / 32
def lineOf (key : Nat) : Nat := key / 128
def codingBlockOf (key : Nat) : Nat := key / 256

/-- R266, R280: the byte lies in a poisoned sector, or in one that cannot be read (R171). -/
def State.poisoned (s : State) (l : Loc) : Bool :=
  match s.keyOf l with
  | some k => decide (sectorOf k ∈ s.poison) || decide (sectorOf k ∈ s.failing)
  | none => false

/-! ### Halos (R170) -/

/-- One bit of the CRC-16 of T10 DIF. -/
def crcBit (c : BitVec 16) (b : Bool) : BitVec 16 := if c.msb != b then (c <<< 1) ^^^ 0x8BB7#16 else c <<< 1

/-- R170: the CRC-16 of some bytes in address order: generator 0x8BB7, initial value 0, no reflection, no final XOR. -/
def crc16 (bs : List Byte) : BitVec 16 :=
  bs.foldl (fun c b => [7, 6, 5, 4, 3, 2, 1, 0].foldl (fun c i => crcBit c (b.getLsbD i)) c) 0

/-- R170: the halo that is made from the bytes of a sector. -/
def State.madeHalo (s : State) (sector : Nat) : BitVec 16 := crc16 (Memory.readBytes s.mem (32 * sector) 32)

/-- R170: the halo that a sector carries. -/
def State.halo (s : State) (sector : Nat) : BitVec 16 :=
  match s.halos.find? (fun x => x.1 == sector) with
  | some x => x.2
  | none => s.madeHalo sector

/-- R170: the check of a sector's halo where it leaves the module fails. -/
def State.haloBad (s : State) (sector : Nat) : Bool := decide (s.halo sector ≠ s.madeHalo sector)

/-- R170, R171: the sectors of some bytes are written anew: their halos are made again; those that `whole` holds of can be read again. -/
def State.renew (s : State) (touched whole : Nat → Bool) : State :=
  { s with
    halos := s.halos.filter (fun x => !(touched x.1))
    poison := s.poison.filter (fun x => !(whole x))
    failing := s.failing.filter (fun x => !(whole x)) }

end Sys2Proof.Machine
end

