-- ==== Sys2Proof/Machine/Operands.lean ====
section
/-! DEFINITION. What an encoded instruction names, and every operand form: lane, pair, uniform and setter sources
(R35, R64, R74, R78, R114, R145, R339-R342, R352). -/

namespace Sys2Proof.Machine

/-- The operands an encoded instruction names: source codes, further registers read, registers
written, whether it produces a lane result (R78),
whether it is a store, an atomic or an engine command (R80), and whether it writes whole `v` registers, whatever its path. -/
structure Uses where
  srcs : List (BitVec 8) := []
  vr   : List Nat := []
  vw   : List Nat := []
  sr   : List Nat := []
  sw   : List Nat := []
  ar   : List Nat := []
  aw   : List Nat := []
  pw   : List Nat := []
  lane : Bool := false
  last : Bool := false
  whole : Bool := false
  deriving DecidableEq, Repr

/-- A lane result with source codes; `nw` suppresses the register write (R37, R78). -/
def laneUse (d : BitVec 7) (w : Bool) (cs : List (BitVec 8)) : Uses :=
  { srcs := cs, vw := if w then [] else [d.toNat], lane := true }

/-- R152: the second source of a 16-bit form: `v0`-`v27`, then `l0`-`l3`. -/
def source16 (s : BitVec 5) : BitVec 8 := if s.toNat < 28 then s.zeroExtend 8 else BitVec.ofNat 8 (100 + s.toNat)

/-- The ops that both streams have: a lane result in the hitter, `a` registers in the setter (R63, R347). -/
def bothUse (st : Stream) (d : BitVec 7) (w : Bool) (a b : BitVec 8) : Uses :=
  if st = .setter then { ar := [a.toNat, b.toNat], aw := [d.toNat] } else laneUse d w [a, b]

/-- R352: the source code of a pair operand that is no `v` pair. -/
def pairCodes (c : BitVec 8) : List (BitVec 8) := if isV c then [] else [c]

/-- R352: the `v` registers of a pair operand. -/
def pairRegs (c : BitVec 8) : List Nat := if isV c then [c.toNat, c.toNat + 1] else []

/-- A register, or the pair of a 64-bit type. -/
def wideRegs (is64 : Bool) (d : BitVec 6) : List Nat := if is64 then [d.toNat, d.toNat + 1] else [d.toNat]

/-- R348: the data registers of a memory type code. -/
def memRegs (t : BitVec 3) (d : Nat) : List Nat := if 6 ≤ t.toNat then [d, d + 1] else [d]

/-- R340: the source code of an alternate-data field. -/
def alternate (d : BitVec 5) : BitVec 8 :=
  if d.toNat < 4 then BitVec.ofNat 8 (128 + d.toNat) else BitVec.ofNat 8 (144 + d.toNat)

/-- R339, R340: the data of a hitter store. -/
def storeUse (t : BitVec 3) (d : BitVec 5) : Uses :=
  if t.toNat % 2 = 1 then { vr := memRegs t d.toNat, last := true } else { srcs := [alternate d], last := true }

/-- R227: the `v` registers of an atomic's address. -/
def addressRegs (m : BitVec 7) : List Nat := if m.toNat % 2 = 0 then [m.toNat, m.toNat + 1] else []

/-- R228: an atomic works on 64 bits; the types of O = 7 have 32. -/
def atomWide (op : BitVec 3) (t : BitVec 2) : Bool := decide (op ≠ 7#3) && decide (2 ≤ t.toNat)

/-- R228: the data registers of an atomic: one register or a pair. -/
def atomRegs (wide : Bool) (d : Nat) : List Nat := if wide then [d, d + 1] else [d]

/-- `n` registers from `v` register `a` upward. -/
def blockRegs (a : BitVec 8) (n : Nat) : List Nat := (List.range n).map (a.toNat + ·)

/-- Destination and one operand, uniform in the hitter (R114) and an `a` register in the setter. -/
def oneUse (st : Stream) (d : BitVec 7) (a : BitVec 8) : Uses :=
  if st = .setter then { ar := [a.toNat], aw := [d.toNat] } else { srcs := [a], sw := [d.toNat] }

/-- Two operands, uniform in the hitter. -/
def twoUse (st : Stream) (a b : BitVec 8) : Uses :=
  if st = .setter then { ar := [a.toNat, b.toNat] } else { srcs := [a, b] }

/-- One operand, uniform in the hitter. -/
def srcUse (st : Stream) (a : BitVec 8) : Uses := if st = .setter then { ar := [a.toNat] } else { srcs := [a] }

/-- The operands of an encoded instruction in a stream; a happening of the table names none. -/
def usesOf (st : Stream) : Instr → Uses
  | .abs d w a => laneUse d w [a]
  | .acquire => { }
  | .acrd d a => { srcs := [a], vw := [d.toNat], last := true }
  | .acwr d a => { srcs := [a], sr := [d.toNat], last := true }
  | .acz d => { sr := [d.toNat], last := true }
  | .add d w a b => bothUse st d w a b
  | .add16 s d => laneUse (d.zeroExtend 7) false [d.zeroExtend 8, source16 s]
  | .addPair d a b => { srcs := pairCodes a ++ pairCodes b, vr := pairRegs a ++ pairRegs b, vw := [d.toNat, d.toNat + 1] }
  | .addWide d a b => { vr := [a.toNat, a.toNat + 1, b.toNat, b.toNat + 1], vw := [d.toNat, d.toNat + 1], whole := true }
  | .and d w a b => bothUse st d w a b
  | .and16 s d => laneUse (d.zeroExtend 7) false [d.zeroExtend 8, source16 s]
  | .atom _ _ t x m d => { vr := addressRegs m ++ atomRegs (atomWide x t) d.toNat, vw := atomRegs (atomWide x t) d.toNat, last := true }
  | .barArv d a => oneUse st d a
  | .barWait a b => twoUse st a b
  | .bcast d w a b => { laneUse d w [b] with vr := [a.toNat] }
  | .bfxS32 d w a b => laneUse d w [a, b]
  | .bfxZ32 d w a b => laneUse d w [a, b]
  | .bfi d a b => { laneUse d false [a, b] with vr := [d.toNat] }
  | .br _ _ _ _ => { }
  | .brev d w a => laneUse d w [a]
  | .call _ => if st = .setter then { aw := [31] } else { sw := [63] }
  | .cancel d a => oneUse st d a
  | .cas _ _ t m d => { vr := addressRegs m ++ atomRegs (atomWide 0 t) d.toNat ++ atomRegs (atomWide 0 t) (d.toNat + (if t.toNat < 2 then 1 else 2)),
                        vw := atomRegs (atomWide 0 t) d.toNat, last := true }
  | .cexp d w a _ => laneUse d w [a]
  | .clog d w a _ => laneUse d w [a]
  | .csin d w a _ => laneUse d w [a]
  | .catan d w a _ => laneUse d w [a]
  | .csqrt d w a _ => laneUse d w [a]
  | .crsq d w a _ => laneUse d w [a]
  | .crcp d w a _ => laneUse d w [a]
  | .ctanh d w a _ => laneUse d w [a]
  | .clz d w a => laneUse d w [a]
  | .cmpS32P d _ a b => { srcs := [a, b], pw := [d.toNat] }
  | .cmpS32V d _ a b => { srcs := [a, b], vw := [d.toNat], lane := true }
  | .cmpZ32P d _ a b => { srcs := [a, b], pw := [d.toNat] }
  | .cmpZ32V d _ a b => { srcs := [a, b], vw := [d.toNat], lane := true }
  | .cpy a b => twoUse st a b
  | .cpyg a b => twoUse st a b
  | .cvt d a g f => { vr := wideRegs (is64Type g) a, vw := wideRegs (is64Type f) d, lane := !is64Type f }
  | .dqnt d a b _ => { vr := [a.toNat, b.toNat], vw := [d.toNat], lane := true }
  | .drain d => { sr := [d.toNat], last := true }
  | .drainT d => { sr := [d.toNat], last := true }
  | .echo d a => { srcs := [a], sw := [d.toNat] }
  | .elect p => { pw := [p.toNat] }
  | .eret => { }
  | .eretEnd => { }
  | .exit => { }
  | .extrS32 d a b => { srcs := [b], vr := [a.toNat, a.toNat + 1], vw := [d.toNat], last := true }
  | .extrS64 d a b => { srcs := [b], vr := [a.toNat, a.toNat + 1], vw := [d.toNat, d.toNat + 1], last := true }
  | .fadd d w a b => laneUse d w [a, b]
  | .fadd16 s d => laneUse (d.zeroExtend 7) false [d.zeroExtend 8, source16 s]
  | .fsub d w a b => laneUse d w [a, b]
  | .fsub16 s d => laneUse (d.zeroExtend 7) false [d.zeroExtend 8, source16 s]
  | .fmul d w a b => laneUse d w [a, b]
  | .fmul16 s d => laneUse (d.zeroExtend 7) false [d.zeroExtend 8, source16 s]
  | .ffma d a b => { laneUse d false [a, b] with vr := [d.toNat] }
  | .fmin d w a b => laneUse d w [a, b]
  | .fmin16 s d => laneUse (d.zeroExtend 7) false [d.zeroExtend 8, source16 s]
  | .fmax d w a b => laneUse d w [a, b]
  | .fmax16 s d => laneUse (d.zeroExtend 7) false [d.zeroExtend 8, source16 s]
  | .faddH d a b _ => { vr := [a.toNat, b.toNat], vw := [d.toNat], lane := true }
  | .fsubH d a b _ => { vr := [a.toNat, b.toNat], vw := [d.toNat], lane := true }
  | .fmulH d a b _ => { vr := [a.toNat, b.toNat], vw := [d.toNat], lane := true }
  | .ffmaH d a b _ => { vr := [a.toNat, b.toNat, d.toNat], vw := [d.toNat], lane := true }
  | .fminH d a b _ => { vr := [a.toNat, b.toNat], vw := [d.toNat], lane := true }
  | .fmaxH d a b _ => { vr := [a.toNat, b.toNat], vw := [d.toNat], lane := true }
  | .fcmpF32P d _ a b => { srcs := [a, b], pw := [d.toNat] }
  | .fcmpF32V d _ a b => { srcs := [a, b], vw := [d.toNat], lane := true }
  | .fcmpF16P d _ a b => { srcs := [a, b], pw := [d.toNat] }
  | .fcmpF16V d _ a b => { srcs := [a, b], vw := [d.toNat], lane := true }
  | .fcmpBf16P d _ a b => { srcs := [a, b], pw := [d.toNat] }
  | .fcmpBf16V d _ a b => { srcs := [a, b], vw := [d.toNat], lane := true }
  | .fence _ _ => { }
  | .fsh d w a b => if w then { srcs := [b], vr := [a.toNat, a.toNat + 1], lane := true } else { srcs := [b], vr := [a.toNat, a.toNat + 1], vw := [d.toNat], lane := true }
  | .gset a b => { srcs := [a, b] }
  | .gth _ _ t a d => { vr := [a.toNat, a.toNat + 1], vw := memRegs t d.toNat }
  | .jmp _ => { }
  | .join => { }
  | .kvx _ b a d => { vr := [a.toNat, b.toNat], vw := [d.toNat, d.toNat + 1] }
  | .kvxW _ b a d => { vr := [a.toNat, b.toNat], vw := [d.toNat, d.toNat + 1] }
  | .kvfork _ b a d => { vr := [a.toNat, b.toNat], vw := [d.toNat] }
  | .kvskip _ _ a d => { vr := [a.toNat], pw := [d.toNat] }
  | .kvrel _ a d => { vr := [a.toNat], vw := [d.toNat] }
  | .launch d a => oneUse st d a
  | .ld d t n _ => if st = .setter then { ar := [n.toNat], aw := [d.toNat] } else { vw := memRegs t d.toNat }
  | .ldAcq d t n _ => if st = .setter then { ar := [n.toNat], aw := [d.toNat] } else { vw := memRegs t d.toNat }
  | .ldq _ _ n _ => { ar := [n.toNat] }
  | .ldqAcq _ _ n _ => { ar := [n.toNat] }
  | .lds d t _ _ => { vw := memRegs t d.toNat }
  | .ldsAcq d t _ _ => { vw := memRegs t d.toNat }
  | .litscan a b => twoUse st a b
  | .lred d a _ _ => { vr := [a.toNat], vw := [d.toNat], lane := true }
  | .madS32 d a b => { laneUse d false [a, b] with vr := [d.toNat] }
  | .madZ32 d a b => { laneUse d false [a, b] with vr := [d.toNat] }
  | .minS32 d w a b => laneUse d w [a, b]
  | .minS3216 s d => laneUse (d.zeroExtend 7) false [d.zeroExtend 8, source16 s]
  | .minZ32 d w a b => laneUse d w [a, b]
  | .maxS32 d w a b => laneUse d w [a, b]
  | .maxS3216 s d => laneUse (d.zeroExtend 7) false [d.zeroExtend 8, source16 s]
  | .maxZ32 d w a b => laneUse d w [a, b]
  | .mma d a b => { sr := [d.toNat], vr := blockRegs a 8 ++ blockRegs b 8, last := true }
  | .mmaSp d a b => { sr := [d.toNat], vr := blockRegs a 12 ++ blockRegs b 16, last := true }
  | .mmc d a b => { srcs := [b], vr := blockRegs a 16, vw := blockRegs (d.zeroExtend 8) 12 }
  | .mmd d a b => { sr := [d.toNat], vr := blockRegs a 8 ++ blockRegs b 8, last := true }
  | .mmdLd d => { sr := [d.toNat], last := true }
  | .mov d w a => if st = .setter then { ar := [a.toNat], aw := [d.toNat] } else laneUse d w [a]
  | .mov16 s d => laneUse (d.zeroExtend 7) false [source16 s]
  | .movPush _ a => { ar := [a.toNat] }
  | .movS d a => { srcs := [a], sw := [d.toNat] }
  | .movHi d a => { srcs := [a], sr := [d.toNat], sw := [d.toNat] }
  | .movi d w _ => laneUse d w []
  | .movh d _ => { vr := [d.toNat], vw := [d.toNat], lane := true }
  | .mul d w a b => bothUse st d w a b
  | .mul16 s d => laneUse (d.zeroExtend 7) false [d.zeroExtend 8, source16 s]
  | .mulPair d a b => { srcs := pairCodes a ++ pairCodes b, vr := pairRegs a ++ pairRegs b, vw := [d.toNat, d.toNat + 1] }
  | .mulhS32 d w a b => laneUse d w [a, b]
  | .mulhZ32 d w a b => laneUse d w [a, b]
  | .neg d w a => laneUse d w [a]
  | .not d w a => laneUse d w [a]
  | .popc d w a => laneUse d w [a]
  | .nop => { }
  | .or d w a b => bothUse st d w a b
  | .or16 s d => laneUse (d.zeroExtend 7) false [d.zeroExtend 8, source16 s]
  | .packS32 d a => { srcs := [a], vw := [d.toNat], last := true }
  | .packZ32 d a => { srcs := [a], vw := [d.toNat], last := true }
  | .packRevS32 d a => { srcs := [a], vw := [d.toNat], last := true }
  | .packRevZ32 d a => { srcs := [a], vw := [d.toNat], last := true }
  | .pmul d a b => { vr := [a.toNat, b.toNat], vw := [d.toNat, d.toNat + 1], last := true }
  | .pmulUns d a b => { vr := [a.toNat, b.toNat], vw := [d.toNat, d.toNat + 1], last := true }
  | .prio a => srcUse st a
  | .qnt d a b _ => { vr := [a.toNat, b.toNat], vw := [d.toNat], lane := true }
  | .rdst d _ b => if b = 0#8 then { vw := [d.toNat] } else if b = 1#8 then { sw := [d.toNat] } else { aw := [d.toNat] }
  | .release => { }
  | .replay => { }
  | .ret => if st = .setter then { ar := [31] } else { sr := [63] }
  | .rng d w => laneUse d w []
  | .sar d w a b => laneUse d w [a, b]
  | .shl d w a b => bothUse st d w a b
  | .shl16 s d => laneUse (d.zeroExtend 7) false [d.zeroExtend 8, source16 s]
  | .shr d w a b => bothUse st d w a b
  | .shr16 s d => laneUse (d.zeroExtend 7) false [d.zeroExtend 8, source16 s]
  | .scan _ d a _ _ => { vr := [a.toNat], vw := [d.toNat], lane := true }
  | .sct _ _ t a d => { vr := [a.toNat, a.toNat + 1] ++ memRegs t d.toNat, last := true }
  | .sel d _ a b => { srcs := [a, b], vw := [d.toNat], lane := true }
  | .setrj _ => { }
  | .shmap a => srcUse st a
  | .shlit a b => twoUse st a b
  | .shfade a b => twoUse st a b
  | .shflIdx d w a b => { laneUse d w [b] with vr := [a.toNat] }
  | .shflUp d w a _ b => { laneUse d w [b] with vr := [a.toNat] }
  | .shflDn d w a _ b => { laneUse d w [b] with vr := [a.toNat] }
  | .shflXor d w a _ b => { laneUse d w [b] with vr := [a.toNat] }
  | .spawn a _ => { vr := [a.toNat] }
  | .st d t n _ => if st = .setter then { ar := [n.toNat, d.toNat] } else storeUse t d
  | .stRel d t n _ => if st = .setter then { ar := [n.toNat, d.toNat] } else storeUse t d
  | .stm _ _ a d => { vr := [a.toNat, a.toNat + 1, d.toNat, d.toNat + 1], last := true }
  | .sts d t _ _ => storeUse t d
  | .stsRel d t _ _ => storeUse t d
  | .sub d w a b => bothUse st d w a b
  | .sub16 s d => laneUse (d.zeroExtend 7) false [d.zeroExtend 8, source16 s]
  | .subPair d a b => { srcs := pairCodes a ++ pairCodes b, vr := pairRegs a ++ pairRegs b, vw := [d.toNat, d.toNat + 1] }
  | .subWide d a b => { vr := [a.toNat, a.toNat + 1, b.toNat, b.toNat + 1], vw := [d.toNat, d.toNat + 1], whole := true }
  | .trap a => srcUse st a
  | .vserve d a b => if st = .setter then { ar := [a.toNat, b.toNat], aw := [d.toNat] } else { srcs := [a, b], sw := [d.toNat] }
  | .vcatch a b => twoUse st a b
  | .vpoll d a => oneUse st d a
  | .voteBall a p => { vr := [a.toNat], pw := [p.toNat] }
  | .voteAny a p => { vr := [a.toNat], pw := [p.toNat] }
  | .voteAll a p => { vr := [a.toNat], pw := [p.toNat] }
  | .voteEq a p => { vr := [a.toNat], pw := [p.toNat] }
  | .wait _ a => srcUse st a
  | .wrst _ a => { srcs := [a] }
  | .xadd d a b _ => { vr := [a.toNat, b.toNat], vw := [d.toNat], lane := true }
  | .xmul d a b _ => { vr := [a.toNat, b.toNat], vw := [d.toNat], lane := true }
  | .xfma d a b _ => { vr := [a.toNat, b.toNat, d.toNat], vw := [d.toNat], lane := true }
  | .xmax d a b _ => { vr := [a.toNat, b.toNat], vw := [d.toNat], lane := true }
  | .xmin d a b _ => { vr := [a.toNat, b.toNat], vw := [d.toNat], lane := true }
  | .xor d w a b => bothUse st d w a b
  | .xor16 s d => laneUse (d.zeroExtend 7) false [d.zeroExtend 8, source16 s]
  | .yield => { }
  | _ => { }

/-- The set queues that an instruction pops. -/
def Uses.pops (u : Uses) : List Nat := (u.srcs.filter isPop).map (fun c => c.toNat - 132)

/-- The set queues that an instruction pops or peeks. -/
def Uses.queues (u : Uses) : List Nat :=
  (u.srcs.filter isQueueCode).map (fun c => if isPop c then c.toNat - 132 else c.toNat - 140)

/-- The latches that an instruction reads. -/
def Uses.latches (u : Uses) : List Nat := (u.srcs.filter isLatchCode).map (fun c => c.toNat - 128)

/-- The `v` registers that an instruction names. -/
def Uses.vs (u : Uses) : List Nat := (u.srcs.filter isV).map (fun c => c.toNat) ++ u.vr ++ u.vw

/-- The `s` registers that an instruction names. -/
def Uses.ss (u : Uses) : List Nat := (u.srcs.filter isSCode).map (fun c => c.toNat - 152) ++ u.sr ++ u.sw

/-- The `a` registers that an instruction names. -/
def Uses.as (u : Uses) : List Nat := u.ar ++ u.aw

/-! ### The ports of a group -/

/-- The PC slot at a port. -/
def Group.slot (g : Group) : Port → Slot
  | .slot0 => g.slot0
  | .slot1 => g.slot1
  | .setter => Slot.empty

/-- Replaces the PC slot at a port. -/
def Group.setSlot (g : Group) (p : Port) (x : Slot) : Group :=
  match p with
  | .slot0 => { g with slot0 := x }
  | .slot1 => { g with slot1 := x }
  | .setter => g

/-- The program counter at a port. -/
def Group.pcAt (g : Group) (p : Port) : DWord :=
  match p with
  | .setter => g.setPc
  | p => match (g.slot p).path with
    | some q => q.pc
    | none => 0

/-- The lanes of the issuing path (R144); lane 0 stands for the setter. -/
def Group.maskAt (g : Group) (p : Port) : Lanes :=
  match p with
  | .setter => 1#64
  | p => match (g.slot p).path with
    | some q => q.mask
    | none => 0

/-- R81, R269: the lanes of the issuing path, those too that a replay leaves alone. -/
def Group.pathMask (g : Group) (p : Port) : Lanes :=
  match (g.slot p).replay with
  | some r => r.full
  | none => g.maskAt p

/-- Moves a port to an address. -/
def Group.setPcAt (g : Group) (p : Port) (pc : DWord) : Group :=
  match p with
  | .setter => { g with setPc := pc }
  | p => g.setSlot p { g.slot p with path := (g.slot p).path.map (fun q => { q with pc := pc }) }

/-- The stream that runs at a port of a group. -/
def Group.streamAt (g : Group) (p : Port) : Stream :=
  match p, g.id.kind with
  | .setter, _ => .setter
  | _, .ordinary => .hitter
  | _, _ => .handler

/-- The paths in the PC slots. -/
def Group.slotPaths (g : Group) : List Path := g.slot0.path.toList ++ g.slot1.path.toList

/-- The lanes of a stack entry that wait for a slot or at a `join` without one. -/
def Group.stackLanes (g : Group) : StackEntry → Lanes
  | .path q => q.mask &&& ~~~g.exited
  | .record _ _ arrived => g.slotPaths.foldl (fun m q => m &&& ~~~q.mask) (arrived &&& ~~~g.exited)

/-- R486: the number of live paths: those in a slot, those on the stack, and those that wait at a `join`. -/
def Group.livePaths (g : Group) : Nat :=
  (g.slotPaths.filter (fun q => decide (q.mask &&& ~~~g.exited ≠ 0))).length +
    (g.stack.filter (fun e => decide (g.stackLanes e ≠ 0))).length

/-- R486: the group has more than one live path. -/
def Group.diverged (g : Group) : Bool := decide (1 < g.livePaths)

/-! ### Registers -/

/-- A `v` register. -/
def Group.v (g : Group) (n : Nat) : Wide := g.regs.v.getD n 0

/-- An `s` register. -/
def Group.s (g : Group) (n : Nat) : DWord := g.regs.s.getD n 0

/-- An `a` register in the setter's view. -/
def Group.a (g : Group) (n : Nat) : DWord := g.regs.a.getD n 0

/-- R62: an `a` register in the hitter's view. -/
def Group.aBase (g : Group) (n : Nat) : DWord := g.regs.aLaunch.getD n 0

/-- R74: a predicate; `p7` reads all-ones. -/
def Group.p (g : Group) (n : Nat) : Lanes := if n = 7 then BitVec.allOnes 64 else g.regs.p.getD n 0

/-- Writes a whole `v` register, which clears its dark tag (R206). -/
def Group.setV (g : Group) (n : Nat) (x : Wide) : Group :=
  { g with regs := { g.regs with
      v := g.regs.v.setIfInBounds n x
      dark := g.regs.dark &&& ~~~(1#128 <<< n)
      absorb := g.regs.absorb &&& ~~~(1#128 <<< n) } }

/-- Writes the lanes of `m` of a `v` register. -/
def Group.setLanes (g : Group) (n : Nat) (m : Lanes) (f : Nat → Word) : Group := g.setV n (laneWrite m f (g.v n))

/-- Writes an `s` register. -/
def Group.setS (g : Group) (n : Nat) (x : DWord) : Group := { g with regs := { g.regs with s := g.regs.s.setIfInBounds n x } }

/-- Writes an `a` register; the hitter's view is fixed at launch (R62). -/
def Group.setA (g : Group) (n : Nat) (x : DWord) : Group := { g with regs := { g.regs with a := g.regs.a.setIfInBounds n x } }

/-- Writes a predicate; a write to `p7` is ignored (R74). -/
def Group.setP (g : Group) (n : Nat) (x : Lanes) : Group :=
  if n = 7 then g else { g with regs := { g.regs with p := g.regs.p.setIfInBounds n x } }

/-- R144: an instruction at a port writes a predicate: the active lanes take `f`, the inactive ones 0. In a replay the lanes of the path that
it leaves alone keep what the first issue gave them (DEDUCED from R81, log 69). -/
def Group.writePred (g : Group) (p : Port) (d : Nat) (f : Nat → Bool) : Group :=
  let m := g.maskAt p
  g.setP d (predWrite m f ||| (g.p d &&& g.pathMask p &&& ~~~m))

/-! ### Source operands -/

/-- R64, R269: the entry that a pop or peek of a set queue reads: one already popped by this issue, or else the head. -/
def Group.queueEntry (g : Group) (p : Port) (n : Nat) : Option DWord :=
  match (g.slot p).held.find? (fun x => x.1 == n) with
  | some x => some x.2
  | none => ((g.queues.getD n []).head?).map (fun x => x.1)

/-- R78: a latch; a cleared one raises LATCH_INVALID before it is read. -/
def Group.latch (g : Group) (p : Port) (n : Nat) : Wide := (((g.slot p).latches.getD n none).getD 0)

/-- R35, R114: the 64 bits of a source code that is uniform. -/
def Group.uniform (g : Group) (p : Port) (c : BitVec 8) : DWord :=
  let n := c.toNat
  if 132 ≤ n ∧ n ≤ 139 then (g.queueEntry p (n - 132)).getD 0
  else if 140 ≤ n ∧ n ≤ 147 then (g.queueEntry p (n - 140)).getD 0
  else if n = 150 then 0xFFFF_FFFF#64
  else if n = 151 then g.id.gidx.zeroExtend 64
  else if 152 ≤ n ∧ n ≤ 215 then g.s (n - 152)
  else if 216 ≤ n then BitVec.ofNat 64 (n - 216)
  else 0

/-- R35, R145: the 32-bit value that a source code yields in a lane. -/
def Group.source (g : Group) (p : Port) (c : BitVec 8) (j : Nat) : Word :=
  let n := c.toNat
  if n < 128 then lane (g.v n) j
  else if n < 132 then lane (g.latch p (n - 128)) j
  else if n = 149 then BitVec.ofNat 32 j
  else (g.uniform p c).setWidth 32

/-- R364: the 64-bit value that a pair operand yields in a lane. -/
def Group.pair (g : Group) (p : Port) (c : BitVec 8) (j : Nat) : DWord :=
  let n := c.toNat
  if n < 128 then lane (g.v (n + 1)) j ++ lane (g.v n) j
  else if n = 149 then BitVec.ofNat 64 j
  else g.uniform p c

/-- The 64-bit value of the pair `vN:vN+1` in a lane. -/
def Group.pairV (g : Group) (n j : Nat) : DWord := lane (g.v (n + 1)) j ++ lane (g.v n) j

/-- Writes the lanes of `m` of a pair. -/
def Group.setPair (g : Group) (n : Nat) (m : Lanes) (f : Nat → DWord) : Group :=
  (g.setLanes n m (fun j => (f j).setWidth 32)).setLanes (n + 1) m (fun j => (f j).extractLsb' 32 32)

/-- R178, R191, R253: a uniform operand read as 64 bits from an `s` register and as low 32 bits from any other code. -/
def Group.operand64 (g : Group) (p : Port) (c : BitVec 8) : DWord :=
  match p with
  | .setter => g.a c.toNat
  | p => if isSCode c then g.uniform p c else ((g.uniform p c).setWidth 32).setWidth 64

/-- R114: a uniform operand read as its low 32 bits. -/
def Group.operand32 (g : Group) (p : Port) (c : BitVec 8) : Nat :=
  match p with
  | .setter => ((g.a c.toNat).setWidth 32).toNat
  | p => ((g.uniform p c).setWidth 32).toNat

/-- R8, R114: an operand of an instruction of both streams: the low 32 bits of a uniform code, all 64 bits of an `a` register. -/
def Group.operandFull (g : Group) (p : Port) (c : BitVec 8) : Nat :=
  match p with
  | .setter => (g.a c.toNat).toNat
  | p => g.operand32 p c

/-- Writes the destination of an instruction of both streams: an `s` register in the hitter, an `a` register in the setter. -/
def Group.setDest (g : Group) (p : Port) (d : BitVec 7) (x : DWord) : Group :=
  match p with
  | .setter => g.setA d.toNat x
  | _ => g.setS d.toNat x

end Sys2Proof.Machine
end

