-- ==== Sys2Proof/Machine/Ops.lean ====
section
/-! DEFINITION. The operations that meanings share: groups and ports, fetching, group switches, latch chains, raising a trap,
the checks of an instruction, and the issue of an instruction (R64-R66, R77-R81, R263-R269, R334-R336, R357, R358). -/

namespace Sys2Proof.Machine

/-- What a meaning answers. -/
abbrev Answer := Host.Outcome State Fault Refusal

/-! ### Groups -/

/-- Every group record of the module, the one at the issue port first. -/
def State.groups (s : State) : List Group := (if s.g.id.present then [s.g] else []) ++ s.others

/-- A group by its uid. -/
def State.group (s : State) (uid : Nat) : Option Group := s.groups.find? (fun g => g.id.uid == uid)

/-- Changes the groups of a uid. -/
def State.modGroup (s : State) (uid : Nat) (f : Group → Group) : State :=
  { s with
    g := if s.g.id.uid = uid then f s.g else s.g
    others := s.others.map (fun g => if g.id.uid = uid then f g else g) }

/-- Changes every group record. -/
def State.mapGroups (s : State) (f : Group → Group) : State := { s with g := f s.g, others := s.others.map f }

/-- Changes the group at the issue port. -/
def State.onGroup (s : State) (f : Group → Group) : State := { s with g := f s.g }

/-- Puts a group at the issue port; the one that stood there joins the others. -/
def State.select (s : State) (uid : Nat) (p : Port) : State :=
  if s.g.id.uid = uid then { s with port := p }
  else match s.others.find? (fun g => g.id.uid == uid) with
    | none => { s with port := p }
    | some g =>
      let rest := s.others.filter (fun h => h.id.uid != uid)
      { s with g := g, port := p, others := if s.g.id.present then s.g :: rest else rest }

/-- Acts at a port of a group and puts the group that stood at the issue port back. -/
def State.visit (s : State) (uid : Nat) (p : Port) (f : State → State) : State :=
  (f (s.select uid p)).select s.g.id.uid s.port

/-- A task of the tree. -/
def State.task (s : State) (id : BitVec 40) : Option Task := s.tasks.find? (fun t => t.id == id)

/-- Changes a task. -/
def State.modTask (s : State) (id : BitVec 40) (f : Task → Task) : State :=
  { s with tasks := s.tasks.map (fun t => if t.id = id then f t else t) }

/-- The record of a core. -/
def State.coreCtl (s : State) (core : BitVec 10) : Option CoreCtl := s.cores.find? (fun c => c.core == core)

/-- Changes the record of a core. -/
def State.modCore (s : State) (core : BitVec 10) (f : CoreCtl → CoreCtl) : State :=
  { s with cores := s.cores.map (fun c => if c.core = core then f c else c) }

/-- R14: the die of a module-wide core number. -/
def dieOf (core : BitVec 10) : BitVec 4 := core.extractLsb' 6 4

/-- R14: the cluster of a module-wide core number, which is also its PME. -/
def clusterOf (core : BitVec 10) : Nat := core.toNat / 4

/-! ### Modes as an instruction sees them (R103, R269) -/

/-- FMODE at a port: a replayed instruction uses the captured value. -/
def Group.fmode (g : Group) (p : Port) : DWord :=
  if (g.slot p).replay.isSome then (g.slot p).firstFmode else g.modes.fmode

/-- GMODE at a port. -/
def Group.gmode (g : Group) (p : Port) : DWord :=
  if (g.slot p).replay.isSome then (g.slot p).firstGmode else g.modes.gmode

/-- R269: RNGCTR at a port: a replayed instruction uses the value of its first issue. -/
def Group.rngctr (g : Group) (p : Port) : DWord :=
  if (g.slot p).replay.isSome then
    (((g.slot p).firstRngs.find? (fun x => x.1 == g.pcAt p)).map (fun x => x.2)).getD g.modes.rngctr
  else g.modes.rngctr

/-- R99, R269: a random-consuming instruction advances the counter once, a replayed one does not. -/
def Group.countDraw (g : Group) (p : Port) : Group :=
  if (g.slot p).replay.isSome then g else { g with modes := { g.modes with rngctr := g.modes.rngctr + 1 } }

/-- R104, R105: ORs flags into FFLAGS. -/
def Group.raiseFlags (g : Group) (f : DWord) : Group := { g with modes := { g.modes with fflags := g.modes.fflags ||| f } }

/-- R104: sets bits of STICKY. -/
def Group.raiseSticky (g : Group) (f : DWord) : Group := { g with modes := { g.modes with sticky := g.modes.sticky ||| f } }

/-! ### Fetch (R334-R336) -/

/-- A byte of code: as it stands, or, where it has changed since the grid's launch, as it stood then (R336). -/
def State.codeByte (s : State) (task : BitVec 40) (old : Bool) (k : Nat) : Byte :=
  match s.task task with
  | some t => if old then Memory.read t.code k else Memory.read s.mem k
  | none => Memory.read s.mem k

/-- R335, R336: a halfword of code at a virtual address. -/
def State.fetchHalf (s : State) (g : Group) (va : Nat) : Except Cause (BitVec 16) :=
  match s.translate (some g.id.core) g.id.root va .fetch with
  | .error c => .error c
  | .ok (.region _ _) => .error Cause.permission
  | .ok (.phys pa l) =>
    let k := storageKey l.code pa
    let half := fun old => s.codeByte g.id.task old (k + 1) ++ s.codeByte g.id.task old k
    if half true = half false then .ok (half false)
    else .ok (half (Config.staleFetch s.clock va))

/-- R334: the halfwords of an instruction at an address, the second 0 for a 16-bit one. -/
def State.fetch (s : State) (g : Group) (va : Nat) : Except Cause (BitVec 16 × BitVec 16) :=
  match s.fetchHalf g va with
  | .error c => .error c
  | .ok lo =>
    if lo.getLsbD 0 = false then .ok (lo, 0)
    else match s.fetchHalf g (va + 2) with
      | .error c => .error c
      | .ok hi => .ok (lo, hi)

/-- The instruction at an address of a stream, if one can be fetched and decoded there. -/
def State.instrAt (s : State) (g : Group) (st : Stream) (va : Nat) : Option Instr :=
  match s.fetch g va with
  | .ok (lo, hi) => decode st lo hi
  | .error _ => none

/-! ### Group switches and latch chains (R78-R81) -/

/-- R79: a group switch for a slot clears its latches. -/
def Slot.switch (x : Slot) : Slot := { x with latches := Vector.replicate 4 none, chain := none }

/-- R79: a group switch for both slots. -/
def Group.switch (g : Group) : Group := { g with slot0 := g.slot0.switch, slot1 := g.slot1.switch }

/-- R79: the park of an instruction that completes in one step is a group switch for the slot of its port. -/
def Group.unlatch (g : Group) (p : Port) : Group :=
  match p with
  | .setter => g
  | p => g.setSlot p (g.slot p).switch

/-- R80: the instruction reads a latch that the run in its slot has written. -/
def Group.isMember (g : Group) (p : Port) (u : Uses) : Bool :=
  match (g.slot p).chain with
  | none => false
  | some c => u.latches.any (fun n => c.written.getLsbD n)

/-- The latches written by the run that ends with an instruction, seen after it. -/
def Group.writtenAfter (g : Group) (p : Port) (u : Uses) : BitVec 4 :=
  let w : BitVec 4 := if g.isMember p u then ((g.slot p).chain.map (fun c => c.written)).getD 0 else 0
  if u.lane then (w <<< 1) ||| 1#4 else w

/-- R80: the instruction that follows reads a latch of the run, so the run goes on past this one. -/
def State.goesOn (s : State) (i : Instr) (u : Uses) : Bool :=
  let w := s.g.writtenAfter s.port u
  if w = 0 then false
  else match s.instrAt s.g (s.g.streamAt s.port) ((s.g.pcAt s.port).toNat + i.len) with
    | none => false
    | some j => (usesOf (s.g.streamAt s.port) j).latches.any (fun n => w.getLsbD n)

/-- R264: a port stands inside a latch chain: the instruction at its pc is a member. -/
def State.inChain (s : State) (g : Group) (p : Port) : Bool :=
  match (g.slot p).chain with
  | none => false
  | some c => match s.instrAt g (g.streamAt p) (g.pcAt p).toNat with
    | none => false
    | some j => (usesOf (g.streamAt p) j).latches.any (fun n => c.written.getLsbD n)

/-- R79: the slots of a group that is pre-empted, or that parks as a whole, are switched, but for one that still runs a latch chain (R80). -/
def State.switchOut (s : State) (g : Group) : Group :=
  { g with
    slot0 := if s.inChain g .slot0 then g.slot0 else g.slot0.switch
    slot1 := if s.inChain g .slot1 then g.slot1 else g.slot1.switch }

/-- The flags of a mark in some lanes. -/
def FlagMark.flagsIn (k : FlagMark) (lanes : Nat → Bool) : DWord :=
  k.lanes.foldl (fun acc x => if lanes x.1 then acc ||| x.2.setWidth 64 else acc) k.whole

/-- R105: the flags of all active lanes. -/
def laneFlags (m : Lanes) (f : Nat → BitVec 6) : DWord :=
  ((members m).foldl (fun acc j => acc ||| f j) (0#6)).setWidth 64

/-- R81: keeps which lanes of an instruction raise flags, until no latch chain is open. -/
def Group.noteFlags (g : Group) (p : Port) (m : Lanes) (f : Nat → BitVec 6) : Group :=
  { g with flagMarks := g.flagMarks ++ [{ port := some p, serial := g.serial, whole := 0,
                                          lanes := ((members m).map (fun j => (j, f j))).filter (fun x => decide (x.2 ≠ 0)) }] }

/-- R81: keeps flags that no instruction of a slot raises, while a latch chain is open. -/
def Group.noteOutside (g : Group) (fl : DWord) : Group :=
  if g.flagMarks.isEmpty then g
  else { g with flagMarks := g.flagMarks ++ [{ port := none, serial := 0, lanes := [], whole := fl }] }

/-- R81, R263: FFLAGS without the flags that a chain raised in some lanes, unless something else raised them too. -/
def Group.dropFlags (g : Group) (p : Port) (c : Chain) (lanes : Nat → Bool) : Group :=
  let own := fun (k : FlagMark) => decide (k.port = some p) && decide (c.serial ≤ k.serial)
  let all := fun (l : List FlagMark) (f : Nat → Bool) => l.foldl (fun acc k => acc ||| k.flagsIn f) (0 : DWord)
  let mine := g.flagMarks.filter own
  let others := g.flagMarks.filter (fun k => !(own k))
  { g with
    modes := { g.modes with fflags :=
      (g.modes.fflags &&& ~~~(all mine lanes)) ||| all others (fun _ => true) ||| all mine (fun j => !(lanes j)) }
    flagMarks := others }

/-- What the chain of a slot has to restore. -/
def Group.undo (g : Group) (p : Port) : Undo := if p = .slot1 then g.undo1 else g.undo0

/-- Replaces what the chain of a slot has to restore. -/
def Group.setUndo (g : Group) (p : Port) (x : Undo) : Group :=
  if p = .slot1 then { g with undo1 := x } else { g with undo0 := x }

/-- R81: registers that something outside a chain has written hold in its `Undo` what was written: with `whole` in all lanes, else in
lanes that are none of the chain's. -/
def Undo.refresh (x : Undo) (g : Group) (vs ss ps : List Nat) (whole : Bool) : Undo where
  vs := x.vs.map (fun e =>
    if vs.contains e.1 then (e.1, (if whole then g.v e.1 else e.2.1), g.regs.dark.getLsbD e.1, g.regs.absorb.getLsbD e.1) else e)
  ss := x.ss.map (fun e => if ss.contains e.1 then (e.1, g.s e.1) else e)
  ps := x.ps.map (fun e => if ps.contains e.1 then (e.1, g.p e.1) else e)

/-- R81: a result of the instruction of a serial has entered `v` and `s` registers: it is outside every chain that has not issued it. -/
def Group.landed (g : Group) (serial : Nat) (vs ss : List Nat) (whole : Bool) : Group :=
  let own := fun (x : Slot) => match x.chain with
    | some c => c.flights.contains serial
    | none => false
  { g with
    undo0 := if own g.slot0 then g.undo0 else g.undo0.refresh g vs ss [] whole
    undo1 := if own g.slot1 then g.undo1 else g.undo1.refresh g vs ss [] whole }

/-- R81: a result has entered its destination, in lanes of the instruction's path. -/
def Group.landedAt (g : Group) (serial : Nat) (d : Dest) : Group :=
  match d with
  | .v n pair => g.landed serial (if pair then [n, n + 1] else [n]) [] false
  | .s n => g.landed serial [] [n] false
  | _ => g

/-- Writes the lanes `m` of a `v` register as they are to stand again. -/
def Group.restoreV (m : Lanes) (g : Group) (e : Nat × Wide × Bool × Bool) : Group :=
  { g with regs := { g.regs with v := g.regs.v.setIfInBounds e.1 (laneWrite m (fun j => lane e.2.1 j) (g.v e.1)) } }

/-- Gives a `v` register its tags as they are to stand again. -/
def Group.restoreTags (g : Group) (e : Nat × Wide × Bool × Bool) : Group :=
  let put := fun (b : Bool) (w : BitVec 128) => if b then w ||| (1#128 <<< e.1) else w &&& ~~~(1#128 <<< e.1)
  { g with regs := { g.regs with dark := put e.2.2.1 g.regs.dark, absorb := put e.2.2.2 g.regs.absorb } }

/-- R81: what the trap of a member restores. -/
def Group.rollback (g : Group) (p : Port) (c : Chain) : Group :=
  let x := g.undo p
  let m := g.maskAt p
  let g := x.vs.foldl (fun g e => (g.restoreV m e).restoreTags e) g
  let g := x.ss.foldl (fun g e => g.setS e.1 e.2) g
  let g := x.ps.foldl (fun g e => g.setP e.1 e.2) g
  let g := g.dropFlags p c (fun _ => true)
  let g := { g with
    modes := { g.modes with rngctr := g.modes.rngctr - c.draws }
    inflight := g.inflight.filter (fun f => !c.flights.contains f.serial) }
  g.setPcAt p c.headPc

/-- R81, R263: what a chain's lane fault restores: in the lanes to replay, the chain has done nothing; where it has done nothing in any
lane, its uniform results and its tags are undone too. -/
def Group.undoLanes (g : Group) (p : Port) (c : Chain) (rpl : Lanes) : Group :=
  let x := g.undo p
  let all := decide (g.pathMask p &&& ~~~rpl = 0)
  let g := x.vs.foldl (fun g e => if all then (g.restoreV rpl e).restoreTags e else g.restoreV rpl e) g
  let g := if all then x.ss.foldl (fun g e => g.setS e.1 e.2) g else g
  let g := x.ps.foldl (fun g e => g.setP e.1 ((g.p e.1 &&& ~~~rpl) ||| (e.2 &&& rpl))) g
  let g := g.dropFlags p c (fun j => rpl.getLsbD j)
  { g with inflight := g.inflight.map (fun f =>
    if c.flights.contains f.serial then { f with lanes := f.lanes &&& ~~~rpl } else f) }

/-- The chain that stands after an instruction retired: `g0` before it, `g` after its effect. -/
def Group.chainAfter (g0 g : Group) (p : Port) (u : Uses) (res : Option Wide) : Option Chain :=
  let lane := res.isSome
  let start : Option Chain :=
    if g0.isMember p u then (g0.slot p).chain
    else if lane then
      some { headPc := g0.pcAt p, serial := g0.serial, written := 0, draws := 0, rngs := [], results := [], flights := [] }
    else none
  start.map (fun c => { c with
    written := if lane then (c.written <<< 1) ||| 1#4 else c.written
    draws := c.draws + (g.modes.rngctr - g0.modes.rngctr)
    rngs := c.rngs ++ [(g0.pcAt p, g0.rngctr p)]
    results := c.results ++ (res.map (fun x => (g0.pcAt p, x))).toList
    flights := if g.inflight.any (fun f => f.serial == g0.serial) then g0.serial :: c.flights else c.flights })

/-- R81: what a chain that stands after an instruction has to restore: registers that the instruction is the chain's first to write stand as
they stood before it. -/
def Group.undoAfter (g0 : Group) (p : Port) (u : Uses) (c : Option Chain) : Undo :=
  if c.isNone then Undo.none
  else
    let x := if g0.isMember p u then g0.undo p else Undo.none
    let first := fun (done ns : List Nat) => ns.filter (fun n => !done.contains n)
    { vs := x.vs ++ (first (x.vs.map (fun e => e.1)) u.vw).map (fun n => (n, g0.v n, g0.regs.dark.getLsbD n, g0.regs.absorb.getLsbD n))
      ss := x.ss ++ (first (x.ss.map (fun e => e.1)) u.sw).map (fun n => (n, g0.s n))
      ps := x.ps ++ (first (x.ps.map (fun e => e.1)) u.pw).map (fun n => (n, g0.p n)) }

/-- R81: an instruction retires at a slot: what it has written is outside the chain of the other slot, but for results still pending. -/
def Group.undosAfter (g0 g : Group) (p : Port) (u : Uses) (c : Option Chain) : Group :=
  let q := if p = .slot1 then Port.slot0 else Port.slot1
  let due := g.inflight.filter (fun f => f.serial == g0.serial)
  let vs := u.vw.filter (fun n => !(due.any (fun f => match f.dest with
    | .v d pair => decide (n = d) || (pair && decide (n = d + 1))
    | _ => false)))
  let ss := u.sw.filter (fun n => !(due.any (fun f => decide (f.dest = .s n))))
  (g.setUndo p (g0.undoAfter p u c)).setUndo q ((g.undo q).refresh g vs ss u.pw u.whole)

/-- R81: the marks of flags after an instruction retired at a port: they last while a chain is open, and begin with what FFLAGS held. -/
def Group.marksAfter (g0 g : Group) (p : Port) (c : Option Chain) : List FlagMark :=
  let other := if p = .slot0 then g.slot1.chain else g.slot0.chain
  if c.isNone && other.isNone then []
  else if g0.flagMarks.isEmpty then { port := none, serial := 0, lanes := [], whole := g0.modes.fflags } :: g.flagMarks
  else g.flagMarks

/-! ### Completions and error records (R281, R324, R325, R333) -/

/-- R325: a completion that is to be written. -/
def State.complete (s : State) (c : Completion) : State := { s with completions := s.completions ++ [c] }

/-- R324, R325: an EVENT completion on pair 0. -/
def State.event (s : State) (status : BitVec 8) (result : BitVec 48) : State :=
  s.complete { pair := 0, result := result, op := 0xF0#8, status := status, sseq := 0 }

/-- The record of a die. -/
def State.dieCtl (s : State) (die : BitVec 4) : Option DieCtl := s.dies.find? (fun d => d.die == die)

/-! ### Raising a trap (R263-R268, R273) -/

/-- R272: the TRAPCS layout of a trap word. -/
def TrapWord.trapcs (t : TrapWord) (p : Port) (pend : Bool) : DWord :=
  BitVec.ofNat 64 (t.cause.toNat * 2 ^ 32 + max 1 t.records.length * 2 ^ 16 + (if t.chain then 32 else 0) +
    (if p = .setter then 16 else 0) + (if p = .slot1 then 8 else 0) + (if pend then 4 else 0) + t.kind.toNat)

/-- Stops a port on a trap. An ordinary group holds it for its core's handler; in the handler slot it is a handler fault, which
enters a machine check, and in the machine-check kernel it halts the core (R273). -/
def State.hold (s : State) (p : Port) (t : TrapWord) : State :=
  match s.g.id.kind with
  | .ordinary =>
    let t := { t with order := s.nextTrap }
    let s := { s with nextTrap := s.nextTrap + 1 }
    match p with
    | .setter => s.onGroup (fun g => { g with setTrap := some t, setWait := .trapped })
    | p => s.onGroup (fun g => g.setSlot p { (g.slot p).switch with trap := some t, wait := .trapped })
  | .handler =>
    (s.onGroup (fun g => g.setSlot p { (g.slot p).switch with trap := some t, wait := .trapped })).modCore s.g.id.core
      (fun c => if c.mcheckCause.isSome then c else { c with mcheckCause := some t.cause, mcheckGroup := none })
  | .mcheck =>
    ((s.onGroup (fun g => g.setSlot p { (g.slot p).switch with trap := some t, wait := .trapped })).modCore s.g.id.core
      (fun c => { c with halted := true })).event 7 (s.g.id.core.zeroExtend 48)

/-- R64: an entry that an instruction popped stands at the head of its queue again, if there is room for it there. -/
def Group.unpopOne (p : Port) (e : Nat × DWord) (g : Group) : Group :=
  if (g.queues.getD e.1 []).length < 16 then
    { (g.setSlot p { g.slot p with held := (g.slot p).held.filter (fun y => y.1 != e.1) }) with
      queues := g.queues.setIfInBounds e.1 ((e.2, 0) :: g.queues.getD e.1 [])
      qhead := g.qhead.setIfInBounds e.1 (g.qhead.getD e.1 0 - 1) }
  else g

/-- R64: a refused instruction pops nothing: entries that it popped when it issued stand at the heads of their queues again. One for
which its queue has no room left stays with the instruction (log 66), and so do those of a replay (R269). -/
def Group.unpop (g : Group) (p : Port) : Group :=
  if p = .setter ∨ (g.slot p).replay.isSome = true then g
  else (g.slot p).held.foldr (Group.unpopOne p) g

/-- R263, R268: a refused trap: the instruction, or the whole chain, has had no effect. -/
def State.refuse (s : State) (u : Uses) (c : Cause) (addr : BitVec 64 := 0) (out : Bool := false)
    (detail : List Byte := []) : State :=
  let p := s.port
  let mem := s.g.isMember p u
  let pc := s.g.pcAt p
  let m := s.g.maskAt p
  let head := match (s.g.slot p).chain with
    | some x => if mem then x.headPc else pc
    | none => pc
  let s := match (s.g.slot p).chain with
    | some x => if mem then s.onGroup (fun g => g.rollback p x) else s
    | none => s
  let s := s.onGroup (fun g => g.unpop p)
  s.hold p { cause := c, kind := 0, chain := mem, pc := head, mask := m,
             records := [(if p = .setter then 0 else lowest m, c, addr, out)], detail := detail, next := pc, instr := pc, order := 0 }

/-! ### Issue (R358) -/

/-- How an attempt to issue ends. -/
inductive Act where
  /-- The effect is in the state; the pc is still to advance. -/
  | run (s : State)
  /-- The same, with a lane result (R78). -/
  | result (s : State) (x : Wide)
  /-- The effect is in the state, with the pc. -/
  | jump (s : State)
  /-- A refused trap with its address. -/
  | trap (c : Cause) (addr : BitVec 64) (out : Bool)
  /-- The instruction has issued and its stream waits at it (R79). -/
  | wait (w : Wait) (s : State)
  /-- The instruction cannot issue yet, and parks its stream. -/
  | later
  /-- Lane faults; every other lane has committed (R266). -/
  | fault (s : State) (recs : List (Nat × Cause × BitVec 64 × Bool))
  /-- A trap on the completed instruction (R263). -/
  | after (s : State) (c : Cause) (addr : BitVec 64)
  /-- Lanes that would write a page under a write-protect window wait; every other lane has committed (R184). -/
  | migrate (s : State) (lanes : Lanes)
  /-- A refused trap, in a state in which other agents have moved. -/
  | refused (s : State) (c : Cause) (addr : BitVec 64) (out : Bool)
  /-- WAIT_CYCLE, a refused trap, with its detail data (R268). -/
  | cycle (detail : List Byte)

/-- A refused trap without an address. -/
def Act.no (c : Cause) : Act := .trap c 0 false

/-- R172: the scoreboard: a pending result's destination. -/
def Dest.hits (d : Dest) (u : Uses) : Bool :=
  match d with
  | .none => false
  | .v n pair => u.vs.contains n || (pair && u.vs.contains (n + 1))
  | .s n => u.ss.contains n
  | .a n => u.as.contains n
  | .q _ => false

/-- R65, R417: an `ldq` of the setter has still to push onto a queue: the push precedes the setter's `exit`. -/
def Group.owed (g : Group) (n : Nat) : Bool := g.inflight.any (fun f => decide (f.dest = .q n) && !f.done)

/-- R358: the trap an instruction raises before its own, in order: Illegal Instruction (R80, R357), REG_UNALLOTTED (R77),
LATCH_INVALID (R79), QUEUE_DIVERGED or QUEUE_EMPTY (R65, R66). -/
def State.preTrap (s : State) (i : Instr) (u : Uses) : Option Cause :=
  let g := s.g
  let p := s.port
  let fresh := u.queues.filter (fun n => !((g.slot p).held.any (fun x => x.1 == n)))
  if i.legalIn (g.streamAt p) = false then some Cause.illegal
  else if (u.last || !u.pops.isEmpty) && s.goesOn i u then some Cause.illegal
  else if u.vs.any (fun n => decide (g.regs.allot ≤ n)) then some Cause.regUnallotted
  else if u.latches.any (fun n => ((g.slot p).latches.getD n none).isNone) then some Cause.latchInvalid
  else if !fresh.isEmpty && g.diverged then some Cause.queueDiverged
  else if fresh.any (fun n => (g.queues.getD n []).isEmpty && !(g.owed n)) && g.setExited then some Cause.queueEmpty
  else none

/-- R65, R172: the instruction must wait: for a queue entry, or for a pending result that it names. -/
def State.mustWait (s : State) (u : Uses) : Bool :=
  u.queues.any (fun n => (s.g.queueEntry s.port n).isNone) || s.g.inflight.any (fun f => !f.done && f.dest.hits u)

/-- How a port of a group waits. -/
def Group.waitAt (g : Group) : Port → Wait
  | .setter => g.setWait
  | p => (g.slot p).wait

/-- R184, R293: a wait at which the whole group parks. -/
def Wait.parksGroup : Wait → Bool
  | .migrating | .action _ => true
  | _ => false

/-- A stream is held at a gang-wide command. -/
def Wait.isGang : Wait → Bool
  | .gang _ => true
  | _ => false

/-- R197: a stream waits for an allocation, and holds the hitter issue of its group. -/
def Wait.isAlloc : Wait → Bool
  | .alloc | .atomic _ => true
  | _ => false

/-- R119, R126, R197: a `pmul` under GOVM 0, a gang-wide command that waits for its pair, and an allocation under way in the other
slot hold the hitter issue of the group. -/
def Group.holdsIssue (g : Group) (p : Port) : Bool :=
  (decide (p = .slot1) && g.slot0.wait.isAlloc) || (decide (p = .slot0) && g.slot1.wait.isAlloc) ||
  g.slot0.wait.isGang || g.slot1.wait.isGang || g.inflight.any (fun f => match f.kind with | .engine _ hold => hold && !f.done | _ => false)

/-- R64: removes the entries that an instruction pops, which orders what follows after the pushes (R67). -/
def Group.popAll (g : Group) (p : Port) (ns : List Nat) : Group :=
  ns.foldl (fun g n =>
    if (g.slot p).held.any (fun x => x.1 == n) then g
    else match g.queues.getD n [] with
      | [] => g
      | e :: rest => { g with
          queues := g.queues.setIfInBounds n rest
          qhead := g.qhead.setIfInBounds n (g.qhead.getD n 0 + 1)
          horizon := max g.horizon e.2 }) g

/-- The entries an instruction has popped, which it keeps while it waits and for `replay` (R269). -/
def Group.poppedBy (g : Group) (p : Port) (u : Uses) : List (Nat × DWord) :=
  u.pops.map (fun n => (n, (g.queueEntry p n).getD 0))

/-- R269, R275: the end of a replay restores the path's mask. -/
def Slot.endReplay (x : Slot) : Slot :=
  match x.replay, x.path with
  | some r, some q => if q.pc = r.last then { x with replay := none, path := some { q with mask := r.full } } else x
  | _, _ => x

/-- Shifts the latches of a slot (R78). -/
def Slot.shift (x : Slot) (r : Wide) : Slot :=
  { x with latches := #v[some r, x.latches.getD 0 none, x.latches.getD 1 none, x.latches.getD 2 none] }

/-- R81: what the latches take of a lane result. In a replay the lanes that it leaves alone keep what the first issue of the member gave them. -/
def Group.latched (g : Group) (p : Port) (r : Wide) : Wide :=
  match (g.slot p).replay, (g.slot p).firstRes.find? (fun x => x.1 == g.pcAt p) with
  | some _, some x => laneWrite (g.maskAt p) (lane r) x.2
  | _, _ => r

/-- An instruction retires: it pops, its lane result enters the latches, and the pc moves on. The starvation count of its stream starts anew:
the setter's and the slots' are two (DESIGN CHOICE, log 6). -/
def Group.retire (g0 g : Group) (p : Port) (i : Instr) (u : Uses) (res : Option Wide) (jumped : Bool) : Group :=
  match p with
  | .setter =>
    { (if jumped then g else g.setPcAt p (g.pcAt p + BitVec.ofNat 64 i.len)) with
      setWait := .running, serial := g.serial + 1, readySet := 0 }
  | p =>
    let res := res.map (g0.latched p)
    let c := g0.chainAfter g p u res
    let g := { g0.undosAfter g p u c with flagMarks := g0.marksAfter g p c }
    let g := g.popAll p u.pops
    let g := if jumped then g else g.setPcAt p (g.pcAt p + BitVec.ofNat 64 i.len)
    let x := g.slot p
    let x := match res with
      | some r => x.shift r
      | none => x
    { g.setSlot p (Slot.endReplay { x with chain := c, held := [], wait := .running }) with
      serial := g.serial + 1, ready := 0 }

/-- A stream waits at its instruction. Outside a latch chain the park is a group switch for its slot (R79); a member of a chain
stalls in place (R80). -/
def Group.park (g : Group) (p : Port) (u : Uses) (w : Wait) : Group :=
  match p with
  | .setter => { g with setWait := w }
  | p =>
    let x := if g.isMember p u then g.slot p else (g.slot p).switch
    g.setSlot p { x with wait := w }

/-- A lane-fault trap (R263, R269): the masked lanes have done nothing, and RPLMASK, the modes, the counter and the popped entries
of the first issue are kept for `replay`. -/
def State.laneFault (s0 s : State) (i : Instr) (u : Uses) (recs : List (Nat × Cause × BitVec 64 × Bool)) : State :=
  let p := s0.port
  let g0 := s0.g
  let mem := g0.isMember p u
  let pc := g0.pcAt p
  let rpl := lanesOf (fun j => recs.any (fun r => r.1 == j))
  let x0 := g0.slot p
  let head := match x0.chain with
    | some c => if mem then c.headPc else pc
    | none => pc
  let rngs := match x0.chain with
    | some c => if mem then c.rngs else []
    | none => []
  let results := match x0.chain with
    | some c => if mem then c.results else []
    | none => []
  let next := pc + BitVec.ofNat 64 i.len
  let held := g0.poppedBy p u
  let g := s.g.popAll p u.pops
  let g := match x0.chain with
    | some c => if mem then g.undoLanes p c rpl else g
    | none => g
  let full := match x0.replay with
    | some r => r.full
    | none => g0.maskAt p
  let x := g.slot p
  let x := { x with
    path := x.path.map (fun q => { q with pc := head, mask := full })
    rpl := rpl
    held := held
    replay := none
    firstFmode := g0.fmode p
    firstGmode := g0.gmode p
    firstRngs := rngs ++ [(pc, g0.rngctr p)]
    firstRes := results }
  let s := { s with g := { g.setSlot p x with serial := g.serial + 1, ready := 0 } }
  s.hold p { cause := (recs.map (fun r => r.2.1)).headD 0, kind := 1, chain := mem, pc := head, mask := full,
             records := recs, detail := [], next := next, instr := pc, order := 0 }

/-- R184: the lanes of a write-protect window stay at their instruction, which the device replays for them alone at the switch-over. The whole
group parks (R79). -/
def State.migrating (s0 s : State) (i : Instr) (u : Uses) (lanes : Lanes) : State :=
  let p := s0.port
  let g0 := s0.g
  let held := g0.poppedBy p u
  let g := (s.g.popAll p u.pops).park p u .migrating
  let x := g.slot p
  let full := match (g0.slot p).replay with
    | some r => r.full
    | none => g0.maskAt p
  let t : State := { s with g := { g.setSlot p { x with
      path := x.path.map (fun q => { q with mask := lanes })
      held := held
      replay := some { last := g0.pcAt p + BitVec.ofNat 64 i.len, full := full }
      firstFmode := g0.fmode p
      firstGmode := g0.gmode p
      firstRngs := [(g0.pcAt p, g0.rngctr p)]
      firstRes := [] } with serial := g.serial + 1 } }
  t.onGroup t.switchOut

/-- R263: a trap on a completed instruction, which has retired. -/
def State.trapAfter (s0 s : State) (c : Cause) (addr : BitVec 64) : State :=
  let p := s0.port
  s.hold p { cause := c, kind := 2, chain := false, pc := s0.g.pcAt p, mask := s0.g.maskAt p,
             records := [(if p = .setter then 0 else lowest (s0.g.maskAt p), c, addr, false)], detail := [],
             next := s.g.pcAt p, instr := s0.g.pcAt p, order := 0 }

/-- The instruction at which a slot waits has issued already. -/
def Slot.issued (x : Slot) : Bool :=
  match x.wait with
  | .running | .trapped => false
  | .other => !x.held.isEmpty && x.replay.isNone
  | _ => true

/-- R182: the copy fault that the next hitter instruction of the group takes as it issues. -/
def State.copyTrap (s : State) : Option CopyFault :=
  if decide (s.port = .setter) || (s.g.slot s.port).issued then none
  else s.faults.find? (fun f => f.grp == s.g.id.uid &&
    !(s.g.inflight.any (fun x => decide (x.path = some 2) && decide (x.serial ≤ f.serial))))

/-- R268: the faulting address of a copy lies outside the address space. -/
def CopyFault.out (f : CopyFault) : Bool := decide (f.addr < 0) || decide (2 ^ 56 ≤ f.addr)

/-- R268: the detail data of a COPY_FAULT. -/
def CopyFault.detail (f : CopyFault) : List Byte := toBytes 8 f.ordinal ++ [f.cause] ++ toBytes 7 0

/-- The effect of an act on the state in which it was attempted. -/
def State.settle (s : State) (i : Instr) (u : Uses) : Act → State
  | .run t => t.onGroup (fun g => s.g.retire g s.port i u none false)
  | .result t x => t.onGroup (fun g => s.g.retire g s.port i u (some x) false)
  | .jump t => t.onGroup (fun g => s.g.retire g s.port i u none true)
  | .trap c a o => s.refuse u c a o
  | .wait w t =>
    let t := t.onGroup (fun g =>
      let held := s.g.poppedBy s.port u
      let g := (g.popAll s.port u.pops).park s.port u w
      match s.port with
      | .setter => g
      | p => g.setSlot p { g.slot p with held := held })
    if w.parksGroup then t.onGroup t.switchOut else t
  | .later => s.onGroup (fun g => g.park s.port u .other)
  | .fault t recs => s.laneFault t i u recs
  | .migrate t m => s.migrating t i u m
  | .refused t c a o => t.refuse u c a o
  | .cycle detail => s.refuse u Cause.waitCycle 0 false detail
  | .after t c a => s.trapAfter (t.onGroup (fun g => s.g.retire g s.port i u none false)) c a

/-- R119, R126, R197: the port may not issue while its group's hitter issue is held. A hold is no wait that the manual names as a group
switch: the held slot keeps its latches (DESIGN CHOICE, log 70). -/
def State.held (s : State) : Bool := decide (s.port ≠ .setter) && s.g.holdsIssue s.port

/-- R358: an instruction issues at the port: the traps in their order, the waits, then its own act. -/
def State.issue (i : Instr) (act : State → Act) (s : State) : State :=
  let u := usesOf (s.g.streamAt s.port) i
  if s.held then s
  else match s.preTrap i u with
  | some c => s.refuse u c
  | none =>
    if s.mustWait u then s.settle i u .later
    else match s.copyTrap with
      | some f => { s with faults := s.faults.erase f }.refuse u Cause.copyFault (BitVec.ofInt 64 f.addr) f.out f.detail
      | none => s.settle i u (act s)

/-- An instruction that touches its group alone: no trap of its own, no wait. -/
def State.plain (i : Instr) (f : Group → Port → Group) (s : State) : State :=
  s.issue i (fun s => .run (s.onGroup (fun g => f g s.port)))

/-- An instruction that produces a lane result (R78): lane `j` of the active lanes takes `f g p j`. The latch takes the results of every lane
of the path, those too that a replay leaves alone: a replay reproduces what a chain passes along (R81, log 69). -/
def State.laneOp (i : Instr) (d : BitVec 7) (nw : Bool) (f : Group → Port → Nat → Word) (s : State) : State :=
  s.issue i (fun s =>
    let m := s.g.maskAt s.port
    let r := laneWrite (s.g.pathMask s.port) (f s.g s.port) 0
    .result (s.onGroup (fun g => if nw then g else g.setLanes d.toNat m (f s.g s.port))) r)

end Sys2Proof.Machine
end

