-- ==== Sys2Proof/Machine/Flags.lean ====
section
/-! DEFINITION. Flags, accumulation and conditions: FFLAGS and STICKY (R104, R105), `Acc_s32` and `Acc_z32` (R109), saturation
(R3), and the conditions of `cmp` (R382). -/

namespace Sys2Proof.Machine

/-- The FFLAGS bits by name (R104). -/
def flagNX : BitVec 6 := 0x01#6
def flagUF : BitVec 6 := 0x02#6
def flagOF : BitVec 6 := 0x04#6
def flagDZ : BitVec 6 := 0x08#6
def flagNV : BitVec 6 := 0x10#6
def flagSAT : BitVec 6 := 0x20#6

/-- The STICKY bits by name (R104). -/
def stickyGOVF : DWord := 1#64
def stickySCOPE : DWord := 2#64
def stickyMEMERR : DWord := 4#64

/-- Fields of FMODE (R101). -/
def fmodeRM (f : DWord) : Nat := (f.extractLsb' 0 3).toNat
def fmodeFTZ (f : DWord) : Bool := f.getLsbD 4
def fmodeDAZ (f : DWord) : Bool := f.getLsbD 5
def fmodeOVF (f : DWord) : Bool := f.getLsbD 6
def fmodeIACC (f : DWord) : Bool := f.getLsbD 7

/-- Fields of GMODE (R111). -/
def gmodePitch (g : DWord) : Nat := (g.extractLsb' 0 7).toNat
def gmodeGuard (g : DWord) : Nat := (g.extractLsb' 8 6).toNat
def gmodeGOVM (g : DWord) : Bool := g.getLsbD 15

/-- R112: the valid pairs of PITCH and GUARD. -/
def gmodeValid (pitch guard : Nat) : Bool :=
  (decide (pitch = 0) && decide (guard = 0)) ||
    (decide (8 ≤ pitch) && decide (pitch ≤ 64) && decide (1 ≤ guard) && decide (guard + 2 ≤ pitch) &&
      decide (pitch ≤ guard + 32))

/-- R3: `Sat_s` of a width, and whether it clamped. -/
def satS (n : Nat) (x : Int) : Int × Bool :=
  let lo : Int := -(2 ^ (n - 1) : Nat)
  let hi : Int := (2 ^ (n - 1) : Nat) - 1
  if x < lo then (lo, true) else if hi < x then (hi, true) else (x, false)

/-- R3: `Sat_z` of a width, and whether it clamped. -/
def satZ (n : Nat) (x : Int) : Int × Bool :=
  let hi : Int := (2 ^ n : Nat) - 1
  if x < 0 then (0, true) else if hi < x then (hi, true) else (x, false)

/-- A value with SAT where it clamped. -/
def clamped (x : Int × Bool) : Word × BitVec 6 := (BitVec.ofInt 32 x.1, if x.2 then flagSAT else 0)

/-- R109: `Acc_s32` under FMODE. -/
def accS32 (fmode : DWord) (x : Int) : Word × BitVec 6 :=
  if fmodeIACC fmode then clamped (satS 32 x) else (BitVec.ofInt 32 x, 0)

/-- R109: `Acc_z32` under FMODE. -/
def accZ32 (fmode : DWord) (x : Int) : Word × BitVec 6 :=
  if fmodeIACC fmode then clamped (satZ 32 x) else (BitVec.ofInt 32 x, 0)

/-- R344: the signed conditions by their codes. -/
def condS (c : BitVec 3) (a b : Word) : Bool :=
  match c.toNat with
  | 0 => a == b
  | 1 => a != b
  | 2 => a.slt b
  | 3 => a.sle b
  | 4 => b.slt a
  | _ => b.sle a

/-- R344: the unsigned conditions by their codes. -/
def condZ (c : BitVec 3) (a b : Word) : Bool :=
  match c.toNat with
  | 0 => a == b
  | 1 => a != b
  | 2 => a.ult b
  | 3 => a.ule b
  | 4 => b.ult a
  | _ => b.ule a

/-- A truth value as a lane word (R382). -/
def truth (b : Bool) : Word := if b then BitVec.allOnes 32 else 0

/-- An instruction with a lane result, which the latch takes for every lane of the path (R81), and flags in each active lane; it may consume a
random draw (R99). -/
def State.laneFlagOp (i : Instr) (d : BitVec 7) (nw draws : Bool) (f : Group → Port → Nat → Word × BitVec 6) (s : State) :
    State :=
  s.issue i (fun s =>
    let m := s.g.maskAt s.port
    let p := s.port
    let g := s.g
    let r := laneWrite (g.pathMask p) (fun j => (f g p j).1) 0
    let g := if nw then g else g.setLanes d.toNat m (fun j => (f s.g p j).1)
    let g := (g.raiseFlags (laneFlags m (fun j => (f s.g p j).2))).noteFlags p m (fun j => (f s.g p j).2)
    .result { s with g := if draws then g.countDraw p else g } r)

/-- An instruction that writes a predicate (R144), with flags. -/
def State.predOp (i : Instr) (d : Nat) (f : Group → Port → Nat → Bool × BitVec 6) (s : State) : State :=
  s.issue i (fun s =>
    let m := s.g.maskAt s.port
    let p := s.port
    let g := s.g.writePred p d (fun j => (f s.g p j).1)
    .run { s with g := (g.raiseFlags (laneFlags m (fun j => (f s.g p j).2))).noteFlags p m (fun j => (f s.g p j).2) })

/-- An instruction on pairs (R145): no lane result, no flag. -/
def State.pairOp (i : Instr) (d : BitVec 7) (f : Group → Port → Nat → DWord) (s : State) : State :=
  s.plain i (fun g p => g.setPair d.toNat (g.maskAt p) (f g p))

end Sys2Proof.Machine
end

