-- ==== Sys2Proof/Machine/Numbers.lean ====
section
/-! DEFINITION. Number formats, exact values and the one rounding (R86-R97, R101, R105-R107, R149), and Philox (R98). -/

namespace Sys2Proof.Machine

/-! ### Formats -/

/-- The families of float formats. -/
inductive FmtKind where
  | ieee | e4m3 | e5m2 | e2m1 | p3109 | p3109z
  deriving DecidableEq, Repr

/-- A float format: storage width, precision with the implicit bit, exponent of the smallest normal, the code of the largest
finite value and, where they exist, those of infinity and of the canonical NaN. -/
structure Fmt where
  kind : FmtKind
  width : Nat
  prec : Nat
  emin : Int
  maxCode : Nat
  infCode : Option Nat
  nanCode : Option Nat
  deriving DecidableEq, Repr

/-- R88, R93. -/
def Fmt.f32 : Fmt := ⟨.ieee, 32, 24, -126, 0x7F7F_FFFF, some 0x7F80_0000, some 0x7FC0_0000⟩
def Fmt.f16 : Fmt := ⟨.ieee, 16, 11, -14, 0x7BFF, some 0x7C00, some 0x7E00⟩
def Fmt.bf16 : Fmt := ⟨.ieee, 16, 8, -126, 0x7F7F, some 0x7F80, some 0x7FC0⟩
def Fmt.e4m3 : Fmt := ⟨.e4m3, 8, 4, -6, 0x7E, none, some 0x7F⟩
def Fmt.e5m2 : Fmt := ⟨.e5m2, 8, 3, -14, 0x7B, some 0x7C, some 0x7E⟩
def Fmt.e2m1 : Fmt := ⟨.e2m1, 4, 2, 0, 0x7, none, none⟩

/-- R90: a signed `b8pP`, with (`fin = false`) or without infinities. -/
def Fmt.p3109 (p : Nat) (fin : Bool) : Fmt :=
  ⟨.p3109, 8, p, 1 - 2 ^ (7 - p), if fin then 0x7F else 0x7E, if fin then none else some 0x7F, some 0x80⟩

/-- R90: an unsigned `b8pPz`. -/
def Fmt.p3109z (p : Nat) (fin : Bool) : Fmt :=
  ⟨.p3109z, 8, p, 1 - 2 ^ (8 - p), if fin then 0xFE else 0xFD, if fin then none else some 0xFE, some 0xFF⟩

/-- R101, R107: the formats on which DAZ and FTZ act and whose overflow is that of IEEE 754. -/
def Fmt.wide (f : Fmt) : Bool := f.kind == .ieee

/-- The format has a sign bit. -/
def Fmt.signed (f : Fmt) : Bool := f.kind != .p3109z

/-- A number type of R348. -/
inductive NumType where
  | int (n : Nat) (signed : Bool)
  | flt (f : Fmt)
  deriving DecidableEq, Repr

/-- R348: the type of a type code; a code that names no type does not decode. -/
def typeOf (c : BitVec 6) : NumType :=
  let n := c.toNat
  match n with
  | 0 => .int 8 true
  | 1 => .int 8 false
  | 2 => .int 4 true
  | 3 => .flt .e2m1
  | 4 => .flt .e4m3
  | 5 => .flt .e5m2
  | 6 => .flt .bf16
  | 7 => .flt .f16
  | 8 => .flt .f32
  | 9 => .int 16 true
  | 10 => .int 16 false
  | 11 => .int 32 true
  | 12 => .int 32 false
  | 13 => .int 64 true
  | 14 => .int 64 false
  | _ =>
    if n < 0x18 then .flt (.p3109 (n - 0x10) false)
    else if n < 0x20 then .flt (.p3109 (n - 0x18) true)
    else if n < 0x28 then .flt (.p3109z (n - 0x20) false)
    else .flt (.p3109z (n - 0x28) true)

/-- The storage width of a type. -/
def NumType.width : NumType → Nat
  | .int n _ => n
  | .flt f => f.width

/-! ### Exact values -/

/-- An exact value: a NaN (signalling or not), an infinity, or (-1)^neg * m * 2^e. -/
inductive Val where
  | nan (signalling : Bool)
  | inf (neg : Bool)
  | fin (neg : Bool) (m : Nat) (e : Int)
  deriving DecidableEq, Repr

/-- R88, R90, R93: the value of a code. -/
def Fmt.decode (f : Fmt) (code : Nat) : Val :=
  let c := code % 2 ^ f.width
  let body := if f.signed then c % 2 ^ (f.width - 1) else c
  let neg := f.signed && decide (2 ^ (f.width - 1) ≤ c)
  let t := body % 2 ^ (f.prec - 1)
  let x := body / 2 ^ (f.prec - 1)
  let num : Val :=
    if x = 0 then .fin neg t (f.emin - (f.prec - 1 : Nat))
    else .fin neg (t + 2 ^ (f.prec - 1)) ((x : Int) - 1 + f.emin - (f.prec - 1 : Nat))
  match f.kind with
  | .ieee | .e5m2 =>
    if x = 2 ^ (f.width - f.prec) - 1 then
      if t = 0 then .inf neg else .nan (decide (t < 2 ^ (f.prec - 2)))
    else num
  | .e4m3 => if body = 0x7F then .nan false else num
  | .e2m1 => num
  | .p3109 =>
    if c = 0x80 then .nan false
    else if f.infCode = some body then .inf neg
    else num
  | .p3109z =>
    if c = 0xFF then .nan false
    else if f.infCode = some c then .inf false
    else num

/-- The exact value of an integer of `n` bits. -/
def intVal (n : Nat) (signed : Bool) (x : Nat) : Val :=
  let v : Int := if signed then sextOf x n else ((x % 2 ^ n : Nat) : Int)
  .fin (decide (v < 0)) v.natAbs 0

/-- The exact value of a code of a type. -/
def NumType.decode : NumType → Nat → Val
  | .int n s, x => intVal n s x
  | .flt f, x => f.decode x

/-- R101: DAZ reads a subnormal as a zero of its sign. -/
def Fmt.daz (f : Fmt) (on : Bool) (v : Val) : Val :=
  match v with
  | .fin neg m e => if on && f.wide && decide (m < 2 ^ (f.prec - 1)) then .fin neg 0 e else v
  | v => v

/-- A source of a float instruction, with DAZ applied. -/
def Fmt.read (f : Fmt) (fmode : DWord) (x : Nat) : Val := f.daz (fmodeDAZ fmode) (f.decode x)

/-- The signed integer that a finite value is, times 2^-e. -/
def signedOf (neg : Bool) (m : Nat) : Int := if neg then -(m : Int) else m

/-- A finite value from a signed integer. -/
def finOf (x : Int) (e : Int) : Val := .fin (decide (x < 0)) x.natAbs e

/-- R89: NV for a signalling NaN. -/
def Val.sig : Val → BitVec 6
  | .nan true => flagNV
  | _ => 0

/-- The sign that IEEE 754 gives an exact zero sum of unlike zeros or opposite values (R148, R398). -/
def zeroSign (rm : Nat) : Bool := rm == 3

/-- The exact sum (R148); ∞ - ∞ raises NV. -/
def Val.add (rm : Nat) : Val → Val → Val × BitVec 6
  | .nan a, y => (.nan false, (Val.nan a).sig ||| y.sig)
  | x, .nan b => (.nan false, x.sig ||| (Val.nan b).sig)
  | .inf a, .inf b => if a = b then (.inf a, 0) else (.nan false, flagNV)
  | .inf a, _ => (.inf a, 0)
  | _, .inf b => (.inf b, 0)
  | .fin sa ma ea, .fin sb mb eb =>
    let e := min ea eb
    let x := signedOf sa (ma * 2 ^ (ea - e).toNat) + signedOf sb (mb * 2 ^ (eb - e).toNat)
    if x = 0 then
      (.fin (if ma = 0 ∧ mb = 0 ∧ sa = sb then sa else zeroSign rm) 0 e, 0)
    else (finOf x e, 0)

/-- The opposite value. -/
def Val.neg : Val → Val
  | .nan a => .nan a
  | .inf a => .inf (!a)
  | .fin s m e => .fin (!s) m e

/-- The exact product (R148); 0 times ∞ raises NV. -/
def Val.mul : Val → Val → Val × BitVec 6
  | .nan a, y => (.nan false, (Val.nan a).sig ||| y.sig)
  | x, .nan b => (.nan false, x.sig ||| (Val.nan b).sig)
  | .inf a, .inf b => (.inf (a != b), 0)
  | .inf a, .fin s m _ => if m = 0 then (.nan false, flagNV) else (.inf (a != s), 0)
  | .fin s m _, .inf b => if m = 0 then (.nan false, flagNV) else (.inf (b != s), 0)
  | .fin sa ma ea, .fin sb mb eb => (.fin (sa != sb) (ma * mb) (ea + eb), 0)

/-- The exact product and sum of `ffma`; 0 times ∞ raises NV whatever the addend (R398). -/
def Val.fma (rm : Nat) (a b c : Val) : Val × BitVec 6 :=
  let p := a.mul b
  let r := p.1.add rm c
  (r.1, p.2 ||| r.2)

/-- The order of two values that are no NaN, with -0 = +0: less, equal or greater. -/
def Val.compare : Val → Val → Ordering
  | .inf a, .inf b => if a = b then .eq else if a then .lt else .gt
  | .inf a, _ => if a then .lt else .gt
  | _, .inf b => if b then .gt else .lt
  | .fin sa ma ea, .fin sb mb eb =>
    let e := min ea eb
    Ord.compare (signedOf sa (ma * 2 ^ (ea - e).toNat)) (signedOf sb (mb * 2 ^ (eb - e).toNat))
  | _, _ => .eq

/-- A NaN. -/
def Val.isNan : Val → Bool
  | .nan _ => true
  | _ => false

/-- The value is negative, or a zero of negative sign. -/
def Val.negative : Val → Bool
  | .nan _ => false
  | .inf s => s
  | .fin s _ _ => s

/-- R149: `a` lies below `b` in the order in which -0 is below +0. -/
def Val.below (a b : Val) : Bool :=
  match a.compare b with
  | .lt => true
  | .gt => false
  | .eq => a.negative && !b.negative

/-- R149: `fmin` and `fmax`. -/
def Val.minmax (isMax : Bool) (a b : Val) : Val × BitVec 6 :=
  let f := a.sig ||| b.sig
  if a.isNan then (b, f)
  else if b.isNan then (a, f)
  else if a.below b = isMax then (b, f) else (a, f)

/-! ### Rounding -/

/-- The state of one rounding: mode, overflow behaviour, FTZ, and the random draw (R96, R97, R101). -/
structure Round where
  rm : Nat
  ovf : Bool
  ftz : Bool
  draw : Nat
  deriving DecidableEq, Repr

/-- The rounding of an instruction under FMODE. -/
def Round.ofMode (fmode : DWord) (draw : Nat) : Round := ⟨fmodeRM fmode, fmodeOVF fmode, fmodeFTZ fmode, draw⟩

/-- Rounding to nearest, ties to even, without modes. -/
def Round.rne (ftz : Bool) : Round := ⟨0, false, ftz, 0⟩

/-- R96, R97: |x| = m * 2^e (plus something below one unit of `m` when `sticky`) to a multiple of 2^q: the multiple, and whether
it is inexact. At precision 1 both neighbours of a tie have significand 1, and R96's even significand picks neither: the larger
magnitude is taken (DESIGN CHOICE, log 78). -/
def Round.quantum (r : Round) (neg : Bool) (m : Nat) (e : Int) (sticky : Bool) (q : Int) : Nat × Bool :=
  if q ≤ e then (m * 2 ^ (e - q).toNat, sticky)
  else
    let d := (q - e).toNat
    let n := m / 2 ^ d
    let rest := m % 2 ^ d
    let inexact := decide (rest ≠ 0) || sticky
    let up := match r.rm with
      | 0 => decide (2 ^ d < 2 * rest) || (decide (2 * rest = 2 ^ d) && (sticky || decide (n % 2 = 1)))
      | 1 => false
      | 2 => !neg && inexact
      | 3 => neg && inexact
      | 4 => decide (2 ^ d ≤ 2 * rest)
      | _ => inexact && decide (2 ^ 32 ≤ 2 ^ 32 * rest / 2 ^ d + r.draw)
    (if up then n + 1 else n, inexact)

/-- The exponent of the leading bit of a positive value. -/
def leadExp (m : Nat) (e : Int) : Int := (Nat.log2 m : Int) + e

/-- The largest finite value of a format. -/
def Fmt.largest (f : Fmt) : Nat × Int :=
  match f.decode f.maxCode with
  | .fin _ m e => (m, e)
  | _ => (0, 0)

/-- m * 2^e exceeds n * 2^k. -/
def exceeds (m : Nat) (e : Int) (n : Nat) (k : Int) : Bool :=
  let b := min e k
  decide (n * 2 ^ (k - b).toNat < m * 2 ^ (e - b).toNat)

/-- The code of a value that the format holds: n * 2^q with q the quantum of its binade. -/
def Fmt.encode (f : Fmt) (neg : Bool) (n : Nat) (q : Int) : Nat :=
  let body :=
    if n = 0 then 0
    else
      let lead := leadExp n q
      if lead < f.emin then n * 2 ^ (q - (f.emin - (f.prec - 1 : Nat))).toNat
      else
        let t := if (f.prec - 1 : Nat) ≤ Nat.log2 n then n / 2 ^ (Nat.log2 n - (f.prec - 1)) else n * 2 ^ (f.prec - 1 - Nat.log2 n)
        (lead - f.emin + 1).toNat * 2 ^ (f.prec - 1) + (t - 2 ^ (f.prec - 1))
  if neg && f.signed && !(f.kind == .p3109 && n == 0) then body + 2 ^ (f.width - 1) else body

/-- R107: what an overflow delivers. -/
def Fmt.overflow (f : Fmt) (r : Round) (neg : Bool) : Nat :=
  let s := if neg && f.signed then 2 ^ (f.width - 1) else 0
  let big := s + f.maxCode
  if f.wide then
    let inf := s + f.infCode.getD 0
    match r.rm with
    | 1 => big
    | 2 => if neg then big else inf
    | 3 => if neg then inf else big
    | _ => inf
  else if !r.ovf then big
  else match f.infCode, f.nanCode with
    | some i, _ => s + i
    | none, some n => n
    | none, none => big

/-- The canonical NaN of a format; `e2m1`, which has none, gives +0 with NV (R89, R106). -/
def Fmt.nan (f : Fmt) : Nat × BitVec 6 :=
  match f.nanCode with
  | some n => (n, 0)
  | none => (0, flagNV)

/-- R96, R105, R107: rounds a finite value; `sticky` as `Round.quantum`. -/
def Fmt.roundFin (f : Fmt) (r : Round) (neg : Bool) (m : Nat) (e : Int) (sticky : Bool) : Nat × BitVec 6 :=
  if m = 0 ∧ sticky = false then (f.encode neg 0 0, 0)
  else
    let lead := leadExp m e
    let free := lead - (f.prec - 1 : Nat)
    let qmin := f.emin - (f.prec - 1 : Nat)
    let top := f.largest
    -- R97: the grid of SR goes on with the spacing of the largest binade
    let qtop := leadExp top.1 top.2 - (f.prec - 1 : Nat)
    let q := max free qmin
    let q := if r.rm = 5 then min q qtop else q
    let n := r.quantum neg m e sticky q
    let u := r.quantum neg m e sticky free
    let tiny := !(exceeds u.1 free 1 f.emin) && !(decide (leadExp u.1 free = f.emin))
    if !f.signed && neg then
      if n.1 = 0 then (0, flagNX ||| (if tiny then flagUF else 0))
      else ((if r.ovf then f.nanCode.getD 0 else 0), flagNV)
    else if exceeds (if r.rm = 5 then n.1 else u.1) (if r.rm = 5 then q else free) top.1 top.2 then
      (f.overflow r neg, flagOF ||| flagNX)
    else
      let fl := if n.2 then flagNX ||| (if tiny then flagUF else 0) else 0
      if r.ftz && f.wide && decide (n.1 ≠ 0) && decide (leadExp n.1 q < f.emin) then
        (f.encode neg 0 0, fl ||| flagUF ||| flagNX)
      else (f.encode neg n.1 q, fl)

/-- R106, R107: `Round_t` of an exact value for a float format. -/
def Fmt.round (f : Fmt) (r : Round) : Val → Nat × BitVec 6
  | .nan _ => f.nan
  | .inf neg =>
    if neg && !f.signed then ((if r.ovf then f.nanCode.getD 0 else 0), flagNV)
    else match f.infCode with
      | some i => if f.wide || r.ovf then ((if neg then 2 ^ (f.width - 1) else 0) + i, 0)
        else (f.overflow r neg, flagOF ||| flagNX)
      | none => (f.overflow r neg, flagOF ||| flagNX)
  | .fin neg m e => f.roundFin r neg m e false

/-- R106: float to integer. -/
def roundInt (n : Nat) (signed : Bool) (r : Round) : Val → Nat × BitVec 6
  | .nan _ => (0, flagNV)
  | .inf neg => (wrapOf n (if signed then (if neg then -(2 ^ (n - 1) : Nat) else (2 ^ (n - 1) : Nat) - 1)
      else (if neg then 0 else (2 ^ n : Nat) - 1)), flagNV)
  | .fin neg m e =>
    let k := r.quantum neg m e false 0
    let y := signedOf neg k.1
    let c := if signed then satS n y else satZ n y
    (wrapOf n c.1, if c.2 then flagNV else if k.2 then flagNX else 0)

/-- `Round_t` for any type of R348. -/
def NumType.round (t : NumType) (r : Round) (v : Val) : Nat × BitVec 6 :=
  match t with
  | .int n s => roundInt n s r v
  | .flt f => f.round r v

/-- The code of a value that `fmin` or `fmax` returns: it is not rounded (R398). -/
def Fmt.codeOf (f : Fmt) : Val → Nat
  | .nan _ => f.nan.1
  | .inf neg => (if neg then 2 ^ (f.width - 1) else 0) + f.infCode.getD 0
  | .fin neg m e => (f.roundFin (Round.rne false) neg m e false).1

/-! ### Random bits (R98, R99) -/

/-- One round of Philox4x32-10: the counter words after it. -/
def philoxRound (k0 k1 : Word) (c : Word × Word × Word × Word) : Word × Word × Word × Word :=
  let p0 : DWord := 0xD2511F53#64 * c.1.zeroExtend 64
  let p1 : DWord := 0xCD9E8D57#64 * c.2.2.1.zeroExtend 64
  (p1.extractLsb' 32 32 ^^^ c.2.1 ^^^ k0, p1.setWidth 32, p0.extractLsb' 32 32 ^^^ c.2.2.2 ^^^ k1, p0.setWidth 32)

/-- R98: the ten rounds. -/
def philoxGo : Nat → Word → Word → Word × Word × Word × Word → Word × Word × Word × Word
  | 0, _, _, c => c
  | n + 1, k0, k1, c => philoxGo n (k0 + 0x9E3779B9#32) (k1 + 0xBB67AE85#32) (philoxRound k0 k1 c)

/-- R98: `Draw` for a global lane id, a counter value and a draw index. -/
def drawFor (seed ctr : DWord) (glid : Word) (d : Nat) : Nat :=
  let w := philoxGo 10 (seed.setWidth 32) (seed.extractLsb' 32 32)
    (glid, ctr.setWidth 32, ctr.extractLsb' 32 32, BitVec.ofNat 32 (d / 4))
  (match d % 4 with
   | 0 => w.1
   | 1 => w.2.1
   | 2 => w.2.2.1
   | _ => w.2.2.2).toNat

/-- R98: the global lane id of lane 0 of a group. -/
def Ident.glid0 (x : Ident) : Word :=
  (x.teamId * x.ngrp.zeroExtend 32 + x.gidx.zeroExtend 32) * BitVec.ofNat 32 Config.gwidth

/-- R98: a lane's draw of an instruction that issues at a port. -/
def Group.draw (g : Group) (p : Port) (j d : Nat) : Nat :=
  drawFor g.modes.rngseed (g.rngctr p) (g.id.glid0 + BitVec.ofNat 32 j) d

/-- R99: the instruction consumes a draw: its rounding mode is SR. -/
def Group.drawing (g : Group) (p : Port) : Bool := fmodeRM (g.fmode p) == 5

/-- The rounding of draw index `d` in a lane under FMODE; the draw is formed under SR only. -/
def Group.rounding (g : Group) (p : Port) (j d : Nat) : Round :=
  Round.ofMode (g.fmode p) (if g.drawing p then g.draw p j d else 0)

end Sys2Proof.Machine
end

