-- ==== Sys2Proof/Machine/Order.lean ====
section
/-! DEFINITION. The abstract memory machine as far as every access needs it: scope nodes and paths, what a read finds, path order and
the entries a new one is ordered after, tags and their matching, counters (R174-R177, R210-R219). -/

namespace Sys2Proof.Machine

/-! ### Scope nodes (R211, R212) -/

/-- R211: the nodes of a group from its leaf upward; the system node holds no buffer, since every byte it holds is at home there. -/
def Group.nodes (g : Group) : List Node :=
  [.grp g.id.uid, .team g.id.team, .cluster (clusterOf g.id.core), .die (dieOf g.id.core).toNat, .module, .fabric]

/-- The rank of a node: the code of its scope (R179). -/
def Node.rank : Node → Nat
  | .grp _ => 0
  | .team _ => 1
  | .cluster _ => 2
  | .die _ => 3
  | .module => 4
  | .fabric => 5

/-- R212: the node that holds the home value of a scratchpad byte; every other byte is at home at the system node. -/
def Loc.home : Loc → Option Node
  | .spad t _ => some (.team t)
  | _ => none

/-- The nodes below the home node of a byte, leaf first. -/
def Group.below (g : Group) (l : Loc) : List Node :=
  match l.home with
  | some n => g.nodes.takeWhile (fun x => x != n)
  | none => g.nodes

/-! ### Bytes of locations -/

/-- How far a byte lies above the first byte of a location. -/
def Loc.minus : Loc → Loc → Option Nat
  | .mem a, .mem b => if b ≤ a then some (a - b) else none
  | .spad t a, .spad u b => if t = u ∧ b ≤ a then some (a - b) else none
  | .region r a, .region q b => if r = q ∧ b ≤ a then some (a - b) else none
  | _, _ => none

/-- Two units share a byte. -/
def overlap (a : Loc) (n : Nat) (b : Loc) (m : Nat) : Bool :=
  decide (0 < n) && decide (0 < m) && ((match a.minus b with | some k => decide (k < m) | none => false) ||
    (match b.minus a with | some k => decide (k < n) | none => false))

/-- The byte of a number. -/
def byteOf (x : BitVec 64) (k : Nat) : Byte := x.extractLsb' (8 * k) 8

/-- R213: the newest write to a byte in the buffers of some nodes, leaf first. -/
def newestIn (bufs : List BufWrite) (byte : Loc) : List Node → Option (BufWrite × Nat)
  | [] => none
  | n :: ns =>
    match (bufs.filter (fun b => b.node == n && overlap byte 1 b.loc b.size)).getLast? with
    | some b => some (b, (byte.minus b.loc).getD 0)
    | none => newestIn bufs byte ns

/-- The home value of a byte with the tag of the synchronising write that wrote it, if one did. -/
def State.homeTag (s : State) (l : Loc) : Option Tag := (s.homeTags.find? (fun x => x.1 == l)).map (fun x => x.2)

/-- R213: what a byte reads as through the nodes below its home, and the tag of the synchronising write it reads. -/
def State.byteVia (s : State) (nodes : List Node) (l : Loc) : Byte × Option Tag :=
  match newestIn s.bufs l nodes with
  | some (b, k) => (byteOf b.data k, b.tag)
  | none => (s.homeByte l, s.homeTag l)

/-- R213: what an aligned unit reads as for a group, and the tags it reads. -/
def State.unitVia (s : State) (g : Group) (l : Loc) (n : Nat) : Nat × List Tag :=
  let bs := (List.range n).map (fun i => s.byteVia (g.below l) (l.add i))
  (ofBytes (bs.map (fun x => x.1)), (bs.filterMap (fun x => x.2)).dedup)

/-! ### Tags (R216-R219) -/

/-- R216: the tag of a write of a group at a scope. -/
def Group.tag (g : Group) (scope : BitVec 3) : Tag :=
  { grp := g.id.uid, team := g.id.team, core := g.id.core, outside := false, scope := scope }

/-- R211, R245: the narrowest scope that holds the writer of a tag and a group; a writer outside the module's groups names it. -/
def Group.narrowest (g : Group) (t : Tag) : Nat :=
  if t.outside then t.scope.toNat
  else if t.grp = g.id.uid then 0
  else if t.team = g.id.team then 1
  else if clusterOf t.core = clusterOf g.id.core then 2
  else if dieOf t.core = dieOf g.id.core then 3
  else 4

/-- R218: an acquire at a scope is matched with a tag that it reads. -/
def Group.matched (g : Group) (scope : BitVec 3) (t : Tag) : Bool :=
  decide (g.narrowest t ≤ t.scope.toNat) && decide (g.narrowest t ≤ scope.toNat)

/-- R217: no buffer below the instance of a scope on a path of nodes holds a write. In a module that is in no window, `.f` names the module
(R211). -/
def State.clearBelow (s : State) (nodes : List Node) (scope : Nat) : Bool :=
  let scope := if scope = 5 ∧ s.windows.isEmpty = true then 4 else scope
  let ns := nodes.filter (fun n => decide (n.rank < scope))
  !(s.bufs.any (fun b => ns.contains b.node))

/-- R217: no buffer below the instance of a scope on the path of a group holds a write. -/
def State.released (s : State) (g : Group) (scope : Nat) : Bool := s.clearBelow g.nodes scope

/-- R211: the path of the writer that a tag names; that of a host is the system node alone. -/
def Tag.nodes (t : Tag) : List Node :=
  if t.outside then []
  else [.grp t.grp, .team t.team, .cluster (clusterOf t.core), .die (dieOf t.core).toNat, .module, .fabric]

/-! ### Path order (R73, R215) -/

/-- Two accesses of one group lie in path order: same stream, and a common lane, whose history both belong to. -/
def onPath (set1 : Bool) (m1 : Lanes) (set2 : Bool) (m2 : Lanes) : Bool := set1 == set2 && decide (m1 &&& m2 ≠ 0)

/-- R213: an engine command, which is no access of its group. -/
def EntryKind.isEngine : EntryKind → Bool
  | .engine _ => true
  | _ => false

/-- R213: an entry that reads. -/
def EntryKind.reads : EntryKind → Bool
  | .load | .atomic .. | .cas _ => true
  | _ => false

/-- R213: an entry that writes. -/
def EntryKind.writes : EntryKind → Bool
  | .store | .atomic .. | .cas _ => true
  | _ => false

/-- R216, R224, R465: an entry whose write can be a synchronising one: a store, an atomic, the posting of a message, the release of a
`spawn`. -/
def EntryKind.publishes : EntryKind → Bool
  | .mailbox | .spawn _ _ => true
  | k => k.writes

/-- A mark of the path between two accesses of it. -/
def Group.markBetween (g : Group) (x : Entry) (setter : Bool) (mask : Lanes) (p : MarkKind → Bool) : Bool :=
  g.marks.any (fun k => decide (x.serial ≤ k.serial) && p k.kind && onPath x.setter x.mask k.setter k.mask &&
    onPath k.setter k.mask setter mask)

/-- R215: an entry already in the out-queue comes strictly before a new access of a stream and mask; `rel` where the access is itself a
release, `writes` where it is a write, which comes after what precedes a release fence before it. -/
def Group.strictly (g : Group) (x : Entry) (setter : Bool) (mask : Lanes) (loc : Loc) (size : Nat) (writes rel : Bool) : Bool :=
  if onPath x.setter x.mask setter mask then
    rel || overlap x.loc x.size loc size ||
      g.markBetween x setter mask (fun k => match k with
        | .join => true
        | .relFence _ => writes
        | .acqFence _ => false)
  else !setter && x.setter && decide (x.serial < g.horizon)

/-- R215, R219: an entry already in the out-queue is an acquire point that comes before a new access. -/
def Group.weakly (_ : Group) (x : Entry) (setter : Bool) (mask : Lanes) : Bool :=
  onPath x.setter x.mask setter mask && x.acq.isSome

/-- R216: the widest scope of the release fences before a write of a path. -/
def Group.fenceScope (g : Group) (setter : Bool) (mask : Lanes) : Option (BitVec 3) :=
  g.marks.foldl (fun acc k => match k.kind with
    | .relFence sc => if onPath k.setter k.mask setter mask then
        (match acc with | some a => some (if a.toNat < sc.toNat then sc else a) | none => some sc) else acc
    | _ => acc) none

/-- R216: the scope of the tag of a write at a port: that of its release and those of the release fences before it, the widest. -/
def Group.writeScope (g : Group) (p : Port) (rel : Option (BitVec 3)) : Option (BitVec 3) :=
  match rel, g.fenceScope (decide (p = .setter)) (g.maskAt p) with
  | some a, some b => some (if a.toNat < b.toNat then b else a)
  | some a, none => some a
  | none, b => b

/-- R215: what comes before an access that is ordered after an entry, through a chain: strictly, and through acquire points only. The reads of
an acquire fence are its point, so what they are ordered after counts for them. -/
def Group.chained (g : Group) (x : Entry) : List Nat × List Nat :=
  match x.kind with
  | .fence =>
    let rs := g.outq.filter (fun y => x.after.contains y.id)
    (rs.flatMap (fun y => y.after), rs.flatMap (fun y => y.weak))
  | _ => (x.after, x.weak)

/-- R215, R217: the accesses in the out-queue that a release access of a port is ordered after. -/
def Group.releaseAfter (g : Group) (p : Port) : List Nat :=
  let setter := decide (p = .setter)
  (g.outq.filter (fun x => !x.kind.isEngine && (onPath x.setter x.mask setter (g.maskAt p) ||
    (!setter && x.setter && decide (x.serial < g.horizon))))).map (fun x => x.id)

/-- R222: the entries that a command with ACQ waits for: every earlier one in path order. -/
def Group.acquireAfter (g : Group) (p : Port) : List Nat :=
  let setter := decide (p = .setter)
  (g.outq.filter (fun x => onPath x.setter x.mask setter (g.maskAt p) ||
    (!setter && x.setter && decide (x.serial < g.horizon)))).map (fun x => x.id)

/-- A new entry of the instruction that issues at a port, with what it is ordered after (R213, R215). A write behind a release fence carries the
tag of the fence, and is ordered after what precedes the fence alone. A synchronising write waits for acquire points too, since every entry
that it is ordered after has to have performed (R217). Where the instruction pops a set queue itself, its own entry is not behind the setter's accesses
before that push (DESIGN CHOICE, log 104). -/
def Group.entry (g : Group) (p : Port) (id lane off : Nat) (kind : EntryKind) (loc : Loc) (size : Nat) (data data2 : BitVec 64)
    (acq rel : Option (BitVec 3)) (full : Bool) : Entry :=
  let setter := decide (p = .setter)
  let mask := g.maskAt p
  let own := kind.publishes && rel.isSome
  let rel := if kind.publishes then g.writeScope p rel else none
  let old := g.outq.filter (fun x => decide (x.serial < g.serial) && !x.kind.isEngine)
  let strict := old.filter (fun x => g.strictly x setter mask loc size kind.publishes own)
  let points := old.filter (fun x => g.weakly x setter mask)
  let after := (strict.map (fun x => x.id) ++ (strict ++ points).flatMap (fun x => (g.chained x).1)).dedup
  let weak := ((points.map (fun x => x.id) ++ (strict ++ points).flatMap (fun x => (g.chained x).2)).dedup).filter (fun i => !after.contains i)
  { id := id, serial := g.serial, setter := setter, mask := mask, lane := lane, byteOff := off, kind := kind, loc := loc, size := size, va := 0, win := none,
    data := data, data2 := data2, acq := acq, rel := rel,
    after := if rel.isSome then after ++ weak else after, weak := if rel.isSome then [] else weak, overtaken := false, reads := [], full := full }

/-- An entry leaves the out-queue; the acquire points that it was ordered after are overtaken. -/
def Group.leaves (g : Group) (e : Entry) : Group :=
  { g with outq := (g.outq.filter (fun x => x.id != e.id)).map (fun x => if e.weak.contains x.id then { x with overtaken := true } else x) }

/-- R213: the entry of an engine command of a port, with what its dispatch waits for (R222). -/
def Group.engineEntry (g : Group) (p : Port) (id cmd : Nat) (after : List Nat) : Entry :=
  { id := id, serial := g.serial, setter := decide (p = .setter), mask := g.maskAt p, lane := 0, byteOff := 0, kind := .engine cmd, loc := .mem 0,
    size := 0, va := 0, win := none, data := 0, data2 := 0, acq := none, rel := none, after := after, weak := [], overtaken := false,
    reads := [], full := false }

/-! ### In-flight counters (R174, R175) -/

/-- R174: the value of a counter. -/
def Group.counter (g : Group) (path : BitVec 3) : Nat := (g.inflight.filter (fun f => decide (f.path = some path))).length

/-- R175: an issue that would take a counter past 255 waits. -/
def Group.counterFull (g : Group) (path : BitVec 3) : Bool := decide (255 ≤ g.counter path)

/-- The instruction that issues at a port, as it goes in flight. -/
def Group.launched (g : Group) (p : Port) (path : Option (BitVec 3)) (kind : FlightKind) (dest : Dest) (lanes : Lanes) (done : Bool) :
    InFlight :=
  { serial := g.serial, path := path, kind := kind, dest := dest, lanes := lanes, pc := g.pcAt p, done := done }

/-- Puts an instruction in flight. -/
def Group.addFlight (g : Group) (f : InFlight) : Group := { g with inflight := g.inflight ++ [f] }

/-- Changes the instruction in flight of a serial. -/
def Group.updateFlight (g : Group) (serial : Nat) (f : InFlight → InFlight) : Group :=
  { g with inflight := updateWhere (fun x => x.serial == serial) f g.inflight }

/-! ### Reads at issue -/

/-- R215: an older write of the path is still to perform on one of these bytes, so a read of them at issue waits. -/
def Group.pendingOn (g : Group) (p : Port) (l : Loc) (n : Nat) : Bool :=
  g.outq.any (fun x => x.kind.writes && onPath x.setter x.mask (decide (p = .setter)) (g.maskAt p) && overlap x.loc x.size l n)

/-- The bytes of a group's scratchpad as it reads them at issue (R128, R179, R193, R254), through its own buffer (R213). -/
def State.spadBytes (s : State) (g : Group) (off n : Nat) : List Byte :=
  (List.range n).map (fun i => (s.byteVia (g.below (.spad g.id.team 0)) (.spad g.id.team (off + i))).1)

/-- R215, R67: no access that a release access of the port is ordered after is still in the out-queue. -/
def Group.settledBefore (g : Group) (p : Port) : Bool := (g.releaseAfter p).isEmpty

/-- R215: an access of the port to some bytes that takes place as its instruction issues: what it is ordered after has performed. -/
def Group.mayAccess (g : Group) (p : Port) (loc : Loc) (size : Nat) (kind : EntryKind) : Bool :=
  let e := g.entry p 0 0 0 kind loc size 0 0 none none false
  !(g.outq.any (fun x => e.after.contains x.id || e.weak.contains x.id))

/-- R215-R217: a write of the port to some bytes of the home values that takes place as its instruction issues: what it is ordered after has
performed, no buffer on the path holds a write to one of the bytes, and where it follows a release fence its release condition holds. -/
def State.mayWrite (s : State) (p : Port) (loc : Loc) (size : Nat) : Bool :=
  s.g.mayAccess p loc size .store && !(s.bufs.any (fun b => (s.g.below loc).contains b.node && overlap b.loc b.size loc size)) &&
    (s.g.writeScope p none).all (fun sc => s.released s.g sc.toNat)

/-- R217: a release access of the port at a scope can perform now. -/
def State.mayRelease (s : State) (p : Port) (scope : Nat) : Bool := s.g.settledBefore p && s.released s.g scope

/-- Adds a mark to the path order, in place of an older one of the same kind and path. -/
def Group.addMark (g : Group) (p : Port) (k : MarkKind) : Group :=
  let m : Mark := { serial := g.serial, setter := decide (p = .setter), mask := g.maskAt p, kind := k }
  { g with marks := g.marks.filter (fun x => !(x.setter == m.setter && decide (x.mask = m.mask) && decide (x.kind = k))) ++ [m] }

/-- R251: the size of the window of a group's team. -/
def State.windowSize (s : State) (g : Group) : Nat := ((s.team g.id.team).map (fun t => t.size)).getD 0

end Sys2Proof.Machine
end

