-- ==== Sys2Proof/Machine/Regions.lean ====
section
/-! DEFINITION. Pages of shade regions: allocation, filling, clean pages, candidates and fade steps (R190, R195-R202). -/

namespace Sys2Proof.Machine

/-- The physical address of a storage key under an interleave code: the inverse of `storageKey` (R173). -/
def physicalOf (code : BitVec 3) (k : Nat) : Nat :=
  if tierOf k = some 0 then
    let l := k % 256 + 256 * (k / 4096)
    let st := bitsOf k 11 8
    if code.toNat < 4 then
      let b := 2 * code.toNat + 8
      l % 2 ^ b + st * 2 ^ b + l / 2 ^ b * 2 ^ (b + 4)
    else l + st * 2 ^ 36
  else k

/-- A storage key lies in a 64 KiB page. -/
def inPage (code : BitVec 3) (phys k : Nat) : Bool :=
  decide (phys ≤ physicalOf code k) && decide (physicalOf code k < phys + 65536)

/-- R196: a page filled with the shade image; its sectors are good. -/
def State.fillPage (s : State) (r : Region) (phys : Nat) : State :=
  let code := s.poolCode r.pool
  let m := s.mem.filter (fun c => !(inPage code phys c.1))
  let m := if r.shade = 0 then m else (List.range 65536).foldl (fun m i =>
    Memory.write m (storageKey code (phys + i)) (r.shadeAt (r.base + i))) m
  { s with mem := m }.renew (fun x => inPage code phys (32 * x)) (fun x => inPage code phys (32 * x))

/-- R199: the bitmap of a lit page is empty. -/
def State.pageClean (s : State) (r : Region) (p : LitPage) : Bool :=
  let code := s.poolCode r.pool
  if r.shade = 0 then !(s.mem.any (fun c => inPage code p.phys c.1))
  else (List.range 65536).all (fun i => Memory.read s.mem (storageKey code (p.phys + i)) == r.shadeAt (r.base + i))

/-- R200, R293: a block that an action of an attention cache has still to write lies on a page. -/
def Region.hasBlock (r : Region) (page : Nat) (a : KvAct) : Bool :=
  let va := a.base + 256 * (a.new.toNat / 65536)
  a.root == r.root && decide (va < r.base + 65536 * (page + 1)) && decide (r.base + 65536 * page < va + 512 + 128 * a.dim)

/-- R200: an access that was translated to a page has still to perform. -/
def State.pageBusy (s : State) (r : Region) (page : Nat) : Bool :=
  let hit := fun l : Loc => match l with
    | .region root va => root == r.root && decide (r.base + 65536 * page ≤ va) && decide (va < r.base + 65536 * (page + 1))
    | _ => false
  s.groups.any (fun g => g.outq.any (fun e => hit e.loc) || g.inflight.any (fun f => match f.kind with
    | .kv _ acts _ => !f.done && acts.any (r.hasBlock page)
    | _ => false)) || s.bufs.any (fun b => hit b.loc)

/-- Changes the lit pages of a region. -/
def State.setLit (s : State) (r : Region) (f : List LitPage → List LitPage) : State :=
  { s with regions := s.regions.map (fun q => if q.same r then { q with lit := f q.lit } else q) }

/-- Changes the free pages of a pool. -/
def State.setFree (s : State) (n : BitVec 8) (f : List Nat → List Nat) : State :=
  { s with pools := s.pools.map (fun p => if p.num = n then { p with free := f p.free } else p) }

/-- R200: a fade step on a page with no access under way: taken, or abandoned. The translations of the page leave every cache; a
region has none there (R187). -/
def State.fade (s : State) (r : Region) (page : Nat) : State :=
  match s.regions.find? (fun q => q.same r) with
  | none => s
  | some r => match r.litPage page with
    | none => s
    | some p =>
      if s.pageClean r p && !p.held then
        (s.setLit r (fun l => l.filter (fun x => x.index != page))).setFree r.pool (fun f => f ++ [p.phys])
      else s.setLit r (updateWhere (fun x => x.index == page) (fun x => { x with candidate := false }))

/-- The candidates of the deferred regions of a pool, lowest page address first (R199, R201): the lowest virtual address, over the regions of every
address space that take their pages from the pool (DESIGN CHOICE, log 101). -/
def State.candidates (s : State) (n : BitVec 8) : List (Region × Nat) :=
  let all := (s.regions.filter (fun r => decide (r.pool = n) && decide (r.fade = 1) && !r.gone)).flatMap (fun r =>
    (r.lit.filter (fun p => p.candidate && !p.held)).map (fun p => (r, p.index)))
  sortBy (fun x y => decide (x.1.base + 65536 * x.2 ≤ y.1.base + 65536 * y.2)) all

/-- How an allocation ends: granted, refused (SHADE_FULL), or waiting for accesses that a fade step lets perform. -/
inductive Grant where
  | granted (s : State)
  | refused (s : State)
  | waits (s : State)

/-- R201: fades candidates until a page of the pool is free. -/
def State.makeRoom (n : BitVec 8) : List (Region × Nat) → State → Grant
  | [], s => .refused s
  | (r, page) :: rest, s =>
    if s.pageBusy r page then .waits s
    else
      let s := s.fade r page
      if s.pools.any (fun p => decide (p.num = n) && !p.free.isEmpty) then .granted s else makeRoom n rest s

/-- R196: takes a free page of the pool for a page of a region. -/
def State.light (s : State) (r : Region) (page : Nat) : Option State :=
  match (s.pools.find? (fun p => decide (p.num = r.pool))).bind (fun p => p.free.head?) with
  | none => none
  | some phys =>
    let s := s.setFree r.pool (fun f => f.drop 1)
    let s := s.fillPage r phys
    some (s.setLit r (fun l => l ++ [{ index := page, phys := phys, held := false, candidate := false, lighter := none }]))

/-- R196, R197, R201: allocates a dark page. -/
def State.allocate (s : State) (r : Region) (page : Nat) : Grant :=
  match s.light r page with
  | some t => .granted t
  | none => match s.makeRoom r.pool (s.candidates r.pool) with
    | .granted t => match t.light r page with
      | some t => .granted t
      | none => .refused t
    | x => x

/-- Changes every lit page. -/
def State.mapLit (s : State) (f : Region → LitPage → LitPage) : State :=
  { s with regions := s.regions.map (fun r => { r with lit := r.lit.map (f r) }) }

/-- R197, R199: the pages that a store of a group has lit, so far to no end, while another of its allocations waits: those that were dark in
`s0`. -/
def State.claimLit (s s0 : State) (uid : Nat) : State :=
  s.mapLit (fun r p => if s0.regions.any (fun q => q.same r && (q.litPage p.index).isSome) then p else { p with lighter := some uid })

/-- R199: a lit page that its store leaves unwritten: a candidate where it is clean and HELD is clear. -/
def State.leftLit (s : State) (r : Region) (p : LitPage) : LitPage :=
  { p with lighter := none, candidate := p.candidate || (s.pageClean r p && !p.held) }

/-- R199: pages that were lit for a store which will not be tried again are left as they are. -/
def State.dropLighters (s : State) : State :=
  s.mapLit (fun r p => match p.lighter with
    | none => p
    | some uid => match s.group uid with
      | some g => if !g.ended && (decide (g.slot0.wait = .alloc) || decide (g.slot1.wait = .alloc) || decide (g.setWait = .alloc)) then p
        else s.leftLit r p
      | none => s.leftLit r p)

/-- The region and the page of an address, if that page is dark. -/
def State.darkPage (s : State) (root va : Nat) : Option (Region × Nat) :=
  match s.regionOf root va with
  | none => none
  | some r => if (r.litPage (r.pageOf va)).isNone then some (r, r.pageOf va) else none

/-- R189: bytes equal the shade image at their addresses. -/
def Region.isShade (r : Region) (va n data : Nat) : Bool :=
  (List.range n).all (fun i => BitVec.ofNat 8 (data / 256 ^ i) == r.shadeAt (va + i))

/-- The bytes of lit pages that a byte of device memory backs. -/
def State.litAt (s : State) (k : Nat) : List (Nat × Nat) :=
  s.regions.flatMap (fun r => (r.lit.filter (fun p => inPage (s.poolCode r.pool) p.phys k)).map (fun p =>
    (r.root, r.base + 65536 * p.index + (physicalOf (s.poolCode r.pool) k - p.phys))))

/-- The bytes of regions that a write of a location writes. -/
def State.regionBytes (s : State) (l : Loc) : List (Nat × Nat) :=
  match l with
  | .region root va => [(root, va)]
  | .mem k => s.litAt k
  | .spad _ _ => []

/-- R199: after a write at home, a page of a region whose bitmap has emptied with HELD clear becomes a candidate. -/
def State.noteClean (s : State) (root va : Nat) (before : Bool) : State :=
  match s.regionOf root va with
  | none => s
  | some r => match r.litPage (r.pageOf va) with
    | none => s
    | some p =>
      let now := s.pageClean r p
      if now && !before && !p.held then
        s.setLit r (updateWhere (fun x => x.index == p.index) (fun x => { x with candidate := true }))
      else if !now then s.setLit r (updateWhere (fun x => x.index == p.index) (fun x => { x with candidate := false }))
      else s

/-- Whether the page of a region byte is clean; false where there is none. -/
def State.cleanAt (s : State) (root va : Nat) : Bool :=
  match s.regionOf root va with
  | none => false
  | some r => match r.litPage (r.pageOf va) with
    | none => false
    | some p => s.pageClean r p

/-- R199: a step that writes some location, with what it makes of the pages that it writes. -/
def State.noting (s : State) (l : Loc) (f : State → State) : State :=
  (s.regionBytes l).foldl (fun t x => t.noteClean x.1 x.2 (s.cleanAt x.1 x.2)) (f s)

end Sys2Proof.Machine
end

