-- ==== Sys2Proof/Machine/Bounds.lean ====
section
/-! DEFINITION. The bounds of tracked K blocks, and which of them a write affects (R288, R297). -/

namespace Sys2Proof.Machine

/-- R285, R288: the bytes of an element, and its format. -/
def kvBytes (fmt : BitVec 2) : Nat := if fmt = 0 then 2 else 1
def kvType (fmt : BitVec 2) : NumType :=
  match fmt.toNat with
  | 0 => .flt .bf16
  | 1 => .flt .e4m3
  | 2 => .flt .e5m2
  | _ => .int 8 true

/-- The location of an address of an address space, where it has one. -/
def State.locAt (s : State) (root va : Nat) : Option Loc :=
  match s.translate none root va .read with
  | .ok t => some t.loc
  | .error _ => none

/-- R184: the target lies on a page under a write-protect window. -/
def Target.mig : Target → Bool
  | .phys _ l => l.mig
  | .region _ _ => false

/-- R288: the size of a block. -/
def TrackedBlock.size (b : TrackedBlock) : Nat := 512 + 64 * b.dim * kvBytes b.fmt

/-- How far a location lies behind another; a byte of memory that backs a lit page stands for its byte of the page. -/
def State.apart (s : State) (l m : Loc) : Option Nat :=
  match l.minus m with
  | some d => some d
  | none => (s.keyOf m).bind (fun k => l.minus (.mem k))

/-- The offset in a block at which a byte of memory lies. -/
def State.offsetIn (s : State) (b : TrackedBlock) (l : Loc) : Option Nat :=
  if b.nvme then none else (List.range (roundUp b.size 64 / 64)).findSome? (fun k =>
    match s.locAt b.root (b.va + 64 * k) with
    | none => none
    | some m => match s.apart l m with
      | some d => if d < 64 ∧ 64 * k + d < b.size then some (64 * k + d) else none
      | none => none)

/-- A magnitude as a `bf16` code; the conversion is exact (R297). -/
def boundOf (t : NumType) (x : Nat) : Nat :=
  match t.decode x with
  | .nan _ => 0x7FC0
  | .inf _ => 0x7F80
  | .fin _ m e => (Fmt.bf16.round (Round.rne false) (.fin false m e)).1

/-- R297: the greater of two bounds; NaN is the greatest. -/
def maxBound (a b : Nat) : Nat :=
  match Fmt.bf16.decode a, Fmt.bf16.decode b with
  | .nan _, _ => a
  | _, .nan _ => b
  | x, y => if x.below y then b else a

/-- R288, R297: where the bound of an element's channel lies, in the header of its block. -/
def State.boundAt (s : State) (b : TrackedBlock) (element : Nat) : Option Target :=
  match s.translate none b.root ((b.va + 2 * (element % b.dim) : Nat) : Int) .read with
  | .ok t => some t
  | .error _ => none

/-- R297: the tracked blocks and the elements of their rows that a write of some bytes touches. -/
def State.rowsAt (s : State) (l : Loc) (n : Nat) : List (TrackedBlock × Nat) :=
  (s.tracked.flatMap (fun b => (List.range n).filterMap (fun i => (s.offsetIn b (l.add i)).bind (fun o =>
    if o < 512 then none else some (b, (o - 512) / kvBytes b.fmt))))).dedup

/-- R297: the bound of the channel of an element after its write: its old one, or the magnitude of the element. -/
def State.boundAfter (s : State) (b : TrackedBlock) (element : Nat) (y : Loc) : Nat :=
  let z := kvBytes b.fmt
  match s.locAt b.root (b.va + 512 + element * z) with
  | some x => maxBound (s.homeRead y 2) (boundOf (kvType b.fmt) (s.homeRead x z))
  | none => s.homeRead y 2

end Sys2Proof.Machine
end

