-- ==== Sys2Proof/Machine/Record.lean ====
section
/-! DEFINITION. What a debug block records of accesses: the order log, the sectors accessed since a checkpoint, and their prior contents
(R282, R284). -/

namespace Sys2Proof.Machine

/-- R284: a log entry as a number. -/
def logEntry (addr kind ncont : Nat) (atom wr : Bool) (task : BitVec 40) (pc order : Nat) : Nat :=
  order % 2 ^ 64 + pc % 2 ^ 56 * 2 ^ 64 + task.toNat * 2 ^ 120 + (if wr then 2 ^ 160 else 0) + (if atom then 2 ^ 161 else 0) +
    ncont % 2 ^ 16 * 2 ^ 176 + kind * 2 ^ 192 + addr % 2 ^ 56 * 2 ^ 200

/-- Changes the debug block of a task. -/
def State.modDebug (s : State) (task : BitVec 40) (f : DebugBlock → DebugBlock) : State :=
  { s with recorders := updateWhere (fun d => decide (d.task = task)) f s.recorders }

/-- The address of the next entry of a log. -/
def DebugBlock.next (d : DebugBlock) : Nat := d.log + 32 * (d.inLog % max 1 d.logn)

/-- R282, R284: 32 bytes into a log; a full log makes a checkpoint due. -/
def State.putLog (s : State) (task : BitVec 40) (x : Nat) : State :=
  match s.recorders.find? (fun d => decide (d.task = task)) with
  | none => s
  | some d =>
    { s with mem := Memory.writeNat s.mem d.next 32 x }.modDebug task (fun d =>
      { d with inLog := d.inLog + 1, due := d.due || decide (d.logn ≤ d.inLog + 1) })

/-- R284: the 32-byte parts of some contents. -/
def chunks32 : Nat → List Byte → List Nat
  | 0, _ => []
  | n + 1, bs => if bs.isEmpty then [] else ofBytes (bs.take 32) :: chunks32 n (bs.drop 32)

/-- R282, R284: an event enters the log of a debug grid. Behind it each 32 bytes of its contents follow a continuation entry, KIND 7 with the
ORDER of its head (DEDUCED, log 47). -/
def State.logIn (s : State) (d : DebugBlock) (addr kind : Nat) (atom wr : Bool) (task : BitVec 40) (pc : Nat) (contents : List Byte) : State :=
  let cs := chunks32 200 contents
  let s := s.putLog d.task (logEntry addr kind cs.length atom wr task pc d.order)
  let s := cs.foldl (fun s c => (s.putLog d.task (logEntry 0 7 0 false false 0 0 d.order)).putLog d.task c) s
  s.modDebug d.task (fun d => { d with order := d.order + 1 })

/-- R282: the accesses of other parties to a sector since the checkpoint make an access one to log. -/
def conflicts (l : List Nat) (party : Nat) (wr : Bool) : Bool := l.any (fun x => x / 2 != party && (wr || x % 2 == 1))

/-- The sectors as which a byte is recorded: that of its address in a region, and that of its place in memory where it has one. Scratchpad has
none. -/
def State.sectorsOf (s : State) (l : Loc) : List Loc :=
  match l with
  | .mem k => [.mem (k / 32)]
  | .region r a => .region r (a / 32) :: ((s.keyOf l).map (fun k => Loc.mem (k / 32))).toList
  | .spad _ _ => []

/-- R282, R284: keeps the prior contents of a sector that the grid writes, once; an area that cannot hold them makes a checkpoint due, which the
device takes before the instruction that writes it where it can (`State.reserve`, log 99). -/
def State.keepSector (s : State) (d : DebugBlock) (names : List Loc) (l : Loc) (va : Nat) : State :=
  if names.any (fun l => d.saved.contains l) then s
  else if d.cksz * 4096 < d.used + 40 then s.modDebug d.task (fun d => { d with due := true, full := true })
  else
    let bs := (List.range 32).map (fun i => match l with
      | .mem k => s.homeByte (.mem (32 * k + i))
      | .region r a => s.homeByte (.region r (32 * a + i))
      | .spad t a => s.homeByte (.spad t (32 * a + i)))
    let m := Memory.writeBytes s.mem (d.ckpt + d.used) (toBytes 8 (va / 32 * 32) ++ bs)
    let m := Memory.writeNat m (d.ckpt + 20) 4 (Memory.readNat s.mem (d.ckpt + 20) 4 + 1)
    { s with mem := m }.modDebug d.task (fun d => { d with used := d.used + 40, saved := d.saved ++ names })

/-- R282: an access performs: `party` 0 is outside the module's groups. -/
def State.observe (s : State) (grp : Option Group) (loc : Loc) (va pc : Nat) (wr atom : Bool) : State :=
  let names := s.sectorsOf loc
  match names with
  | [] => s
  | l :: _ =>
    let party := match grp with
      | some g => g.id.uid + 1
      | none => 0
    (s.recorders.filter (fun d => d.recording)).foldl (fun s d =>
      match s.recorders.find? (fun x => decide (x.task = d.task)) with
      | none => s
      | some d =>
        let mine := match grp with
          | some g => decide (g.id.task = d.task)
          | none => false
        let seen := (d.touched.filter (fun x => names.contains x.1)).flatMap (fun x => x.2)
        let s := if mine && wr then s.keepSector d names l va else s
        let s := match grp with
          | some g => if mine && conflicts seen party wr then s.logIn d (va / 32 * 32) 1 atom wr g.id.task pc [] else s
          | none => s
        s.modDebug d.task (fun d => { d with
          touched := names.map (fun l => (l, ((2 * party + (if wr then 1 else 0)) :: seen).dedup)) ++
            d.touched.filter (fun x => !(names.contains x.1)) })) s

/-- R282: an access of an instruction of a group performs. -/
def State.observeAccess (s : State) (uid serial : Nat) (loc : Loc) (va : Nat) (wr atom : Bool) : State :=
  match s.group uid with
  | none => s
  | some g =>
    let pc := match g.inflight.find? (fun f => f.serial == serial) with
      | some f => f.pc.toNat
      | none => 0
    s.observe (some g) loc va pc wr atom

/-- R282, R297: the prior contents of a sector that a write of a group changes beside its own bytes. -/
def State.keepFor (s : State) (grp : Nat) (l : Loc) (va : Nat) : State :=
  match s.group grp, s.sectorsOf l with
  | some g, x :: xs => (s.recorders.filter (fun d => d.recording && decide (d.task = g.id.task))).foldl (fun s d => s.keepSector d (x :: xs) x va) s
  | _, _ => s

end Sys2Proof.Machine
end

