-- ==== Sys2Proof/Machine/Home.lean ====
section
/-! DEFINITION. What comes about at a write's home and beside it: tags of synchronising writes, physical writes and context images in the
pool, error records, flags and STICKY bits of a group whose image the handler holds, halos, poison and bitmaps (R104, R105, R170, R171,
R199, R216-R219, R249, R271, R272, R281, R333, R484). -/

namespace Sys2Proof.Machine

/-! ### Tags (R216, R218, R219) -/

/-- Writes the tag of a synchronising write, or of none, at the bytes of a unit (R216). -/
def State.setTags (s : State) (l : Loc) (n : Nat) (t : Option Tag) : State :=
  { s with homeTags := (match t with
      | some t => (List.range n).map (fun i => (l.add i, t))
      | none => []) ++ s.homeTags.filter (fun x => !(overlap x.1 1 l n)) }

/-- The tag of a write of the device or the host at `.s` (R216, R218). -/
def outsideTag : Tag := { grp := 0, team := 0, core := 0, outside := true, scope := 6 }

/-- R218, R219: a group has read the synchronising writes of some tags. One that its path has read before says no more. -/
def Group.noteTags (g : Group) (e : Entry) (tags : List Tag) : Group :=
  let known := fun (t : Tag) => g.readTags.any (fun r => decide (r.serial ≤ e.serial) && r.setter == e.setter && decide (r.mask = e.mask) &&
    decide (r.tag = t))
  { g with readTags := g.readTags ++ (tags.filter (fun t => !known t)).map (fun t =>
      { serial := e.serial, setter := e.setter, mask := e.mask, tag := t : ReadTag }) }

/-- R216, R217: the release condition of an atomic that takes over the tags of what it reads: below each tag's scope on the path of the tag's
group no buffer holds a write, and where that group is its own, every entry that it is ordered after has performed. -/
def State.inheritMay (s : State) (g : Group) (e : Entry) (tags : List Tag) : Bool :=
  e.rel.isSome || tags.all (fun t => s.clearBelow t.nodes t.scope.toNat &&
    (t.outside || decide (t.grp ≠ g.id.uid) || g.outq.all (fun x => !e.weak.contains x.id)))

/-! ### Physical writes and context images -/

/-- Writes bytes at a physical address of tier 0 or 1, with their halos (R170); a sector that is written whole is good again (R171). -/
def State.writePhysical (s : State) (pa : Nat) (bs : List Byte) : State :=
  { s with mem := Memory.writeBytes s.mem pa bs }.renew (fun x => decide (pa < 32 * x + 32) && decide (32 * x < pa + bs.length))
    (fun x => decide (pa ≤ 32 * x) && decide (32 * x + 32 ≤ pa + bs.length))

/-- R484: the offset of an image in the pool. -/
def imageOffset (k : Nat) : Nat := 48 * 1024 * k

/-- The physical address of a group's image. -/
def State.imagePa (s : State) (g : Group) : Option Nat :=
  match s.ctxPool, g.id.image with
  | some p, some k => some (p.pbase + imageOffset k)
  | _, _ => none

/-- R272, R484: TRAPIMG of a group. -/
def State.imageVa (s : State) (g : Group) : DWord :=
  match s.ctxPool, g.id.image with
  | some p, some k => (p.vbase + BitVec.ofNat 64 (imageOffset k)) &&& 0x00FF_FFFF_FFFF_FFFF#64
  | _, _ => 0

/-- Reads a number of an image. -/
def State.imageRead (s : State) (pa off n : Nat) : Nat := Memory.readNat s.mem (pa + off) n

/-- R271: a handler run has the group's registers in hand. -/
def State.inHandler (s : State) (g : Group) : Bool :=
  s.groups.any (fun h => decide (h.id.kind ≠ .ordinary) && !h.ended && !h.trapRegs.notice && h.trapRegs.trapped == g.id.uid)

/-- R271: bits that are set in a state register while the handler has it in hand go into the image as well, at an offset of it. -/
def State.mirrorBits (s : State) (uid off : Nat) (fl : DWord) : State :=
  match s.group uid with
  | none => s
  | some g => match s.imagePa g with
    | none => s
    | some pa => if s.inHandler g then s.writePhysical (pa + off) (toBytes 8 (BitVec.ofNat 64 (s.imageRead pa off 8) ||| fl).toNat) else s

/-- R273: a sector of an image is poisoned, or cannot be read. -/
def State.imagePoisoned (s : State) (pa : Nat) : Bool :=
  (s.poison ++ s.failing).any (fun x => decide (pa ≤ 32 * x) && decide (32 * x < pa + 48 * 1024))

/-- R115, R260, R271, R278: a result that comes back while the handler has the group's registers in hand, while the group is pre-empted, or while
its register lines are pushed out, goes into the image as well. Of a group that only has its lines there, it is the line that is written. -/
def State.mirror (s : State) (uid : Nat) (d : Dest) (m : Lanes) (pushed : DWord) : State :=
  match s.group uid with
  | none => s
  | some g => match s.imagePa g with
    | none => s
    | some pa =>
      let line := fun (s : State) (n : Nat) =>
        let old := BitVec.ofNat 2048 (s.imageRead pa (0x2800 + 256 * n) 256)
        s.writePhysical (pa + 0x2800 + 256 * n) (toBytes 256 (laneWrite m (fun j => lane (g.v n) j) old).toNat)
      let tagged := fun (s : State) (n : Nat) =>
        ((line s n).writePhysical (pa + 0x740) (toBytes 16 g.regs.dark.toNat)).writePhysical (pa + 0x750)
          (toBytes 16 (g.regs.absorb &&& g.regs.dark).toNat)
      if s.inHandler g || g.stopped then match d with
        | .none => s
        | .v n pair => if pair then tagged (tagged s n) (n + 1) else tagged s n
        | .s n => s.writePhysical (pa + 0x400 + 8 * n) (toBytes 8 (g.s n).toNat)
        | .a n => s.writePhysical (pa + 0x600 + 8 * n) (toBytes 8 (g.a n).toNat)
        | .q n =>
          let count := s.imageRead pa (0xC8 + n) 1
          let pos := (s.imageRead pa (0xD0 + n) 1 + count) % 16
          (s.writePhysical (pa + 0x800 + 128 * n + 8 * pos) (toBytes 8 pushed.toNat)).writePhysical (pa + 0xC8 + n) (toBytes 1 (count + 1))
      else if g.spilled then match d with
        | .v n pair => if pair then line (line s n) (n + 1) else line s n
        | _ => s
      else s

/-- R264, R271: an instruction at which a stream was parked completes normally while the handler has the group's registers in hand: the pc behind
it, and its result, go into the image as well. -/
def State.mirrorStep (s : State) (uid : Nat) (p : Port) (d : Dest) (m : Lanes) : State :=
  match s.group uid with
  | none => s
  | some g => match s.imagePa g with
    | none => s
    | some pa =>
      let at_ := match p with
        | .slot0 => 0
        | .slot1 => 0x40
        | .setter => 0x88
      if s.inHandler g then (s.writePhysical (pa + at_) (toBytes 8 (g.pcAt p).toNat)).mirror uid d m 0 else s

/-- R132, R271: the same for a draw that a gang-wide command consumes. -/
def State.mirrorDraw (s : State) (uid : Nat) : State :=
  match s.group uid with
  | none => s
  | some g => match s.imagePa g with
    | none => s
    | some pa => if s.inHandler g then s.writePhysical (pa + 0x100) (toBytes 8 (s.imageRead pa 0x100 8 + 1)) else s

/-- R76, R271: the same for an allotment that has grown: the registers from `v24` up are zero, without tags. -/
def State.mirrorUpper (s : State) (uid : Nat) : State :=
  match s.group uid with
  | none => s
  | some g => match s.imagePa g with
    | none => s
    | some pa =>
      let low := fun (s : State) (off : Nat) => s.writePhysical (pa + off) (toBytes 16 (s.imageRead pa off 16 % 2 ^ 24))
      if s.inHandler g then low (low (s.writePhysical (pa + 0x2800 + 256 * 24) (toBytes (256 * (g.regs.allot - 24)) 0)) 0x740) 0x750 else s

/-- R104, R105: a result raises flags of a group. -/
def State.flagsFor (s : State) (uid : Nat) (fl : DWord) : State :=
  (s.modGroup uid (fun g => (g.raiseFlags fl).noteOutside fl)).mirrorBits uid 0xE8 fl

/-- R104: an access sets bits of STICKY of a group. -/
def State.stickyFor (s : State) (uid : Nat) (fl : DWord) : State := (s.modGroup uid (fun g => g.raiseSticky fl)).mirrorBits uid 0xF0 fl

/-- R218: an acquire point of an entry performs: a mismatched write sets STICKY.SCOPE. -/
def State.acquirePoint (s : State) (uid : Nat) (g : Group) (acq : Option (BitVec 3)) (tags : List Tag) : State :=
  match acq with
  | none => s
  | some sc => if tags.any (fun t => !(g.matched sc t)) then s.stickyFor uid stickySCOPE else s

/-! ### Error records (R281, R333) -/

/-- R281: the 32 bytes of an asynchronous memory-error record. -/
def errorRecord (va : Nat) (type : BitVec 8) (pa : Nat) (task : BitVec 40) (core : BitVec 10) (time : Nat) : Nat :=
  time % 2 ^ 64 + core.toNat * 2 ^ 64 + task.toNat * 2 ^ 88 + pa % 2 ^ 52 * 2 ^ 128 + type.toNat * 2 ^ 192 +
    va % 2 ^ 56 * 2 ^ 200

/-- R333: writes an error record into a die's ring as a synchronising write at `.s`, or drops it. -/
def State.postRecord (s : State) (die : BitVec 4) (rec : Nat) : State × Option Nat :=
  match s.dieCtl die with
  | none => (s, none)
  | some d => match d.ring with
    | none => (s, none)
    | some ring =>
      let w := Memory.readNat s.mem ring 4
      let r0 := Memory.readNat s.mem (ring + 8) 4
      let behind := (w + 2 ^ 32 - r0) % 2 ^ 32
      let behind := if 2 ^ 31 ≤ behind then 0 else behind
      if behind < 1024 then
        let at_ := ring + 64 + 32 * (w % 1024)
        let s := (s.writePhysical at_ (toBytes 32 rec)).setTags (.mem at_) 32 (some outsideTag)
        let s := s.writePhysical ring (toBytes 4 (w + 1))
        (s.event 6 (BitVec.ofNat 48 (die.toNat * 2 ^ 44 + w % 2 ^ 32)), some at_)
      else
        let n := Memory.readNat s.mem (ring + 4) 4
        (s.writePhysical (ring + 4) (toBytes 4 (min (n + 1) (2 ^ 32 - 1))), none)

/-- R281: posts a record about the sector of a storage key for a group: STICKY.MEMERR, and a notice entry of its core's handler slot. It stands
in the ring of the group's die, or, where there is no group, of the die at which the sector is at home (DESIGN CHOICE, log 86). -/
def State.memoryError (s : State) (grp : Nat) (type : BitVec 8) (va pa key : Nat) : State :=
  match s.group grp with
  | none => (s.postRecord (BitVec.ofNat 4 (homeDie key)) (errorRecord va type pa 0 0 s.clock)).1
  | some g =>
    let r := s.postRecord (dieOf g.id.core) (errorRecord va type pa g.id.task g.id.core s.clock)
    let s := r.1.stickyFor grp stickyMEMERR
    match r.2 with
    | none => s
    | some a => { s.modCore g.id.core (fun c => { c with notices := c.notices ++ [(s.nextTrap, a)] }) with
        nextTrap := s.nextTrap + 1 }

/-! ### Pages that a migration copies (R185, R186) -/

/-- A byte of the page that a migration moves: its offset in the page. -/
def Migration.offsetOf (m : Migration) (k : Nat) : Option Nat :=
  let pa := physicalOf m.oldCode k
  if m.oldPhys ≤ pa ∧ pa < m.oldPhys + m.cmd.size then some (pa - m.oldPhys) else none

/-- The storage keys of a byte of the old page and of the new page. -/
def Migration.oldKey (m : Migration) (off : Nat) : Nat := storageKey m.oldCode (m.oldPhys + off)
def Migration.newKey (m : Migration) (off : Nat) : Nat := storageKey m.cmd.newCode (m.cmd.newPhys + off)

/-- R169, R185: the number of lines of the page, and whether the bitmap marks them all. -/
def Migration.lines (m : Migration) : Nat := m.cmd.size / 128
def Migration.full (m : Migration) : Bool := decide (m.bitmap = 2 ^ m.lines - 1) && m.copying.isNone

/-- R170, R171: one entry of a list of sectors goes from a sector to another as it stands there. -/
def carryMark (old new : Nat) (l : List Nat) : List Nat :=
  if old ∈ l then (if new ∈ l then l else new :: l) else l.filter (fun x => x != new)

/-- R170, R171: a sector takes the bytes of another, with its halo and its state as it stands. -/
def State.carrySector (s : State) (old new : Nat) : State :=
  { s with
    mem := Memory.writeBytes s.mem (32 * new) (Memory.readBytes s.mem (32 * old) 32)
    halos := ((s.halos.filter (fun x => x.1 == old)).map (fun x => (new, x.2))) ++ s.halos.filter (fun x => x.1 != new)
    poison := carryMark old new s.poison
    failing := carryMark old new s.failing }

/-- R185: a sector of the page, by its offset, is written to the new page. -/
def State.carry (s : State) (m : Migration) (off : Nat) : State := s.carrySector (sectorOf (m.oldKey off)) (sectorOf (m.newKey off))

/-- R185: a line that a write on the old page has changed after its copy is written to the new page as well. -/
def State.alsoNew (s : State) (k : Nat) : State :=
  s.migs.foldl (fun s m => match m.offsetOf k with
    | some o => if m.bitmap.testBit (o / 128) then s.carry m (o / 32 * 32) else s
    | none => s) s

/-- R185: a byte lies in a line that is being copied, to which writes are held. -/
def State.lineHeld (s : State) (l : Loc) : Bool :=
  match s.keyOf l with
  | none => false
  | some k => s.migs.any (fun m => match m.offsetOf k with
    | some o => decide (m.copying = some (o / 128))
    | none => false)

/-- R184, R185: a write to a target waits for a migration: its page stands under a write-protect window, or its line is being copied. -/
def State.moveHolds (s : State) (t : Target) : Bool := t.mig || s.lineHeld t.loc

/-- R196: a byte that a copy or another engine writes: nothing on a dark page where it is the shade, else the page is allocated. -/
def State.preparePage (s : State) (l : Loc) (n data : Nat) : Grant :=
  match l with
  | .region root va => match s.darkPage root va with
    | none => .granted s
    | some (r, page) => if r.isShade va n data then .granted s else s.allocate r page
  | _ => .granted s

/-! ### Writes that reach their home -/

/-- The physical address of a byte of a lit page of a region; 0 where its page is dark. -/
def State.litPa (s : State) (root va : Nat) : Nat :=
  match s.regionOf root va with
  | some r => match r.litPage (r.pageOf va) with
    | some p => p.phys + (va - r.base) % 65536
    | none => 0
  | none => 0

/-- R281: the physical address of a sector, as the address space of a group names it, or as its lit page lies. -/
def State.sectorPa (s : State) (grp va : Nat) (l : Loc) : Nat :=
  let pa := match l with
    | .region root a => s.litPa root a
    | .spad _ _ => 0
    | .mem key => match (s.group grp).map (fun g => walk s.mem g.id.root va) with
      | some (.ok f) => if storageKey f.code (f.physical va) = key then f.physical va else physicalOf 0 key
      | _ => physicalOf 0 key
  pa / 32 * 32

/-- R171: a write reaches a sector of device memory: a part of a sector that is poisoned or cannot be read leaves it poisoned and posts a
record, all of it makes it good. -/
def State.sectorWritten (s : State) (grp : Nat) (l : Loc) (va k : Nat) (full : Bool) : State :=
  let n := sectorOf k
  if full then s.renew (fun x => x == n) (fun x => x == n)
  else
    let bad := decide (n ∈ s.poison) || decide (n ∈ s.failing)
    let t := s.renew (fun x => x == n) (fun _ => false)
    if bad then
      { t with
        poison := if n ∈ t.poison then t.poison else n :: t.poison
        failing := t.failing.filter (fun x => x != n) }.memoryError grp 1 va (s.sectorPa grp va l) k
    else t

/-- R170, R171, R185, R199: bytes reach the home values; their sector's halo, poison and ECC, a copy of their line, and their page's bitmap,
follow. -/
def State.arrive (s : State) (grp : Nat) (l : Loc) (va n v : Nat) (full : Bool) : State :=
  s.noting l (fun s =>
    let s := s.homeWrite l n v
    match s.keyOf l with
    | none => s
    | some k => (s.sectorWritten grp l va k full).alsoNew k)

/-- R196, R201, R297: raises the bound of the channel of an element, and whether that has to wait for a migration or for an allocation. A dark
page that holds the bound is allocated; where no page is free for it the bound stays (DESIGN CHOICE, log 97). -/
def State.raiseChannel (grp : Nat) (acc : State × Bool) (x : TrackedBlock × Nat) : State × Bool :=
  let s := acc.1
  match s.boundAt x.1 x.2 with
  | none => acc
  | some y =>
    let v := s.boundAfter x.1 x.2 y.loc
    let va := x.1.va + 2 * (x.2 % x.1.dim)
    match s.preparePage y.loc 2 v with
    | .granted t => ((t.keepFor grp y.loc va).arrive grp y.loc va 2 v false, acc.2 || s.moveHolds y)
    | .refused t => (t, acc.2)
    | .waits t => (t, true)

/-- R297: a write reaches the home values, with the bounds that it raises in the same step; and whether one of them has to wait. -/
def State.homeRaise (s : State) (grp : Nat) (l : Loc) (va n v : Nat) (full : Bool) : State × Bool :=
  let t := s.arrive grp l va n v full
  (t.rowsAt l n).foldl (State.raiseChannel grp) (t, false)

/-- R297: a write reaches the home values, with the bounds that it raises. -/
def State.homeArrive (s : State) (grp : Nat) (l : Loc) (va n v : Nat) (full : Bool) : State := (s.homeRaise grp l va n v full).1

/-- R185, R201, R297: a write of some bytes waits for the copy of its line, or until it can raise its bounds. -/
def State.writeHeld (s : State) (l : Loc) (n v : Nat) : Bool := s.lineHeld l || (s.homeRaise 0 l 0 n v false).2

/-- R184, R185, R196, R201: a write of the device in an address space, of some bytes on one page, by a party outside the grids; `none` where it
has to wait for a migration or an allocation. Bytes that do not translate, or that find no free page, are not written (DESIGN CHOICE, log 110). -/
def State.tryWrite (s : State) (root va n v : Nat) (tag : Option Tag) : Option State :=
  match s.translate none root va .write with
  | .error _ => some s
  | .ok t =>
    if s.moveHolds t then none
    else match s.preparePage t.loc n v with
      | .waits _ => none
      | .refused u => some u
      | .granted u =>
        let dark := match t.loc with
          | .region r a => (u.darkPage r a).isSome
          | _ => false
        if dark then some u
        else if u.writeHeld t.loc n v then none
        else some (((u.observe none t.loc va 0 true false).homeArrive 0 t.loc va n v false).setTags t.loc n tag)

/-- R249, R279: 8 bytes at an address of an address space, as a synchronising write at `.s`, or that it has to wait. -/
def State.tryDevice (s : State) (root va x : Nat) : Option State := s.tryWrite root va 8 x (some outsideTag)

/-- R197: a write of 8 bytes of the device has to wait. -/
def State.deviceWaits (s : State) (root va x : Nat) : Bool := (s.tryDevice root va x).isNone

/-- R249, R279: 8 bytes at an address of an address space, as a synchronising write at `.s`. -/
def State.deviceWrite (s : State) (root va x : Nat) : State := (s.tryDevice root va x).getD s

end Sys2Proof.Machine
end

