-- ==== Sys2Proof/Machine/Integer.lean ====
section
/-! DEFINITION. The integer lane instructions, their setter forms, and the moves between register classes
(R63, R146, R147, R152, R359-R382, R403, R424-R439, R452, R457, R471, R481). -/

namespace Sys2Proof.Machine

/-- R146: a unary lane operation. -/
def State.unary (i : Instr) (d : BitVec 7) (w : Bool) (a : BitVec 8) (f : Word → Word) (s : State) : State :=
  s.laneOp i d w (fun g p j => f (g.source p a j))

/-- R146: a binary lane operation. -/
def State.binary (i : Instr) (d : BitVec 7) (w : Bool) (a b : BitVec 8) (f : Word → Word → Word) (s : State) : State :=
  s.laneOp i d w (fun g p j => f (g.source p a j) (g.source p b j))

/-- R63: a 64-bit operation of the setter. -/
def State.setterOp (i : Instr) (d : BitVec 7) (a b : BitVec 8) (f : DWord → DWord → DWord) (s : State) : State :=
  s.plain i (fun g _ => g.setA d.toNat (f (g.a a.toNat) (g.a b.toNat)))

/-- An operation that both streams have (R63, R351). -/
def State.both (i : Instr) (d : BitVec 7) (w : Bool) (a b : BitVec 8) (f : Word → Word → Word) (f64 : DWord → DWord → DWord)
    (s : State) : State :=
  if s.port = .setter then s.setterOp i d a b f64 else s.binary i d w a b f

/-- R152: a 16-bit form: vD := vD op vS. -/
def State.short (i : Instr) (d : BitVec 6) (sc : BitVec 5) (f : Word → Word → Word) (s : State) : State :=
  s.binary i (d.zeroExtend 7) false (d.zeroExtend 8) (source16 sc) f

/-- R147: the shift count of a source. -/
def shiftCount {n : Nat} (b : BitVec n) : Nat := (b.extractLsb' 0 8).toNat

/-- R452: `shl`, `shr` and `sar`; a count of the width or more shifts everything out. -/
def shlOf {n : Nat} (a b : BitVec n) : BitVec n := a <<< shiftCount b
def shrOf {n : Nat} (a b : BitVec n) : BitVec n := a >>> shiftCount b
def sarOf (a b : Word) : Word := a.sshiftRight (shiftCount b)

/-- R359: the wrapped absolute value. -/
def absOf (a : Word) : Word := if a.msb then -a else a

/-- R380: leading zeros. -/
def clzOf (a : Word) : Word :=
  BitVec.ofNat 32 (((List.range 32).find? (fun k => a.getLsbD (31 - k))).getD 32)

/-- R437: set bits. -/
def popcOf (a : Word) : Word := BitVec.ofNat 32 ((List.range 32).filter (fun k => a.getLsbD k)).length

/-- R374: the bits in reverse order. -/
def brevOf (a : Word) : Word := BitVec.ofNat 32 (packBits (fun k => a.getLsbD (31 - k)) 32)

/-- R425. -/
def minSOf (a b : Word) : Word := if a.sle b then a else b
def maxSOf (a b : Word) : Word := if a.sle b then b else a
def minZOf (a b : Word) : Word := if a.ule b then a else b
def maxZOf (a b : Word) : Word := if a.ule b then b else a

/-- R436: the high half of the exact product. -/
def mulhSOf (a b : Word) : Word := (a.signExtend 64 * b.signExtend 64).extractLsb' 32 32
def mulhZOf (a b : Word) : Word := (a.zeroExtend 64 * b.zeroExtend 64).extractLsb' 32 32

/-- R370: position and field length of a bit field, cut at bit 31. -/
def fieldPos (b : Word) : Nat := (b.extractLsb' 0 5).toNat
def fieldLen (b : Word) : Nat := min (b.extractLsb' 8 6).toNat (32 - fieldPos b)

/-- R370: `bfx` and `bfi`. -/
def bfxZOf (a b : Word) : Word := BitVec.ofNat 32 (a.toNat / 2 ^ fieldPos b % 2 ^ fieldLen b)
def bfxSOf (a b : Word) : Word :=
  if fieldLen b = 0 then 0 else BitVec.ofInt 32 (sextOf (a.toNat / 2 ^ fieldPos b) (fieldLen b))
def bfiOf (d a b : Word) : Word :=
  let m : Word := BitVec.ofNat 32 ((2 ^ fieldLen b - 1) * 2 ^ fieldPos b)
  (d &&& ~~~m) ||| ((a <<< fieldPos b) &&& m)

/-- R403: the funnel shift. -/
def fshOf (x : DWord) (b : Word) : Word := (x >>> (b.extractLsb' 0 5).toNat).setWidth 32

/-- R110: the 4,096-bit value of a wide pair. -/
def Group.widePair (g : Group) (n : Nat) : BitVec 4096 := g.v (n + 1) ++ g.v n

/-- R110: writes a wide pair, every lane. -/
def Group.setWidePair (g : Group) (n : Nat) (x : BitVec 4096) : Group :=
  (g.setV n (x.setWidth 2048)).setV (n + 1) (x.extractLsb' 2048 2048)

/-- R433: the one value that a source gives a uniform register. -/
def Group.oneValue (g : Group) (p : Port) (c : BitVec 8) : DWord :=
  if c.toNat < 132 ∨ c.toNat = 149 then (g.source p c (lowest (g.pathMask p))).setWidth 64
  else g.uniform p c

/-- R364: `add`, 32 bits in each active lane or 64 bits in the setter. -/
def execAdd (d : BitVec 7) (w : Bool) (a b : BitVec 8) (s : State) : Answer :=
  .next (s.both (.add d w a b) d w a b (· + ·) (· + ·))

/-- R471: `sub`. -/
def execSub (d : BitVec 7) (w : Bool) (a b : BitVec 8) (s : State) : Answer :=
  .next (s.both (.sub d w a b) d w a b (· - ·) (· - ·))

/-- R435: `mul`, the low bits of the product. -/
def execMul (d : BitVec 7) (w : Bool) (a b : BitVec 8) (s : State) : Answer :=
  .next (s.both (.mul d w a b) d w a b (· * ·) (· * ·))

/-- R365: `and`. -/
def execAnd (d : BitVec 7) (w : Bool) (a b : BitVec 8) (s : State) : Answer :=
  .next (s.both (.and d w a b) d w a b (· &&& ·) (· &&& ·))

/-- R439: `or`. -/
def execOr (d : BitVec 7) (w : Bool) (a b : BitVec 8) (s : State) : Answer :=
  .next (s.both (.or d w a b) d w a b (· ||| ·) (· ||| ·))

/-- R481: `xor`. -/
def execXor (d : BitVec 7) (w : Bool) (a b : BitVec 8) (s : State) : Answer :=
  .next (s.both (.xor d w a b) d w a b (· ^^^ ·) (· ^^^ ·))

/-- R452: `shl`. -/
def execShl (d : BitVec 7) (w : Bool) (a b : BitVec 8) (s : State) : Answer :=
  .next (s.both (.shl d w a b) d w a b shlOf shlOf)

/-- R452: `shr`. -/
def execShr (d : BitVec 7) (w : Bool) (a b : BitVec 8) (s : State) : Answer :=
  .next (s.both (.shr d w a b) d w a b shrOf shrOf)

/-- R152: the 16-bit `add`. -/
def execAdd16 (sc : BitVec 5) (d : BitVec 6) (s : State) : Answer := .next (s.short (.add16 sc d) d sc (· + ·))

/-- R152: the 16-bit `sub`. -/
def execSub16 (sc : BitVec 5) (d : BitVec 6) (s : State) : Answer := .next (s.short (.sub16 sc d) d sc (· - ·))

/-- R152: the 16-bit `mul`. -/
def execMul16 (sc : BitVec 5) (d : BitVec 6) (s : State) : Answer := .next (s.short (.mul16 sc d) d sc (· * ·))

/-- R152: the 16-bit `and`. -/
def execAnd16 (sc : BitVec 5) (d : BitVec 6) (s : State) : Answer := .next (s.short (.and16 sc d) d sc (· &&& ·))

/-- R152: the 16-bit `or`. -/
def execOr16 (sc : BitVec 5) (d : BitVec 6) (s : State) : Answer := .next (s.short (.or16 sc d) d sc (· ||| ·))

/-- R152: the 16-bit `xor`. -/
def execXor16 (sc : BitVec 5) (d : BitVec 6) (s : State) : Answer := .next (s.short (.xor16 sc d) d sc (· ^^^ ·))

/-- R152: the 16-bit `shl`. -/
def execShl16 (sc : BitVec 5) (d : BitVec 6) (s : State) : Answer := .next (s.short (.shl16 sc d) d sc shlOf)

/-- R152: the 16-bit `shr`. -/
def execShr16 (sc : BitVec 5) (d : BitVec 6) (s : State) : Answer := .next (s.short (.shr16 sc d) d sc shrOf)

/-- R152: the 16-bit `min.s32`. -/
def execMinS3216 (sc : BitVec 5) (d : BitVec 6) (s : State) : Answer := .next (s.short (.minS3216 sc d) d sc minSOf)

/-- R152: the 16-bit `max.s32`. -/
def execMaxS3216 (sc : BitVec 5) (d : BitVec 6) (s : State) : Answer := .next (s.short (.maxS3216 sc d) d sc maxSOf)

/-- R436: `mulh.s32`. -/
def execMulhS32 (d : BitVec 7) (w : Bool) (a b : BitVec 8) (s : State) : Answer :=
  .next (s.binary (.mulhS32 d w a b) d w a b mulhSOf)

/-- R436: `mulh.z32`. -/
def execMulhZ32 (d : BitVec 7) (w : Bool) (a b : BitVec 8) (s : State) : Answer :=
  .next (s.binary (.mulhZ32 d w a b) d w a b mulhZOf)

/-- R425: `min.s32`. -/
def execMinS32 (d : BitVec 7) (w : Bool) (a b : BitVec 8) (s : State) : Answer :=
  .next (s.binary (.minS32 d w a b) d w a b minSOf)

/-- R425: `min.z32`. -/
def execMinZ32 (d : BitVec 7) (w : Bool) (a b : BitVec 8) (s : State) : Answer :=
  .next (s.binary (.minZ32 d w a b) d w a b minZOf)

/-- R425: `max.s32`. -/
def execMaxS32 (d : BitVec 7) (w : Bool) (a b : BitVec 8) (s : State) : Answer :=
  .next (s.binary (.maxS32 d w a b) d w a b maxSOf)

/-- R425: `max.z32`. -/
def execMaxZ32 (d : BitVec 7) (w : Bool) (a b : BitVec 8) (s : State) : Answer :=
  .next (s.binary (.maxZ32 d w a b) d w a b maxZOf)

/-- R452: `sar`. -/
def execSar (d : BitVec 7) (w : Bool) (a b : BitVec 8) (s : State) : Answer :=
  .next (s.binary (.sar d w a b) d w a b sarOf)

/-- R370: `bfx.s32`. -/
def execBfxS32 (d : BitVec 7) (w : Bool) (a b : BitVec 8) (s : State) : Answer :=
  .next (s.binary (.bfxS32 d w a b) d w a b bfxSOf)

/-- R370: `bfx.z32`. -/
def execBfxZ32 (d : BitVec 7) (w : Bool) (a b : BitVec 8) (s : State) : Answer :=
  .next (s.binary (.bfxZ32 d w a b) d w a b bfxZOf)

/-- R359: `abs.s32`. -/
def execAbs (d : BitVec 7) (w : Bool) (a : BitVec 8) (s : State) : Answer :=
  .next (s.unary (.abs d w a) d w a absOf)

/-- R437: `neg`. -/
def execNeg (d : BitVec 7) (w : Bool) (a : BitVec 8) (s : State) : Answer :=
  .next (s.unary (.neg d w a) d w a (fun x => -x))

/-- R437: `not`. -/
def execNot (d : BitVec 7) (w : Bool) (a : BitVec 8) (s : State) : Answer :=
  .next (s.unary (.not d w a) d w a (fun x => ~~~x))

/-- R380: `clz`. -/
def execClz (d : BitVec 7) (w : Bool) (a : BitVec 8) (s : State) : Answer :=
  .next (s.unary (.clz d w a) d w a clzOf)

/-- R437: `popc`. -/
def execPopc (d : BitVec 7) (w : Bool) (a : BitVec 8) (s : State) : Answer :=
  .next (s.unary (.popc d w a) d w a popcOf)

/-- R374: `brev`. -/
def execBrev (d : BitVec 7) (w : Bool) (a : BitVec 8) (s : State) : Answer :=
  .next (s.unary (.brev d w a) d w a brevOf)

/-- R370: `bfi`, which reads its destination. -/
def execBfi (d : BitVec 7) (a b : BitVec 8) (s : State) : Answer :=
  .next (s.laneOp (.bfi d a b) d false (fun g p j => bfiOf (lane (g.v d.toNat) j) (g.source p a j) (g.source p b j)))

/-- R403: `fsh`. -/
def execFsh (d : BitVec 7) (w : Bool) (a b : BitVec 8) (s : State) : Answer :=
  .next (s.laneOp (.fsh d w a b) d w (fun g p j => fshOf (g.pairV a.toNat j) (g.source p b j)))

/-- R424: `mad.s32`. -/
def execMadS32 (d : BitVec 7) (a b : BitVec 8) (s : State) : Answer :=
  .next (s.laneFlagOp (.madS32 d a b) d false false (fun g p j =>
    accS32 (g.fmode p) ((lane (g.v d.toNat) j).toInt + (g.source p a j).toInt * (g.source p b j).toInt)))

/-- R424: `mad.z32`. -/
def execMadZ32 (d : BitVec 7) (a b : BitVec 8) (s : State) : Answer :=
  .next (s.laneFlagOp (.madZ32 d a b) d false false (fun g p j =>
    accZ32 (g.fmode p) ((lane (g.v d.toNat) j).toNat + (g.source p a j).toNat * (g.source p b j).toNat : Nat)))

/-- R364: `add.s64`. -/
def execAddPair (d : BitVec 7) (a b : BitVec 8) (s : State) : Answer :=
  .next (s.pairOp (.addPair d a b) d (fun g p j => g.pair p a j + g.pair p b j))

/-- R471: `sub.s64`. -/
def execSubPair (d : BitVec 7) (a b : BitVec 8) (s : State) : Answer :=
  .next (s.pairOp (.subPair d a b) d (fun g p j => g.pair p a j - g.pair p b j))

/-- R435: `mul.s64`. -/
def execMulPair (d : BitVec 7) (a b : BitVec 8) (s : State) : Answer :=
  .next (s.pairOp (.mulPair d a b) d (fun g p j => g.pair p a j * g.pair p b j))

/-- R364: `add.wide`, every lane whatever the path mask. -/
def execAddWide (d : BitVec 7) (a b : BitVec 8) (s : State) : Answer :=
  .next (s.plain (.addWide d a b) (fun g _ => g.setWidePair d.toNat (g.widePair a.toNat + g.widePair b.toNat)))

/-- R471: `sub.wide`. -/
def execSubWide (d : BitVec 7) (a b : BitVec 8) (s : State) : Answer :=
  .next (s.plain (.subWide d a b) (fun g _ => g.setWidePair d.toNat (g.widePair a.toNat - g.widePair b.toNat)))

/-- R382: `cmp.cc.s32` to a predicate. -/
def execCmpS32P (d c : BitVec 3) (a b : BitVec 8) (s : State) : Answer :=
  .next (s.predOp (.cmpS32P d c a b) d.toNat (fun g p j => (condS c (g.source p a j) (g.source p b j), 0)))

/-- R382: `cmp.cc.s32` to a lane register. -/
def execCmpS32V (d : BitVec 4) (c : BitVec 3) (a b : BitVec 8) (s : State) : Answer :=
  .next (s.binary (.cmpS32V d c a b) (d.zeroExtend 7) false a b (fun x y => truth (condS c x y)))

/-- R382: `cmp.cc.z32` to a predicate. -/
def execCmpZ32P (d c : BitVec 3) (a b : BitVec 8) (s : State) : Answer :=
  .next (s.predOp (.cmpZ32P d c a b) d.toNat (fun g p j => (condZ c (g.source p a j) (g.source p b j), 0)))

/-- R382: `cmp.cc.z32` to a lane register. -/
def execCmpZ32V (d : BitVec 4) (c : BitVec 3) (a b : BitVec 8) (s : State) : Answer :=
  .next (s.binary (.cmpZ32V d c a b) (d.zeroExtend 7) false a b (fun x y => truth (condZ c x y)))

/-- R457: `sel`. -/
def execSel (d : BitVec 5) (q : BitVec 3) (a b : BitVec 8) (s : State) : Answer :=
  .next (s.laneOp (.sel d q a b) (d.zeroExtend 7) false (fun g p j =>
    if (g.p q.toNat).getLsbD j then g.source p a j else g.source p b j))

/-- R432: `mov` to a lane register, or between setter registers. -/
def execMov (d : BitVec 7) (w : Bool) (a : BitVec 8) (s : State) : Answer :=
  .next (if s.port = .setter then s.plain (.mov d w a) (fun g _ => g.setA d.toNat (g.a a.toNat))
    else s.unary (.mov d w a) d w a (fun x => x))

/-- R431: the 16-bit `mov`. -/
def execMov16 (sc : BitVec 5) (d : BitVec 6) (s : State) : Answer :=
  .next (s.unary (.mov16 sc d) (d.zeroExtend 7) false (source16 sc) (fun x => x))

/-- R65, R176, R417: a set queue is full, or an older `ldq` of the stream has still to push onto it. -/
def Group.queueBlocked (g : Group) (n : Nat) : Bool :=
  decide (16 ≤ (g.queues.getD n []).length) || g.owed n

/-- R432: the setter's push onto a set queue, which waits while it is full. The entry carries the place of the push in the setter's
order, by which the hitter accesses after its pop are ordered (R67). -/
def execMovPush (n : BitVec 3) (a : BitVec 8) (s : State) : Answer :=
  .next (s.issue (.movPush n a) (fun s =>
    if s.g.queueBlocked n.toNat then .later
    else .run (s.onGroup (fun g => { g with
      queues := g.queues.setIfInBounds n.toNat (g.queues.getD n.toNat [] ++ [(g.a a.toNat, g.serial)]) }))))

/-- R433: `mov` to a uniform register. -/
def execMovS (d : BitVec 7) (a : BitVec 8) (s : State) : Answer :=
  .next (s.plain (.movS d a) (fun g p => g.setS d.toNat (g.oneValue p a)))

/-- R433: `mov.hi`. -/
def execMovHi (d : BitVec 7) (a : BitVec 8) (s : State) : Answer :=
  .next (s.plain (.movHi d a) (fun g p =>
    g.setS d.toNat ((g.oneValue p a).setWidth 32 ++ (g.s d.toNat).setWidth 32)))

/-- R434: `movi`. -/
def execMovi (d : BitVec 7) (w : Bool) (i : BitVec 16) (s : State) : Answer :=
  .next (s.laneOp (.movi d w i) d w (fun _ _ _ => i.zeroExtend 32))

/-- R434: `movh`. -/
def execMovh (d : BitVec 7) (i : BitVec 16) (s : State) : Answer :=
  .next (s.laneOp (.movh d i) d false (fun g _ j => i ++ (lane (g.v d.toNat) j).setWidth 16))

/-- R438: `nop` changes no state. -/
def execNop (s : State) : Answer := .next (s.plain .nop (fun g _ => g))

end Sys2Proof.Machine
end

