-- ==== Sys2Proof/Machine/Poly.lean ====
section
/-! DEFINITION. Wide integers, digits and the polynomial instructions (R110-R122, R396, R404, R440, R441), with the posting of an
engine command to the reservation table (R115, R143). -/

namespace Sys2Proof.Machine

/-! ### The reservation table (R143) -/

/-- R143: the entries of a PME's reservation table. A grant frees the entry of its request (DESIGN CHOICE, log 71). -/
def State.reserved (s : State) (pme : Nat) : Nat := (s.pme.filter (fun r => r.pme == pme && !r.granted)).length

/-- R115, R134, R143, R213: an engine command of the group at the port: its request is posted, stands in the out-queue until its dispatch,
and the instruction is in flight on `mx`. -/
def State.post (s : State) (cmd : PmeCmd) (dest : Dest) (lanes : Lanes) (hold : Bool) : State :=
  let g := s.g
  let r : PmeReq := { id := s.nextUid, pme := clusterOf g.id.core, grp := g.id.uid, team := g.id.team, serial := g.serial,
                      core := g.id.core, level := g.modes.prioLevel, order := s.nextUid, grants := 0, granted := false,
                      checked := true, dispatched := false, cmd := cmd }
  { s with
    nextUid := s.nextUid + 2
    pme := s.pme ++ [r]
    g := { g with outq := g.outq ++ [g.engineEntry s.port (s.nextUid + 1) s.nextUid []] }.addFlight
      (g.launched s.port (some 4) (.engine s.nextUid hold) dest lanes false) }

/-- R115, R134: an engine command issues: its own trap, a full counter or reservation table, or the posting. -/
def State.engine (i : Instr) (trap : State → Option Cause) (cmd : State → PmeCmd) (dest : Dest) (hold : State → Bool)
    (s : State) : State :=
  s.issue i (fun s =>
    match trap s with
    | some c => .no c
    | none =>
      if s.g.counterFull 4 || decide (16 ≤ s.reserved (clusterOf s.g.id.core)) then .later
      else .run (s.post (cmd s) dest (s.g.maskAt s.port) (hold s)))

/-! ### Digits (R113) -/

/-- R110: the signed value of a wide register or pair. -/
def signedWide {n : Nat} (x : BitVec n) : Int := x.toInt

/-- R113: `n + 1` digits of spacing `w`; the last is what remains. -/
def digitsGo (w : Nat) : Nat → Int → List Int
  | 0, x => [x]
  | n + 1, x =>
    let d := sextOf (wrapOf w x) w
    d :: digitsGo w n ((x - d) / (2 ^ w : Nat))

/-- R113: `Digits(X, w)` of an integer of `bits` bits. -/
def digits (bits w : Nat) (x : Int) : List Int := digitsGo w ((bits + w - 1) / w - 1) x

/-- R113: the slot count of a pitch. -/
def slotCount (w : Nat) : Nat := min Config.gwidth (Config.gwidth * 32 / w)

/-- The sum of two digit sequences, the shorter one continued with zeros. -/
def addDigits : List Int → List Int → List Int
  | [], ys => ys
  | xs, [] => xs
  | x :: xs, y :: ys => (x + y) :: addDigits xs ys

/-- R118: the convolution of two digit sequences. -/
def convolve : List Int → List Int → List Int
  | [], _ => []
  | x :: xs, ys => addDigits (ys.map (x * ·)) (0 :: convolve xs ys)

/-! ### pack, pmul, extr (R117, R118, R120) -/

/-- R117: the digit of a lane, and whether it was clamped. -/
def packDigit (signed : Bool) (e : Nat) (x : Word) : Int × Bool := if signed then satS e x.toInt else satZ e (x.toNat : Int)

/-- R117: the packed value of the lanes' words. -/
def packed (signed rev : Bool) (w e : Nat) (src : Nat → Word) : Wide × BitVec 6 :=
  let n := slotCount w
  let ds := (List.range n).map (fun i => packDigit signed e (src i))
  let x : Int := sumInt ((List.range n).map (fun i =>
    (packDigit signed e (src i)).1 * ((2 ^ ((if rev then n - 1 - i else i) * w) : Nat) : Int)))
  (BitVec.ofInt 2048 x, if ds.any (fun d => d.2) then flagSAT else 0)

/-- R116: PITCH_MODE where the pitch is zero. -/
def State.needsPitch (s : State) : Option Cause :=
  if gmodePitch (s.g.gmode s.port) = 0 then some Cause.pitchMode else none

/-- R117: `pack`. -/
def State.pack (i : Instr) (signed rev : Bool) (d : BitVec 7) (a : BitVec 8) (s : State) : State :=
  s.engine i State.needsPitch (fun s =>
    let m := s.g.gmode s.port
    let r := packed signed rev (gmodePitch m) (gmodePitch m - gmodeGuard m) (s.g.source s.port a)
    .result [(d.toNat, r.1)] (r.2.setWidth 64) false false false) (.v d.toNat false) (fun _ => false)

/-- R118: the guard overflow of a product under a pitch. -/
def guardOverflow (w : Nat) (a b : Wide) : Bool :=
  (convolve (digits 2048 w (signedWide a)) (digits 2048 w (signedWide b))).any (fun c => decide (2 ^ (w - 1) ≤ c.natAbs))

/-- R118: the exact product as a wide pair. -/
def wideProduct (uns : Bool) (a b : Wide) : BitVec 4096 :=
  if uns then BitVec.ofNat 4096 (a.toNat * b.toNat) else BitVec.ofInt 4096 (signedWide a * signedWide b)

/-- The two registers of a wide pair. -/
def pairResult (d : BitVec 7) (x : BitVec 4096) : List (Nat × Wide) :=
  [(d.toNat, x.setWidth 2048), (d.toNat + 1, x.extractLsb' 2048 2048)]

/-- R120: the digits that `extr` places in the lanes, saturated to `n` bits. -/
def extracted (n w : Nat) (x : BitVec 4096) (base : Nat) : List (Int × Bool) :=
  let c := digits 4096 w (signedWide x)
  allLanes.map (fun i => satS n (c.getD (base + i) 0))

/-- R120: the flags of `extr`. -/
def extractFlags (x : List (Int × Bool)) : BitVec 64 := if x.any (fun d => d.2) then flagSAT.setWidth 64 else 0

/-- A lane of extracted digits. -/
def extractLane (x : List (Int × Bool)) (i : Nat) : DWord := BitVec.ofInt 64 (x.getD i (0, false)).1

/-- R117: `pack.s32`. -/
def execPackS32 (d : BitVec 7) (a : BitVec 8) (s : State) : Answer := .next (s.pack (.packS32 d a) true false d a)

/-- R117: `pack.z32`. -/
def execPackZ32 (d : BitVec 7) (a : BitVec 8) (s : State) : Answer := .next (s.pack (.packZ32 d a) false false d a)

/-- R117: `pack.rev.s32`. -/
def execPackRevS32 (d : BitVec 7) (a : BitVec 8) (s : State) : Answer := .next (s.pack (.packRevS32 d a) true true d a)

/-- R117: `pack.rev.z32`. -/
def execPackRevZ32 (d : BitVec 7) (a : BitVec 8) (s : State) : Answer := .next (s.pack (.packRevZ32 d a) false true d a)

/-- R118, R119: `pmul`: under GOVM 0 it holds the hitter issue of its group. -/
def execPmul (d : BitVec 7) (a b : BitVec 8) (s : State) : Answer :=
  .next (s.engine (.pmul d a b) (fun _ => none) (fun s =>
    let m := s.g.gmode s.port
    let x := s.g.v a.toNat
    let y := s.g.v b.toNat
    let ovf := decide (gmodePitch m ≠ 0) && guardOverflow (gmodePitch m) x y
    .result (pairResult d (wideProduct false x y)) 0 ovf (ovf && !gmodeGOVM m) true) (.v d.toNat true)
    (fun s => !gmodeGOVM (s.g.gmode s.port)))

/-- R118: `pmul.uns`, under PITCH 0 only. -/
def execPmulUns (d : BitVec 7) (a b : BitVec 8) (s : State) : Answer :=
  .next (s.engine (.pmulUns d a b)
    (fun s => if gmodePitch (s.g.gmode s.port) = 0 then none else some Cause.pitchMode)
    (fun s => .result (pairResult d (wideProduct true (s.g.v a.toNat) (s.g.v b.toNat))) 0 false false true)
    (.v d.toNat true) (fun _ => false))

/-- R120: `extr.s32`. -/
def execExtrS32 (d : BitVec 7) (a b : BitVec 8) (s : State) : Answer :=
  .next (s.engine (.extrS32 d a b) State.needsPitch (fun s =>
    let w := gmodePitch (s.g.gmode s.port)
    let base := s.g.operand32 s.port b
    let x := extracted 32 w (s.g.widePair a.toNat) base
    .result [(d.toNat, wideOf (fun i => (extractLane x i).setWidth 32))] (extractFlags x) false false false) (.v d.toNat false) (fun _ => false))

/-- R120: `extr.s64`. -/
def execExtrS64 (d : BitVec 7) (a b : BitVec 8) (s : State) : Answer :=
  .next (s.engine (.extrS64 d a b) State.needsPitch (fun s =>
    let w := gmodePitch (s.g.gmode s.port)
    let base := s.g.operand32 s.port b
    let x := extracted 64 w (s.g.widePair a.toNat) base
    .result [(d.toNat, wideOf (fun i => (extractLane x i).setWidth 32)),
             (d.toNat + 1, wideOf (fun i => (extractLane x i).extractLsb' 32 32))] (extractFlags x) false false false) (.v d.toNat true) (fun _ => false))

/-- R404: `gset`: an invalid pair is Illegal Instruction, more than one live path is MODE_DIVERGED. The pair that a value makes is judged behind
the traps of a queue that gives the value (DESIGN CHOICE, log 89). -/
def execGset (a b : BitVec 8) (s : State) : Answer :=
  .next (s.issue (.gset a b) (fun s =>
    let w := s.g.operand32 s.port a
    let gd := s.g.operand32 s.port b
    if 128 ≤ w ∨ 64 ≤ gd ∨ gmodeValid w gd = false then .no Cause.illegal
    else if s.g.diverged then .no Cause.modeDiverged
    else .run (s.onGroup (fun g => { g with modes := { g.modes with
      gmode := BitVec.ofNat 64 (w + 256 * gd + (if gmodeGOVM g.modes.gmode then 32768 else 0)) } }))))

end Sys2Proof.Machine
end

