-- ==== Sys2Proof/Machine/Matrix.lean ====
section
/-! DEFINITION. The matrix instructions as they issue: handles, format blocks, scales, gang-wide pairing, the accumulator commands and
`mmc` (R123-R143, R361, R389, R426-R429). -/

namespace Sys2Proof.Machine

/-! ### Handles and format blocks (R127-R129) -/

/-- R127: the fields of a matrix handle. -/
structure Handle where
  drow : Nat
  col0 : Nat
  row0 : Nat
  spad : Nat
  reserved : Bool
  deriving DecidableEq, Repr

/-- R127: a handle from its 64 bits. -/
def handleOf (x : DWord) : Handle where
  drow := bitsOf x.toNat 63 54
  col0 := bitsOf x.toNat 53 44
  row0 := bitsOf x.toNat 41 32
  spad := bitsOf x.toNat 20 0
  reserved := decide (bitsOf x.toNat 43 42 ≠ 0) || decide (bitsOf x.toNat 31 21 ≠ 0)

/-- R129: the width of a format and the alignment widths it accepts; `none` for a code that is no engine format. -/
def engineFormat (code : Nat) : Option (Nat × Nat × Nat) :=
  match code with
  | 0 => some (8, 8, 8)
  | 1 => some (8, 9, 9)
  | 2 => some (4, 4, 4)
  | 3 => some (4, 3, 6)
  | 4 | 5 => some (8, 4, 12)
  | 6 => some (16, 9, 24)
  | n => if 0x10 ≤ n ∧ n < 0x30 ∧ n % 8 ≠ 0 then some (8, 4, 12) else none

/-- R129: an integer element format. -/
def integerFormat (code : Nat) : Bool := decide (code < 3)

/-- R123: K of a dense operand of eight registers, doubled for `mma.sp`. -/
def depthOf (width : Nat) (sparse : Bool) : Nat := 8 * (32 / width) * (if sparse then 2 else 1)

/-- R128: a format block from its 64 bytes. -/
def blockOf (x : Nat) : FormatBlock where
  pfmt := BitVec.ofNat 8 (bitsOf x 7 0)
  qfmt := BitVec.ofNat 8 (bitsOf x 15 8)
  pblk := bitsOf x 23 16
  qblk := bitsOf x 31 24
  pa := bitsOf x 39 32
  qa := bitsOf x 47 40
  pscf := BitVec.ofNat 8 (bitsOf x 55 48)
  qscf := BitVec.ofNat 8 (bitsOf x 63 56)
  pscale := bitsOf x 95 64
  qscale := bitsOf x 127 96
  acc := BitVec.ofNat 8 (bitsOf x 135 128)
  rnd := BitVec.ofNat 8 (bitsOf x 143 136)

/-- No format block, for `mmd.ld`, which reads none (R429). -/
def noBlock : FormatBlock := blockOf 0

/-- R128: the bytes of a scale array of 64 columns. -/
def scaleBytes (scf : BitVec 8) (nb : Nat) : Nat :=
  match scf.toNat with
  | 0 => 0
  | 1 => 64 * nb
  | _ => 4 * ((64 * nb + 2) / 3)

/-- R128, R129: one operand's fields of a block are within their limits. -/
def operandOk (fmt : BitVec 8) (blk a : Nat) (scf : BitVec 8) (scale window : Nat) (sparse : Bool) : Bool :=
  match engineFormat fmt.toNat with
  | none => false
  | some (w, lo, hi) =>
    decide (lo ≤ a) && decide (a ≤ hi) && (blk == 16 || blk == 32 || blk == 64) && decide (blk ≤ depthOf w sparse) &&
      decide (scf.toNat ≤ 2) && decide (scale % 4 = 0) && (decide (scf ≠ 0) || decide (scale = 0)) &&
      (decide (scf = 0) || decide (scale + scaleBytes scf (depthOf w sparse / blk) ≤ window))

/-- R128, R129: a format block breaks no limit. -/
def blockOk (x : Nat) (b : FormatBlock) (op : PassOp) (window : Nat) : Bool :=
  let sparse := decide (op = .mmaSp)
  decide (bitsOf x 511 144 = 0) && decide (b.rnd.toNat ≤ 5) && decide (b.acc.toNat ≤ 1) &&
    operandOk b.pfmt b.pblk b.pa b.pscf b.pscale window sparse && operandOk b.qfmt b.qblk b.qa b.qscf b.qscale window sparse &&
    decide ((engineFormat b.pfmt.toNat).map (fun x => x.1) = (engineFormat b.qfmt.toNat).map (fun x => x.1)) &&
    (decide (b.acc ≠ 1) || (integerFormat b.pfmt.toNat && integerFormat b.qfmt.toNat && decide (b.pscf = 0) && decide (b.qscf = 0))) &&
    (decide (op ≠ .mmd) || decide (b.acc = 0))

/-- R95: a scale of an array that lies at an offset of the issuing member's scratchpad. -/
def State.scaleAt (s : State) (g : Group) (scf : BitVec 8) (off k : Nat) : Scale :=
  if scf = 1#8 then
    let x := ofBytes (s.spadBytes g (off + k) 1)
    if x = 255 then .nan false else .val 1 ((x : Int) - 127)
  else
    let w := ofBytes (s.spadBytes g (off + 4 * (k / 3)) 4)
    let f := bitsOf w (10 * (k % 3) + 9) (10 * (k % 3))
    if bitsOf w 31 30 ≠ 0 then .nan true
    else if f / 4 = 255 then .nan false
    else .val (4 + f % 4) ((f / 4 : Nat) - 129)

/-- R130: the scales of a member's 64 columns, NB to a column; none where the operand has no scales. -/
def State.scales (s : State) (g : Group) (scf : BitVec 8) (off nb : Nat) : List Scale :=
  if scf = 0 then [] else (List.range (64 * nb)).map (s.scaleAt g scf off)

/-! ### The accumulator store and the resident buffer (R138, R141) -/

/-- The key of an accumulator word. -/
def accKey (pme row col : Nat) : Nat := pme * 2 ^ 20 + row * 1024 + col

/-- A word of a sparse store in which an unlisted word is zero. -/
def sparseRead {n : Nat} (l : List (Nat × BitVec n)) (k : Nat) : BitVec n :=
  match l.find? (fun x => x.1 == k) with
  | some x => x.2
  | none => 0

/-- Writes a word of a sparse store: keys rise, and no word is zero. -/
def sparseWrite {n : Nat} (l : List (Nat × BitVec n)) (k : Nat) (x : BitVec n) : List (Nat × BitVec n) :=
  let rest := l.filter (fun y => y.1 != k)
  if x = 0 then rest else rest.takeWhile (fun y => decide (y.1 < k)) ++ (k, x) :: rest.dropWhile (fun y => decide (y.1 < k))

/-- R141: an accumulator word. -/
def State.accWord (s : State) (pme row col : Nat) : Word := sparseRead s.acc (accKey pme row col)

/-- R141: writes an accumulator word. -/
def State.setAcc (s : State) (pme row col : Nat) (x : Word) : State := { s with acc := sparseWrite s.acc (accKey pme row col) x }

/-- R138: the key of a word of the resident buffer. -/
def residentKey (pme u v : Nat) : Nat := pme * 2 ^ 16 + u * 256 + v

/-! ### Gang-wide commands (R126, R135, R137-R139) -/

/-- The tile of a gang (R123). -/
def Group.tile (g : Group) : Nat := 64 * g.id.gangSize.toNat

/-- R135, R138, R139: the handle breaks its command's limits, but for those on K, which `Handle.tilesBad` judges. -/
def Handle.passBad (h : Handle) (op : PassOp) (t window : Nat) : Bool :=
  h.reserved ||
  match op with
  | .mma | .mmaSp => decide (h.row0 % 64 ≠ 0) || decide (h.col0 % 64 ≠ 0) || decide (1024 < h.row0 + t) || decide (1024 < h.col0 + t) ||
      decide (window < h.spad + 64)
  | .mmdLd => decide (h.row0 % 64 ≠ 0) || decide (h.col0 % 64 ≠ 0) || decide (1024 < h.row0 + t) || decide (1024 < h.col0 + t)
  | .mmd => decide (h.row0 % 16 ≠ 0) || decide (h.drow % 16 ≠ 0) || decide (h.col0 % 64 ≠ 0) || decide (1024 < h.col0 + t) ||
      decide (window < h.spad + 64)

/-- R139: the two output tiles of `mmd` with K rows each. Where PFMT is no format code there is no K, and the tiles are judged with K = 0:
MMA_DESC follows (DESIGN CHOICE, log 79). -/
def Handle.tilesBad (h : Handle) (k : Nat) : Bool :=
  decide (1024 < h.row0 + k) || decide (1024 < h.drow + k) || (decide (h.row0 < h.drow + k) && decide (h.drow < h.row0 + k))

/-- R137: index `m` of a lane of a compressed operand. -/
def sparseIndex (regs : List Wide) (l m : Nat) : Nat :=
  bitsOf (lane (regs.getD (8 + m / 16) 0) l).toNat (2 * (m % 16) + 1) (2 * (m % 16))

/-- R137: some active lane has indices that do not rise. -/
def sparseBad (regs : List Wide) (mask : Lanes) (kept : Nat) : Bool :=
  (members mask).any (fun l => (List.range (kept / 2)).any (fun t =>
    decide (sparseIndex regs l (2 * t + 1) ≤ sparseIndex regs l (2 * t))))

/-- The `n` registers from a register. -/
def Group.regsFrom (g : Group) (a n : Nat) : List Wide := (List.range n).map (fun r => g.v (a + r))

/-- R207: the absorbing tags of `n` registers. -/
def Group.absorbFrom (g : Group) (a n : Nat) : List Bool := (List.range n).map (fun r => g.regs.absorb.getLsbD (a + r))

/-- R426: what the group brings to a gang-wide command, read at issue. -/
def State.member (s : State) (op : PassOp) (h : Handle) (b : FormatBlock) (pr qr : List Wide) (pt qt : List Bool) : Member :=
  let g := s.g
  let sparse := decide (op = .mmaSp)
  let nb := fun (fmt : BitVec 8) (blk : Nat) => match engineFormat fmt.toNat with
    | some (w, _, _) => depthOf w sparse / blk
    | none => 0
  { op := op, row0 := h.row0, col0 := h.col0, drow := h.drow, block := b, pos := g.id.gangPos.toNat, size := g.id.gangSize.toNat,
    mask := g.maskAt s.port, p := pr, q := qr, pAbs := pt, qAbs := qt,
    pScale := s.scales g b.pscf b.pscale (nb b.pfmt b.pblk), qScale := s.scales g b.qscf b.qscale (nb b.qfmt b.qblk),
    fmode := g.fmode s.port, seed := g.modes.rngseed, count := g.rngctr s.port, glid0 := g.id.glid0 }

/-- R126: paired requests agree. -/
def Member.agrees (a b : Member) : Bool :=
  decide (a.op = b.op) && a.row0 == b.row0 && a.col0 == b.col0 && a.drow == b.drow &&
    decide ({ a.block with pscale := 0, qscale := 0 } = { b.block with pscale := 0, qscale := 0 })

/-- The requests of one gang-wide command (R126). -/
def State.paired (s : State) (gang gidx count : Nat) : List PmeReq :=
  s.pme.filter (fun r => match r.cmd with
    | .pass a b c _ => a == gang && b == gidx && c == count
    | _ => false)

/-- The member of a request of a pass. -/
def PmeReq.member? (r : PmeReq) : Option Member :=
  match r.cmd with
  | .pass _ _ _ m => some m
  | _ => none

/-- The port of a group that is held at a gang-wide command. -/
def Group.gangPort (g : Group) : Option Port :=
  if g.slot0.wait.isGang then some .slot0 else if g.slot1.wait.isGang then some .slot1 else none

/-- R126: the groups of a gang with one GIDX that have not ended. -/
def State.gangGroups (s : State) (gang : Nat) (gidx : BitVec 4) : List Group :=
  s.groups.filter (fun g => g.id.gang == gang && decide (g.id.gidx = gidx) && !g.ended)

/-- R126: a member's pairing count before a request of it. -/
def PmeReq.pairsBefore (r : PmeReq) (pairs : Nat) : Nat :=
  match r.cmd with
  | .pass _ _ count _ => count - 1
  | _ => pairs

/-- Removes a request, its entry and the instruction in flight for it: the command counts for no pairing (R126). -/
def State.dropRequest (s : State) (r : PmeReq) : State :=
  { s with pme := s.pme.filter (fun x => x.id != r.id) }.modGroup r.grp (fun g => { g with
    pairs := r.pairsBefore g.pairs
    outq := g.outq.filter (fun e => decide (e.kind ≠ EntryKind.engine r.id))
    inflight := g.inflight.filter (fun f => match f.kind with
      | .engine q _ => q != r.id
      | _ => true) })

/-- R126: the other members of a pair that agrees go on after their command; the random counter advances under SR (R132). -/
def State.releaseMembers (i : Instr) (u : Uses) (draws : Bool) (rs : List PmeReq) (s : State) : State :=
  rs.foldl (fun s r => match (s.group r.grp).bind Group.gangPort with
    | none => s
    | some p =>
      let t := (s.visit r.grp p (fun s => s.onGroup (fun g =>
        let g := g.retire g p i u none false
        if draws then g.countDraw p else g))).mirrorStep r.grp p .none 0
      if draws && (s.group r.grp).any (fun g => (g.slot p).replay.isNone) then t.mirrorDraw r.grp else t) s

/-- R126: the members that are held raise a trap at their command, which has no effect. -/
def State.breakMembers (c : Cause) (rs : List PmeReq) (s : State) : State :=
  rs.foldl (fun s r =>
    let s := s.dropRequest r
    match (s.group r.grp).bind Group.gangPort with
    | none => s
    | some p => s.visit r.grp p (fun s => s.refuse {} c)) s

/-- R126: a group ends or is cancelled: the members that are held beside it raise GANG_BROKEN. -/
def State.leaveGang (s : State) (g : Group) : State :=
  let rs := s.pme.filter (fun r => match r.cmd with
    | .pass a b _ _ => a == g.id.gang && b == g.id.gidx.toNat && !r.checked && r.grp != g.id.uid
    | _ => false)
  s.breakMembers Cause.gangBroken rs

/-- R126: a member posts its request; the last one checks the pair. A member that issues when too few groups of the gang are left to pair with
raises GANG_BROKEN at once (DESIGN CHOICE, log 72). -/
def State.postPass (i : Instr) (s : State) (m : Member) : Act :=
  let g := s.g
  let count := g.pairs + 1
  let gang := g.id.gang
  let gidx := g.id.gidx.toNat
  let draws := decide (m.block.rnd = 5) && decide (m.op ≠ .mmdLd)
  let others := (s.paired gang gidx count).filter (fun r => r.grp != g.id.uid)
  let u := usesOf (g.streamAt s.port) i
  if (s.gangGroups gang g.id.gidx).length < m.size ∧ others.length + 1 < m.size then .no Cause.gangBroken
  else
    let t := s.post (.pass gang gidx count m) .none (g.maskAt s.port) false
    let t := t.onGroup (fun g => { g with pairs := count })
    if others.length + 1 < m.size then
      .wait (.gang count) { t with
        pme := t.pme.map (fun r => if r.id = s.nextUid then { r with checked := false } else r)
        g := { t.g with serial := t.g.serial + 1 } }
    else if others.all (fun r => (r.member?.map (fun x => x.agrees m)).getD false) then
      let t := t.releaseMembers i u draws others
      let t := { t with pme := t.pme.map (fun (r : PmeReq) => match r.cmd with
        | .pass a b c _ => if a = gang ∧ b = gidx ∧ c = count then { r with checked := true } else r
        | _ => r) }
      .run (t.onGroup (fun g => if draws then g.countDraw s.port else g))
    else .refused (s.breakMembers Cause.mmaMismatch others) Cause.mmaMismatch 0 false

/-- R134, R135, R137, R139: a gang-wide command issues. -/
def State.gangWide (i : Instr) (op : PassOp) (d : BitVec 7) (a b : BitVec 8) (np nq : Nat) (s : State) : State :=
  s.issue i (fun s =>
    let g := s.g
    let h := handleOf (g.s d.toNat)
    let window := s.windowSize g
    if h.passBad op g.tile window then .no Cause.mmaHandle
    else if decide (op ≠ .mmdLd) && g.pendingOn s.port (.spad g.id.team h.spad) 64 then .later
    else
      let x := if op = .mmdLd then 0 else ofBytes (s.spadBytes g h.spad 64)
      let blk := if op = .mmdLd then noBlock else blockOf x
      let depth := ((engineFormat blk.pfmt.toNat).map (fun f => depthOf f.1 false)).getD 0
      let pr := g.regsFrom a.toNat np
      if decide (op = .mmd) && h.tilesBad depth then .no Cause.mmaHandle
      else if decide (op ≠ .mmdLd) && !(blockOk x blk op window) then .no Cause.mmaDesc
      else if decide (op = .mmaSp) && sparseBad pr (g.maskAt s.port) depth then .no Cause.mmaSparse
      else if (decide (blk.pscf ≠ 0) && g.pendingOn s.port (.spad g.id.team blk.pscale) (scaleBytes blk.pscf 8)) ||
          (decide (blk.qscf ≠ 0) && g.pendingOn s.port (.spad g.id.team blk.qscale) (scaleBytes blk.qscf 8)) then .later
      else if g.counterFull 4 || decide (16 ≤ s.reserved (clusterOf g.id.core)) then .later
      else s.postPass i (s.member op h blk pr (g.regsFrom b.toNat nq) (g.absorbFrom a.toNat np) (g.absorbFrom b.toNat nq)))

/-- R426: `mma`. -/
def execMma (d : BitVec 7) (a b : BitVec 8) (s : State) : Answer := .next (s.gangWide (.mma d a b) .mma d a b 8 8)

/-- R426: `mma.sp`. -/
def execMmaSp (d : BitVec 7) (a b : BitVec 8) (s : State) : Answer := .next (s.gangWide (.mmaSp d a b) .mmaSp d a b 12 16)

/-- R429: `mmd`. -/
def execMmd (d : BitVec 7) (a b : BitVec 8) (s : State) : Answer := .next (s.gangWide (.mmd d a b) .mmd d a b 8 8)

/-- R429: `mmd.ld`. -/
def execMmdLd (d : BitVec 7) (s : State) : Answer := .next (s.gangWide (.mmdLd d) .mmdLd d 0 0 0 0)

/-! ### Accumulator commands (R140, R361, R389) -/

/-- R140: the block handles of `acz` and `drain`. -/
def Handle.blockBad (h : Handle) : Bool := h.reserved || decide (h.row0 % 64 ≠ 0) || decide (h.col0 % 64 ≠ 0)

/-- R140: the column handles of `acrd` and `acwr`. -/
def Handle.columnBad (h : Handle) : Bool := h.reserved || decide (h.row0 % 64 ≠ 0)

/-- R140, R389: the handles of `drain`. -/
def Handle.drainBad (h : Handle) (window : Nat) : Bool :=
  h.blockBad || decide (h.spad % 256 ≠ 0) || decide (min window (1536 * 1024) < h.spad + 16384)

/-- MMA_HANDLE where a handle breaks its limits. -/
def handleTrap (bad : Bool) : Option Cause := if bad then some Cause.mmaHandle else none

/-- R362: `acz`. -/
def execAcz (d : BitVec 7) (s : State) : Answer :=
  .next (s.engine (.acz d) (fun s => handleTrap (handleOf (s.g.s d.toNat)).blockBad)
    (fun s => .acz (handleOf (s.g.s d.toNat)).row0 (handleOf (s.g.s d.toNat)).col0) .none (fun _ => false))

/-- R362: `acrd`. -/
def execAcrd (d : BitVec 7) (a : BitVec 8) (s : State) : Answer :=
  .next (s.engine (.acrd d a) (fun s => handleTrap (handleOf (s.g.s (a.toNat - 152))).columnBad)
    (fun s => .acrd d.toNat (handleOf (s.g.s (a.toNat - 152))).row0 (handleOf (s.g.s (a.toNat - 152))).col0 (s.g.maskAt s.port))
    (.v d.toNat false) (fun _ => false))

/-- R362: `acwr`: the source is read at issue. -/
def execAcwr (d : BitVec 7) (a : BitVec 8) (s : State) : Answer :=
  .next (s.engine (.acwr d a) (fun s => handleTrap (handleOf (s.g.s d.toNat)).columnBad)
    (fun s => .acwr (handleOf (s.g.s d.toNat)).row0 (handleOf (s.g.s d.toNat)).col0 (s.g.maskAt s.port)
      (wideOf (s.g.source s.port a))) .none (fun _ => false))

/-- R390: `drain`. -/
def execDrain (d : BitVec 7) (s : State) : Answer :=
  .next (s.engine (.drain d) (fun s => handleTrap ((handleOf (s.g.s d.toNat)).drainBad (s.windowSize s.g)))
    (fun s => .drain (handleOf (s.g.s d.toNat)).row0 (handleOf (s.g.s d.toNat)).col0 (handleOf (s.g.s d.toNat)).spad false 0
      (s.g.releaseAfter s.port))
    .none (fun _ => false))

/-- R390: `drain.t`. -/
def execDrainT (d : BitVec 7) (s : State) : Answer :=
  .next (s.engine (.drainT d) (fun s => handleTrap ((handleOf (s.g.s d.toNat)).drainBad (s.windowSize s.g)))
    (fun s => .drain (handleOf (s.g.s d.toNat)).row0 (handleOf (s.g.s d.toNat)).col0 (handleOf (s.g.s d.toNat)).spad true 0
      (s.g.releaseAfter s.port))
    .none (fun _ => false))

/-! ### mmc (R136, R428) -/

/-- R123: element `k` of a lane of an operand whose elements have `w` bits. -/
def elementBits (regs : List Wide) (w l k : Nat) : Nat :=
  let per := 32 / w
  bitsOf (lane (regs.getD (k / per) 0) l).toNat (w * (k % per) + w - 1) (w * (k % per))

/-- R428: a magnitude is greater than another: NaN above infinity above the finite ones. -/
def greater (a b : Val) : Bool :=
  match a, b with
  | .nan _, .nan _ => false
  | .nan _, _ => true
  | _, .nan _ => false
  | .inf _, .inf _ => false
  | .inf _, _ => true
  | _, .inf _ => false
  | .fin _ m e, .fin _ n k => exceeds m e n k

/-- The first position with the greatest magnitude among some positions. -/
def firstGreatest (f : Nat → Val) : List Nat → Nat
  | [] => 0
  | x :: xs => xs.foldl (fun best y => if greater (f y) (f best) then y else best) x

/-- R136: the two positions of four that are kept, in ascending order. -/
def keptPair (f : Nat → Val) : Nat × Nat :=
  let a := firstGreatest f [0, 1, 2, 3]
  let b := firstGreatest f ([0, 1, 2, 3].filter (fun x => x != a))
  (min a b, max a b)

/-- R136: the dense position of kept element `m` of a lane. -/
def keptAt (t : NumType) (regs : List Wide) (w l m : Nat) : Nat :=
  let base := 4 * (m / 2)
  let k := keptPair (fun i => t.decode (elementBits regs w l (base + i)))
  base + (if m % 2 = 0 then k.1 else k.2)

/-- The number whose `n` digits of `w` bits are `f 0 … f (n - 1)`. -/
def packDigits (w : Nat) (f : Nat → Nat) : Nat → Nat
  | 0 => 0
  | n + 1 => packDigits w f n + f n * 2 ^ (w * n)

/-- R136: word `r` of the kept values of a lane, for `r` below 8, and word `r - 8` of its indices. -/
def compressedWord (t : NumType) (regs : List Wide) (w l r : Nat) : Word :=
  let per := 32 / w
  if r < 8 then BitVec.ofNat 32 (packDigits w (fun j => elementBits regs w l (keptAt t regs w l (per * r + j))) per)
  else BitVec.ofNat 32 (packDigits 2 (fun j =>
    let m := 16 * (r - 8) + j
    if m < 8 * per then keptAt t regs w l m % 4 else 0) 16)

/-- R136, R428: `mmc` compresses elements of width `w` and format `code`. -/
def State.compress (s : State) (d : BitVec 7) (a : BitVec 8) (code w : Nat) : State :=
  let regs := s.g.regsFrom a.toNat 16
  let t := typeOf (BitVec.ofNat 6 code)
  s.onGroup (fun g => (List.range 12).foldl (fun g r =>
    g.setLanes (d.toNat + r) (s.g.maskAt s.port) (fun l => compressedWord t regs w l r)) g)

/-- R428: `mmc`. A format code that R129 does not give is Illegal Instruction, which stands before every other trap (R358): it is judged once
the register that holds it is no longer pending. -/
def execMmc (d : BitVec 7) (a b : BitVec 8) (s : State) : Answer :=
  let i := Sys2Proof.Instr.mmc d a b
  let u := usesOf (s.g.streamAt s.port) i
  .next (if s.held || !(i.legalIn (s.g.streamAt s.port)) || (engineFormat (s.g.operand32 s.port b)).isSome then
      s.issue i (fun s => match engineFormat (s.g.operand32 s.port b) with
        | none => .no Cause.illegal
        | some (w, _, _) => .run (s.compress d a (s.g.operand32 s.port b) w))
    else if s.mustWait u then s.settle i u .later
    else s.refuse u Cause.illegal)

end Sys2Proof.Machine
end

