-- ==== Sys2Proof/Machine/Paths.lean ====
section
/-! DEFINITION. Paths, the divergence stack and reconvergence, and the control instructions of a path (R68-R73, R277, R355, R372, R373,
R375, R407-R409, R449, R458, R459). -/

namespace Sys2Proof.Machine

/-! ### Slots and the stack -/

/-- R79: a slot that a path enters, with its latches cleared. -/
def Slot.entered (q : Path) : Slot := { Slot.empty with path := some q }

/-- The other PC slot. -/
def otherSlot (p : Port) : Port := if p = .slot0 then .slot1 else .slot0

/-- The lanes of the path in a slot. -/
def Group.slotMask (g : Group) (p : Port) : Lanes :=
  match (g.slot p).path with
  | some q => q.mask
  | none => 0

/-- R68: the innermost rejoin record that some lanes belong to; the top of the stack stands first. -/
def recordFor (m : Lanes) : List StackEntry → Option (DWord × Lanes × Lanes)
  | [] => none
  | .record r u a :: rest => if u &&& m ≠ 0 then some (r, u, a) else recordFor m rest
  | .path _ :: rest => recordFor m rest

/-- Changes the innermost rejoin record that some lanes belong to. -/
def withRecord (m : Lanes) (f : Lanes → List StackEntry) : List StackEntry → List StackEntry
  | [] => []
  | .record r u a :: rest => if u &&& m ≠ 0 then f a ++ rest else .record r u a :: withRecord m f rest
  | .path q :: rest => .path q :: withRecord m f rest

/-- The innermost record all of whose lanes have arrived or exited. -/
def dueRecord (exited : Lanes) : List StackEntry → Option (DWord × Lanes)
  | [] => none
  | .record r u a :: rest => if u &&& ~~~(a ||| exited) = 0 then some (r, u) else dueRecord exited rest
  | .path _ :: rest => dueRecord exited rest

/-- Removes the innermost record of some lanes. -/
def dropRecord (u : Lanes) (l : List StackEntry) : List StackEntry := withRecord u (fun _ => []) l

/-- Takes the topmost waiting path from the stack (R70). -/
def popPath : List StackEntry → Option (Path × List StackEntry)
  | [] => none
  | .path q :: rest => some (q, rest)
  | e :: rest => match popPath rest with
    | some (q, l) => some (q, e :: l)
    | none => none

/-- Frees a slot. -/
def Group.freeSlot (g : Group) (p : Port) : Group := g.setSlot p Slot.empty

/-- R215: the lanes whose later accesses come after an access of a hitter path, once that path has merged into one of the lanes `u`. -/
def mergedMask (u : Lanes) (setter : Bool) (m : Lanes) : Lanes := if !setter && decide (m &&& u ≠ 0) then m ||| u else m

/-- R73, R215: a mark of the path order for the lanes of a merged path, into which the path order of its paths goes. -/
def Group.markJoin (g : Group) (m : Lanes) : Group :=
  let old := g.marks.map (fun k => { k with mask := mergedMask m k.setter k.mask })
  { g with
    marks := old.filter (fun k => !(decide (k.kind = .join) && decide (k.mask = m))) ++
      [{ serial := g.serial, setter := false, mask := m, kind := .join }]
    outq := g.outq.map (fun e => { e with mask := mergedMask m e.setter e.mask })
    readTags := g.readTags.map (fun t => { t with mask := mergedMask m t.setter t.mask }) }

/-- A path that waits at the `join` of a record of some lanes. -/
def Slot.waitsFor (x : Slot) (u : Lanes) : Bool :=
  match x.path with
  | some q => q.waiting && decide (q.mask &&& u ≠ 0)
  | none => false

/-- R68, R409, R459: the paths of a record merge. The merged path takes the lower-numbered slot that a merging path holds, else a free
slot; its pending rejoin is empty. -/
def Group.merge (g : Group) (r : DWord) (u : Lanes) : Group :=
  let h0 := g.slot0.waitsFor u
  let h1 := g.slot1.waitsFor u
  let g := { g with stack := dropRecord u g.stack }
  let g := if h0 then g.freeSlot .slot0 else g
  let g := if h1 then g.freeSlot .slot1 else g
  let m := u &&& ~~~g.exited
  if m = 0 then g
  else
    let q : Path := { pc := r + 4, mask := m, rejoin := none, waiting := false }
    let g := g.markJoin m
    if h0 then g.setSlot .slot0 (Slot.entered q)
    else if h1 then g.setSlot .slot1 (Slot.entered q)
    else if g.slot0.path.isNone then g.setSlot .slot0 (Slot.entered q)
    else if g.slot1.path.isNone then g.setSlot .slot1 (Slot.entered q)
    else { g with stack := .path q :: g.stack }

/-- R409: a path that waits at a `join` gives up its slot when its sibling does not hold the other one. -/
def Group.givesUp (g : Group) (p : Port) : Bool :=
  match (g.slot p).path with
  | none => false
  | some q => q.waiting && (match recordFor q.mask g.stack with
      | some (_, u, _) => decide (g.slotMask (otherSlot p) &&& u = 0)
      | none => false)

/-- R70: the topmost waiting path of the stack enters a free slot. -/
def Group.fillSlot (g : Group) : Option Group :=
  if g.slot0.path.isNone || g.slot1.path.isNone then
    match popPath g.stack with
    | none => none
    | some (q, l) =>
      let m := q.mask &&& ~~~g.exited
      if m = 0 then some { g with stack := l }
      else some ({ g with stack := l }.setSlot (if g.slot0.path.isNone then .slot0 else .slot1) (Slot.entered { q with mask := m }))
  else none

/-- One move of the device after a path has joined, split or ended; `none` when there is none. A slot that is free is filled before another
waiting path gives up its slot, which it keeps while a lane of its sibling holds the other one (R409). -/
def Group.resettle (g : Group) : Option Group :=
  match dueRecord g.exited g.stack with
  | some (r, u) => some (g.merge r u)
  | none => match g.fillSlot with
    | some h => some h
    | none =>
      if g.givesUp .slot0 then some (g.freeSlot .slot0)
      else if g.givesUp .slot1 then some (g.freeSlot .slot1)
      else none

/-- R68, R70, R409: merges what is to merge and fills the free slots. The stack has at most 128 entries, so the moves end. -/
def Group.settlePaths : Nat → Group → Group
  | 0, g => g
  | n + 1, g => match g.resettle with
    | some h => settlePaths n h
    | none => g

/-- The moves that a stack of 128 entries and two slots can need. -/
def pathMoves : Nat := 400

/-- A slot whose path loses its exited lanes; `none` = no lane is left. A replay that is to go on for none of its lanes is over, and with it
what held it (R269). -/
def Slot.without (x : Slot) (exited : Lanes) : Option Slot :=
  match x.path with
  | none => some x
  | some q =>
    let left := q.mask &&& ~~~exited
    match x.replay with
    | none => if left = 0 then none else some { x with path := some { q with mask := left }, rpl := x.rpl &&& left }
    | some r =>
      let full := r.full &&& ~~~exited
      if full = 0 then none
      else if left = 0 then
        some { x.switch with path := some { q with pc := r.last, mask := full }, replay := none, trap := none, rpl := 0, held := [], wait := .running }
      else some { x with path := some { q with mask := left }, replay := some { r with full := full }, rpl := x.rpl &&& left }

/-- The lanes of some mask exit (R68, R395). -/
def Group.exitLanes (g : Group) (m : Lanes) : Group :=
  let g := { g with exited := g.exited ||| m }
  let cut := fun (g : Group) (p : Port) => match (g.slot p).without g.exited with
    | some x => g.setSlot p x
    | none => g.freeSlot p
  (cut (cut g .slot0) .slot1).settlePaths pathMoves

/-- No lane of the group remains. -/
def Group.noLane (g : Group) : Bool := g.slotPaths.isEmpty

/-! ### Moving a path -/

/-- Changes the path at a port. -/
def Group.modPath (g : Group) (p : Port) (f : Path → Path) : Group := g.setSlot p { g.slot p with path := (g.slot p).path.map f }

/-- R343: the target of an offset in halfwords. -/
def Group.target (g : Group) (p : Port) (o : BitVec 18) : DWord := g.pcAt p + ((o.signExtend 64) <<< 1)

/-- R407: `jmp`. -/
def execJmp (o : BitVec 18) (s : State) : Answer :=
  .next (s.issue (.jmp o) (fun s => .jump (s.onGroup (fun g => g.setPcAt s.port (g.target s.port o)))))

/-- R375: `call`: the link register, and the whole path moves. -/
def execCall (o : BitVec 18) (s : State) : Answer :=
  .next (s.issue (.call o) (fun s => .jump (s.onGroup (fun g =>
    let link := g.pcAt s.port + 4
    let t := g.target s.port o
    (if s.port = .setter then g.setA 31 link else g.setS 63 link).setPcAt s.port t))))

/-- R449: `ret`: bit 0 of the link is ignored. -/
def execRet (s : State) : Answer :=
  .next (s.issue .ret (fun s => .jump (s.onGroup (fun g =>
    g.setPcAt s.port ((if s.port = .setter then g.a 31 else g.s 63) &&& ~~~1#64)))))

/-- R458: `setrj`. -/
def execSetrj (o : BitVec 18) (s : State) : Answer :=
  .next (s.issue (.setrj o) (fun s => .run (s.onGroup (fun g =>
    let t := g.target s.port o
    g.modPath s.port (fun q => { q with rejoin := some t })))))

/-- R70, R277: a divergent branch: the record, the taken path in the slot, the fall-through path in the other slot or on the stack. -/
def Group.split (g : Group) (p : Port) (r : DWord) (m tk ft : Lanes) (t : DWord) : Group :=
  let next := g.pcAt p + 4
  let fall : Path := { pc := next, mask := ft, rejoin := none, waiting := false }
  let g := { g with stack := .record r m 0 :: g.stack }
  let g := g.modPath p (fun _ => { pc := t, mask := tk, rejoin := none, waiting := false })
  if (g.slot (otherSlot p)).path.isNone then g.setSlot (otherSlot p) (Slot.entered fall)
  else { g with stack := .path fall :: g.stack }

/-- R373: `br`. -/
def execBr (h : BitVec 2) (n : Bool) (p : BitVec 3) (o : BitVec 18) (s : State) : Answer :=
  .next (s.issue (.br h n p o) (fun s =>
    let g := s.g
    let m := g.maskAt s.port
    let take := if n then ~~~(g.p p.toNat) else g.p p.toNat
    let tk := m &&& take
    let ft := m &&& ~~~take
    let t := g.target s.port o
    if ft = 0 then .jump (s.onGroup (fun g => g.modPath s.port (fun q => { q with pc := t, rejoin := none })))
    else if tk = 0 then .jump (s.onGroup (fun g => g.modPath s.port (fun q => { q with pc := q.pc + 4, rejoin := none })))
    else if h = 2 then .no Cause.uniformMiss
    else match ((g.slot s.port).path).bind (fun q => q.rejoin) with
      | none => .no Cause.noRejoin
      | some r =>
        let pushes := if (g.slot (otherSlot s.port)).path.isNone then 1 else 2
        if 128 < g.stack.length + pushes then .no Cause.divOverflow
        else .jump (s.onGroup (fun g => g.split s.port r m tk ft t))))

/-- R408, R409: `join`. -/
def execJoin (s : State) : Answer :=
  .next (s.issue .join (fun s =>
    let g := s.g
    let m := g.maskAt s.port
    match recordFor m g.stack with
    | none => .run s
    | some (r, u, a) =>
      if g.pcAt s.port = r then
        .jump (s.onGroup (fun g =>
          let g := { g with stack := withRecord m (fun _ => [.record r u (a ||| m)]) g.stack }
          (g.modPath s.port (fun q => { q with waiting := true })).settlePaths pathMoves))
      else .run s))

end Sys2Proof.Machine
end

