-- ==== Sys2Proof/Machine/Tasks.lean ====
section
/-! DEFINITION. Kernel records, launch records, the task tree, placing teams, the end of a group, and cancellation
(R16-R17, R44-R48, R54-R60, R246-R252, R255, R484). -/

namespace Sys2Proof.Machine

/-! ### Records (R55, R246) -/

/-- 64-bit word `n` of some words that begin at a bit. -/
def wordsFrom (x bit n : Nat) : List DWord := (List.range n).map (fun i => BitVec.ofNat 64 (bitsOf x (bit + 64 * i + 63) (bit + 64 * i)))

/-- A gang size (R57). -/
def gangSizeOk (n : Nat) : Bool := n == 1 || n == 2 || n == 4

/-- R55: a kernel record from its 128 bytes; `none` where it breaks the map. -/
def kernelRecOf (x : Nat) : Option KernelRec :=
  let k : KernelRec :=
    { hit := BitVec.ofNat 64 (bitsOf x 63 0)
      set := BitVec.ofNat 64 (bitsOf x 127 64)
      team := bitsOf x 135 128
      nprod := bitsOf x 140 136
      roleOn := bitAt x 143
      vprod := bitsOf x 151 144
      vcons := bitsOf x 159 152
      gpref := bitsOf x 163 160
      gfall := bitsOf x 167 164
      regs := bitsOf x 175 168
      spsize := bitsOf x 223 192
      spimg := BitVec.ofNat 64 (bitsOf x 319 256)
      args := wordsFrom x 320 8 }
  let reserved := bitsOf x 1023 840 + bitsOf x 255 224 + bitsOf x 191 176 + bitsOf x 142 141
  let budget := fun v : Nat => decide (24 ≤ v) && decide (v ≤ 128)
  if reserved = 0 ∧ bitsOf x 839 832 = 1 ∧ 1 ≤ k.team ∧ k.team ≤ 16 ∧ gangSizeOk k.gpref = true ∧ gangSizeOk k.gfall = true ∧
      k.gfall ≤ k.gpref ∧ k.nprod ≤ k.team ∧ k.spsize ≤ 1536 * 1024 ∧ (k.spsize ≠ 0 ∨ k.spimg = 0) ∧ k.hit.toNat % 128 = 0 ∧
      (if k.roleOn then budget k.vprod && budget k.vcons
       else k.vprod == 0 && k.vcons == 0 && k.nprod == 0 && decide (1 ≤ k.regs) && decide (k.regs ≤ 128)) = true
  then some k else none

/-- R246: the fields of a launch record. -/
structure LaunchRec where
  krec   : Nat
  root   : Nat
  nteams : Nat
  prio   : BitVec 3
  queue  : BitVec 6
  region : Bool
  debug  : Bool
  argv   : Bool
  done   : DWord
  seed   : DWord
  args   : List DWord
  deriving DecidableEq, Repr

/-- R246: a launch record from its 128 bytes; `none` where it breaks the map. -/
def launchRecOf (x : Nat) : Option LaunchRec :=
  let r : LaunchRec :=
    { krec := bitsOf x 63 0
      root := bitsOf x 127 64
      nteams := bitsOf x 159 128
      prio := BitVec.ofNat 3 (bitsOf x 162 160)
      queue := BitVec.ofNat 6 (bitsOf x 169 164)
      region := bitAt x 170
      debug := bitAt x 171
      argv := bitAt x 172
      done := BitVec.ofNat 64 (bitsOf x 255 192)
      seed := BitVec.ofNat 64 (bitsOf x 319 256)
      args := wordsFrom x 512 8 }
  if bitsOf x 511 320 + bitsOf x 191 173 + bitsOf x 163 163 = 0 ∧ 1 ≤ r.nteams ∧ r.root % 2 ^ 20 = 0 ∧ r.done.toNat % 8 = 0 ∧
      r.krec % 128 = 0 then some r else none

/-- The 128 bytes of a record that lies at a multiple of 128, as they read through some nodes; `none` where they cannot be read. -/
def State.recordAt (s : State) (nodes : List Node) (root : Nat) (va : Int) : Option Nat :=
  if va % 128 ≠ 0 then none
  else match s.translate none root va .read with
    | .error _ => none
    | .ok t =>
      let ls := (List.range 128).map (fun i => t.loc.add i)
      if ls.any (fun l => s.poisoned l) then none else some (ofBytes (ls.map (fun l => (s.byteVia nodes l).1)))

/-- R55: the kernel record at an address. -/
def State.kernelAt (s : State) (nodes : List Node) (root : Nat) (va : Int) : Option KernelRec :=
  (s.recordAt nodes root va).bind kernelRecOf

/-! ### The task tree (R252) -/

/-- R255, R272: the task of a group; in the handler slot, that of the group the entry concerns. -/
def Group.ownTask (g : Group) : BitVec 40 := if g.id.kind = .ordinary then g.id.task else g.trapRegs.trapgrp.setWidth 40

/-- A task is another one or a descendant of it, within a number of generations. -/
def State.isUnder (s : State) (anc : BitVec 40) : Nat → BitVec 40 → Bool
  | 0, _ => false
  | n + 1, t => t == anc || (match (s.task t).bind (fun x => x.parent) with
      | some p => s.isUnder anc n p
      | none => false)

/-- A task is another one or a descendant of it. -/
def State.under (s : State) (anc t : BitVec 40) : Bool := s.isUnder anc (s.tasks.length + 1) t

/-- The task has ended. -/
def TaskStage.over : TaskStage → Bool
  | .complete | .cancelled => true
  | _ => false

/-- R249, R255: a task that runs no more: it has completed, or is cancelled. -/
def TaskStage.stopping : TaskStage → Bool
  | .reclaiming => true
  | x => x.over

/-- R252: an id that names a task of the tree. -/
def State.inTree (s : State) (t : BitVec 40) : Bool :=
  (s.task t).isSome && s.tasks.any (fun u => s.under t u.id && !u.stage.over)

/-- A task as it is to be, without an id (R246, R254). -/
def newTask (queue : BitVec 6) (parent : Option (BitVec 40)) (prio : BitVec 3) (k : KernelRec) (root nteams : Nat) (args : List DWord)
    (seed done : DWord) (debug region : Bool) (order : Nat) : Task where
  id := 0
  parent := parent
  queue := queue
  order := order
  raised := 0
  prio := prio
  stage := .waiting
  krec := k
  root := root
  nteams := nteams
  placed := 0
  args := args
  seed := seed
  done := done
  debug := debug
  region := region
  code := []
  codeNvme := []
  endedByHandler := false
  preempted := false
  hostWait := none
  ofBin := false

/-- R252, R254: a task gets its id and enters the tree; fetches may give device memory as it stands now (R336). -/
def State.enterTask (s : State) (stage : TaskStage) (t : Task) : State × BitVec 40 :=
  let id : BitVec 40 := t.queue ++ s.nextSeq
  ({ s with
    tasks := s.tasks ++ [{ t with id := id, order := s.nextUid, stage := stage, code := s.mem, codeNvme := s.nvme }]
    nextSeq := s.nextSeq + 1
    nextUid := s.nextUid + 1 }, id)

/-- The port at which a group waits in some way, over all groups. -/
def State.waiters (s : State) (q : Wait → Bool) : List (Nat × Port × Wait) :=
  s.groups.flatMap (fun g =>
    (if q g.slot0.wait then [(g.id.uid, Port.slot0, g.slot0.wait)] else []) ++
    (if q g.slot1.wait then [(g.id.uid, Port.slot1, g.slot1.wait)] else []) ++
    (if q g.setWait then [(g.id.uid, Port.setter, g.setWait)] else []))

/-- R248: the items of a device task queue: the grids that have still to be placed. -/
def State.queueItems (s : State) (q : BitVec 6) : List Task := s.tasks.filter (fun t => decide (t.queue = q) && decide (t.stage = .queued))

/-- R254: a stream waits to append its launch to a queue. -/
def Wait.launches (q : BitVec 6) : Wait → Bool
  | .launch t _ => decide (t.queue = q)
  | _ => false

/-- R247: what waits for a queue: a task of the host's, or the launch of a stream. -/
inductive Waiting where
  | host (t : Task)
  | stream (uid : Nat) (p : Port) (t : Task) (dest : Dest)
  deriving DecidableEq, Repr

/-- The place of a launch that waits in the order in which launches began to wait. -/
def Waiting.order : Waiting → Nat
  | .host t => t.order
  | .stream _ _ t _ => t.order

/-- R247, R254: the launches that wait for a queue, in the order in which they began. -/
def State.queueWaiters (s : State) (q : BitVec 6) : List Waiting :=
  sortBy (fun a b => decide (a.order ≤ b.order))
    ((s.tasks.filter (fun t => decide (t.queue = q) && decide (t.stage = .waiting))).map Waiting.host ++
      (s.waiters (Wait.launches q)).filterMap (fun w => match w.2.2 with
        | .launch t dest => some (.stream w.1 w.2.1 t dest)
        | _ => none))

/-- R247, R248: the queue takes another item at once. -/
def State.queueOpen (s : State) (q : BitVec 6) : Bool := decide ((s.queueItems q).length < 1024) && (s.queueWaiters q).isEmpty

/-! ### Ends of groups and teams (R214, R395) -/

/-- R395: a group that has ended: its streams are stopped and its queue entries discarded. -/
def Group.finish (g : Group) : Group :=
  { g with
    slot0 := Slot.empty
    slot1 := Slot.empty
    stack := []
    setExited := true
    setTrap := none
    setWait := .running
    queues := Vector.replicate 8 []
    ended := true }

/-- R126, R395, R484: a group ends: the gang members held beside it break, and its context image is free. -/
def State.endGroup (s : State) (uid : Nat) : State :=
  match s.group uid with
  | none => s
  | some g =>
    let s := s.leaveGang g
    let s := { s with
      images := s.images.filter (fun k => some k != g.id.image)
      pme := s.pme.filter (fun r => !(r.grp == uid && !r.checked)) }
    (s.modGroup uid Group.finish).dropLighters

/-- R290, R293: an instruction of the group holds lanes: its steps have still to be taken. -/
def Group.kvHeld (g : Group) : Bool :=
  g.inflight.any (fun f => match f.kind with
    | .kv _ acts _ => !f.done && !acts.isEmpty
    | _ => false)

/-- R214: every access and command of a group has performed, and its writes are at home. -/
def State.drained (s : State) (uid : Nat) : Bool :=
  (match s.group uid with
   | some g => g.outq.isEmpty
   | none => true) &&
  (match s.group uid with
   | some g => !g.kvHeld
   | none => true) &&
  !(s.bufs.any (fun b => b.grp == uid)) && !(s.pme.any (fun r => r.grp == uid)) && !(s.copies.any (fun c => c.grp == uid)) &&
  !(s.contribs.any (fun c => c.grp == uid)) && !(s.mailboxes.any (fun m => m.cmds.any (fun c => c.grp == uid)))

/-- The groups of a team. -/
def State.teamGroups (s : State) (team : Nat) : List Group :=
  s.groups.filter (fun g => g.id.team == team && decide (g.id.kind = .ordinary))

/-- R58, R214, R271: a team has ended and its scratchpad is released: its groups, and the handler runs that worked on it, have ended and are
drained. -/
def State.teamGone (s : State) (team : Nat) : Bool := (s.groups.filter (fun g => g.id.team == team)).all (fun g => g.ended && s.drained g.id.uid)

/-- R58, R484: removes the teams that have ended; their save areas are free. -/
def State.reapTeams (s : State) : State :=
  { s with
    teams := s.teams.filter (fun t => !(s.teamGone t.uid))
    saves := s.saves.filter (fun j => !(s.teams.any (fun t => t.saved == some j && s.teamGone t.uid))) }

/-! ### Placing teams (R17, R250, R251) -/

/-- A group that is resident on a core. -/
def Group.residentOn (g : Group) (core : BitVec 10) : Bool :=
  decide (g.id.core = core) && decide (g.id.kind = .ordinary) && !g.ended && !g.stopped

/-- The resident groups of a core. -/
def State.residents (s : State) (core : BitVec 10) : List Group := s.groups.filter (fun g => g.residentOn core)

/-- R251: the size of a team's window. -/
def windowBytes (image : Nat) : Nat := max 65536 (roundUp image 65536)

/-- R58: the windows of a core that are not saved away. A team ends with its last group, and its window is free once its writes are at home. -/
def State.windowsOn (s : State) (core : BitVec 10) : List Team :=
  s.teams.filter (fun t => decide (t.core = core) && t.saved.isNone && !(s.teamGone t.uid))

/-- R484: the save areas in use. -/
def State.savesUsed (s : State) : List Nat := s.saves.filter (fun j => s.teams.any (fun t => t.saved == some j && !(s.teamGone t.uid)))

/-- R251: the lowest free window of a size on a core. -/
def State.freeWindow (s : State) (core : BitVec 10) (size : Nat) : Option Nat :=
  ((List.range 24).map (· * 65536)).find? (fun b => decide (b + size ≤ 1536 * 1024) &&
    (s.windowsOn core).all (fun t => decide (b + size ≤ t.base) || decide (t.base + t.size ≤ b)))

/-- R278, R484: the address of a save area. -/
def CtxPool.saveAt (p : CtxPool) (j : Nat) : Nat := p.pbase + roundUp (48 * 1024 * p.nimg) 65536 + 1536 * 1024 * j

/-- The lowest number below `n` that is not in use. -/
def lowestFree (used : List Nat) (n : Nat) : Option Nat := (List.range n).find? (fun k => !used.contains k)

/-- A pre-empted team with its window on the core, which no handler run works on (R271). -/
def State.idleTeam (s : State) (core : BitVec 10) : Option Team :=
  (s.windowsOn core).find? (fun t => (s.teamGroups t.uid).all (fun g => g.stopped || g.ended) &&
    (s.teamGroups t.uid).any (fun g => g.stopped) && (s.teamGroups t.uid).all (fun g => s.drained g.id.uid && !s.inHandler g))

/-- R278: writes the window of a pre-empted team to a save area. -/
def State.saveWindow (s : State) (t : Team) : Option State :=
  match s.ctxPool with
  | none => none
  | some p => match lowestFree s.savesUsed p.nsave with
    | none => none
    | some j =>
      let m := Memory.writeBytes s.mem (p.saveAt j) (Memory.readBytes t.spad 0 t.size)
      some { s with
        mem := m
        saves := s.saves.filter (fun x => x != j) ++ [j]
        teams := updateWhere (fun x => x.uid == t.uid) (fun x => { x with saved := some j, spad := [] }) s.teams }

/-- R251, R278: a window on a core, after as many pre-empted teams have been saved as it takes. -/
def State.makeWindow (s : State) (core : BitVec 10) (size : Nat) : Nat → Option (State × Nat)
  | 0 => none
  | n + 1 =>
    match s.freeWindow core size with
    | some b => some (s, b)
    | none => match (s.idleTeam core).bind s.saveWindow with
      | some t => t.makeWindow core size n
      | none => none

/-- R251, R484: a window on each of some cores, one after the other: the bases. -/
def State.makeWindows (size : Nat) : List (BitVec 10) → State → Option (State × List Nat)
  | [], s => some (s, [])
  | core :: rest, s => match s.makeWindow core size 32 with
    | none => none
    | some (t, b) => match makeWindows size rest t with
      | none => none
      | some (u, bs) => some (u, b :: bs)

/-- R251, R484: the context pool has images for some groups. -/
def State.imagesFor (s : State) (n : Nat) : Bool :=
  match s.ctxPool with
  | none => false
  | some p => decide (s.images.length + n ≤ p.nimg)

/-- R17: the cores of a gang of a size, by its ordinal among the places for that size. -/
def gangCores (size i : Nat) : List (BitVec 10) := (List.range size).map (fun j => BitVec.ofNat 10 (size * i + j))

/-- R250, R251: a gang of a size fits on some cores. -/
def State.gangFits (s : State) (k : KernelRec) (cores : List (BitVec 10)) : Bool :=
  cores.all (fun c => decide ((s.residents c).length + k.team ≤ 32)) && (s.makeWindows (windowBytes k.spsize) cores).isSome &&
    s.imagesFor (cores.length * k.team)

/-- R250: some cluster has room for a gang of a size. -/
def State.roomFor (s : State) (k : KernelRec) (size : Nat) : Bool := (List.range (1024 / size)).any (fun i => s.gangFits k (gangCores size i))

/-- R250: the size of a grid's next gang, or `none` when the distributor waits. -/
def State.nextGang (s : State) (t : Task) : Option Nat :=
  if t.krec.gpref ≤ t.nteams - t.placed ∧ s.roomFor t.krec t.krec.gpref = true then some t.krec.gpref
  else if t.krec.gfall ≤ t.nteams - t.placed ∧ s.roomFor t.krec t.krec.gfall = true then some t.krec.gfall
  else none

/-- R248: the effective priority of an item. -/
def Task.effective (t : Task) : Nat := min 7 (t.prio.toNat + t.raised)

/-- R248: the order in which a distributor takes items. -/
def Task.before (a b : Task) : Bool :=
  decide (b.effective < a.effective) || (a.effective == b.effective && decide (a.order ≤ b.order))

/-- R248: the items of a distributor's 32 queues that can be placed. -/
def State.hubItems (s : State) (hub : Nat) : List Task :=
  s.tasks.filter (fun t => decide (t.stage = .queued) && !t.preempted && t.queue.toNat / 32 == hub)

/-- R48: the bytes of a scratchpad image, or the first address that cannot be read, with the physical address of its sector. -/
def State.readImage (s : State) (root va : Nat) : Nat → Except (Nat × Nat) (List Byte)
  | 0 => .ok []
  | n + 1 =>
    match s.translate none root va .read with
    | .error _ => .error (va, 0)
    | .ok t =>
      if s.poisoned t.loc then .error (va, (match t with | .phys pa _ => pa | .region _ a => s.litPa root a) / 32 * 32)
      else match s.readImage root (va + 1) n with
        | .error e => .error e
        | .ok bs => .ok (s.homeByte t.loc :: bs)

/-- The register allotment of a group of a kernel (R59, R76). -/
def KernelRec.allotment (k : KernelRec) (gidx : Nat) : Nat :=
  if k.roleOn then (if gidx < k.nprod then k.vprod else k.vcons) else k.regs

/-- The first 8 of the 32 `a` registers at launch (R46). -/
def launchArgs (args : List DWord) : Vector DWord 32 := Vector.ofFn (fun i => args.getD i.val 0)

/-- A group as it starts (R45, R46, R60, R61, R76, R250). -/
def Task.start (t : Task) (module : BitVec 12) (uid image team gang clock : Nat) (core : BitVec 10) (gslot : Nat) (teamId gidx size pos : Nat)
    (lanes : Lanes) (v0 : Wide) (parents : List (BitVec 40)) : Group :=
  { Group.launch with
    id := { uid := uid, kind := .ordinary, present := true, task := t.id, core := core, locModule := module,
            gslot := BitVec.ofNat 5 gslot, team := team, gidx := BitVec.ofNat 4 gidx, ngrp := BitVec.ofNat 5 t.krec.team,
            role := t.krec.roleOn && decide (t.krec.nprod ≤ gidx), teamId := BitVec.ofNat 32 teamId, nteams := BitVec.ofNat 32 t.nteams,
            gang := gang, gangSize := BitVec.ofNat 4 size, gangPos := BitVec.ofNat 2 pos, root := t.root,
            full := t.krec.allotment gidx, image := some image, laneTask := parents }
    regs := { Regs.launch with
      v := Regs.launch.v.set 0 v0
      a := launchArgs t.args
      aLaunch := launchArgs t.args }
    modes := { Modes.launch with rngseed := t.seed, prioCap := t.prio, prioLevel := t.prio }
    slot0 := Slot.entered { pc := t.krec.hit, mask := lanes, rejoin := none, waiting := false }
    exited := ~~~lanes
    setPc := t.krec.set
    setExited := decide (t.krec.set = 0)
    age := clock }

/-- Places one group of a team on a core. -/
def State.placeGroup (t : Task) (team gang : Nat) (core : BitVec 10) (teamId gidx size pos : Nat) (lanes : Lanes) (v0 : Wide)
    (parents : List (BitVec 40)) (s : State) : State :=
  let image := (lowestFree s.images ((s.ctxPool.map (fun p => p.nimg)).getD 0)).getD 0
  let gslot := (lowestFree ((s.residents core).map (fun g => g.id.gslot.toNat)) 32).getD 0
  let g := t.start s.module s.nextUid image team gang s.clock core gslot teamId gidx size pos lanes v0 parents
  { s with others := s.others ++ [g], images := s.images ++ [image], nextUid := s.nextUid + 1 }

/-- R58, R250, R251: places a team on a core, its window at a base. -/
def State.placeTeam (t : Task) (gang size pos teamId : Nat) (core : BitVec 10) (base : Nat) (image : List Byte) (lanes : Lanes) (v0 : Wide)
    (parents : List (BitVec 40)) (s : State) : State :=
  let uid := s.nextUid
  let team : Team := { uid := uid, task := t.id, teamId := BitVec.ofNat 32 teamId, core := core, base := base,
                       size := windowBytes t.krec.spsize, spad := Memory.writeBytes [] 0 image, saved := none }
  let s := { s with teams := s.teams ++ [team], nextUid := uid + 1 }
  (List.range t.krec.team).foldl (fun s gidx => State.placeGroup t uid gang core teamId gidx size pos lanes v0 parents s) s

/-! ### Cancellation (R255) -/

/-- R255: the tasks of a subtree. -/
def State.subtree (s : State) (root : BitVec 40) : List (BitVec 40) := (s.tasks.filter (fun t => s.under root t.id)).map (fun t => t.id)

/-- Ends the groups of a list; the number that it ended. -/
def State.endAll (uids : List Nat) (s : State) : State := uids.foldl (fun s u => s.endGroup u) s

/-- R255 step 3: the lanes of a bin group whose threads have their parent in the subtree. -/
def Group.lanesUnder (g : Group) (ids : List (BitVec 40)) : Lanes :=
  lanesOf (fun j => match g.id.laneTask[j]? with
    | some p => ids.contains p
    | none => false)

/-- R249, R256: a grid whose last group has ended before the cancellation: it has completed. -/
def State.lastEnded (s : State) (t : Task) : Bool :=
  decide (t.stage = .running) && s.groups.all (fun g => !(decide (g.id.task = t.id) && decide (g.id.kind = .ordinary)) || g.ended)

/-- R255 steps 1-4: the subtree stops. The number of groups that it ended. -/
def State.cancelTree (s : State) (root : BitVec 40) : State × Nat :=
  let ids := s.subtree root
  let live := s.groups.filter (fun g => decide (g.id.kind = .ordinary) && !g.ended)
  let complete := (s.tasks.filter s.lastEnded).map (fun t => t.id)
  let whole := (live.filter (fun g => ids.contains g.id.task)).map (fun g => g.id.uid)
  let bins := (live.filter (fun g => !ids.contains g.id.task && decide (g.lanesUnder ids ≠ 0))).map (fun g => g.id.uid)
  let s := s.endAll whole
  let s := s.mapGroups (fun g => if bins.contains g.id.uid then g.exitLanes (g.lanesUnder ids) else g)
  let gone := (s.groups.filter (fun g => bins.contains g.id.uid && g.noLane)).map (fun g => g.id.uid)
  let s := s.endAll gone
  let s := { s with
    bins := (s.bins.map (fun (b : Bin) => { b with threads := b.threads.filter (fun t => !ids.contains t.parent) })).filter (fun b => !b.threads.isEmpty)
    tasks := s.tasks.map (fun (t : Task) => if ids.contains t.id && !t.stage.over && !complete.contains t.id then { t with stage := .reclaiming } else t) }
  (s.dropLighters, whole.length + gone.length)

/-! ### Retiring a parked instruction -/

/-- The port of a group that waits in some way. -/
def Group.portWhere (g : Group) (q : Wait → Bool) : Option Port :=
  if q g.slot0.wait then some .slot0 else if q g.slot1.wait then some .slot1 else if q g.setWait then some .setter else none

/-- Writes the destination of a uniform result. -/
def Dest.write (d : Dest) (x : DWord) (g : Group) : Group :=
  match d with
  | .s n => g.setS n x
  | .a n => g.setA n x
  | _ => g

/-- The destination of an instruction of both streams. -/
def uniformDest (p : Port) (d : BitVec 7) : Dest := if p = .setter then .a d.toNat else .s d.toNat

/-- A parked instruction completes: its result, in a uniform destination or by some other change, and it retires. -/
def State.finishWait (uid : Nat) (p : Port) (i : Instr) (d : Dest) (f : Group → Group) (s : State) : State :=
  (s.visit uid p (fun s => s.onGroup (fun g => g.retire ((f g).landedAt g.serial d) p i {} none false))).mirrorStep uid p d 0

end Sys2Proof.Machine
end

