-- ==== Sys2Proof/Machine/Debug.lean ====
section
/-! DEFINITION. The events of tasks that a debug block records (R282). -/

namespace Sys2Proof.Machine

/-- R282: an event that concerns a task enters the log of the debug grid of that task. -/
def State.logTask (s : State) (about : BitVec 40) (addr kind : Nat) (task : BitVec 40) (pc : Nat) (contents : List Byte) : State :=
  (s.recorders.filter (fun d => d.recording && s.under d.task about)).foldl (fun s d =>
    match s.recorders.find? (fun x => decide (x.task = d.task)) with
    | some d => s.logIn d addr kind false false task pc contents
    | none => s) s

end Sys2Proof.Machine
end

