-- ==== Sys2Proof/Machine/Access.lean ====
section
/-! DEFINITION. Memory instructions as they issue: lane addresses, the checks of R266, the entries of R213, stores into shade regions
and reduction windows, atomics, fences (R165, R184, R195-R197, R213-R221, R226-R231, R237, R405, R406, R415-R419, R455, R456, R466-R470). -/

namespace Sys2Proof.Machine

/-- R348: the access size of a memory type code. -/
def memSize (t : BitVec 3) : Nat := 2 ^ (t.toNat / 2)

/-- A run of bytes of one lane's element: its address, its offset in the element, and what a store writes there. -/
structure Piece where
  va : Int
  off : Nat
  size : Nat
  data : Nat
  deriving DecidableEq, Repr

/-- R213: an aligned element is one piece, an unaligned one a piece per byte. -/
def piecesOf (va : Int) (size data : Nat) : List Piece :=
  if va % (size : Int) = 0 then [{ va := va, off := 0, size := size, data := data }]
  else (List.range size).map (fun (i : Nat) => { va := va + (i : Int), off := i, size := 1, data := data / 256 ^ i % 256 })

/-- R353: the pieces of an `stm` lane: its marked bytes. -/
def maskedPieces (va : Int) (data mask : Nat) : List Piece :=
  ((List.range 4).filter (fun i => bitAt mask i)).map (fun (i : Nat) =>
    { va := va + (i : Int), off := i, size := 1, data := data / 256 ^ i % 256 })

/-- The open window that holds an address (R236), of whichever address space the access is (DESIGN CHOICE, log 106). -/
def State.windowAt (s : State) (va : Nat) : Option Window :=
  s.windows.find? (fun w => decide (w.base ≤ va) && decide (va < w.base + w.size))

/-- R237: a byte of a window as its HOME holds it, where that is another module (log 16). -/
def Window.awayByte (w : Window) (off : Nat) : Byte :=
  match w.away.find? (fun x => x.1 == off) with
  | some x => x.2
  | none => Config.homeByte w.id off

/-- R237: an address of a window whose HOME is another module is read there. -/
def State.awayRead (s : State) (va n : Nat) : Option Nat :=
  match s.windowAt va with
  | none => none
  | some w => if w.home = s.module.toNat then none else some (ofBytes ((List.range n).map (fun i => w.awayByte (va - w.base + i))))

/-- R237: what an access to device memory reads at the HOME of its window, where that is another module; scratchpad is in no window. -/
def State.awayAt (s : State) (l : Loc) (va n : Nat) : Option Nat :=
  match l with
  | .spad _ _ => none
  | _ => s.awayRead va n

/-- The sector of a byte of a unit, as a location. -/
def Loc.sector : Loc → Loc
  | .mem k => .mem (k / 32)
  | .spad t a => .spad t (a / 32)
  | .region r a => .region r (a / 32)

/-- R237, R280: a read of a byte finds a poisoned sector; a byte that is served from the HOME of its window, in another module, is read in no
sector here. -/
def State.readsPoison (s : State) (l : Loc) (va : Nat) : Bool := (s.awayAt l va 1).isNone && s.poisoned l

/-- What the checks of R266 say of a lane. -/
inductive Checked where
  | ok (ts : List (Piece × Target))
  | bad (c : Cause)
  /-- A page under a write-protect window (R184). -/
  | migrating
  /-- A window that this module has closed and whose status is not yet written (R240). -/
  | waits

/-- The translations of some pieces, or the first cause. -/
def State.targets (s : State) (g : Group) (acc : Access) : List Piece → Except Cause (List (Piece × Target))
  | [] => .ok []
  | p :: ps =>
    match s.translate (some g.id.core) g.id.root p.va acc with
    | .error c => .error c
    | .ok t => match s.targets g acc ps with
      | .error c => .error c
      | .ok ts => .ok ((p, t) :: ts)

/-- R280: a store of the group itself that covers a whole sector is on its way there, on the path of the port: it makes the sector good before
a later read of the path reads it. -/
def State.coverComing (s : State) (g : Group) (l : Loc) : Bool :=
  g.outq.any (fun e => e.full && decide (e.kind = .store) && e.loc.sector == l.sector &&
      onPath e.setter e.mask (decide (s.port = .setter)) (g.maskAt s.port)) ||
    s.bufs.any (fun b => b.full && (g.below l).contains b.node && b.loc.sector == l.sector)

/-- R266: the checks of a lane, in their order but for SHADE_FULL. `size` = the element size where alignment is required; `win`
judges a write into an open window; `reads` adds POISON. -/
def State.check (s : State) (g : Group) (acc : Access) (addr : Int) (size : Option Nat) (win : Window → Bool) (reads : Bool)
    (ps : List Piece) : Checked :=
  if addr < 0 ∨ (2 ^ 56 : Nat) ≤ addr then .bad Cause.badVa
  else if size.any (fun n => decide (addr % (n : Int) ≠ 0)) then .bad Cause.misaligned
  else match s.targets g acc ps with
    | .error c => .bad c
    | .ok ts =>
      let ws := ps.filterMap (fun p => s.windowAt p.va.toNat)
      if decide (acc = .write) && ts.any (fun t => t.2.mig) then .migrating
      else if decide (acc = .write) && ws.any (fun w => !w.closed && !win w) then .bad Cause.windowOp
      else if decide (acc = .write) && ws.any (fun w => w.closed) then .waits
      else if reads && ts.any (fun t => (List.range t.1.size).any (fun i =>
          s.readsPoison (t.2.loc.add i) (t.1.va.toNat + i) && !(s.coverComing g (t.2.loc.add i)))) then .bad Cause.poison
      else .ok ts

/-- A fault record of a lane (R268). -/
def laneRecord (l : Nat) (c : Cause) (addr : Int) : Nat × Cause × BitVec 64 × Bool :=
  (l, c, BitVec.ofInt 64 addr &&& 0x00FF_FFFF_FFFF_FFFF#64, decide (addr < 0) || decide ((2 ^ 56 : Nat) ≤ addr))

/-- Puts an entry of the issuing instruction into the out-queue of its group. -/
def State.addEntry (s : State) (lane off : Nat) (kind : EntryKind) (loc : Loc) (va size : Nat) (data data2 : BitVec 64)
    (acq rel : Option (BitVec 3)) (full : Bool) (win : Option (Nat × Nat) := none) : State :=
  let e := s.g.entry s.port s.nextUid lane off kind loc size data data2 acq rel full
  { s with nextUid := s.nextUid + 1, g := { s.g with outq := s.g.outq ++ [{ e with va := va, win := win }] } }

/-- R166: keeps the translations of some pieces. -/
def State.rememberAll (s : State) (ts : List (Piece × Target)) : State :=
  ts.foldl (fun s t => s.remember s.g.id.core s.g.id.root t.1.va.toNat) s

/-! ### Loads -/

/-- A load as it issues: its element type, its lanes with their addresses, its alignment rule, its counter and its order. -/
structure LoadOp where
  ty : BitVec 3
  lanes : List Nat
  addr : Nat → Int
  aligned : Bool
  path : Option (BitVec 3)
  acq : Option (BitVec 3)
  dest : Dest
  /-- May set the dark tag (R206). -/
  tags : Bool

/-- The entries and the faults of a load. -/
def State.loadLanes (o : LoadOp) (s : State) : State × List (Nat × Cause × BitVec 64 × Bool) :=
  let n := memSize o.ty
  let checked := o.lanes.map (fun l =>
    (l, s.check s.g .read (o.addr l) (if o.aligned then some n else none) (fun _ => true) true (piecesOf (o.addr l) n 0)))
  checked.foldl (fun acc x =>
    let s := acc.1
    match x.2 with
    | .ok ts =>
      (ts.foldl (fun s t => s.addEntry x.1 t.1.off .load t.2.loc t.1.va.toNat t.1.size 0 0 o.acq none false) (s.rememberAll ts), acc.2)
    | .bad c => (s, acc.2 ++ [laneRecord x.1 c (o.addr x.1)])
    | _ => acc) (s, [])

/-- R416: a load issues. A setter's fault is a refused trap (R265). -/
def State.load (o : LoadOp) (s : State) : Act :=
  if o.path.any (fun c => s.g.counterFull c) then .later
  else
    let r := s.loadLanes o
    match s.port, r.2 with
    | .setter, (_, c, a, out) :: _ => .trap c a out
    | _, recs =>
      let good := lanesOf (fun j => o.lanes.contains j && !(recs.any (fun x => x.1 == j)))
      let none := decide (good = 0)
      let f := s.g.launched s.port o.path (.load o.ty [] (o.tags && decide (good = BitVec.allOnes 64)) true) o.dest good none
      let t := if none && o.path.isNone then r.1 else r.1.onGroup (fun g => g.addFlight f)
      if recs.isEmpty then .run t else .fault t recs

/-- R38: the address of lane `i` of a consecutive access. -/
def Group.spread (g : Group) (p : Port) (n : BitVec 5) (e : Int) (size i : Nat) : Int :=
  if p = .setter then (g.a n.toNat).toNat + e else (g.aBase n.toNat).toNat + e + i * size

/-- R342: the address of lane `i` in a pair. -/
def Group.pairAddress (g : Group) (a i : Nat) : Int := (g.pairV a i).toNat

/-- The lanes of the instruction that issues at the port. -/
def State.active (s : State) : List Nat := if s.port = .setter then [0] else members (s.g.maskAt s.port)

/-- The destination of `ld`. -/
def State.loadDest (s : State) (t : BitVec 3) (d : BitVec 5) : Dest :=
  if s.port = .setter then .a d.toNat else .v d.toNat (decide (6 ≤ t.toNat))

/-- R416: `ld` and its ordered form. -/
def State.ldOp (i : Instr) (d n : BitVec 5) (t : BitVec 3) (e : Int) (acq : Option (BitVec 3)) (s : State) : State :=
  s.issue i (fun s => s.load { ty := t, lanes := s.active, addr := fun l => s.g.spread s.port n e (memSize t) l, aligned := true,
                               path := some 0, acq := acq, dest := s.loadDest t d, tags := decide (s.port ≠ .setter) })

/-- R416: `ld`. -/
def execLd (d : BitVec 5) (t : BitVec 3) (n : BitVec 5) (e : BitVec 11) (s : State) : Answer :=
  .next (s.ldOp (.ld d t n e) d n t e.toInt none)

/-- R416, R219: `ld.acq`. -/
def execLdAcq (d : BitVec 5) (t : BitVec 3) (n : BitVec 5) (sc : BitVec 3) (s : State) : Answer :=
  .next (s.ldOp (.ldAcq d t n sc) d n t 0 (some sc))

/-- R417: `ldq` and its ordered form. -/
def State.ldqOp (i : Instr) (d n : BitVec 5) (t : BitVec 3) (e : Int) (acq : Option (BitVec 3)) (s : State) : State :=
  s.issue i (fun s => s.load { ty := t, lanes := [0], addr := fun l => s.g.spread .setter n e (memSize t) l, aligned := true,
                               path := some 0, acq := acq, dest := .q d.toNat, tags := false })

/-- R417: `ldq`. -/
def execLdq (d : BitVec 5) (t : BitVec 3) (n : BitVec 5) (e : BitVec 11) (s : State) : Answer :=
  .next (s.ldqOp (.ldq d t n e) d n t e.toInt none)

/-- R417: `ldq.acq`. -/
def execLdqAcq (d : BitVec 5) (t : BitVec 3) (n : BitVec 5) (sc : BitVec 3) (s : State) : Answer :=
  .next (s.ldqOp (.ldqAcq d t n sc) d n t 0 (some sc))

/-- R406: `gth`. -/
def execGth (sc : BitVec 3) (q : BitVec 2) (t : BitVec 3) (a d : BitVec 7) (s : State) : Answer :=
  .next (s.issue (.gth sc q t a d) (fun s =>
    s.load { ty := t, lanes := s.active, addr := fun l => s.g.pairAddress a.toNat l, aligned := false, path := some 3,
             acq := if q = 1#2 then some sc else none, dest := .v d.toNat (decide (6 ≤ t.toNat)), tags := false }))

/-! ### Scratchpad (R418-R419, R469, R470) -/

/-- R419: the check of a scratchpad lane, in the order of R266. -/
def checkSpad (addr : Int) (size window : Nat) : Option Cause :=
  if addr < 0 ∨ (window : Int) ≤ addr then some Cause.badVa
  else if addr % (size : Int) ≠ 0 then some Cause.misaligned
  else none

/-- The lanes of a scratchpad access that pass, and the records of those that do not. -/
def State.spadLanes (s : State) (n : BitVec 5) (e : Int) (size : Nat) : List Nat × List (Nat × Cause × BitVec 64 × Bool) :=
  let bad := fun l => checkSpad (s.g.spread s.port n e size l) size (s.windowSize s.g)
  (s.active.filter (fun l => (bad l).isNone),
   s.active.filterMap (fun l => (bad l).map (fun c => laneRecord l c (s.g.spread s.port n e size l))))

/-- R419: `lds` and its ordered form. -/
def State.ldsOp (i : Instr) (d n : BitVec 5) (t : BitVec 3) (e : Int) (acq : Option (BitVec 3)) (s : State) : State :=
  s.issue i (fun s =>
    let size := memSize t
    let r := s.spadLanes n e size
    let u := r.1.foldl (fun (u : State) l =>
      u.addEntry l 0 .load (.spad s.g.id.team (s.g.spread s.port n e size l).toNat) 0 size 0 0 acq none false) s
    let f := s.g.launched s.port none (.load t [] false false) (.v d.toNat (decide (6 ≤ t.toNat))) (lanesOf (fun j => r.1.contains j)) false
    let u := if r.1.isEmpty then u else u.onGroup (fun g => g.addFlight f)
    if r.2.isEmpty then .run u else .fault u r.2)

/-- R419: `lds`. -/
def execLds (d : BitVec 5) (t : BitVec 3) (n : BitVec 5) (e : BitVec 11) (s : State) : Answer :=
  .next (s.ldsOp (.lds d t n e) d n t e.toInt none)

/-- R419: `lds.acq`. -/
def execLdsAcq (d : BitVec 5) (t : BitVec 3) (n : BitVec 5) (sc : BitVec 3) (s : State) : Answer :=
  .next (s.ldsOp (.ldsAcq d t n sc) d n t 0 (some sc))

/-! ### Stores -/

/-- What one lane of a store writes. -/
structure LaneStore where
  lane : Nat
  addr : Int
  ts : List (Piece × Target)
  deriving DecidableEq, Repr

/-- A unit that the coalescer sends on. -/
structure StoreUnit where
  lane : Nat
  off : Nat
  va : Int
  loc : Loc
  size : Nat
  data : Nat
  deriving DecidableEq, Repr

/-- The bytes of a unit as units of one byte. -/
def StoreUnit.bytes (u : StoreUnit) : List StoreUnit :=
  (List.range u.size).map (fun i => { u with off := u.off + i, va := u.va + i, loc := u.loc.add i, size := 1, data := u.data / 256 ^ i % 256 })

/-- The units of a lane. -/
def LaneStore.units (l : LaneStore) : List StoreUnit :=
  l.ts.map (fun t => { lane := l.lane, off := t.1.off, va := t.1.va, loc := t.2.loc, size := t.1.size, data := t.1.data })

/-- R214: the coalescer keeps the byte of the highest-numbered lane. -/
def coalesce : List StoreUnit → List StoreUnit
  | [] => []
  | u :: us =>
    let rest := coalesce us
    let hit := fun x : StoreUnit => us.any (fun v => decide (x.lane < v.lane) && overlap x.loc x.size v.loc v.size)
    if hit u then (u.bytes.filter (fun x => !hit x)) ++ rest else u :: rest

/-- R171: the units of an instruction cover the sector of a unit. -/
def coversSector (us : List StoreUnit) (u : StoreUnit) : Bool :=
  ((us.filter (fun v => v.loc.sector == u.loc.sector)).foldl (fun n v => n + v.size) 0) == 32

/-- R225, R237: the window that a write contributes to: its base, and the offset in it. This is settled as the write issues (DESIGN CHOICE, log
105). -/
def State.mergeSlotAt (s : State) (va : Nat) : Option (Nat × Nat) :=
  match s.windowAt va with
  | some w => if w.closed then none else some (w.base, va - w.base)
  | none => none

/-- A unit of a store contributes to no window where it lies in scratchpad. -/
def State.mergeSlotOf (s : State) (u : StoreUnit) : Option (Nat × Nat) :=
  match u.loc with
  | .spad _ _ => none
  | _ => s.mergeSlotAt u.va.toNat

/-- The allocations that the units of a store need (R196, R197): the state after them, the lanes that are refused, and whether one
waits. A contribution to a window writes no page before its merge (R225). -/
def State.allocateFor (us : List StoreUnit) (s : State) : State × List Nat × Bool :=
  us.foldl (fun acc u =>
    let s := acc.1
    if (s.mergeSlotOf u).isSome then acc
    else match u.loc with
    | .region root va => match s.darkPage root va with
      | none => acc
      | some (r, page) =>
        if r.isShade va u.size u.data then acc
        else match s.allocate r page with
          | .granted t => (t, acc.2)
          | .refused t => (t, acc.2.1 ++ [u.lane], acc.2.2)
          | .waits t => (t, acc.2.1, true)
    | _ => acc) (s, [], false)

/-- The coalesced units of the lanes that are not refused an allocation, the lanes that are, and whether an allocation waits. -/
def State.storeUnits : Nat → List LaneStore → State → State × List StoreUnit × List Nat × Bool
  | 0, _, s => (s, [], [], false)
  | n + 1, ls, s =>
    let us := coalesce (ls.flatMap LaneStore.units)
    let a := s.allocateFor us
    if a.2.2 then (a.1, [], [], true)
    else if a.2.1.isEmpty then (a.1, us, [], false)
    else
      let r := a.1.storeUnits n (ls.filter (fun l => !a.2.1.contains l.lane))
      (r.1, r.2.1, a.2.1.dedup ++ r.2.2.1, r.2.2.2)

/-- R196: shade bytes on a dark page are not written, and leave no synchronising write where the store is a release (DESIGN CHOICE, log 103). -/
def State.stays (s : State) (u : StoreUnit) : Bool :=
  (s.mergeSlotOf u).isNone && (match u.loc with
    | .region root va => (s.darkPage root va).isSome
    | _ => false)

/-- R199: a page that a store of a group has lit, now or while it waited, without writing it, since a later page of the lane was refused, is
clean: a candidate. -/
def State.noteLeft (s s0 : State) (uid : Nat) (us : List StoreUnit) : State :=
  (s.claimLit s0 uid).mapLit (fun r p =>
    let wrote := us.any (fun u => match u.loc with
      | .region root va => r.root == root && decide (r.base ≤ va) && r.pageOf va == p.index
      | _ => false)
    if p.lighter ≠ some uid then p else if wrote then { p with lighter := none } else s.leftLit r p)

/-- R237: a store of an element size is a contribution to a window. -/
def Window.takesStore (w : Window) (size : Nat) : Bool := decide (size = if w.op = 1#4 then 2 else 4)

/-- A store as it issues: the lanes with their pieces, its alignment rule, whether it may contribute, its order. -/
structure StoreOp where
  pieces : Nat → List Piece
  addr : Nat → Int
  size : Option Nat
  contributes : Bool
  rel : Option (BitVec 3)

/-- The lanes of a store sorted by what the checks say. -/
def State.storeLanes (o : StoreOp) (s : State) : List LaneStore × List (Nat × Cause × BitVec 64 × Bool) × List Nat × Bool :=
  s.active.foldl (fun acc l =>
    let ps := o.pieces l
    if ps.isEmpty then acc
    else match s.check s.g .write (o.addr l) o.size (fun w => o.contributes && o.size.any (fun n => w.takesStore n)) false ps with
      | .ok ts => (acc.1 ++ [{ lane := l, addr := o.addr l, ts := ts }], acc.2)
      | .bad c => (acc.1, acc.2.1 ++ [laneRecord l c (o.addr l)], acc.2.2)
      | .migrating => (acc.1, acc.2.1, acc.2.2.1 ++ [l], acc.2.2.2)
      | .waits => (acc.1, acc.2.1, acc.2.2.1, true)) ([], [], [], false)

/-- R467: a store issues. -/
def State.store (o : StoreOp) (s : State) : Act :=
  if s.g.counterFull 1 then .later
  else
    let c := s.storeLanes o
    if c.2.2.2 then .later
    else
      let r := s.storeUnits 65 c.1
      if r.2.2.2 then .wait .alloc (r.1.claimLit s s.g.id.uid)
      else
        let full := fun l => laneRecord l Cause.shadeFull (o.addr l)
        let recs := sortBy (fun x y => decide (x.1 ≤ y.1)) (c.2.1 ++ r.2.2.1.map full)
        match s.port, recs, c.2.2.1 with
        | .setter, (_, c, a, out) :: _, _ => .refused (r.1.noteLeft s s.g.id.uid []) c a out
        | .setter, [], _ :: _ => .wait .migrating s
        | _, recs, mig =>
          let good := c.1.filter (fun l => !r.2.2.1.contains l.lane)
          let us := r.2.1
          let t := good.foldl (fun s l => s.rememberAll l.ts) (r.1.noteLeft s s.g.id.uid us)
          let t := us.foldl (fun s u => if s.stays u then s
            else s.addEntry u.lane u.off .store u.loc u.va.toNat u.size (BitVec.ofNat 64 u.data) 0 none o.rel (coversSector us u) (s.mergeSlotOf u)) t
          let t := t.onGroup (fun g => g.addFlight (s.g.launched s.port (some 1) .store .none (lanesOf (fun j => good.any (fun l => l.lane == j))) true))
          if !mig.isEmpty then .migrate t (lanesOf (fun j => mig.contains j || recs.any (fun x => x.1 == j)))
          else if recs.isEmpty then .run t else .fault t recs

/-- R340, R467: the stored value of a lane, by the memory type code and the D field. -/
def Group.storeData (g : Group) (p : Port) (t : BitVec 3) (d : BitVec 5) (l : Nat) : Nat :=
  (if p = .setter then (g.a d.toNat).toNat
   else if t.toNat % 2 = 0 then (g.source p (alternate d) l).toNat
   else if t.toNat = 7 then (g.pairV d.toNat l).toNat
   else (lane (g.v d.toNat) l).toNat) % 256 ^ memSize t

/-- R467: `st` and its ordered form. -/
def State.stOp (i : Instr) (d n : BitVec 5) (t : BitVec 3) (e : Int) (rel : Option (BitVec 3)) (s : State) : State :=
  s.issue i (fun s =>
    let addr := fun l => s.g.spread s.port n e (memSize t) l
    s.store { pieces := fun l => piecesOf (addr l) (memSize t) (s.g.storeData s.port t d l), addr := addr, size := some (memSize t),
              contributes := true, rel := rel })

/-- R467: `st`. -/
def execSt (d : BitVec 5) (t : BitVec 3) (n : BitVec 5) (e : BitVec 11) (s : State) : Answer :=
  .next (s.stOp (.st d t n e) d n t e.toInt none)

/-- R467: `st.rel`. -/
def execStRel (d : BitVec 5) (t : BitVec 3) (n : BitVec 5) (sc : BitVec 3) (s : State) : Answer :=
  .next (s.stOp (.stRel d t n sc) d n t 0 (some sc))

/-- R456: `sct`. -/
def execSct (sc : BitVec 3) (q : BitVec 2) (t : BitVec 3) (a d : BitVec 7) (s : State) : Answer :=
  .next (s.issue (.sct sc q t a d) (fun s =>
    let addr := fun l => s.g.pairAddress a.toNat l
    let data := fun l => (if t.toNat = 7 then (s.g.pairV d.toNat l).toNat else (lane (s.g.v d.toNat) l).toNat) % 256 ^ memSize t
    s.store { pieces := fun l => piecesOf (addr l) (memSize t) (data l), addr := addr, size := none, contributes := false,
              rel := if q = 2#2 then some sc else none }))

/-- R468: `stm`. -/
def execStm (sc : BitVec 3) (q : BitVec 2) (a d : BitVec 7) (s : State) : Answer :=
  .next (s.issue (.stm sc q a d) (fun s =>
    let addr := fun l => s.g.pairAddress a.toNat l
    s.store { pieces := fun l => maskedPieces (addr l) (lane (s.g.v d.toNat) l).toNat (lane (s.g.v (d.toNat + 1)) l).toNat,
              addr := addr, size := none, contributes := false, rel := if q = 2#2 then some sc else none }))

/-- R470: `sts` and its ordered form. -/
def State.stsOp (i : Instr) (d n : BitVec 5) (t : BitVec 3) (e : Int) (rel : Option (BitVec 3)) (s : State) : State :=
  s.issue i (fun s =>
    let size := memSize t
    let r := s.spadLanes n e size
    let us := coalesce (r.1.map (fun l => StoreUnit.mk l 0 (s.g.spread s.port n e size l)
      (.spad s.g.id.team (s.g.spread s.port n e size l).toNat) size (s.g.storeData s.port t d l)))
    let u := us.foldl (fun (u : State) x => u.addEntry x.lane x.off .store x.loc 0 x.size (BitVec.ofNat 64 x.data) 0 none rel false) s
    if r.2.isEmpty then .run u else .fault u r.2)

/-- R470: `sts`. -/
def execSts (d : BitVec 5) (t : BitVec 3) (n : BitVec 5) (e : BitVec 11) (s : State) : Answer :=
  .next (s.stsOp (.sts d t n e) d n t e.toInt none)

/-- R470: `sts.rel`. -/
def execStsRel (d : BitVec 5) (t : BitVec 3) (n : BitVec 5) (sc : BitVec 3) (s : State) : Answer :=
  .next (s.stsOp (.stsRel d t n sc) d n t 0 (some sc))

/-! ### Atomics (R226-R231) -/

/-- R101, R149, R228, R229: the new value of an atomic, and its flags; `add.f32`, `min.f32` and `max.f32` read their operands under DAZ. -/
def atomicNew (op : BitVec 3) (ty : BitVec 2) (fmode : BitVec 64) (draw : BitVec 32) (old x : Nat) : Nat × BitVec 6 :=
  let n := if ty.toNat < 2 then 32 else 64
  let signed := decide (ty.toNat % 2 = 0)
  let v := fun y : Nat => if signed then sextOf y n else ((y % 2 ^ n : Nat) : Int)
  let fv := fun y : Nat => Fmt.f32.read fmode y
  match op.toNat with
  | 0 => ((old + x) % 2 ^ n, 0)
  | 1 => (if v x < v old then x else old, 0)
  | 2 => (if v old < v x then x else old, 0)
  | 3 => (Nat.land old x, 0)
  | 4 => (Nat.lor old x, 0)
  | 5 => (Nat.xor old x, 0)
  | 6 => (x, 0)
  | _ =>
    match ty.toNat with
    | 0 =>
      let r := (fv old).add (fmodeRM fmode) (fv x)
      let c := Fmt.f32.round (Round.ofMode fmode draw.toNat) r.1
      (c.1, r.2 ||| c.2)
    | 1 => let r := Val.minmax false (fv old) (fv x)
      (Fmt.f32.codeOf r.1, r.2)
    | _ => let r := Val.minmax true (fv old) (fv x)
      (Fmt.f32.codeOf r.1, r.2)

/-- What an atomic entry writes over an old value; `none` = nothing. -/
def EntryKind.update (k : EntryKind) (old : Nat) (data data2 : BitVec 64) : Option (Nat × BitVec 6) :=
  match k with
  | .atomic op ty fmode draw => some (atomicNew op ty fmode draw old data.toNat)
  | .cas _ => if old = data.toNat then some (data2.toNat, 0) else none
  | _ => none

/-- R237: an `atom` whose operation and type are those of a window. -/
def Window.takesAtom (w : Window) (op : BitVec 3) (ty : BitVec 2) : Bool :=
  match w.op.toNat with
  | 0 => decide (op = 7) && decide (ty = 0)
  | 2 => decide (op = 0) && decide (ty = 0)
  | 3 => decide (op = 7) && decide (ty = 2)
  | 4 => decide (op = 2) && decide (ty = 0)
  | _ => false

/-- R227: the address of lane `i` of an atomic with elements of `z` bytes. -/
def Group.atomAddress (g : Group) (m : BitVec 7) (z i : Nat) : Int :=
  if m.toNat % 2 = 0 then g.pairAddress m.toNat i
  else if m.toNat < 65 then (g.aBase (m.toNat / 2)).toNat + i * z
  else (g.aBase ((m.toNat - 65) / 2)).toNat

/-- Adds what a lane's access returned to the instruction in flight. -/
def Group.gotFor (g : Group) (serial : Nat) (x : Got) (fl : BitVec 6) : Group :=
  g.updateFlight serial (fun f => { f with
    kind := match f.kind with
      | .load t got d a => .load t (got ++ [x]) d a
      | .atom w got flags h => .atom w (got ++ [x]) (flags ||| fl.setWidth 64) h
      | k => k })

/-- R196: an entry of an instruction lies on a dark page, to which its write has still to be judged; a contribution to a window writes no page
(R225). -/
def State.onDark (s : State) (e : Entry) : Bool :=
  e.win.isNone && (match e.loc with
    | .region root va => (s.darkPage root va).isSome
    | _ => false)

/-- R229-R231: an atomic issues. With lanes on dark pages, which are judged when they perform (R196), it holds its stream (R197). -/
def State.atomicOp (z : Nat) (m : BitVec 7) (kind : Nat → EntryKind) (data data2 : Nat → BitVec 64) (win : Window → Bool)
    (acq rel : Option (BitVec 3)) (dest : Dest) (draws : Bool) (s : State) : Act :=
  if s.g.counterFull 0 then .later
  else
    let p := s.port
    let addr := fun l => s.g.atomAddress m z l
    let checked := s.active.map (fun l => (l, s.check s.g .write (addr l) (some z) win true [{ va := addr l, off := 0, size := z, data := 0 }]))
    if checked.any (fun x => match x.2 with | .waits => true | _ => false) then .later
    else
      let r := checked.foldl (fun (acc : State × List (Nat × Cause × BitVec 64 × Bool) × List Nat) x =>
        let s := acc.1
        let l := x.1
        match x.2 with
        | .bad c => (s, acc.2.1 ++ [laneRecord l c (addr l)], acc.2.2)
        | .migrating => (s, acc.2.1, acc.2.2 ++ [l])
        | .ok ((_, t) :: _) =>
          ((s.remember s.g.id.core s.g.id.root (addr l).toNat).addEntry l 0 (kind l) t.loc (addr l).toNat z (data l) (data2 l) acq rel false
            (s.mergeSlotAt (addr l).toNat), acc.2)
        | _ => acc) (s, [], [])
      let recs := r.2.1
      let mig := lanesOf (fun j => r.2.2.contains j)
      let good := lanesOf (fun j => (s.g.maskAt p).getLsbD j && !(recs.any (fun x => x.1 == j)) && !(r.2.2.contains j))
      let dark := (r.1.g.outq.drop s.g.outq.length).any s.onDark
      let hold : Option AtomHold := if dark then some { recs := recs, mig := mig, modes := s.g.modes } else none
      let t := r.1.onGroup (fun g => g.addFlight (s.g.launched p (some 0) (.atom (decide (z = 8)) [] 0 hold) dest good (decide (good = 0))))
      let t := t.onGroup (fun g => if draws then g.countDraw p else g)
      if dark then .wait (.atomic s.g.serial) (t.onGroup (fun g => { g with serial := g.serial + 1 }))
      else if mig ≠ 0 then .migrate t (lanesOf (fun j => mig.getLsbD j || recs.any (fun x => x.1 == j)))
      else if recs.isEmpty then .run t else .fault t recs

/-- R226: the acquire and the release scope of an order field. -/
def acqOf (q : BitVec 2) (sc : BitVec 3) : Option (BitVec 3) := if q.getLsbD 0 then some sc else none
def relOf (q : BitVec 2) (sc : BitVec 3) : Option (BitVec 3) := if q.getLsbD 1 then some sc else none

/-- R228: the element size of an atomic type; the types of O = 7 have 32 bits. -/
def atomSize (op : BitVec 3) (t : BitVec 2) : Nat := if atomWide op t then 8 else 4

/-- R229: `atom`. -/
def execAtom (sc : BitVec 3) (q t : BitVec 2) (x : BitVec 3) (m d : BitVec 7) (s : State) : Answer :=
  .next (s.issue (.atom sc q t x m d) (fun s =>
    let z := atomSize x t
    let draws := s.g.drawing s.port && decide (x = 7) && decide (t = 0)
    s.atomicOp z m
      (fun l => .atomic x t (s.g.fmode s.port) (if draws then BitVec.ofNat 32 (s.g.draw s.port l 0) else 0))
      (fun l => if z = 8 then s.g.pairV d.toNat l else (lane (s.g.v d.toNat) l).zeroExtend 64) (fun _ => 0)
      (fun w => w.takesAtom x t) (acqOf q sc) (relOf q sc) (.v d.toNat (decide (z = 8))) draws))

/-- R230: `cas`. -/
def execCas (sc : BitVec 3) (q t : BitVec 2) (m d : BitVec 7) (s : State) : Answer :=
  .next (s.issue (.cas sc q t m d) (fun s =>
    let z := if t.toNat < 2 then 4 else 8
    s.atomicOp z m (fun _ => .cas t)
      (fun l => if z = 8 then s.g.pairV d.toNat l else (lane (s.g.v d.toNat) l).zeroExtend 64)
      (fun l => if z = 8 then s.g.pairV (d.toNat + 2) l else (lane (s.g.v (d.toNat + 1)) l).zeroExtend 64)
      (fun _ => false) (acqOf q sc) (relOf q sc) (.v d.toNat (decide (z = 8))) false))

/-! ### Fences (R215-R221) -/

/-- R219: the reads of a path that an acquire fence at the port waits for. -/
def Group.readsBefore (g : Group) (p : Port) : List Nat :=
  (g.outq.filter (fun x => x.kind.reads && onPath x.setter x.mask (decide (p = .setter)) (g.maskAt p))).map (fun x => x.id)

/-- R218, R219: some synchronising write that the path has read is mismatched with a fence at a scope. -/
def Group.mismatchedBefore (g : Group) (setter : Bool) (mask : Lanes) (sc : BitVec 3) : Bool :=
  g.readTags.any (fun t => onPath t.setter t.mask setter mask && !(g.matched sc t.tag))

/-- R221: `fence`. -/
def execFence (sc : BitVec 3) (k : BitVec 2) (s : State) : Answer :=
  .next (s.issue (.fence sc k) (fun s =>
    let p := s.port
    let s := if k.getLsbD 1 then s.onGroup (fun g => g.addMark p (.relFence sc)) else s
    if k.getLsbD 0 then
      let after := s.g.readsBefore p
      if after.isEmpty then
        .run (s.onGroup (fun g => if g.mismatchedBefore (decide (p = .setter)) (g.maskAt p) sc then g.raiseSticky stickySCOPE else g))
      else
        let e := s.g.entry p s.nextUid 0 0 .fence (.mem 0) 0 0 0 (some sc) none false
        .run { s with nextUid := s.nextUid + 1, g := { s.g with outq := s.g.outq ++ [{ e with after := after, weak := [] }] } }
    else .run s))

end Sys2Proof.Machine
end

