-- ==== Sys2Proof/Machine/Choice.lean ====
section
/-! DEFINITION. Which port may attempt its instruction and where it stands in the order of issue, what it fetches, and where a program is placed for its first instruction
(R61, R259, R334). -/

namespace Sys2Proof.Machine

/-- A wait that is retried at its instruction; the others end by the happening that grants them. -/
def Wait.retried : Wait → Bool
  | .running | .other | .alloc | .pages .. | .counter .. | .barrier .. => true
  | .atomic _ | .scan _ | .gang _ | .acquire | .migrating | .reclaim .. | .launch .. | .action _ | .trapped => false

/-- R273: a machine check runs on the core, or is about to. -/
def State.inMcheck (s : State) (core : BitVec 10) : Bool :=
  s.groups.any (fun g => g.id.kind == .mcheck && decide (g.id.core = core) && !g.ended) ||
    ((s.coreCtl core).map (fun c => c.mcheckCause.isSome || c.halted)).getD false

/-- R184, R264, R271, R278, R293: the streams of a group stop at their next instruction boundary: a trap of the group waits for its entry or is
being handled, or the group is pre-empted, or it is parked for a write-protect window or an action on an attention cache, or a checkpoint is
due for its grid (R282). -/
def State.halts (s : State) (g : Group) : Bool :=
  g.stopped || g.slot0.wait.parksGroup || g.slot1.wait.parksGroup || g.slot0.trap.isSome || g.slot1.trap.isSome || g.setTrap.isSome || s.inHandler g ||
    s.recorders.any (fun d => decide (d.task = g.id.task) && d.due)

/-- R79, R80: a machine check waits for its entry, while a latch chain of the handler run comes to its end. -/
def State.checkDue (s : State) (core : BitVec 10) : Bool :=
  !(s.groups.any (fun g => g.id.kind == .mcheck && decide (g.id.core = core) && !g.ended)) &&
    ((s.coreCtl core).map (fun c => c.mcheckCause.isSome && !c.halted)).getD false

/-- A port of a group may attempt its next instruction. -/
def State.mayIssue (s : State) (g : Group) (p : Port) : Bool :=
  g.id.present && !g.ended && !s.stopped &&
    (match g.id.kind with
     | .ordinary => !((s.coreCtl g.id.core).map (fun c => c.halted)).getD false
     | .handler => !s.inMcheck g.id.core || (s.checkDue g.id.core && s.inChain g p)
     | .mcheck => !((s.coreCtl g.id.core).map (fun c => c.halted)).getD false) &&
    (match p with
     | .setter => !g.setExited && g.setWait.retried && !(s.halts g)
     | p =>
       let x := g.slot p
       x.trap.isNone && x.wait.retried && (!(s.halts g) || s.inChain g p) &&
       (match x.path with
        | some q => decide (q.mask ≠ 0) && !q.waiting
        | none => false))

/-! ### The order of issue (R85, R259) -/

/-- R259: where a port of a group stands in the issue choice of its core: the handler slot, then a group at its starvation bound, then the
levels. Slots and setter each come to a bound of their own (log 6). -/
def Group.rank (g : Group) (p : Port) : Nat :=
  if g.id.kind ≠ .ordinary then 0 else if 512 ≤ (if p = .setter then g.readySet else g.ready) then 1 else 9 - g.modes.prioLevel.toNat

/-- R259: at a port, a group comes before another; equal ranks and ages leave them level. -/
def Group.ahead (a b : Group) (p : Port) : Bool :=
  decide (a.rank p < b.rank p) || (a.rank p == b.rank p && decide (a.age < b.age))

/-- R259: a group that has been ready at its slots, or at its setter, since its last issue there comes to the bound. -/
def Group.starved (g : Group) : Group :=
  { g with
    ready := if 0 < g.ready then max 512 g.ready else g.ready
    readySet := if 0 < g.readySet then max 512 g.readySet else g.readySet }

/-- R259: `STARVATION_BOUND`: a group that has a ready slot comes to its bound of 512 clocks without issuing (log 6). -/
def execStarvationBound (grp : Nat) (s : State) : Answer := .next (s.modGroup grp Group.starved)

/-- R334: what the port at issue fetches. -/
def State.fetchNow (s : State) : Except Cause (BitVec 16 × BitVec 16) := s.fetch s.g (s.g.pcAt s.port).toNat

/-- The instruction that the port at issue takes: the one it decodes, or the happening of a fetch that fails or decodes to none. -/
def State.nextInstr (s : State) : Instr :=
  match s.fetchNow with
  | .error c => .fetchFault c
  | .ok (lo, hi) => match decode (s.g.streamAt s.port) lo hi with
    | some i => i
    | none => .illegalInstruction

/-- R166: the fetch leaves its translation in the core's cache. -/
def State.fetched (s : State) : State := s.remember s.g.id.core s.g.id.root (s.g.pcAt s.port).toNat

/-- The bytes of an instruction as they lie in memory (R334). -/
def codeBytes (lo hi : BitVec 16) : List Byte :=
  toBytes 2 lo.toNat ++ (if lo.getLsbD 0 then toBytes 2 hi.toNat else [])

/-- Where `withFetchWord` places its root table, the next table and the code. -/
def loadRoot : Nat := 0x10_0000
def loadTable : Nat := 0x20_0000
def loadPc : Nat := 0x4000_0000

/-- Memory with a page table that maps VA `0x4000_0000` upward onto PA 0 upward (1 GiB, R, W and X), and code at that address. -/
def loadMemory (m : Mem) (lo hi : BitVec 16) : Mem :=
  let m := Memory.writeNat m loadRoot 8 (loadTable + 1)
  let m := Memory.writeNat m (loadTable + 8) 8 0x1F
  Memory.writeBytes m 0 (codeBytes lo hi)

/-- A group that stands at the code, for the stream that reads it. -/
def loadGroup (uid : Nat) (st : Stream) : Group :=
  { Group.launch with
    id := { Ident.none with uid := uid, present := true, root := loadRoot,
                            kind := if st = .handler then .handler else .ordinary }
    slot0 := { Slot.empty with path := some { pc := BitVec.ofNat 64 loadPc, mask := BitVec.allOnes 64, rejoin := none, waiting := false } }
    setPc := BitVec.ofNat 64 loadPc
    setExited := decide (st ≠ .setter) }

end Sys2Proof.Machine
end

