-- ==== Sys2Proof/Machine/Copies.lean ====
section
/-! DEFINITION. The copy engines: descriptors, `cpy` and `cpyg`, dispatch, engine accesses and completion (R18, R178-R183, R196, R197,
R213, R222). -/

namespace Sys2Proof.Machine

/-- R179: the dimensions of a descriptor: COUNT, SSTRIDE, DSTRIDE. -/
def descDim (x d : Nat) : Nat × Int × Int :=
  (bitsOf x (128 * d + 287) (128 * d + 256), sextOf (bitsOf x (128 * d + 335) (128 * d + 288)) 48,
   sextOf (bitsOf x (128 * d + 383) (128 * d + 336)) 48)

/-- R179: the fields of a descriptor from its 256 bytes. -/
def copyDescOf (x : Nat) : CopyDesc where
  src := BitVec.ofNat 64 (bitsOf x 63 0)
  dst := BitVec.ofNat 64 (bitsOf x 127 64)
  idx := BitVec.ofNat 64 (bitsOf x 191 128)
  scope := BitVec.ofNat 3 (bitsOf x 214 212)
  rel := bitAt x 215
  acq := bitAt x 216
  idxSp := bitAt x 217
  dstSp := bitAt x 218
  srcSp := bitAt x 219
  dims := (List.range (bitsOf x 223 220)).map (descDim x)

/-- The number of tuples of some dimensions. -/
def tuples (dims : List (Nat × Int × Int)) : Nat := dims.foldl (fun n d => n * d.1) 1

/-- R180: the tuple of a visit ordinal, dimension 0 first. -/
def tupleOf : List (Nat × Int × Int) → Nat → List Nat
  | [], _ => []
  | d :: ds, n => n % d.1 :: tupleOf ds (n / d.1)

/-- The lowest and the highest offset that some strides reach; dimension 0 has stride 1. -/
def reach (dims : List (Nat × Int)) : Int × Int :=
  dims.foldl (fun acc d =>
    let x : Int := (d.1 - 1 : Nat) * d.2
    (acc.1 + min 0 x, acc.2 + max 0 x)) (0, 0)

/-- The strides of one side, with the unit stride of dimension 0. -/
def sideDims (f : Nat × Int × Int → Int) : List (Nat × Int × Int) → List (Nat × Int)
  | [] => []
  | d :: ds => (d.1, 1) :: ds.map (fun d => (d.1, f d))

/-- A scratchpad side stays within the window. -/
def sideOk (start : Nat) (r : Int × Int) (window : Nat) : Bool := decide (0 ≤ start + r.1) && decide (start + r.2 < (window : Int))

/-- R179, R181: a descriptor breaks no limit. -/
def copyDescOk (x : Nat) (d : CopyDesc) (gather : Bool) (window : Nat) : Bool :=
  let n := d.dims.length
  decide (bitsOf x 255 224 = 0) && decide (bitsOf x 211 192 = 0) && decide (1 ≤ n) && decide (n ≤ 14) &&
    decide (d.scope ≠ 7) && decide (x / 2 ^ (128 * n + 256) = 0) && d.dims.all (fun c => decide (1 ≤ c.1)) &&
    (match d.dims with
     | c :: _ => decide (c.2.1 = 0) && decide (c.2.2 = 0)
     | [] => false) &&
    (if gather then decide (2 ≤ n) && d.dstSp && decide (d.dst.toNat + tuples d.dims ≤ window)
     else !d.idxSp && decide (d.idx = 0) &&
      (!d.srcSp || sideOk d.src.toNat (reach (sideDims (fun c => c.2.1) d.dims)) window) &&
      (!d.dstSp || sideOk d.dst.toNat (reach (sideDims (fun c => c.2.2) d.dims)) window))

/-- R178-R181: a copy instruction issues. -/
def State.copy (i : Instr) (gather : Bool) (a b : BitVec 8) (s : State) : State :=
  s.issue i (fun s =>
    let g := s.g
    let off := g.operandFull s.port a
    let window := s.windowSize g
    if off % 64 ≠ 0 ∨ window < off + 256 then .no Cause.copyDesc
    else if g.pendingOn s.port (.spad g.id.team off) 256 then .later
    else
      let x := ofBytes (s.spadBytes g off 256)
      let d := copyDescOf x
      if !copyDescOk x d gather window then .no Cause.copyDesc
      else if g.counterFull 2 then .later
      else
        let id := s.nextUid
        let c : CopyCmd :=
          { id := id, grp := g.id.uid, team := g.id.team, serial := g.serial,
            engine := (dieOf g.id.core).toNat * 3 + clusterOf g.id.core % 16 % 3, gather := gather, root := g.id.root, desc := d,
            base := (g.operand64 s.port b).toNat, pos := 0, holding := none, fault := none, dispatched := false,
            after := if d.rel then g.releaseAfter s.port else [] }
        let e := g.engineEntry s.port (id + 1) id (if d.acq then g.acquireAfter s.port else [])
        .run { s with
          nextUid := id + 2
          copies := s.copies ++ [c]
          g := { g with outq := g.outq ++ [e] }.addFlight
            (g.launched s.port (some 2) (.copy id) .none 0 false) })

/-- R180: `cpy`. -/
def execCpy (a b : BitVec 8) (s : State) : Answer := .next (s.copy (.cpy a b) false a b)

/-- R180: `cpyg`. -/
def execCpyg (a b : BitVec 8) (s : State) : Answer := .next (s.copy (.cpyg a b) true a b)

/-! ### Dispatch and engine accesses (R213) -/

/-- R213: everything that an entry is ordered after has left the out-queue. -/
def Group.entryReady (g : Group) (e : Entry) : Bool :=
  !(g.outq.any (fun x => e.after.contains x.id || e.weak.contains x.id))

/-- R213, R222: `DISPATCH`: an engine command leaves the out-queue for its engine queue, in which commands stand as they arrive (R18). -/
def execDispatch (entry : Nat) (s : State) : Answer :=
  .next (match s.groups.find? (fun g => g.outq.any (fun e => e.id == entry)) with
    | none => s
    | some g => match g.outq.find? (fun e => e.id == entry) with
      | none => s
      | some e => match e.kind with
        | .engine cmd =>
          if g.entryReady e then
            { s with
              copies := (s.copies.filter (fun (c : CopyCmd) => c.id != cmd)) ++
                ((s.copies.filter (fun (c : CopyCmd) => c.id == cmd)).map (fun (c : CopyCmd) => { c with dispatched := true }))
              pme := updateWhere (fun (r : PmeReq) => r.id == cmd) (fun (r : PmeReq) => { r with dispatched := true }) s.pme : State }.modGroup g.id.uid
              (fun g => { g with outq := g.outq.filter (fun x => x.id != entry) })
          else s
        | _ => s)

/-- R178: an address of a copy in device memory: the base is added modulo 2^56. -/
def CopyCmd.based (c : CopyCmd) (x : DWord) : Nat := (x.toNat + c.base) % 2 ^ 56

/-- The sum of the products of a tuple, from dimension 1 on, with the strides of a side. -/
def strideSum (f : Nat × Int × Int → Int) : List (Nat × Int × Int) → List Nat → Int
  | d :: ds, j :: js => j * f d + strideSum f ds js
  | _, _ => 0

/-- Where an engine reads or writes: a byte of the scratchpad or of device memory, or the cause of its fault with the address. -/
def State.engineByte (s : State) (c : CopyCmd) (spad : Bool) (addr : Int) (acc : Access) : Except (Cause × Int) (Loc × Bool) :=
  if spad then
    let window := ((s.team c.team).map (fun t => t.size)).getD 0
    if addr < 0 ∨ (window : Int) ≤ addr then .error (Cause.badVa, addr) else .ok (.spad c.team addr.toNat, false)
  else match s.translate none c.root addr acc with
    | .error e => .error (e, addr)
    | .ok t => if decide (acc = .read) && s.readsPoison t.loc addr.toNat then .error (Cause.poison, addr) else .ok (t.loc, t.mig)

/-- R213, R237: a byte as an engine reads it, as a load of a group would: through the group's path, or at the HOME of its window. -/
def State.readFor (s : State) (grp va : Nat) (l : Loc) : Byte :=
  match s.awayAt l va 1, s.group grp with
  | some x, _ => BitVec.ofNat 8 x
  | none, some g => (s.byteVia (g.below l) l).1
  | none, none => s.homeByte l

/-- R180: row `top` of the index list of a `cpyg`. An index list in the scratchpad that leaves its team's window gives BAD_VA as the
command executes (DESIGN CHOICE, log 81). -/
def State.indexRow (s : State) (c : CopyCmd) (j : Nat) : Except (Cause × Int) Nat :=
  let a : Int := (if c.desc.idxSp then c.desc.idx.toNat else c.based c.desc.idx) + 4 * j
  ((List.range 4).reverse).foldl (fun acc (i : Nat) => match acc, s.engineByte c c.desc.idxSp (a + i) .read with
    | .ok n, .ok (l, _) => .ok (n * 256 + (s.readFor c.grp (a + i).toNat l).toNat)
    | .error e, _ => .error e
    | _, .error e => .error e) (.ok 0)

/-- R180: the source address of a visit ordinal. -/
def State.sourceOf (s : State) (c : CopyCmd) (n : Nat) : Except (Cause × Int) Int :=
  let j := tupleOf c.desc.dims n
  let start : Int := if c.desc.srcSp then c.desc.src.toNat else c.based c.desc.src
  if c.gather then
    let top := c.desc.dims.length - 1
    match s.indexRow c (j.getD top 0) with
    | .error e => .error e
    | .ok row =>
      let dims := c.desc.dims.take top
      .ok (start + (j.getD 0 0 : Nat) + strideSum (fun d => d.2.1) (dims.drop 1) ((j.take top).drop 1) +
        row * ((c.desc.dims.getD top (0, 0, 0)).2.1))
  else .ok (start + (j.getD 0 0 : Nat) + strideSum (fun d => d.2.1) (c.desc.dims.drop 1) (j.drop 1))

/-- R180: the destination address of a visit ordinal. -/
def CopyCmd.destOf (c : CopyCmd) (n : Nat) : Int :=
  let j := tupleOf c.desc.dims n
  let start : Int := if c.desc.dstSp then c.desc.dst.toNat else c.based c.desc.dst
  if c.gather then start + n
  else start + (j.getD 0 0 : Nat) + strideSum (fun d => d.2.2) (c.desc.dims.drop 1) (j.drop 1)

/-- R171: the run of dimension 0 that holds a byte covers the byte's sector. -/
def CopyCmd.covers (c : CopyCmd) (n : Nat) (addr : Int) : Bool :=
  let run := if c.gather then tuples c.desc.dims else (c.desc.dims.getD 0 (1, 0, 0)).1
  let at_ := if c.gather then n else (tupleOf c.desc.dims n).getD 0 0
  let first := addr / 32 * 32
  decide (addr - at_ ≤ first) && decide (first + 32 ≤ addr - at_ + run)

/-- Changes a copy command. -/
def State.modCopy (s : State) (id : Nat) (f : CopyCmd → CopyCmd) : State := { s with copies := updateWhere (fun c => c.id == id) f s.copies }

/-- A write that has performed, in the leaf buffer of a group (R213). -/
def State.bufferWrite (s : State) (g : Group) (serial : Nat) (l : Loc) (va size : Nat) (data : BitVec 64) (full : Bool) (tag : Option Tag) : State :=
  { s with
    bufs := s.bufs ++ [{ id := s.nextUid, node := .grp g.id.uid, loc := l, size := size, va := va, data := data, full := full, tag := tag,
                         grp := g.id.uid, serial := serial }]
    nextUid := s.nextUid + 1 }

/-- R180, R213: the engine writes the byte that it holds. A page under a write-protect window stalls it (R184), and a release write waits
for its condition (R217). -/
def State.copyWrite (s : State) (c : CopyCmd) (b : Byte) : State :=
  let addr := c.destOf c.pos
  match s.engineByte c c.desc.dstSp addr .write, s.group c.grp with
  | .error e, _ => s.modCopy c.id (fun c => { c with fault := some (e.1, e.2, c.pos) })
  | _, none => s
  | .ok (l, mig), some g =>
    if mig || (c.desc.rel && (g.outq.any (fun e => c.after.contains e.id) || !(s.released g c.desc.scope.toNat))) then s
    else match s.preparePage l 1 b.toNat with
      | .waits t => t
      | .refused t => t.modCopy c.id (fun c => { c with fault := some (Cause.shadeFull, addr, c.pos) })
      | .granted t =>
        ((t.bufferWrite g c.serial l addr.toNat 1 (b.zeroExtend 64) (c.covers c.pos addr)
          (if c.desc.rel then some (g.tag c.desc.scope) else none)).observeAccess c.grp c.serial l addr.toNat true false).modCopy c.id (fun c => { c with pos := c.pos + 1, holding := none })

/-- R180, R282: the row of an index list that a `cpyg` reads with its next byte is recorded. -/
def State.sawIndex (s : State) (c : CopyCmd) : State :=
  if !c.gather then s
  else
    let j := (tupleOf c.desc.dims c.pos).getD (c.desc.dims.length - 1) 0
    let a : Int := (if c.desc.idxSp then c.desc.idx.toNat else c.based c.desc.idx) + 4 * j
    match s.engineByte c c.desc.idxSp a .read with
    | .ok (l, _) => s.observeAccess c.grp c.serial l a.toNat false false
    | .error _ => s

/-- R180, R213: the engine reads its next byte. -/
def State.copyRead (s : State) (c : CopyCmd) : State :=
  match s.sourceOf c c.pos with
  | .error e => s.modCopy c.id (fun c => { c with fault := some (e.1, e.2, c.pos) })
  | .ok addr => match s.engineByte c c.desc.srcSp addr .read with
    | .error e => s.modCopy c.id (fun c => { c with fault := some (e.1, e.2, c.pos) })
    | .ok (l, _) => ((s.sawIndex c).observeAccess c.grp c.serial l addr.toNat false false).modCopy c.id (fun x =>
        { x with holding := some (s.readFor c.grp addr.toNat l) })

/-- R182: a copy has nothing more to do. -/
def CopyCmd.over (c : CopyCmd) : Bool := c.fault.isSome || decide (tuples c.desc.dims ≤ c.pos)

/-- R18: a copy has started. -/
def CopyCmd.started (c : CopyCmd) : Bool := c.holding.isSome || c.fault.isSome || decide (0 < c.pos)

/-- R184: a copy holds a byte for a page under a write-protect window, and stalls its engine. -/
def State.copyStalled (s : State) (c : CopyCmd) : Bool :=
  c.holding.isSome && !c.over && (match s.engineByte c c.desc.dstSp (c.destOf c.pos) .write with
    | .ok (_, mig) => mig
    | .error _ => false)

/-- R18, R184: the engine of a copy may go on with it: it has started every command that arrived before it, and none of its commands stalls
it. -/
def State.engineTurn (s : State) (c : CopyCmd) : Bool :=
  let mine := s.copies.filter (fun x => x.engine == c.engine && x.dispatched && x.id != c.id)
  (c.started || ((s.copies.takeWhile (fun x => x.id != c.id)).filter (fun x => x.engine == c.engine && x.dispatched)).all CopyCmd.started) &&
    !(mine.any s.copyStalled)

/-- R180, R213: the next read or write of a copy. -/
def State.copyAccess (s : State) (c : CopyCmd) : State :=
  if !c.dispatched || c.over || !(s.engineTurn c) then s
  else match c.holding with
    | some b => s.copyWrite c b
    | none => s.copyRead c

/-- R175, R182: `COPY_COMPLETE`: every byte is written, or the copy has ended at its first faulting byte. -/
def execCopyComplete (cmd : Nat) (s : State) : Answer :=
  .next (match s.copies.find? (fun c => c.id == cmd) with
    | none => s
    | some c =>
      if !c.dispatched || !c.over then s
      else
        let post : List CopyFault := match c.fault with
          | some (cause, addr, n) => [{ grp := c.grp, serial := c.serial, cause := cause, addr := addr, ordinal := n }]
          | none => []
        let s := { s with copies := s.copies.filter (fun x => x.id != cmd), faults := s.faults ++ post }
        s.modGroup c.grp (fun g => g.updateFlight c.serial (fun f => { f with done := true })))

end Sys2Proof.Machine
end

