-- ==== Sys2Proof/Machine/Rv64.lean ====
section
/-! DEFINITION. The court core: RV64GC with Zba, Zbb and Zicond in U-mode (R301, R302). The spec names the instruction set and leaves
its meaning to the RISC-V standard, which is what this file writes down (log 20). -/

namespace Sys2Proof.Machine

/-! ### Compressed instructions as the 32-bit words they stand for -/

/-- Bits of a word moved to a place. -/
def rvBits (x hi lo at_ : Nat) : Nat := bitsOf x hi lo * 2 ^ at_

/-- Sign extension of an `n`-bit number to 64 bits, as a natural number. -/
def rvSext (x n : Nat) : Nat := wrapOf 64 (sextOf x n)

/-- The I, S, B, J and R layouts. -/
def rvI (op f3 rd rs1 imm : Nat) : Nat := op + rd * 2 ^ 7 + f3 * 2 ^ 12 + rs1 * 2 ^ 15 + imm % 4096 * 2 ^ 20
def rvS (op f3 rs1 rs2 imm : Nat) : Nat :=
  op + rvBits imm 4 0 7 + f3 * 2 ^ 12 + rs1 * 2 ^ 15 + rs2 * 2 ^ 20 + rvBits imm 11 5 25
def rvB (f3 rs1 rs2 imm : Nat) : Nat :=
  0x63 + rvBits imm 11 11 7 + rvBits imm 4 1 8 + f3 * 2 ^ 12 + rs1 * 2 ^ 15 + rs2 * 2 ^ 20 + rvBits imm 10 5 25 + rvBits imm 12 12 31
def rvJ (rd imm : Nat) : Nat :=
  0x6F + rd * 2 ^ 7 + rvBits imm 19 12 12 + rvBits imm 11 11 20 + rvBits imm 10 1 21 + rvBits imm 20 20 31
def rvR (op f3 f7 rd rs1 rs2 : Nat) : Nat := op + rd * 2 ^ 7 + f3 * 2 ^ 12 + rs1 * 2 ^ 15 + rs2 * 2 ^ 20 + f7 * 2 ^ 25

/-- Quadrant 0. -/
def rvExpand0 (c : Nat) : Option Nat :=
  let rd := 8 + bitsOf c 4 2
  let rs := 8 + bitsOf c 9 7
  let w := rvBits c 12 10 3 + rvBits c 6 6 2 + rvBits c 5 5 6
  let d := rvBits c 12 10 3 + rvBits c 6 5 6
  match bitsOf c 15 13 with
  | 0 =>
    let n := rvBits c 12 11 4 + rvBits c 10 7 6 + rvBits c 6 6 2 + rvBits c 5 5 3
    if n = 0 then none else some (rvI 0x13 0 rd 2 n)
  | 1 => some (rvI 0x07 3 rd rs d)
  | 2 => some (rvI 0x03 2 rd rs w)
  | 3 => some (rvI 0x03 3 rd rs d)
  | 5 => some (rvS 0x27 3 rs rd d)
  | 6 => some (rvS 0x23 2 rs rd w)
  | 7 => some (rvS 0x23 3 rs rd d)
  | _ => none

/-- Quadrant 1. -/
def rvExpand1 (c : Nat) : Option Nat :=
  let rd := bitsOf c 11 7
  let r := 8 + bitsOf c 9 7
  let r2 := 8 + bitsOf c 4 2
  let u6 := rvBits c 12 12 5 + bitsOf c 6 2
  let i6 := rvSext u6 6
  let j := rvSext (rvBits c 12 12 11 + rvBits c 11 11 4 + rvBits c 10 9 8 + rvBits c 8 8 10 + rvBits c 7 7 6 + rvBits c 6 6 7 +
    rvBits c 5 3 1 + rvBits c 2 2 5) 12
  let b := rvSext (rvBits c 12 12 8 + rvBits c 11 10 3 + rvBits c 6 5 6 + rvBits c 4 3 1 + rvBits c 2 2 5) 9
  match bitsOf c 15 13 with
  | 0 => some (rvI 0x13 0 rd rd i6)
  | 1 => if rd = 0 then none else some (rvI 0x1B 0 rd rd i6)
  | 2 => some (rvI 0x13 0 rd 0 i6)
  | 3 =>
    if u6 = 0 then none
    else if rd = 2 then
      some (rvI 0x13 0 2 2 (rvSext (rvBits c 12 12 9 + rvBits c 6 6 4 + rvBits c 5 5 6 + rvBits c 4 3 7 + rvBits c 2 2 5) 10))
    else some (0x37 + rd * 2 ^ 7 + i6 % 2 ^ 20 * 2 ^ 12)
  | 4 => match bitsOf c 11 10, bitsOf c 12 12, bitsOf c 6 5 with
    | 0, _, _ => some (rvI 0x13 5 r r u6)
    | 1, _, _ => some (rvI 0x13 5 r r (0x400 + u6))
    | 2, _, _ => some (rvI 0x13 7 r r i6)
    | _, 0, 0 => some (rvR 0x33 0 0x20 r r r2)
    | _, 0, 1 => some (rvR 0x33 4 0 r r r2)
    | _, 0, 2 => some (rvR 0x33 6 0 r r r2)
    | _, 0, _ => some (rvR 0x33 7 0 r r r2)
    | _, _, 0 => some (rvR 0x3B 0 0x20 r r r2)
    | _, _, 1 => some (rvR 0x3B 0 0 r r r2)
    | _, _, _ => none
  | 5 => some (rvJ 0 j)
  | 6 => some (rvB 0 r 0 b)
  | _ => some (rvB 1 r 0 b)

/-- Quadrant 2. -/
def rvExpand2 (c : Nat) : Option Nat :=
  let rd := bitsOf c 11 7
  let rs := bitsOf c 6 2
  let d := rvBits c 12 12 5 + rvBits c 6 5 3 + rvBits c 4 2 6
  let w := rvBits c 12 12 5 + rvBits c 6 4 2 + rvBits c 3 2 6
  let sd := rvBits c 12 10 3 + rvBits c 9 7 6
  let sw := rvBits c 12 9 2 + rvBits c 8 7 6
  match bitsOf c 15 13 with
  | 0 => some (rvI 0x13 1 rd rd (rvBits c 12 12 5 + rs))
  | 1 => some (rvI 0x07 3 rd 2 d)
  | 2 => if rd = 0 then none else some (rvI 0x03 2 rd 2 w)
  | 3 => if rd = 0 then none else some (rvI 0x03 3 rd 2 d)
  | 4 =>
    if bitAt c 12 = false then
      if rs = 0 then (if rd = 0 then none else some (rvI 0x67 0 0 rd 0)) else some (rvR 0x33 0 0 rd 0 rs)
    else if rs = 0 then (if rd = 0 then some 0x0010_0073 else some (rvI 0x67 0 1 rd 0)) else some (rvR 0x33 0 0 rd rd rs)
  | 5 => some (rvS 0x27 3 2 rs sd)
  | 6 => some (rvS 0x23 2 2 rs sw)
  | _ => some (rvS 0x23 3 2 rs sd)

/-- The 32-bit word that a compressed instruction stands for. -/
def rvExpand (c : Nat) : Option Nat :=
  match c % 4 with
  | 0 => rvExpand0 c
  | 1 => rvExpand1 c
  | 2 => rvExpand2 c
  | _ => none

/-! ### Integer operations -/

/-- A 32-bit result, sign-extended. -/
def rvW (x : Nat) : Nat := rvSext x 32

/-- Leading zeros, trailing zeros and ones of an `n`-bit number. -/
def rvClz (n x : Nat) : Nat := (((List.range n).reverse.takeWhile (fun i => !(bitAt x i))).length)
def rvCtz (n x : Nat) : Nat := ((List.range n).takeWhile (fun i => !(bitAt x i))).length
def rvCpop (n x : Nat) : Nat := ((List.range n).filter (fun i => bitAt x i)).length

/-- Rotation right of an `n`-bit number. -/
def rvRor (n x k : Nat) : Nat := x / 2 ^ k + x % 2 ^ k * 2 ^ (n - k)

/-- The bytes of a 64-bit number through a function. -/
def rvBytes (f : Nat → Nat) : Nat := ofBytes ((List.range 8).map (fun i => BitVec.ofNat 8 (f i)))

/-- Division and remainder of `n`-bit numbers. -/
def rvDiv (n : Nat) (a b : Int) : Int := if b = 0 then -1 else if a = -(2 ^ (n - 1) : Nat) ∧ b = -1 then a else a.tdiv b
def rvRem (n : Nat) (a b : Int) : Int := if b = 0 then a else if a = -(2 ^ (n - 1) : Nat) ∧ b = -1 then 0 else a.tmod b

/-- OP-IMM on 64-bit numbers below 2^64. -/
def rvOpImm (f3 imm12 a : Nat) : Option Nat :=
  let i := rvSext imm12 12
  let sh := imm12 % 64
  match f3 with
  | 0 => some ((a + i) % 2 ^ 64)
  | 2 => some (if sextOf a 64 < sextOf i 64 then 1 else 0)
  | 3 => some (if a < i then 1 else 0)
  | 4 => some (Nat.xor a i)
  | 6 => some (Nat.lor a i)
  | 7 => some (Nat.land a i)
  | 1 =>
    if imm12 / 64 = 0 then some (a * 2 ^ sh % 2 ^ 64)
    else match imm12 with
      | 0x600 => some (rvClz 64 a)
      | 0x601 => some (rvCtz 64 a)
      | 0x602 => some (rvCpop 64 a)
      | 0x604 => some (rvSext a 8)
      | 0x605 => some (rvSext a 16)
      | _ => none
  | _ =>
    if imm12 / 64 = 0 then some (a / 2 ^ sh)
    else if imm12 / 64 = 0x10 then some (wrapOf 64 (sextOf a 64 / (2 ^ sh : Nat)))
    else if imm12 / 64 = 0x18 then some (rvRor 64 a sh)
    else if imm12 = 0x287 then some (rvBytes (fun i => if bitsOf a (8 * i + 7) (8 * i) = 0 then 0 else 255))
    else if imm12 = 0x6B8 then some (rvBytes (fun i => bitsOf a (63 - 8 * i) (56 - 8 * i)))
    else none

/-- OP-IMM-32. -/
def rvOpImm32 (f3 imm12 a : Nat) : Option Nat :=
  let x := a % 2 ^ 32
  let sh := imm12 % 32
  match f3 with
  | 0 => some (rvW (a + rvSext imm12 12))
  | 1 =>
    if imm12 / 32 = 0 then some (rvW (x * 2 ^ sh))
    else if imm12 / 64 = 0x02 then some (x * 2 ^ (imm12 % 64) % 2 ^ 64)
    else match imm12 with
      | 0x600 => some (rvClz 32 x)
      | 0x601 => some (rvCtz 32 x)
      | 0x602 => some (rvCpop 32 x)
      | _ => none
  | 5 =>
    if imm12 / 32 = 0 then some (rvW (x / 2 ^ sh))
    else if imm12 / 32 = 0x20 then some (wrapOf 64 (sextOf x 32 / (2 ^ sh : Nat)))
    else if imm12 / 32 = 0x30 then some (rvW (rvRor 32 x sh))
    else none
  | _ => none

/-- OP. -/
def rvOp (f7 f3 a b : Nat) : Option Nat :=
  let sa := sextOf a 64
  let sb := sextOf b 64
  let sh := b % 64
  match f7, f3 with
  | 0x00, 0 => some ((a + b) % 2 ^ 64)
  | 0x00, 1 => some (a * 2 ^ sh % 2 ^ 64)
  | 0x00, 2 => some (if sa < sb then 1 else 0)
  | 0x00, 3 => some (if a < b then 1 else 0)
  | 0x00, 4 => some (Nat.xor a b)
  | 0x00, 5 => some (a / 2 ^ sh)
  | 0x00, 6 => some (Nat.lor a b)
  | 0x00, 7 => some (Nat.land a b)
  | 0x20, 0 => some (wrapOf 64 (sa - sb))
  | 0x20, 4 => some (Nat.xor a (2 ^ 64 - 1 - b))
  | 0x20, 5 => some (wrapOf 64 (sa / (2 ^ sh : Nat)))
  | 0x20, 6 => some (Nat.lor a (2 ^ 64 - 1 - b))
  | 0x20, 7 => some (Nat.land a (2 ^ 64 - 1 - b))
  | 0x01, 0 => some (a * b % 2 ^ 64)
  | 0x01, 1 => some (wrapOf 64 (sa * sb / (2 ^ 64 : Nat)))
  | 0x01, 2 => some (wrapOf 64 (sa * b / (2 ^ 64 : Nat)))
  | 0x01, 3 => some (a * b / 2 ^ 64)
  | 0x01, 4 => some (wrapOf 64 (rvDiv 64 sa sb))
  | 0x01, 5 => some (if b = 0 then 2 ^ 64 - 1 else a / b)
  | 0x01, 6 => some (wrapOf 64 (rvRem 64 sa sb))
  | 0x01, 7 => some (if b = 0 then a else a % b)
  | 0x10, 2 => some ((2 * a + b) % 2 ^ 64)
  | 0x10, 4 => some ((4 * a + b) % 2 ^ 64)
  | 0x10, 6 => some ((8 * a + b) % 2 ^ 64)
  | 0x05, 4 => some (if sb < sa then b else a)
  | 0x05, 5 => some (min a b)
  | 0x05, 6 => some (if sa < sb then b else a)
  | 0x05, 7 => some (max a b)
  | 0x30, 1 => some (rvRor 64 a ((64 - sh) % 64))
  | 0x30, 5 => some (rvRor 64 a sh)
  | 0x07, 5 => some (if b = 0 then 0 else a)
  | 0x07, 7 => some (if b = 0 then a else 0)
  | _, _ => none

/-- OP-32; `rs2` is the register number, which `zext.h` fixes. -/
def rvOp32 (f7 f3 rs2 a b : Nat) : Option Nat :=
  let x := a % 2 ^ 32
  let y := b % 2 ^ 32
  let sx := sextOf a 32
  let sy := sextOf b 32
  let sh := b % 32
  match f7, f3 with
  | 0x00, 0 => some (rvW (a + b))
  | 0x00, 1 => some (rvW (x * 2 ^ sh))
  | 0x00, 5 => some (rvW (x / 2 ^ sh))
  | 0x20, 0 => some (wrapOf 64 (sextOf (wrapOf 32 (sx - sy)) 32))
  | 0x20, 5 => some (wrapOf 64 (sx / (2 ^ sh : Nat)))
  | 0x01, 0 => some (rvW (x * y))
  | 0x01, 4 => some (wrapOf 64 (rvDiv 32 sx sy))
  | 0x01, 5 => some (rvW (if y = 0 then 2 ^ 32 - 1 else x / y))
  | 0x01, 6 => some (wrapOf 64 (rvRem 32 sx sy))
  | 0x01, 7 => some (rvW (if y = 0 then x else x % y))
  | 0x04, 0 => some ((x + b) % 2 ^ 64)
  | 0x04, 4 => if rs2 = 0 then some (a % 2 ^ 16) else none
  | 0x10, 2 => some ((2 * x + b) % 2 ^ 64)
  | 0x10, 4 => some ((4 * x + b) % 2 ^ 64)
  | 0x10, 6 => some ((8 * x + b) % 2 ^ 64)
  | 0x30, 1 => some (rvW (rvRor 32 x ((32 - sh) % 32)))
  | 0x30, 5 => some (rvW (rvRor 32 x sh))
  | _, _ => none

/-- The condition of a branch. -/
def rvTaken (f3 a b : Nat) : Option Bool :=
  match f3 with
  | 0 => some (a == b)
  | 1 => some (a != b)
  | 4 => some (decide (sextOf a 64 < sextOf b 64))
  | 5 => some (decide (sextOf b 64 ≤ sextOf a 64))
  | 6 => some (decide (a < b))
  | 7 => some (decide (b ≤ a))
  | _ => none

/-- The new value of an AMO of `n` bits. -/
def rvAmo (f5 n old x : Nat) : Option Nat :=
  match f5 with
  | 0x01 => some x
  | 0x00 => some ((old + x) % 2 ^ n)
  | 0x04 => some (Nat.xor old x)
  | 0x0C => some (Nat.land old x)
  | 0x08 => some (Nat.lor old x)
  | 0x10 => some (if sextOf x n < sextOf old n then x else old)
  | 0x14 => some (if sextOf old n < sextOf x n then x else old)
  | 0x18 => some (min old x)
  | 0x1C => some (max old x)
  | _ => none

/-! ### Floating point -/

/-- binary64. -/
def Fmt.f64 : Fmt := ⟨.ieee, 64, 53, -1022, 0x7FEF_FFFF_FFFF_FFFF, some 0x7FF0_0000_0000_0000, some 0x7FF8_0000_0000_0000⟩

/-- The format of a `fmt` field. -/
def rvFmt (x : Nat) : Option Fmt :=
  match x with
  | 0 => some Fmt.f32
  | 1 => some Fmt.f64
  | _ => none

/-- A register as an operand of a format: a value that is not NaN-boxed reads as the canonical NaN. -/
def rvUnbox (f : Fmt) (x : Nat) : Nat :=
  if f.width = 32 then (if x / 2 ^ 32 = 2 ^ 32 - 1 then x % 2 ^ 32 else 0x7FC0_0000) else x

/-- A result as a register. -/
def rvBox (f : Fmt) (x : Nat) : Nat := if f.width = 32 then (2 ^ 32 - 1) * 2 ^ 32 + x else x

/-- The rounding of an instruction: `rm` of the word, or that of `fcsr`. -/
def rvRound (rm fcsr : Nat) : Option Round :=
  let m := if rm = 7 then fcsr / 32 % 8 else rm
  match m with
  | 0 => some ⟨0, false, false, 0⟩
  | 1 => some ⟨1, false, false, 0⟩
  | 2 => some ⟨3, false, false, 0⟩
  | 3 => some ⟨2, false, false, 0⟩
  | 4 => some ⟨4, false, false, 0⟩
  | _ => none

/-- The IEEE 754 quotient. -/
def rvFdiv (f : Fmt) (r : Round) (a b : Val) : Nat × BitVec 6 :=
  let nv := ((f.nan).1, flagNV)
  match a, b with
  | .nan x, y => ((f.nan).1, (Val.nan x).sig ||| y.sig)
  | x, .nan y => ((f.nan).1, x.sig ||| (Val.nan y).sig)
  | .inf _, .inf _ => nv
  | .inf s, .fin t _ _ => f.round r (.inf (s != t))
  | .fin s _ _, .inf t => f.round r (.fin (s != t) 0 0)
  | .fin s m e, .fin t n k =>
    if n = 0 then (if m = 0 then nv else ((f.round r (.inf (s != t))).1, flagDZ))
    else
      let up := f.prec + 3 + Nat.log2 n
      f.roundFin r (s != t) (m * 2 ^ up / n) (e - k - up) (decide (m * 2 ^ up % n ≠ 0))

/-- The IEEE 754 square root. -/
def rvFsqrt (f : Fmt) (r : Round) (a : Val) : Nat × BitVec 6 :=
  match a with
  | .nan x => ((f.nan).1, (Val.nan x).sig)
  | .inf s => if s then ((f.nan).1, flagNV) else f.round r a
  | .fin s m e =>
    if m = 0 then f.round r a
    else if s then ((f.nan).1, flagNV)
    else
      let up := 2 * (f.prec + 3) + (if (e - (2 * (f.prec + 3) : Nat)) % 2 = 0 then 0 else 1)
      let x := m * 2 ^ up
      let q := Nat.sqrt x
      f.roundFin r false q ((e - up) / 2) (decide (q * q ≠ x))

/-- Float to an integer of `n` bits: out of range and NaN give the nearest limit, NaN the greatest. -/
def rvToInt (n : Nat) (signed : Bool) (r : Round) (v : Val) : Nat × BitVec 6 :=
  match v with
  | .nan _ => ((if signed then 2 ^ (n - 1) - 1 else 2 ^ n - 1), flagNV)
  | v => roundInt n signed r v

/-- `fclass`. -/
def rvClass (f : Fmt) (v : Val) : Nat :=
  match v with
  | .inf s => if s then 2 ^ 0 else 2 ^ 7
  | .nan s => if s then 2 ^ 8 else 2 ^ 9
  | .fin s m _ =>
    if m = 0 then (if s then 2 ^ 3 else 2 ^ 4)
    else if m < 2 ^ (f.prec - 1) then (if s then 2 ^ 2 else 2 ^ 5)
    else (if s then 2 ^ 1 else 2 ^ 6)

/-- What an OP-FP instruction writes: an `x` or an `f` register, with its flags. -/
inductive RvResult where
  | x (v : Nat) (fl : BitVec 6)
  | f (v : Nat) (fl : BitVec 6)

/-- OP-FP: the register numbers of rs2, and the contents of rs1 (`x` and `f`) and rs2. -/
def rvOpFp (w fcsr x1 f1 f2 : Nat) : Option RvResult :=
  let f5 := bitsOf w 31 27
  let f3 := bitsOf w 14 12
  let n2 := bitsOf w 24 20
  match rvFmt (bitsOf w 26 25) with
  | none => none
  | some f =>
    let a := rvUnbox f f1
    let b := rvUnbox f f2
    let va := f.decode a
    let vb := f.decode b
    let out := fun (p : Nat × BitVec 6) => some (RvResult.f (rvBox f p.1) p.2)
    let rounded := fun (g : Round → Val × BitVec 6) => (rvRound f3 fcsr).bind (fun r =>
      let v := g r
      let p := f.round r v.1
      out (p.1, v.2 ||| p.2))
    let top := 2 ^ (f.width - 1)
    match f5 with
    | 0x00 => rounded (fun r => va.add r.rm vb)
    | 0x01 => rounded (fun r => va.add r.rm vb.neg)
    | 0x02 => rounded (fun _ => va.mul vb)
    | 0x03 => (rvRound f3 fcsr).bind (fun r => out (rvFdiv f r va vb))
    | 0x0B => if n2 = 0 then (rvRound f3 fcsr).bind (fun r => out (rvFsqrt f r va)) else none
    | 0x04 =>
      let body := a % top
      match f3 with
      | 0 => out (body + b / top * top, 0)
      | 1 => out (body + (1 - b / top) * top, 0)
      | 2 => out (body + (if a / top = b / top then 0 else top), 0)
      | _ => none
    | 0x05 =>
      if f3 < 2 then
        let r := Val.minmax (f3 == 1) va vb
        out (f.codeOf r.1, r.2)
      else none
    | 0x08 =>
      match rvFmt n2 with
      | none => none
      | some g =>
        if n2 = bitsOf w 26 25 then none
        else (rvRound f3 fcsr).bind (fun r =>
          let v := g.decode (rvUnbox g f1)
          let p := f.round r v
          out (p.1, v.sig ||| p.2))
    | 0x14 =>
      let quiet := va.isNan || vb.isNan
      let loud : BitVec 6 := if quiet then flagNV else 0
      match f3 with
      | 0 => some (.x (if !quiet && va.compare vb != .gt then 1 else 0) loud)
      | 1 => some (.x (if !quiet && va.compare vb == .lt then 1 else 0) loud)
      | 2 => some (.x (if !quiet && va.compare vb == .eq then 1 else 0) (va.sig ||| vb.sig))
      | _ => none
    | 0x18 =>
      if n2 < 4 then (rvRound f3 fcsr).bind (fun r =>
        let n := if n2 < 2 then 32 else 64
        let p := rvToInt n (n2 % 2 == 0) r va
        some (.x (if n = 32 then rvW p.1 else p.1) p.2))
      else none
    | 0x1A =>
      if n2 < 4 then rounded (fun _ =>
        let n := if n2 < 2 then 32 else 64
        (intVal n (n2 % 2 == 0) x1, 0))
      else none
    | 0x1C =>
      if n2 ≠ 0 then none
      else match f3 with
        | 0 => some (.x (if f.width = 32 then rvW f1 else f1) 0)
        | 1 => some (.x (rvClass f va) 0)
        | _ => none
    | 0x1E => if n2 = 0 ∧ f3 = 0 then out (x1 % 2 ^ f.width, 0) else none
    | _ => none

/-! ### The memory of a court (R302) -/

/-- Up to a 4 KiB boundary. -/
def page4k (n : Nat) : Nat := roundUp n 4096

/-- Offsets from `0x0001_0000` at which the sections of an object begin and end. -/
def CourtObject.rodataAt (o : CourtObject) : Nat := page4k o.text.length
def CourtObject.dataAt (o : CourtObject) : Nat := o.rodataAt + page4k o.rodata.length
def CourtObject.bssAt (o : CourtObject) : Nat := o.dataAt + page4k o.data.length
def CourtObject.extent (o : CourtObject) : Nat := o.bssAt + o.bss

/-- R302: where court memory and the mailbox window begin. -/
def courtBase : Nat := 0x1_0000
def courtWindow : Nat := 0x4000_0000

/-- A run of bytes lies within bounds. -/
def within (va n lo hi : Nat) : Bool := decide (lo ≤ va) && decide (va + n ≤ hi)

/-- R302: a court may read some bytes. -/
def Court.mayRead (c : Court) (va n : Nat) : Bool :=
  within va n courtBase (courtBase + c.mem) || within va n courtWindow (courtWindow + 8192)

/-- R302: a court may write some bytes. -/
def Court.mayWrite (c : Court) (va n : Nat) : Bool :=
  within va n (courtBase + c.obj.dataAt) (courtBase + c.mem) || within va n (courtWindow + 4096) (courtWindow + 8192)

/-- R302: a court may execute some bytes. -/
def Court.mayFetch (c : Court) (va n : Nat) : Bool := within va n courtBase (courtBase + c.obj.rodataAt)

/-- A byte of a court's address space. -/
def Mailbox.courtByte (m : Mailbox) (c : Court) (va : Nat) : Byte :=
  if va < courtWindow then Memory.read c.ram va
  else if va < courtWindow + 4096 then Memory.read m.action (va - courtWindow)
  else Memory.read m.obsBuf (va - courtWindow - 4096)

/-- A number in a court's address space. -/
def Mailbox.courtRead (m : Mailbox) (c : Court) (va n : Nat) : Nat :=
  ofBytes ((List.range n).map (fun i => m.courtByte c (va + i)))

/-- A mailbox and its court after a store. -/
def Mailbox.courtWrite (m : Mailbox) (c : Court) (va n x : Nat) : Mailbox × Court :=
  if va < courtWindow then (m, { c with ram := Memory.writeNat c.ram va n x })
  else ({ m with obsBuf := Memory.writeNat m.obsBuf (va - courtWindow - 4096) n x }, c)

/-- R302, R315: court memory as the object gives it. -/
def CourtObject.image (o : CourtObject) : Mem :=
  Memory.writeBytes (Memory.writeBytes (Memory.writeBytes [] courtBase o.text) (courtBase + o.rodataAt) o.rodata)
    (courtBase + o.dataAt) o.data

/-- R302, R304: a court at its entry. -/
def Court.atEntry (c : Court) : Court :=
  { c with
    x := (Vector.replicate 32 0).set 2 (BitVec.ofNat 64 (courtBase + c.mem))
    f := Vector.replicate 32 0
    fcsr := 0
    pc := BitVec.ofNat 64 courtBase
    resv := none
    ram := c.obj.image
    running := false
    used := 0
    hart := none }

/-! ### One instruction -/

/-- How an instruction of a court ends: the mailbox and the court after it, an access to `vbrecv` or `vbsend` (with what follows it), or an
exception. -/
inductive CourtStep where
  | done (m : Mailbox) (c : Court)
  /-- Reads `vbrecv` into a register. -/
  | recv (rd : Nat) (next : DWord)
  /-- Writes a value to `vbsend`; `c` is the court after the instruction. -/
  | send (x : Nat) (c : Court)
  | except
  deriving DecidableEq, Repr

/-- An `x` register. -/
def Court.get (c : Court) (n : Nat) : Nat := (c.x.getD n 0).toNat

/-- Writes an `x` register; `x0` stays 0. -/
def Court.put (c : Court) (n v : Nat) : Court := if n = 0 then c else { c with x := c.x.setIfInBounds n (BitVec.ofNat 64 v) }

/-- An `f` register. -/
def Court.getF (c : Court) (n : Nat) : Nat := (c.f.getD n 0).toNat

/-- Writes an `f` register. -/
def Court.putF (c : Court) (n v : Nat) : Court := { c with f := c.f.setIfInBounds n (BitVec.ofNat 64 v) }

/-- Accrues exception flags. -/
def Court.accrue (c : Court) (fl : BitVec 6) : Court := { c with fcsr := c.fcsr ||| ((fl &&& 0x1F#6).setWidth 8) }

/-- R312: `vbleft`. -/
def Mailbox.left (m : Mailbox) (c : Court) : Nat :=
  if m.opened.isNone then 0 else if c.cycles = 0 then 2 ^ 64 - 1 else c.cycles - c.used

/-- R312: a Zicsr instruction. -/
def Mailbox.csrStep (m : Mailbox) (c : Court) (w : Nat) (next : DWord) : CourtStep :=
  let f3 := bitsOf w 14 12
  let rd := bitsOf w 11 7
  let n1 := bitsOf w 19 15
  let src := if f3 < 4 then c.get n1 else n1
  let writes := f3 % 4 = 1 ∨ n1 ≠ 0
  let reads := f3 % 4 ≠ 1 ∨ rd ≠ 0
  let new := fun old : Nat => match f3 % 4 with
    | 1 => src
    | 2 => Nat.lor old src
    | _ => Nat.land old (2 ^ 64 - 1 - src)
  let c1 := { c with pc := next }
  let fp := fun (old lo n : Nat) =>
    let d := c1.put rd old
    if writes then CourtStep.done m { d with fcsr := BitVec.ofNat 8 (c.fcsr.toNat - bitsOf c.fcsr.toNat (lo + n - 1) lo * 2 ^ lo + new old % 2 ^ n * 2 ^ lo) }
    else CourtStep.done m d
  match bitsOf w 31 20 with
  | 0x001 => fp (c.fcsr.toNat % 32) 0 5
  | 0x002 => fp (c.fcsr.toNat / 32) 5 3
  | 0x003 => fp c.fcsr.toNat 0 8
  | 0x800 => if reads then .recv rd next else .done m c1
  | 0x801 => if writes then .send (new 0) (c1.put rd 0) else .done m (c1.put rd 0)
  | 0x802 => .done m (c1.put rd (m.left c))
  | _ => .except

/-- LR, SC and the AMOs. -/
def Mailbox.amoStep (m : Mailbox) (c : Court) (w : Nat) (next : DWord) : CourtStep :=
  let f3 := bitsOf w 14 12
  let f5 := bitsOf w 31 27
  let rd := bitsOf w 11 7
  let va := c.get (bitsOf w 19 15)
  let x := c.get (bitsOf w 24 20)
  let n := if f3 = 2 then 4 else 8
  let c := { c with pc := next }
  let ext := fun y : Nat => if n = 4 then rvW y else y
  if (f3 ≠ 2 ∧ f3 ≠ 3) ∨ va % n ≠ 0 then .except
  else match f5 with
    | 2 =>
      if bitsOf w 24 20 ≠ 0 ∨ c.mayRead va n = false then .except
      else .done m ({ c with resv := some (va, n) }.put rd (ext (m.courtRead c va n)))
    | 3 =>
      if c.mayWrite va n = false then .except
      else if c.resv = some (va, n) then
        let r := m.courtWrite c va n x
        .done r.1 ({ r.2 with resv := none }.put rd 0)
      else .done m ({ c with resv := none }.put rd 1)
    | f5 =>
      let old := m.courtRead c va n
      match rvAmo f5 (8 * n) old (x % 2 ^ (8 * n)) with
      | none => .except
      | some y =>
        if c.mayWrite va n = false then .except
        else
          let r := m.courtWrite c va n y
          .done r.1 (r.2.put rd (ext old))

/-- A fused multiply-add. -/
def Court.fmaStep (c : Court) (w : Nat) (next : DWord) : Option Court :=
  (rvFmt (bitsOf w 26 25)).bind (fun f => (rvRound (bitsOf w 14 12) c.fcsr.toNat).map (fun r =>
    let v := fun n => f.decode (rvUnbox f (c.getF n))
    let op := bitsOf w 3 2
    let a := v (bitsOf w 19 15)
    let a := if op = 2 ∨ op = 3 then a.neg else a
    let k := v (bitsOf w 31 27)
    let k := if op = 1 ∨ op = 3 then k.neg else k
    let x := Val.fma r.rm a (v (bitsOf w 24 20)) k
    let p := f.round r x.1
    ({ c with pc := next }.putF (bitsOf w 11 7) (rvBox f p.1)).accrue (x.2 ||| p.2)))

/-- A 32-bit word, `len` bytes long in the code, at the court's pc. -/
def Mailbox.courtExec (m : Mailbox) (c : Court) (w len : Nat) : CourtStep :=
  let rd := bitsOf w 11 7
  let f3 := bitsOf w 14 12
  let n2 := bitsOf w 24 20
  let f7 := bitsOf w 31 25
  let imm := bitsOf w 31 20
  let a := c.get (bitsOf w 19 15)
  let b := c.get n2
  let next := c.pc + BitVec.ofNat 64 len
  let c1 := { c with pc := next }
  let alu := fun (r : Option Nat) => match r with
    | some v => CourtStep.done m (c1.put rd v)
    | none => .except
  let addr := (a + rvSext imm 12) % 2 ^ 64
  let simm := rvSext (rvBits w 31 25 5 + rd) 12
  let saddr := (a + simm) % 2 ^ 64
  let load := fun (n : Nat) (f : Nat → Court) => if c.mayRead addr n then CourtStep.done m (f (m.courtRead c addr n)) else .except
  let store := fun (n x : Nat) =>
    if c.mayWrite saddr n then
      let r := m.courtWrite c1 saddr n x
      CourtStep.done r.1 r.2
    else .except
  let goal := fun (x : Nat) => BitVec.ofNat 64 (c.pc.toNat + x)
  match w % 128 with
  | 0x37 => alu (some (rvSext (bitsOf w 31 12 * 4096) 32))
  | 0x17 => alu (some ((c.pc.toNat + rvSext (bitsOf w 31 12 * 4096) 32) % 2 ^ 64))
  | 0x6F =>
    let j := rvSext (rvBits w 31 31 20 + rvBits w 19 12 12 + rvBits w 20 20 11 + rvBits w 30 21 1) 21
    .done m ({ c with pc := goal j }.put rd next.toNat)
  | 0x67 => if f3 = 0 then .done m ({ c with pc := BitVec.ofNat 64 (addr / 2 * 2) }.put rd next.toNat) else .except
  | 0x63 =>
    match rvTaken f3 a b with
    | none => .except
    | some t =>
      let o := rvSext (rvBits w 31 31 12 + rvBits w 7 7 11 + rvBits w 30 25 5 + rvBits w 11 8 1) 13
      .done m (if t then { c with pc := goal o } else c1)
  | 0x03 =>
    match f3 with
    | 0 => load 1 (fun x => c1.put rd (rvSext x 8))
    | 1 => load 2 (fun x => c1.put rd (rvSext x 16))
    | 2 => load 4 (fun x => c1.put rd (rvSext x 32))
    | 3 => load 8 (fun x => c1.put rd x)
    | 4 => load 1 (fun x => c1.put rd x)
    | 5 => load 2 (fun x => c1.put rd x)
    | 6 => load 4 (fun x => c1.put rd x)
    | _ => .except
  | 0x23 => if f3 < 4 then store (2 ^ f3) b else .except
  | 0x13 => alu (rvOpImm f3 imm a)
  | 0x1B => alu (rvOpImm32 f3 imm a)
  | 0x33 => alu (rvOp f7 f3 a b)
  | 0x3B => alu (rvOp32 f7 f3 n2 a b)
  | 0x0F => if f3 < 2 then .done m c1 else .except
  | 0x73 => if f3 % 4 = 0 then .except else m.csrStep c w next
  | 0x2F => m.amoStep c w next
  | 0x07 =>
    match f3 with
    | 2 => load 4 (fun x => c1.putF rd (rvBox Fmt.f32 x))
    | 3 => load 8 (fun x => c1.putF rd x)
    | _ => .except
  | 0x27 => if f3 = 2 then store 4 (c.getF n2) else if f3 = 3 then store 8 (c.getF n2) else .except
  | 0x43 | 0x47 | 0x4B | 0x4F =>
    match c.fmaStep w next with
    | some d => .done m d
    | none => .except
  | 0x53 =>
    match rvOpFp w c.fcsr.toNat a (c.getF (bitsOf w 19 15)) (c.getF n2) with
    | some (.x v fl) => .done m ((c1.put rd v).accrue fl)
    | some (.f v fl) => .done m ((c1.putF rd v).accrue fl)
    | none => .except
  | _ => .except

/-- The next instruction of a court. -/
def Mailbox.courtStep (m : Mailbox) (c : Court) : CourtStep :=
  let pc := c.pc.toNat
  if c.mayFetch pc 2 = false then .except
  else
    let h := m.courtRead c pc 2
    if h % 4 ≠ 3 then match rvExpand h with
      | some w => m.courtExec c w 2
      | none => .except
    else if c.mayFetch pc 4 = false then .except
    else m.courtExec c (m.courtRead c pc 4) 4

end Sys2Proof.Machine
end

