-- ==== Sys2Proof/Machine/Courts.lean ====
section
/-! DEFINITION. Volley mailboxes and courts (R224, R301-R317, R472-R474). -/

namespace Sys2Proof.Machine

/-! ### Mailboxes -/

/-- A mailbox with no court and nothing in it. -/
def Mailbox.unbound (die : BitVec 4) (num : BitVec 8) : Mailbox where
  die := die
  num := num
  court := none
  ended := false
  owner := none
  gen := 0
  next := 0
  opened := none
  obs := []
  cmds := []
  action := []
  obsBuf := []

/-- A mailbox of a die. -/
def Mailbox.named (m : Mailbox) (die : BitVec 4) (num : BitVec 8) : Bool := decide (m.die = die) && decide (m.num = num)

/-- A mailbox as it stands. -/
def State.mailbox (s : State) (die : BitVec 4) (num : BitVec 8) : Mailbox :=
  (s.mailboxes.find? (fun m => m.named die num)).getD (Mailbox.unbound die num)

/-- Puts a mailbox back. -/
def State.setMailbox (s : State) (m : Mailbox) : State :=
  { s with mailboxes :=
      if s.mailboxes.any (fun x => x.named m.die m.num) then updateWhere (fun x => x.named m.die m.num) (fun _ => m) s.mailboxes
      else s.mailboxes ++ [m] }

/-- Changes a mailbox. -/
def State.modMailbox (s : State) (die : BitVec 4) (num : BitVec 8) (f : Mailbox → Mailbox) : State := s.setMailbox (f (s.mailbox die num))

/-- Changes the court of a mailbox. -/
def Mailbox.modCourt (m : Mailbox) (f : Court → Court) : Mailbox := { m with court := m.court.map f }

/-- R315: the episode ends: the court stops. -/
def Mailbox.endEpisode (m : Mailbox) : Mailbox :=
  { m.modCourt (fun c => { c with running := false, hart := none }) with ended := true, opened := none }

/-- R310: the status of an observation from the court: the lowest code that applies. -/
def obsStatus (done adopted : Bool) : BitVec 32 := if done then 3 else if adopted then 4 else 5

/-- R310, R313: posts the observation of the open step, which closes. -/
def Mailbox.post (m : Mailbox) (status : BitVec 32) (payload : List Byte) : Mailbox :=
  match m.opened with
  | none => m
  | some o => { m with opened := none, obs := m.obs ++ [{ status := status, gen := o.gen, step := o.step, payload := payload }] }

/-- R315: a restart. -/
def Mailbox.restart (m : Mailbox) : Mailbox :=
  { m.modCourt (fun c => { c.atEntry with running := true }) with ended := false, opened := none, action := [], obsBuf := [] }

/-- R317: the device side closes. -/
def Mailbox.close (m : Mailbox) : Mailbox := { (m.post 2 []).endEpisode with owner := none }

/-- R317: closes the mailboxes whose owner is one of some tasks. -/
def State.closeMailboxes (s : State) (ids : List (BitVec 40)) : State :=
  { s with mailboxes := updateWhere (fun m => m.owner.any (fun t => ids.contains t)) Mailbox.close s.mailboxes }

/-- R317: discards the commands of some groups that wait at mailboxes, with their entries. -/
def State.dropMailboxCmds (s : State) (uids : List Nat) : State :=
  let gone := s.mailboxes.flatMap (fun m => (m.cmds.filter (fun c => uids.contains c.grp)).map (fun c => c.entry))
  let boxes := s.mailboxes.map (fun m => { m with cmds := m.cmds.filter (fun c => !(uids.contains c.grp)) })
  { s with mailboxes := boxes }.mapGroups (fun (g : Group) => { g with outq := g.outq.filter (fun e => !(decide (e.kind = EntryKind.mailbox) && gone.contains e.id)) })

/-- R306: a header and its payload as bytes. -/
def Message.bytes (x : Message) : List Byte :=
  toBytes 4 x.payload.length ++ toBytes 4 x.step.toNat ++ toBytes 4 x.gen.toNat ++ toBytes 4 x.status.toNat ++ x.payload

/-! ### Issue (R307, R308, R311) -/

/-- R308: VOLLEY_ARG. -/
def Cause.volleyArg : Cause := 0x58#8

/-- R308: an offset of a message is bad. -/
def State.volleyOffsetBad (s : State) (off : Nat) : Bool := decide (off % 16 ≠ 0) || decide (s.windowSize s.g < off + 4096)

/-- A mailbox command issues. The release of a `vserve` is at `.d` (R224). -/
def State.postMailbox (s : State) (serve : Bool) (num off : Nat) (dest : Dest) : State :=
  let g := s.g
  let p := s.port
  let e := g.entry p s.nextUid 0 0 .mailbox (.spad g.id.team off) 4096 0 0 none (if serve then some 3 else none) false
  let c : MboxCmd :=
    { serve := serve, grp := g.id.uid, team := g.id.team, serial := g.serial, setter := decide (p = .setter), task := g.ownTask, off := off,
      dest := dest, entry := if serve then s.nextUid else 0, after := if serve then [] else e.after ++ e.weak }
  let g := if serve then { g with outq := g.outq ++ [e] } else g
  { s with g := g.addFlight (s.g.launched p (some 5) .mailbox dest 0 false), nextUid := s.nextUid + 1 }.modMailbox (dieOf g.id.core)
    (BitVec.ofNat 8 num) (fun m => { m with cmds := m.cmds ++ [c] })

/-- R309: `vserve`. -/
def execVserve (d : BitVec 7) (a b : BitVec 8) (s : State) : Answer :=
  .next (s.issue (.vserve d a b) (fun s =>
    let num := s.g.operandFull s.port a
    let off := s.g.operandFull s.port b
    if 255 < num ∨ s.volleyOffsetBad off = true then .no Cause.volleyArg
    else if s.g.counterFull 5 then .later
    else .run (s.postMailbox true num off (uniformDest s.port d))))

/-- R310: `vcatch`. -/
def execVcatch (a b : BitVec 8) (s : State) : Answer :=
  .next (s.issue (.vcatch a b) (fun s =>
    let num := s.g.operandFull s.port a
    let off := s.g.operandFull s.port b
    if 255 < num ∨ s.volleyOffsetBad off = true then .no Cause.volleyArg
    else if s.g.counterFull 5 then .later
    else .run (s.postMailbox false num off .none)))

/-- R311: the state of a mailbox as `vpoll` gives it. -/
def Mailbox.poll (m : Mailbox) : DWord :=
  let st := if m.court.isNone then 0 else if m.ended then 1 else if m.opened.isNone then 2 else 3
  BitVec.ofNat 64 (m.next.toNat * 2 ^ 32 + m.obs.length * 2 ^ 8 + st)

/-- R311: `vpoll`. -/
def execVpoll (d : BitVec 7) (a : BitVec 8) (s : State) : Answer :=
  .next (s.issue (.vpoll d a) (fun s =>
    let num := s.g.operandFull s.port a
    if 255 < num then .no Cause.volleyArg
    else .run (s.onGroup (fun g => g.setDest s.port d (s.mailbox (dieOf g.id.core) (BitVec.ofNat 8 num)).poll))))

/-! ### Performing (R309, R310) -/

/-- R308: the first command of its stream at a mailbox. -/
def MboxCmd.isFirst (c : MboxCmd) (l : List MboxCmd) : Bool :=
  match l.find? (fun x => x.grp == c.grp && x.setter == c.setter) with
  | some x => x.serial == c.serial
  | none => false

/-- R309: what a judged action leads to: the mailbox after it and the status. -/
def Mailbox.judge (m : Mailbox) (task : BitVec 40) (len step gen status : Nat) : Mailbox × Nat :=
  let accept := fun (m : Mailbox) (adopted : Bool) =>
    ({ m.modCourt (fun c => { c with used := 0 }) with
       opened := some { step := m.next, gen := m.gen, adopted := adopted }
       next := m.next + 1 }, 0)
  match m.court with
  | none => (m, 8)
  | some c =>
    if status ≠ 0 ∨ 4080 < len then (m, 9)
    else if m.ended then
      if step = 0 then accept { m.restart with next := 0, gen := BitVec.ofNat 32 gen, owner := some task } false
      else (m, 7)
    else if m.owner ≠ some task then (m, 6)
    else if step < m.next.toNat then (m, 1)
    else if m.next.toNat < step then (m, 2)
    else if gen < m.gen.toNat then (m, 3)
    else if m.gen.toNat < gen then
      match c.rule.toNat with
      | 0 => (m, 4)
      | 1 => accept { m with gen := BitVec.ofNat 32 gen } true
      | _ => (m.endEpisode, 5)
    else accept m false

/-- A mailbox command has performed: its destination is written and its counter may fall. -/
def State.mailboxDone (s : State) (c : MboxCmd) (x : DWord) : State :=
  (s.modGroup c.grp (fun g =>
    let g := { g with outq := g.outq.filter (fun e => !(decide (e.kind = EntryKind.mailbox) && e.id == c.entry)) }
    (if g.ended then g else (c.dest.write x g).landedAt c.serial c.dest).updateFlight c.serial (fun f => { f with done := true }))).mirror c.grp c.dest 0 0

/-- R309: a `vserve` performs. -/
def State.serve (s : State) (m : Mailbox) (c : MboxCmd) (g : Group) : State :=
  let bytes := s.spadBytes g c.off 4096
  let h := ofBytes (bytes.take 16)
  let len := bitsOf h 31 0
  let r := m.judge c.task len (bitsOf h 63 32) (bitsOf h 95 64) (bitsOf h 127 96)
  let m := { r.1 with cmds := r.1.cmds.erase c }
  let m := if r.2 = 0 then { m with action := Memory.writeBytes m.action 0 (bytes.take (16 + len)) } else m
  (s.setMailbox m).mailboxDone c (BitVec.ofNat 64 r.2)

/-- R217, R224, R309: the release condition of a `vserve` and what it is ordered after. -/
def State.mayServe (s : State) (c : MboxCmd) (g : Group) : Bool :=
  match g.outq.find? (fun e => e.id == c.entry) with
  | some e => g.entryReady e && s.released g ((e.rel.getD 3).toNat)
  | none => s.released g 3

/-- R309: `VSERVE_PERFORM`: the first posted action that can perform is judged. -/
def execVservePerform (die : BitVec 4) (mbox : BitVec 8) (s : State) : Answer :=
  .next (
    let m := s.mailbox die mbox
    if m.opened.isSome || decide (2 ≤ m.obs.length) then s
    else match m.cmds.find? (fun c => c.serve && c.isFirst m.cmds && (match s.group c.grp with
        | some g => s.mayServe c g
        | none => false)) with
      | none => s
      | some c => match s.group c.grp with
        | some g => s.serve m c g
        | none => s)

/-- R310, R474: what a `vcatch` takes, with the mailbox after it; `none` = it waits. -/
def Mailbox.take (m : Mailbox) (task : BitVec 40) : Option (Mailbox × Message) :=
  let none_ : Message := { status := 6, gen := m.gen, step := m.next, payload := [] }
  if m.owner.any (fun t => t != task) then some (m, none_)
  else match m.obs with
    | x :: rest => some ({ m with obs := rest }, x)
    | [] => if m.opened.isNone then some (m, none_) else none

/-- Bytes written into a scratchpad window through the path of a group, in aligned units of 8 bytes and single bytes (R213). They are plain writes,
behind a release fence too (DESIGN CHOICE, log 102). -/
def State.spadPut (g : Group) (serial off : Nat) : Nat → List Byte → State → State
  | 0, _, s => s
  | n + 1, bs, s =>
    match bs with
    | [] => s
    | b :: rest =>
      if 8 ≤ bs.length then
        spadPut g serial (off + 8) n (bs.drop 8)
          (s.bufferWrite g serial (.spad g.id.team off) 0 8 (BitVec.ofNat 64 (ofBytes (bs.take 8))) false none)
      else spadPut g serial (off + 1) n rest (s.bufferWrite g serial (.spad g.id.team off) 0 1 (b.zeroExtend 64) false none)

/-- R310: `VCATCH_PERFORM`: the first `vcatch` that can perform writes its message. -/
def execVcatchPerform (die : BitVec 4) (mbox : BitVec 8) (s : State) : Answer :=
  .next (
    let m := s.mailbox die mbox
    let ready := fun (c : MboxCmd) => !c.serve && c.isFirst m.cmds && (m.take c.task).isSome && (match s.group c.grp with
      | some g => !(g.outq.any (fun e => c.after.contains e.id))
      | none => false)
    match m.cmds.find? ready with
    | none => s
    | some c => match m.take c.task, s.group c.grp with
      | some (m, x), some g =>
        let s := s.logTask g.id.task (die.toNat * 256 + mbox.toNat) 4 g.id.task 0 x.bytes
        let s := (s.setMailbox { m with cmds := m.cmds.erase c }).modGroup c.grp (fun g =>
          g.updateFlight c.serial (fun f => { f with done := true }))
        State.spadPut g c.serial c.off 4096 x.bytes s
      | _, _ => s)

/-! ### Court cores (R301-R303, R312-R314) -/

/-- R314: the cycle limit of the open step is used up. -/
def Mailbox.spent (m : Mailbox) (c : Court) : Bool := m.opened.isSome && decide (c.cycles ≠ 0) && decide (c.cycles ≤ c.used)

/-- R312: the court's next instruction stalls in `vbrecv`. -/
def Mailbox.stalled (m : Mailbox) (c : Court) : Bool :=
  m.opened.isNone && (match m.courtStep c with
    | .recv _ _ => true
    | _ => false)

/-- A court that can run now: it is running and its step has cycles left. -/
def Mailbox.active (m : Mailbox) : Option Court :=
  match m.court with
  | some c => if c.running && !m.spent c then some c else none
  | none => none

/-- A court that holds a core. -/
def Mailbox.onCore (m : Mailbox) : Option Court :=
  match m.active with
  | some c => if c.hart.isSome then some c else none
  | none => none

/-- R314: an instruction counts against the open step: one cycle. -/
def Court.tick (c : Court) (opened : Bool) : Court := if opened then { c with used := c.used + 1 } else c

/-- R301: `COURT_INSTRUCTION`: an instruction that touches no mailbox register and raises nothing. -/
def execCourtInstruction (die : BitVec 4) (mbox : BitVec 8) (s : State) : Answer :=
  .next (
    let m := s.mailbox die mbox
    match m.onCore with
    | none => s
    | some c => match m.courtStep c with
      | .done m' c' => s.setMailbox { m' with court := some (c'.tick m.opened.isSome) }
      | _ => s)

/-- R312: `VBRECV_READ`: a read of `vbrecv`; with no step open the hart stalls and gives up its core (R303). -/
def execVbrecvRead (die : BitVec 4) (mbox : BitVec 8) (s : State) : Answer :=
  .next (
    let m := s.mailbox die mbox
    match m.onCore with
    | none => s
    | some c => match m.courtStep c with
      | .recv rd next => match m.opened with
        | none => s.setMailbox { m with court := some { c with hart := none } }
        | some o => s.setMailbox { m with court := some (({ c with pc := next }.put rd (o.gen.toNat * 2 ^ 32 + o.step.toNat)).tick true) }
      | _ => s)

/-- R313: a write of `vbsend` while a step is open. -/
def Mailbox.send (m : Mailbox) (x : Nat) : Mailbox :=
  match m.opened with
  | none => m
  | some o =>
    let len := bitsOf x 11 0
    let fin := bitAt x 16
    if 4080 < len then (m.post 0 []).endEpisode
    else
      let m := m.post (obsStatus fin o.adopted) (Memory.readBytes m.obsBuf 16 len)
      if fin then m.endEpisode else m

/-- R313: `VBSEND_WRITE`. -/
def execVbsendWrite (die : BitVec 4) (mbox : BitVec 8) (s : State) : Answer :=
  .next (
    let m := s.mailbox die mbox
    match m.onCore with
    | none => s
    | some c => match m.courtStep c with
      | .send x c' => s.setMailbox ({ m with court := some (c'.tick m.opened.isSome) }.send x)
      | _ => s)

/-- R302: `COURT_EXCEPTION`: an exception, `ecall` or `ebreak` ends the episode with FAULT. -/
def execCourtException (die : BitVec 4) (mbox : BitVec 8) (s : State) : Answer :=
  .next (
    let m := s.mailbox die mbox
    match m.onCore with
    | none => s
    | some c => match m.courtStep c with
      | .except => s.setMailbox (m.post 0 []).endEpisode
      | _ => s)

/-- R314: `SHOT_CLOCK_EXPIRY`: the cycle limit is used up, or a time limit passes. -/
def execShotClockExpiry (die : BitVec 4) (mbox : BitVec 8) (s : State) : Answer :=
  .next (
    let m := s.mailbox die mbox
    match m.court with
    | none => s
    | some c => if m.opened.isSome && (m.spent c || decide (c.time ≠ 0)) then s.setMailbox (m.post 1 []).endEpisode else s)

/-- R303: a court that waits for a core. -/
def Mailbox.waitsForCore (m : Mailbox) : Bool :=
  match m.active with
  | some c => c.hart.isNone && !m.stalled c
  | none => false

/-- R303: the courts of a die that wait for a core, in turn after a mailbox number. -/
def State.courtsInTurn (s : State) (die : BitVec 4) (after : Nat) : List Nat :=
  let l := (s.mailboxes.filter (fun m => decide (m.die = die) && m.waitsForCore)).map (fun m => m.num.toNat)
  sortBy (fun a b => decide ((a + 255 - after) % 256 ≤ (b + 255 - after) % 256)) l

/-- R303: `COURT_QUANTUM`: the core of a court whose quantum has passed, or a free core, goes to the next court in turn. -/
def execCourtQuantum (die : BitVec 4) (hart : BitVec 5) (s : State) : Answer :=
  .next (
    let now := s.mailboxes.find? (fun m => decide (m.die = die) && m.court.any (fun c => decide (c.hart = some hart)))
    let after := match now with
      | some m => m.num.toNat
      | none => 255
    match s.courtsInTurn die after with
    | [] => s
    | n :: _ =>
      let s := match now with
        | some m => s.setMailbox (m.modCourt (fun c => { c with hart := none }))
        | none => s
      s.modMailbox die (BitVec.ofNat 8 n) (fun m => m.modCourt (fun c => { c with hart := some hart })))

end Sys2Proof.Machine
end

