-- ==== Sys2Proof/Machine/KvCache.lean ====
section
/-! DEFINITION. Attention caches: the directory, translation, forks, releases and skipping (R285-R300, R410-R413). A directory word is
read and written at home, once every older access of the group has reached its home. -/

namespace Sys2Proof.Machine

/-! ### The directory (R285-R288) -/

/-- R285: the fields of a header; `dim` is the number of channels. -/
structure KvHeader where
  slots   : Nat
  layers  : Nat
  heads   : Nat
  blocks  : Nat
  dim     : Nat
  fmt     : BitVec 2
  pool    : Nat
  poolCap : Nat
  mq      : BitVec 5
  deriving DecidableEq, Repr

/-- R285: a header from its 64 bytes; `none` where it breaks the map. -/
def kvHeaderOf (x : Nat) : Option KvHeader :=
  let h : KvHeader :=
    { slots := bitsOf x 15 0
      layers := bitsOf x 22 16
      heads := bitsOf x 27 24
      blocks := bitsOf x 45 32 + 1
      dim := 16 * (bitsOf x 50 48 + 1)
      fmt := BitVec.ofNat 2 (bitsOf x 52 51)
      pool := bitsOf x 127 64
      poolCap := bitsOf x 191 160
      mq := BitVec.ofNat 5 (bitsOf x 60 56) }
  let reserved := bitsOf x 511 192 + bitsOf x 63 61 + bitsOf x 55 53 + bitsOf x 47 46 + bitsOf x 31 28 + bitsOf x 23 23
  if reserved = 0 ∧ h.slots ≠ 0 ∧ h.pool % 8 = 0 then some h else none

/-- R290: a word of a directory that a lane reads. -/
def State.kvRead (s : State) (root va n : Nat) : Except Cause Nat :=
  match s.translate none root va .read with
  | .error c => .error c
  | .ok t => if (List.range n).any (fun i => s.poisoned (t.loc.add i)) then .error Cause.poison else .ok (s.homeRead t.loc n)

/-- For whom a directory is read and written: a group, 0 for none, and the address of its instruction. -/
abbrev KvWho := Nat × Nat

/-- The issuing group and its instruction. -/
def State.kvWho (s : State) : KvWho := (s.g.id.uid, (s.g.pcAt s.port).toNat)

/-- R282: some bytes of a directory or of a block that an instruction reads are recorded, a sector at a time. -/
def State.kvSaw (s : State) (who : KvWho) (root va n : Nat) : State :=
  (List.range ((n + 31) / 32)).foldl (fun (s : State) i => match s.locAt root (va + 32 * i) with
    | some l => s.observe (s.group who.1) l (va + 32 * i) who.2 false false
    | none => s) s

/-- R291: KV_PENDING, which is never delivered: a lane that waits, for an action or for an allocation (R197). -/
def kvPending : Cause := 0x56#8

/-- R184, R185, R290: a word of a directory that a lane writes at home; a dark page is allocated (R196), which may have to wait, and the write
waits for a migration of its page. -/
def State.kvWrite (s : State) (who : KvWho) (root va n x : Nat) : Except Cause State :=
  match s.translate none root va .write with
  | .error c => .error c
  | .ok t => if s.moveHolds t then .error kvPending else match s.preparePage t.loc n x with
    | .granted u =>
      if u.writeHeld t.loc n x then .error kvPending
      else .ok (((u.observe (u.group who.1) t.loc va who.2 true true).homeArrive who.1 t.loc va n x false).setTags t.loc n none)
    | .refused _ => .error Cause.shadeFull
    | .waits _ => .error kvPending

/-- The steps of a lane: a state, or the cause of its fault. -/
def orElse {α β : Type} (x : Except Cause α) (f : α → Except Cause β) : Except Cause β :=
  match x with
  | .error c => .error c
  | .ok a => f a

/-- R286: the address of a sequence slot. -/
def slotAt (base i : Nat) : Nat := base + 64 + 64 * i

/-- R286: LEN and STATE of word 0 of a slot. -/
def slotLen (w : Nat) : Nat := bitsOf w 20 0
def slotLive (w : Nat) : Bool := decide (bitsOf w 63 62 = 1)

/-- R287: a table entry or pool entry. -/
def kvAddr (e : Nat) : Nat := bitsOf e 63 16
def kvTier (e : Nat) : Nat := bitsOf e 15 14
def kvValid (e : Nat) : Bool := bitAt e 0
def kvShared (e : Nat) : Bool := bitAt e 6

/-- R287: an entry with SHARED and V. -/
def kvWith (e : Nat) (shared : Bool) : Nat := e / 128 * 128 + (if shared then 64 else 0) + 1

/-- R287: the index of an entry in a block table. -/
def KvHeader.index (h : KvHeader) (layer head kind block : Nat) : Nat := ((layer * (h.heads + 1) + head) * 2 + kind) * h.blocks + block

/-- R287: the number of entries of a block table. -/
def KvHeader.entries (h : KvHeader) : Nat := (h.layers + 1) * (h.heads + 1) * 2 * h.blocks

/-- R288: the size of a block of a directory. -/
def KvHeader.blockSize (h : KvHeader) : Nat := 512 + 64 * h.dim * kvBytes h.fmt

/-- R287: the byte of the NVMe tier at which a block lies. -/
def nvmeOf (e : Nat) : Nat := bitsOf e 63 61 * 2 ^ 57 + bitsOf e 60 16 * 4096

/-- A byte of a block that an entry names. -/
def State.blockByte (s : State) (root base e i : Nat) : Byte :=
  if kvTier e = 3 then Memory.read s.nvme (nvmeOf e + i)
  else match s.locAt root (base + 256 * kvAddr e + i) with
    | some l => s.homeByte l
    | none => 0

/-- R288: REFS of the block that an entry names. -/
def State.kvRefs (s : State) (root base e : Nat) : Except Cause Nat :=
  if kvTier e = 3 then .ok (Memory.readNat s.nvme (nvmeOf e + 256) 4) else s.kvRead root (base + 256 * kvAddr e + 256) 4

/-- R288: writes REFS. -/
def State.setRefs (s : State) (who : KvWho) (root base e n : Nat) : Except Cause State :=
  if kvTier e = 3 then .ok { s with nvme := Memory.writeNat s.nvme (nvmeOf e + 256) 4 n }
  else s.kvWrite who root (base + 256 * kvAddr e + 256) 4 n

/-- R292: pops the top pool entry; KV_FULL where the pool is empty. -/
def State.kvPop (s : State) (who : KvWho) (root base : Nat) (h : KvHeader) : Except Cause (State × Nat) :=
  orElse (s.kvRead root (base + 16) 4) (fun n =>
    if n = 0 then .error 0x54#8
    else orElse (s.kvRead root (base + h.pool + 8 * (n - 1)) 8) (fun e =>
      orElse ((s.kvSaw who root (base + h.pool + 8 * (n - 1)) 8).kvWrite who root (base + 16) 4 (n - 1)) (fun s => .ok (s, e))))

/-- R296: pushes a freed block. -/
def State.kvPush (s : State) (who : KvWho) (root base : Nat) (h : KvHeader) (e : Nat) : Except Cause State :=
  orElse (s.kvRead root (base + 16) 4) (fun n =>
    orElse (s.kvWrite who root (base + h.pool + 8 * n) 8 e) (fun s => s.kvWrite who root (base + 16) 4 (n + 1)))

/-- R293, R325: the freed location of a block is returned to the driver. -/
def State.returnLocation (s : State) (e : Nat) : State := s.event 5 (BitVec.ofNat 48 (kvAddr e))

/-- The place of the block that an entry names: its address, or its place on NVMe. -/
def kvPlace (base e : Nat) : Nat × Bool := if kvTier e = 3 then (nvmeOf e, true) else (base + 256 * kvAddr e, false)

/-- R297: a block is the one that lies at a place. -/
def TrackedBlock.at_ (b : TrackedBlock) (root : Nat) (x : Nat × Bool) : Bool := b.root == root && b.va == x.1 && b.nvme == x.2

/-- Forgets a tracked block that is freed (R297). -/
def State.untrack (s : State) (root : Nat) (x : Nat × Bool) : State := { s with tracked := s.tracked.filter (fun b => !(b.at_ root x)) }

/-- R297: a block becomes tracked. -/
def State.track (s : State) (b : TrackedBlock) : State := if s.tracked.contains b then s else { s with tracked := s.tracked ++ [b] }

/-! ### Translation (R292, R293) -/

/-- What the lanes of an instruction have done so far. -/
structure KvRun where
  s    : State
  vals : List (Nat × BitVec 64)
  acts : List KvAct
  recs : List (Nat × Cause × BitVec 64 × Bool)

/-- R197, R291: some lane waits for an allocation: the instruction is retried. -/
def KvRun.waits (r : KvRun) : Bool := r.recs.any (fun x => decide (x.2.1 = kvPending))

/-- R292: the header of the block that an allocation takes. -/
def State.kvFresh (s : State) (who : KvWho) (root base : Nat) (e : Nat) : Except Cause State :=
  orElse ((List.range 64).foldl (fun acc i => orElse acc (fun s => s.kvWrite who root (base + 256 * kvAddr e + 8 * i) 8 0)) (.ok s))
    (fun s => s.kvWrite who root (base + 256 * kvAddr e + 256) 4 1)

/-- R292: the entry at an address after an allocation. -/
def State.kvAllocate (s : State) (who : KvWho) (root base : Nat) (h : KvHeader) (at_ : Nat) : Except Cause (State × Nat) :=
  orElse (s.kvPop who root base h) (fun x =>
    let e := kvWith x.2 false
    orElse (x.1.kvFresh who root base e) (fun s => orElse (s.kvWrite who root at_ 8 e) (fun s => .ok (s, e))))

/-- R293: an action that takes a block from an entry to another. The command of a promotion stands in the queue MQ. -/
def kvActOf (root base : Nat) (h : KvHeader) (at_ old new : Nat) (promote track : Bool) (order : Nat) : KvAct where
  raises := []
  entry := at_
  old := BitVec.ofNat 64 old
  new := BitVec.ofNat 64 new
  root := root
  base := base
  fmt := h.fmt
  dim := h.dim
  promote := promote
  track := track
  queue := h.mq
  order := order

/-- R293: the first step of a copy-on-write: REFS falls, and the entry is to name the block that is taken; `none` where REFS is 1. -/
def State.kvUnshare (s : State) (who : KvWho) (root base : Nat) (h : KvHeader) (e : Nat) : Except Cause (State × Option Nat) :=
  orElse (s.kvRefs root base e) (fun n =>
    let s := if kvTier e = 3 then s else s.kvSaw who root (base + 256 * kvAddr e + 256) 4
    if n = 1 then .ok (s, none)
    else orElse (s.kvPop who root base h) (fun x =>
      orElse (x.1.setRefs who root base e (n - 1)) (fun s => .ok (s, some (kvWith x.2 false)))))

/-- The 32 bytes of a sector of a block. -/
def State.blockSector (s : State) (root base e i : Nat) : List Byte := (List.range 32).map (fun j => s.blockByte root base e (32 * i + j))

/-- R196, R197: the dark pages of a block that an action is to fill with the bytes of another are allocated as the lane is translated: the lane
waits for an allocation, or raises SHADE_FULL (DEDUCED, log 76). -/
def State.kvReserve (s : State) (root base : Nat) (h : KvHeader) (old new : Nat) : Except Cause State :=
  (List.range (h.blockSize / 32)).foldl (fun acc i => orElse acc (fun t => match t.locAt root (base + 256 * kvAddr new + 32 * i) with
    | none => .ok t
    | some l => match t.preparePage l 32 (ofBytes (s.blockSector root base old i)) with
      | .granted u => .ok u
      | .refused _ => .error Cause.shadeFull
      | .waits _ => .error kvPending)) (.ok s)

/-- R292, R293: what a valid entry needs: the actions that hold the lane, or nothing more; with the entry as it is to stand. A promotion of a
shared entry that is to be written is followed by its copy-on-write; both are judged as the lane is translated (log 76). -/
def State.kvSettle (s : State) (who : KvWho) (root base : Nat) (h : KvHeader) (write : Bool) (at_ e : Nat) (track : Bool) :
    Except Cause (State × Nat × List KvAct) :=
  let act := kvActOf root base h at_
  let hold := fun (s : State) (z : Nat) (acts : List KvAct) =>
    orElse (acts.foldl (fun acc a => orElse acc (fun t => t.kvReserve root base h e a.new.toNat)) (.ok s))
      (fun t => .ok ({ t with nextUid := s.nextUid + 1 }, z, acts))
  let split := write && kvShared e
  if 2 ≤ kvTier e then
    orElse (s.kvPop who root base h) (fun x =>
      let new := fun (shared : Bool) => kvWith (x.2 / 16384 * 16384 + bitsOf e 13 7 * 128) shared
      if split then
        orElse (x.1.kvUnshare who root base h e) (fun y => match y.2 with
          | none => hold y.1 (new false) [act e (new false) true track y.1.nextUid]
          | some z => hold y.1 z [act e (new true) true false y.1.nextUid, act (new true) z false track y.1.nextUid])
      else hold x.1 (new (kvShared e)) [act e (new (kvShared e)) true track x.1.nextUid])
  else if split then
    orElse (s.kvUnshare who root base h e) (fun y => match y.2 with
      | none => orElse (y.1.kvWrite who root at_ 8 (kvWith e false)) (fun s => .ok (s, kvWith e false, []))
      | some z => hold y.1 z [act e z false track y.1.nextUid])
  else .ok (s, e, [])

/-- R292: the word of a live slot, or KV_SEQ. Nonzero reserved bits of a slot (R286), or of an entry of the block table (R287), are ignored: R290 and
R291 name no fault for them (DESIGN CHOICE, log 100). -/
def State.kvSlot (s : State) (root base : Nat) (h : KvHeader) (i : Nat) : Except Cause Nat :=
  if h.slots ≤ i then .error 0x51#8
  else orElse (s.kvRead root (slotAt base i) 8) (fun w => if slotLive w then .ok w else .error 0x51#8)

/-- R292: raises LEN of a slot whose word stands at an address. -/
def State.kvRaise (s : State) (who : KvWho) (root at_ len : Nat) : Except Cause State :=
  orElse (s.kvRead root at_ 8) (fun w => s.kvWrite who root at_ 8 (w / 2 ^ 21 * 2 ^ 21 + max (slotLen w) len))

/-- R292: a held lane raises LEN behind the last action on its entry. -/
def deferRaise (at_ : Nat) (x : Nat × Nat) : List KvAct → List KvAct
  | [] => []
  | a :: rest =>
    if a.entry == at_ && !(rest.any (fun b => b.entry == at_)) then { a with raises := a.raises ++ [x] } :: rest else a :: deferRaise at_ x rest

/-- R292: one lane of `kvx` or `kvx.w`, with the actions so far and its own. Lanes that name one entry share its action. What the code does
behind an action, the raise of LEN and the tracking of the block, a held lane does when its action has performed. -/
def State.kvLane (s : State) (who : KvWho) (root base : Nat) (h : KvHeader) (write : Bool) (acts : List KvAct) (slot x : Nat) :
    Except Cause (State × BitVec 64 × List KvAct) :=
  let pos := bitsOf x 19 0
  let head := bitsOf x 23 20
  let layer := bitsOf x 30 24
  let kind := bitsOf x 31 31
  orElse (s.kvSlot root base h slot) (fun w =>
    let s := s.kvSaw who root (slotAt base slot) 16
    if h.layers < layer ∨ h.heads < head then .error 0x52#8
    else if 64 * h.blocks ≤ pos ∨ (write = false ∧ slotLen w ≤ pos) then .error 0x53#8
    else orElse (s.kvRead root (slotAt base slot + 8) 8) (fun table =>
      let at_ := base + table + 8 * h.index layer head kind (pos / 64)
      orElse (match acts.reverse.find? (fun a => a.entry == at_) with
        | some a => .ok (s, a.new.toNat, acts)
        | none => orElse (s.kvRead root at_ 8) (fun e =>
          let s := s.kvSaw who root at_ 8
          if kvValid e then orElse (s.kvSettle who root base h write at_ e (write && kind == 0)) (fun y => .ok (y.1, y.2.1, acts ++ y.2.2))
          else if write then orElse (s.kvAllocate who root base h at_) (fun y => .ok (y.1, y.2, acts))
          else .error 0x53#8)) (fun y =>
        let va := base + 256 * kvAddr y.2.1
        let row := BitVec.ofNat 64 (va + 512 + pos % 64 * h.dim * kvBytes h.fmt)
        if write = false then .ok (y.1, row, y.2.2)
        else if y.2.2.any (fun a => a.entry == at_) then .ok (y.1, row, deferRaise at_ (slotAt base slot, pos + 1) y.2.2)
        else orElse (y.1.kvRaise who root (slotAt base slot) (pos + 1)) (fun s =>
          .ok (if kind == 0 then s.track { root := root, va := va, nvme := false, fmt := h.fmt, dim := h.dim } else s, row, y.2.2)))))

/-- The header of a directory: KV_DESC, or a memory cause for every lane (R290). -/
def State.kvHeader (s : State) (root base : Nat) : Except Cause KvHeader :=
  if base % 64 ≠ 0 then .error 0x50#8
  else orElse ((List.range 8).foldl (fun acc i => orElse acc (fun n => orElse (s.kvRead root (base + 8 * i) 8) (fun w => .ok (n + w * 2 ^ (64 * i)))))
    (.ok 0)) (fun x => match kvHeaderOf x with
      | some h => .ok h
      | none => .error 0x50#8)

/-- An entry on which an action of some group is under way. -/
def State.kvBusy (s : State) (root : Nat) : Bool :=
  s.groups.any (fun g => g.inflight.any (fun f => match f.kind with
    | .kv _ acts _ => !f.done && acts.any (fun a => a.root == root)
    | _ => false))

/-- R290: how an attention-cache instruction starts: its header, a refused KV_DESC, faults in every lane, or a wait. One that raises `kv` waits for
the actions that are under way in its address space (DESIGN CHOICE, log 98). `pre` is what it checks before its header. -/
def State.kvStart (n : BitVec 3) (counted : Bool) (pre : State → Option Act) (f : Nat → KvHeader → State → Act) (s : State) : Act :=
  if counted && (s.g.counterFull 6 || s.kvBusy s.g.id.root) then .later
  else if s.g.kvHeld then .later
  else if !(s.mayRelease s.port 6) then .later
  else
    let base := (s.g.aBase n.toNat).toNat
    match pre s with
    | some act => if base % 64 ≠ 0 then .no 0x50#8 else act
    | none => match s.kvHeader s.g.id.root base with
    | .ok h => f base h (s.kvSaw s.kvWho s.g.id.root base 64)
    | .error c =>
      if c = 0x50#8 then .no c
      else
        let t := if counted then s.onGroup (fun g => g.addFlight (g.launched s.port (some 6) (.kv [] [] []) .none 0 true)) else s
        .fault t (s.active.map (fun l => laneRecord l c 0))

/-- R292: the lanes of `kvx` or `kvx.w`. -/
def State.kvxLanes (write : Bool) (a b base : Nat) (h : KvHeader) (s : State) : KvRun :=
  let g := s.g
  s.active.foldl (fun (r : KvRun) l =>
    match r.s.kvLane s.kvWho g.id.root base h write r.acts (bitsOf (lane (g.v a) l).toNat 15 0) (lane (g.v b) l).toNat with
    | .error c => { r with recs := r.recs ++ [laneRecord l c 0] }
    | .ok x => { r with s := x.1, vals := r.vals ++ [(l, x.2.1)], acts := x.2.2 })
    { s := s, vals := [], acts := [], recs := [] }

/-- Writes the values of some lanes. -/
def Group.writeVals (g : Group) (d : Dest) (vals : List (Nat × BitVec 64)) : Group :=
  let at_ := fun j => ((vals.find? (fun x => x.1 == j)).map (fun x => x.2)).getD 0
  let m := lanesOf (fun j => vals.any (fun x => x.1 == j))
  match d with
  | .v n true => g.setPair n m at_
  | .v n false => g.setLanes n m (fun j => (at_ j).setWidth 32)
  | _ => g

/-- R292, R293: `kvx` and `kvx.w`. Where lanes are held, the stream waits for their actions. -/
def State.kvxOp (i : Instr) (write : Bool) (n : BitVec 3) (b a d : BitVec 7) (s : State) : State :=
  s.issue i (State.kvStart n true (fun _ => none) (fun base h s =>
    let r := s.kvxLanes write a.toNat b.toNat base h
    if r.waits then .later else
    let dest : Dest := .v d.toNat true
    let m := lanesOf (fun j => r.vals.any (fun x => x.1 == j))
    if r.acts.isEmpty then
      let t := r.s.onGroup (fun g => (g.writeVals dest r.vals).addFlight (s.g.launched s.port (some 6) (.kv r.vals [] []) dest m true))
      if r.recs.isEmpty then .run t else .fault t r.recs
    else
      .wait (.action s.g.serial) (r.s.onGroup (fun g =>
        { g.addFlight (s.g.launched s.port (some 6) (.kv r.vals r.acts r.recs) dest m false) with serial := g.serial + 1 }))))

/-- R292: `kvx`. -/
def execKvx (n : BitVec 3) (b a d : BitVec 7) (s : State) : Answer := .next (s.kvxOp (.kvx n b a d) false n b a d)

/-- R292: `kvx.w`. -/
def execKvxW (n : BitVec 3) (b a d : BitVec 7) (s : State) : Answer := .next (s.kvxOp (.kvxW n b a d) true n b a d)

/-- R293, R297: a byte of a block is copied, in one step; the bounds are carried over with the other bytes. `none` where it has to wait, for a
migration (R184, R185) or for a free page (R201). -/
def State.kvCopyByte (who : KvWho) (a : KvAct) (s : State) (i : Nat) : Option State :=
  let va := a.base + 256 * kvAddr a.new.toNat + i
  match s.translate none a.root va .read with
  | .error _ => some s
  | .ok y =>
    let x := (s.blockByte a.root a.base a.old.toNat i).toNat
    let s := if (kvPlace a.base a.old.toNat).2 ∨ i % 32 ≠ 0 then s else s.kvSaw who a.root (a.base + 256 * kvAddr a.old.toNat + i) 32
    if s.moveHolds y then none
    else match s.preparePage y.loc 1 x with
      | .granted t => some (((t.observe (t.group who.1) y.loc va who.2 true false).arrive who.1 y.loc va 1 x true).setTags y.loc 1 none)
      | _ => none

/-- R281: an engine has read a sector of a block that lies in memory and is poisoned or cannot be read: a record is posted. -/
def State.kvReadError (who : KvWho) (root : Nat) (from_ : Nat × Bool) (was : State) (s : State) (i : Nat) : State :=
  if from_.2 then s
  else match was.locAt root (from_.1 + 32 * i) with
    | some l => if was.poisoned l then
        s.memoryError who.1 3 (from_.1 + 32 * i) (was.sectorPa who.1 (from_.1 + 32 * i) l) ((was.keyOf l).getD 0)
      else s
    | none => s

/-- R281: a sector of the old block that is poisoned is so in the copy, and a record is posted. -/
def State.kvCopyPoison (who : KvWho) (a : KvAct) (was : State) (s : State) (i : Nat) : State :=
  let from_ := kvPlace a.base a.old.toNat
  let t := s.kvReadError who a.root from_ was i
  if from_.2 then t
  else match was.locAt a.root (from_.1 + 32 * i), (s.locAt a.root (a.base + 256 * kvAddr a.new.toNat + 32 * i)).bind s.keyOf with
    | some l, some k => if was.poisoned l then { t with poison := sectorOf k :: t.poison.filter (fun x => x != sectorOf k) } else t
    | _, _ => t

/-- R170, R186, R199, R297: a sector of a block goes to the place in memory to which the block moves, with its bounds: from memory with its halo
and its state as they stand, from NVMe with a halo made anew. A dark page is allocated, or gives its shade (R196). `none` where it has to wait, for
a migration (R184, R185) or for a free page (R201). -/
def State.moveSector (s : State) (root base e to_ i : Nat) : Option State :=
  let x := s.blockSector root base e i
  let from_ := kvPlace base e
  match s.translate none root ((to_ + 32 * i : Nat) : Int) .read with
  | .error _ => some s
  | .ok y =>
    if s.moveHolds y then none
    else match s.preparePage y.loc 32 (ofBytes x) with
      | .granted t => match t.keyOf y.loc with
        | none => some t
        | some new => some (t.noting y.loc (fun t =>
            let old := if from_.2 then none else (t.locAt root (from_.1 + 32 * i)).bind t.keyOf
            let u := match old with
              | some k => t.carrySector (sectorOf k) (sectorOf new)
              | none => ({ t with mem := Memory.writeBytes t.mem new x }).renew (fun y => y == sectorOf new) (fun y => y == sectorOf new)
            u.alsoNew new))
      | _ => none

/-- R184, R197: a write of a directory that the device makes behind an action waits as the lane of an instruction would; one whose page does not
translate any more is not made. -/
def settledWrite (s : State) (x : Except Cause State) : Option State :=
  match x with
  | .ok t => some t
  | .error c => if c = kvPending ∨ c = Cause.shadeFull then none else some s

/-- R186: what is under way to a block that moves in memory goes on to where it then lies. -/
def State.redirectBlock (s : State) (b : TrackedBlock) (to_ : Nat) : State :=
  let loc := fun (l : Loc) => ((s.offsetIn b l).bind (fun o => s.locAt b.root (to_ + o))).getD l
  let va := fun (l : Loc) (x : Nat) => ((s.offsetIn b l).map (fun o => to_ + o)).getD x
  let bufs := s.bufs.map (fun (w : BufWrite) => { w with loc := loc w.loc, va := va w.loc w.va })
  let tags := s.homeTags.map (fun (x : Loc × Tag) => (loc x.1, x.2))
  let t : State := { s with bufs := bufs, homeTags := tags }
  t.mapGroups (fun (g : Group) => { g with outq := g.outq.map (fun (e : Entry) => { e with loc := loc e.loc, va := va e.loc e.va }) })

/-- R293: the bytes of a block go to the block that an action has taken: a promotion moves it (R186), and the copy of a shared block has one
reference. -/
def State.kvCopyBlock (s : State) (who : KvWho) (a : KvAct) : Option State :=
  let size := 512 + 64 * a.dim * kvBytes a.fmt
  let old := a.old.toNat
  let to_ := a.base + 256 * kvAddr a.new.toNat
  let sectors := List.range (size / 32)
  if a.promote then
    (foldWaiting (fun t i => t.moveSector a.root a.base old to_ i) sectors s).map (fun t =>
      (sectors.foldl (State.kvReadError who a.root (kvPlace a.base old) s) t).redirectBlock
        { root := a.root, va := (kvPlace a.base old).1, nvme := (kvPlace a.base old).2, fmt := a.fmt, dim := a.dim } to_)
  else
    (foldWaiting (State.kvCopyByte who a) (List.range size) s).bind (fun t =>
      let t := sectors.foldl (State.kvCopyPoison who a s) t
      settledWrite t (t.setRefs who a.root a.base a.new.toNat 1))

/-- R293: the table entry after an action, from the entry as it stands: a promotion changes its TIER and ADDR, and clears SHARED where the action
leaves the block with one reference; a copy-on-write points it at the copy with SHARED = 0. An entry that is no longer valid stays as it is. -/
def KvAct.entryAfter (a : KvAct) (e : Nat) : Nat :=
  if kvValid e = false then e
  else if a.promote then
    let low := if kvShared a.old.toNat && !(kvShared a.new.toNat) && kvShared e then e % 16384 - 64 else e % 16384
    a.new.toNat / 16384 * 16384 + low
  else a.new.toNat

/-- R199: the pages of a block that an action has filled: candidates where they are clean and HELD is clear. -/
def State.kvLeave (s : State) (a : KvAct) : State :=
  s.mapLit (fun r p => if r.hasBlock p.index a then { p with candidate := p.candidate || (s.pageClean r p && !p.held) } else p)

/-- R293, R297: an action is performed: the block is copied, the entry is written in one step, the old location of a promotion is returned, and
then LEN is raised and the block becomes tracked. `none` where a page that it writes is moved by a migration, or has to be allocated first
(R184, R185, R201). -/
def State.kvPerform (s : State) (who : KvWho) (a : KvAct) : Option State :=
  let old := kvPlace a.base a.old.toNat
  let was := s.tracked.any (fun b => b.at_ a.root old)
  (s.kvCopyBlock who a).bind (fun s =>
  (settledWrite s (orElse (s.kvRead a.root a.entry 8) (fun e => s.kvWrite who a.root a.entry 8 (a.entryAfter e)))).bind (fun s =>
    let s := (if a.promote then (s.untrack a.root old).returnLocation a.old.toNat else s).kvLeave a
    (foldWaiting (fun (s : State) x => settledWrite s (s.kvRaise who a.root x.1 x.2)) a.raises s).map (fun s =>
      if a.track || was then s.track { root := a.root, va := a.base + 256 * kvAddr a.new.toNat, nvme := false, fmt := a.fmt, dim := a.dim } else s)))

/-- R293: a promotion is not yet the oldest command of its migration-engine queue. -/
def State.actQueued (s : State) (a : KvAct) : Bool :=
  a.promote && (s.migs.any (fun m => decide (m.queue = a.queue) && decide (m.id < a.order)) ||
    s.groups.any (fun g => g.inflight.any (fun f => match f.kind with
      | .kv _ acts _ => !f.done && acts.any (fun b => b.promote && decide (b.queue = a.queue) && decide (b.order < a.order))
      | _ => false)))

/-- R293: the promotions among some actions are the oldest commands of their queue, but for each other. -/
def State.actsTurn (s : State) (acts : List KvAct) : Bool :=
  acts.all (fun a => !(s.actQueued a) || acts.any (fun b => b.promote && decide (b.queue = a.queue) && decide (b.order < a.order)))

/-- R293: `KV_ACTION_COMPLETE`: the actions of the held lanes complete, the addresses are written, and the instruction is finished. While one of
them has to wait, nothing of it is seen. -/
def execKvActionComplete (grp serial : Nat) (s : State) : Answer :=
  .next (match (s.group grp).bind (fun g => (g.inflight.find? (fun f => f.serial == serial)).map (fun f => (g, f))) with
    | none => s
    | some (g, f) => match f.kind with
      | .kv vals acts recs =>
        if f.done || !(s.actsTurn acts) then s
        else match foldWaiting (fun s a => s.kvPerform (grp, f.pc.toNat) a) acts s with
        | none => s
        | some s =>
          let s := s.modGroup grp (fun g => (g.writeVals f.dest vals).updateFlight serial (fun f => { f with done := true }))
          match g.portWhere (fun w => decide (w = .action serial)) with
          | none => s
          | some p => (s.visit grp p (fun s =>
              if recs.isEmpty then s.onGroup (fun g => g.retire g p .nop {} none false) else s.laneFault s .nop {} recs)).mirrorStep grp p f.dest f.lanes
      | _ => s)

/-! ### Forks and releases (R295, R296) -/

/-- R295: the lowest free slot from an index on. -/
def State.kvFreeSlot (s : State) (root base : Nat) : Nat → Nat → Except Cause Nat
  | 0, _ => .error 0x55#8
  | n + 1, i => orElse (s.kvRead root (slotAt base i) 8) (fun w => if bitsOf w 63 62 = 0 then .ok i else s.kvFreeSlot root base n (i + 1))

/-- R295: one entry of a child's table. -/
def State.kvForkEntry (who : KvWho) (root base parent child len blocks : Nat) (i : Nat) (s : State) : Except Cause State :=
  let b := i % blocks
  orElse (s.kvRead root (parent + 8 * i) 8) (fun e =>
    let s := s.kvSaw who root (parent + 8 * i) 8
    if b < (len + 63) / 64 ∧ kvValid e = true then
      orElse (s.kvRefs root base e) (fun n => orElse (s.setRefs who root base e (n + 1)) (fun s =>
        orElse (s.kvWrite who root (parent + 8 * i) 8 (kvWith e true)) (fun s => s.kvWrite who root (child + 8 * i) 8 (kvWith e true))))
    else s.kvWrite who root (child + 8 * i) 8 0)

/-- R295: one lane of `kvfork`: the child's slot. -/
def State.kvFork (s : State) (who : KvWho) (root base : Nat) (h : KvHeader) (task : BitVec 40) (slot len : Nat) : Except Cause (State × Nat) :=
  orElse (s.kvSlot root base h slot) (fun w =>
    if slotLen w < len then .error 0x53#8
    else orElse (s.kvFreeSlot root base h.slots 0) (fun c =>
      let s := (List.range c).foldl (fun (s : State) i => s.kvSaw who root (slotAt base i) 8) (s.kvSaw who root (slotAt base slot) 16)
      orElse (s.kvWrite who root (slotAt base c) 8 (2 ^ 62)) (fun s =>
      orElse (s.kvRead root (slotAt base slot + 8) 8) (fun pt =>
      orElse (s.kvRead root (slotAt base c + 8) 8) (fun ct =>
      orElse ((List.range h.entries).foldl (fun acc i => orElse acc (State.kvForkEntry who root base (base + pt) (base + ct) len h.blocks i)) (.ok s)) (fun s =>
      orElse (s.kvWrite who root (slotAt base c + 16) 8 (slot + task.toNat * 2 ^ 24)) (fun s =>
      orElse (s.kvWrite who root (slotAt base c) 8 (2 ^ 62 + len)) (fun s => .ok (s, c)))))))))

/-- R295: `kvfork`. -/
def execKvfork (n : BitVec 3) (b a d : BitVec 7) (s : State) : Answer :=
  .next (s.issue (.kvfork n b a d) (State.kvStart n true (fun _ => none) (fun base h s =>
    let g := s.g
    let root := g.id.root
    let r := s.active.foldl (fun (r : KvRun) l =>
      match r.s.kvFork s.kvWho root base h g.ownTask (bitsOf (lane (g.v a.toNat) l).toNat 15 0) (bitsOf (lane (g.v b.toNat) l).toNat 19 0) with
      | .error c => { r with recs := r.recs ++ [laneRecord l c 0] }
      | .ok x => { r with s := x.1, vals := r.vals ++ [(l, BitVec.ofNat 64 x.2)] })
      { s := s, vals := [], acts := [], recs := [] }
    if r.waits then .later else
    let t := { r.s with kvDirs := if r.s.kvDirs.contains (root, base) then r.s.kvDirs else r.s.kvDirs ++ [(root, base)] }
    let t := t.onGroup (fun g => (g.writeVals (.v d.toNat false) r.vals).addFlight
      (s.g.launched s.port (some 6) (.kv r.vals [] []) (.v d.toNat false) 0 true))
    if r.recs.isEmpty then .run t else .fault t r.recs)))

/-- R296: the valid entries of a table, with their addresses. -/
def State.kvEntries (s : State) (root table : Nat) : Nat → Except Cause (List (Nat × Nat))
  | 0 => .ok []
  | n + 1 => orElse (s.kvEntries root table n) (fun l => orElse (s.kvRead root (table + 8 * n) 8) (fun e =>
      .ok (if kvValid e then l ++ [(table + 8 * n, e)] else l)))

/-- R296: one entry is released: the state, and whether its block was freed. -/
def State.kvReleaseEntry (who : KvWho) (root base : Nat) (h : KvHeader) (x : Nat × Nat) (s : State) : Except Cause (State × Nat) :=
  let e := x.2
  orElse (s.kvRefs root base e) (fun n =>
    let left := (n + 2 ^ 32 - 1) % 2 ^ 32
    orElse (s.setRefs who root base e left) (fun s =>
      orElse (if left = 0 then
          (if kvTier e ≤ 1 then s.kvPush who root base h (kvWith e false) else .ok (s.returnLocation e))
        else .ok s) (fun s =>
        let s := if left = 0 then s.untrack root (kvPlace base e) else s
        orElse (s.kvWrite who root x.1 8 0) (fun s => .ok (s, if left = 0 then 1 else 0)))))

/-- R296: one lane of `kvrel`: the number of blocks it frees. -/
def State.kvRelease (s : State) (who : KvWho) (root base : Nat) (h : KvHeader) (slot : Nat) : Except Cause (State × Nat) :=
  orElse (s.kvSlot root base h slot) (fun w =>
    orElse (s.kvRead root (slotAt base slot + 8) 8) (fun table =>
    orElse (s.kvEntries root (base + table) h.entries) (fun es =>
    orElse (s.kvRead root (base + 16) 4) (fun n =>
      let s := s.kvSaw who root (base + table) (8 * h.entries)
      if h.poolCap < n + es.length then .error 0x54#8
      else orElse (es.foldl (fun acc x => orElse acc (fun y =>
          orElse (State.kvReleaseEntry who root base h x y.1) (fun z => .ok (z.1, y.2 + z.2)))) (.ok (s, 0))) (fun y =>
        orElse (y.1.kvWrite who root (slotAt base slot) 8 (bitsOf w 61 21 * 2 ^ 21)) (fun s => .ok (s, y.2)))))))

/-- R296: `kvrel`. -/
def execKvrel (n : BitVec 3) (a d : BitVec 7) (s : State) : Answer :=
  .next (s.issue (.kvrel n a d) (State.kvStart n true (fun _ => none) (fun base h s =>
    let g := s.g
    let r := s.active.foldl (fun (r : KvRun) l =>
      match r.s.kvRelease s.kvWho g.id.root base h (bitsOf (lane (g.v a.toNat) l).toNat 15 0) with
      | .error c => { r with recs := r.recs ++ [laneRecord l c 0] }
      | .ok x => { r with s := x.1, vals := r.vals ++ [(l, BitVec.ofNat 64 x.2)] })
      { s := s, vals := [], acts := [], recs := [] }
    if r.waits then .later else
    let t := r.s.onGroup (fun g => (g.writeVals (.v d.toNat false) r.vals).addFlight
      (s.g.launched s.port (some 6) (.kv r.vals [] []) (.v d.toNat false) 0 true))
    if r.recs.isEmpty then .run t else .fault t r.recs)))

/-- R255, R296: releases every sequence of a directory whose OWNER is one of some tasks; and whether a release has to wait, for a page of the
directory or for an action that is under way. -/
def State.kvReleaseOwned (ids : List (BitVec 40)) (dir : Nat × Nat) (s : State) : State × Bool :=
  match s.kvHeader dir.1 dir.2 with
  | .error _ => (s, false)
  | .ok h => (List.range h.slots).foldl (fun (x : State × Bool) i =>
      let s := x.1
      match s.kvSlot dir.1 dir.2 h i, s.kvRead dir.1 (slotAt dir.2 i + 16) 8 with
      | .ok _, .ok w =>
        if ids.contains (BitVec.ofNat 40 (bitsOf w 63 24)) then
          match s.kvRelease (0, 0) dir.1 dir.2 h i with
          | .ok y => (y.1, x.2 || s.kvBusy dir.1)
          | .error c => (s, x.2 || decide (c = kvPending))
        else x
      | _, _ => x) (s, false)

/-! ### Skipping (R299, R300) -/

/-- R299: the fields of a `kvskip` descriptor. -/
structure SkipDesc where
  m     : Nat
  t     : Nat
  pos   : Nat
  w     : Nat
  seq   : Nat
  layer : Nat
  head  : Nat
  qoff  : Nat
  deriving DecidableEq, Repr

/-- R299: a descriptor from its 32 bytes; `none` where it breaks the map. -/
def skipDescOf (x : Nat) : Option SkipDesc :=
  if bitsOf x 255 181 + bitsOf x 159 156 + bitsOf x 151 151 + bitsOf x 127 116 + bitsOf x 95 84 = 0 ∧ bitsOf x 180 160 % 4 = 0 then
    some { m := bitsOf x 31 0, t := bitsOf x 63 32, pos := bitsOf x 83 64, w := bitsOf x 115 96, seq := bitsOf x 143 128,
           layer := bitsOf x 150 144, head := bitsOf x 155 152, qoff := bitsOf x 180 160 }
  else none

/-- A finite `f32` or `bf16` value times 2^300, exactly; `none` for NaN and infinity. -/
def scaledVal : Val → Option Int
  | .fin neg m e => some (signedOf neg m * ((2 ^ (e + 300).toNat : Nat) : Int))
  | _ => none

/-- The sum of some exact values; `none` where one is special. -/
def sumVals (l : List (Option Int)) : Option Int :=
  l.foldl (fun acc x => match acc, x with
    | some a, some b => some (a + b)
    | _, _ => none) (some 0)

/-- R300: the weak test of a block. -/
def weakBlock (dim : Nat) (q : Nat → Nat) (bound : Nat → Nat) (m t : Nat) : Bool :=
  let one : Int := ((2 ^ 300 : Nat) : Int)
  let terms := (List.range dim).map (fun c => match scaledVal (Fmt.f32.decode (q c)), scaledVal (Fmt.bf16.decode (bound c)) with
    | some a, some b => some ((a.natAbs : Int) * b)
    | _, _ => none)
  match sumVals terms, scaledVal (Fmt.f32.decode m), scaledVal (Fmt.f32.decode t) with
  | some b, some m, some t => decide (b < (m - t) * one)
  | _, _, _ => false

/-- R300: the predicate bit of a lane. -/
def State.kvSkipLane (s : State) (root base : Nat) (h : KvHeader) (d : SkipDesc) (len table : Nat) (q : Nat → Nat) (b : Nat) : Except Cause Bool :=
  if len ≤ 64 * b then .ok true
  else if 0 < d.w ∧ 64 * b + 63 + d.w < d.pos then .ok true
  else orElse (s.kvRead root (base + table + 8 * h.index d.layer d.head 0 b) 8) (fun e =>
    if kvValid e = false ∨ kvTier e = 3 then .ok false
    else
      let va := base + 256 * kvAddr e
      orElse ((List.range (h.dim / 4)).foldl (fun acc i => orElse acc (fun n => orElse (s.kvRead root (va + 8 * i) 8) (fun w => .ok (n + w * 2 ^ (64 * i))))) (.ok 0))
        (fun bs => .ok (weakBlock h.dim q (fun c => bitsOf bs (16 * c + 15) (16 * c)) d.m d.t)))

/-- R282: what a lane of `kvskip` reads is recorded: its table entry, and the bounds of its block. -/
def State.skipSaw (s : State) (who : KvWho) (root base : Nat) (h : KvHeader) (d : SkipDesc) (table b : Nat) : State :=
  let at_ := base + table + 8 * h.index d.layer d.head 0 b
  let s := s.kvSaw who root at_ 8
  match s.kvRead root at_ 8 with
  | .ok e => if kvValid e = false ∨ kvTier e = 3 then s else s.kvSaw who root (base + 256 * kvAddr e) (2 * h.dim)
  | .error _ => s

/-- R290, R299: the checks of a `kvskip` descriptor that need no header: its place, and its map. -/
def State.skipCheck (off : Nat) (s : State) : Option Act :=
  if s.windowSize s.g < off + 32 then some (.no 0x50#8)
  else if s.g.pendingOn s.port (.spad s.g.id.team off) 32 then some .later
  else if (skipDescOf (ofBytes (s.spadBytes s.g off 32))).isNone then some (.no 0x50#8)
  else none

/-- R299, R300: `kvskip`. -/
def execKvskip (n : BitVec 3) (b a d : BitVec 7) (s : State) : Answer :=
  .next (s.issue (.kvskip n b a d) (State.kvStart n false (State.skipCheck (32 * b.toNat)) (fun base h s =>
    let g := s.g
    let off := 32 * b.toNat
    let window := s.windowSize g
    match skipDescOf (ofBytes (s.spadBytes g off 32)) with
      | none => .no 0x50#8
      | some x =>
        if h.layers < x.layer ∨ h.heads < x.head ∨ window < x.qoff + 4 * h.dim then .no 0x50#8
        else match s.kvSlot g.id.root base h x.seq, s.kvRead g.id.root (slotAt base x.seq + 8) 8 with
          | .error c, _ => if c = 0x51#8 then .no 0x50#8 else .fault s (s.active.map (fun l => laneRecord l c 0))
          | .ok _, .error c => .fault s (s.active.map (fun l => laneRecord l c 0))
          | .ok w, .ok table =>
            if g.pendingOn s.port (.spad g.id.team x.qoff) (4 * h.dim) then .later
            else
              let q := fun c => ofBytes (s.spadBytes g (x.qoff + 4 * c) 4)
              let bit := fun l => s.kvSkipLane g.id.root base h x (slotLen w) table q (lane (g.v a.toNat) l).toNat
              let recs := s.active.filterMap (fun l => match bit l with
                | .error c => some (laneRecord l c 0)
                | .ok _ => none)
              let val := fun j => match bit j with
                | .ok y => y
                | .error _ => (g.p d.toNat).getLsbD j
              let who := s.kvWho
              let t := s.active.foldl (fun (t : State) l => t.skipSaw who g.id.root base h x table (lane (g.v a.toNat) l).toNat)
                (s.kvSaw who g.id.root (slotAt base x.seq) 16)
              let t := t.onGroup (fun g => (g.unlatch s.port).writePred s.port d.toNat val)
              if recs.isEmpty then .run t else .fault t recs)))

end Sys2Proof.Machine
end

