-- ==== Sys2Proof/Machine/Registers.lean ====
section
/-! DEFINITION. The state registers as `rdst` reads and `wrst` writes them, `prio`, `yield`, and the allotment instructions
(R15, R60, R76, R84, R100-R104, R111, R112, R252, R257, R258, R272, R354, R360, R442, R446, R447, R477, R478, R482). -/

namespace Sys2Proof.Machine

/-- R15: LOCID. -/
def Ident.locid (x : Ident) : DWord := BitVec.ofNat 64 (x.locModule.toNat * 2 ^ 16 + x.core.toNat)

/-- R60: GROUPID. -/
def Ident.groupid (x : Ident) : DWord := BitVec.ofNat 64 (x.ngrp.toNat * 256 + (if x.role then 16 else 0) + x.gidx.toNat)

/-- R60: GANGSZ. -/
def Ident.gangsz (x : Ident) : DWord := BitVec.ofNat 64 (x.gangPos.toNat * 16 + x.gangSize.toNat)

/-- R257: PRIO. -/
def Modes.prio (m : Modes) : DWord := BitVec.ofNat 64 (m.prioCap.toNat * 256 + m.prioLevel.toNat)

/-- R354, R446: a state register by its number, in a lane. A running group reads WAITFOR as 0. -/
def Group.stateReg (g : Group) (n lane : Nat) : DWord :=
  match n with
  | 0 => BitVec.ofNat 64 Config.gwidth
  | 1 => BitVec.ofNat 64 lane
  | 2 => g.id.groupid
  | 3 => g.id.teamId.zeroExtend 64
  | 4 => g.id.nteams.zeroExtend 64
  | 5 => g.id.gangsz
  | 6 => g.id.locid
  | 7 => g.id.task.zeroExtend 64
  | 8 => g.modes.fmode
  | 9 => g.modes.fflags
  | 10 => g.modes.sticky
  | 11 => g.modes.gmode
  | 12 => g.modes.rngseed
  | 13 => g.modes.rngctr
  | 14 => g.modes.prio
  | 15 => g.modes.bintime
  | 16 => 0
  | 17 => g.trapRegs.trapcs
  | 18 => g.trapRegs.trappc
  | 19 => g.trapRegs.trapimg
  | 20 => g.trapRegs.trapgrp
  | _ => g.trapRegs.rplmask

/-- R446: `rdst`. -/
def execRdst (d : BitVec 7) (a b : BitVec 8) (s : State) : Answer :=
  .next (s.plain (.rdst d a b) (fun g p =>
    if p = .setter then g.setA d.toNat (g.stateReg a.toNat 0)
    else if b = 1#8 then g.setS d.toNat (g.stateReg a.toNat (lowest (g.pathMask p)))
    else g.setLanes d.toNat (g.maskAt p) (fun j => (g.stateReg a.toNat j).setWidth 32)))

/-- R257: sets the priority level, capped. -/
def Group.setLevel (g : Group) (x : Nat) : Group :=
  { g with modes := { g.modes with prioLevel := if x < g.modes.prioCap.toNat then BitVec.ofNat 3 x else g.modes.prioCap } }

/-- R101: the fields of FMODE that a write replaces. -/
def fmodeFields : DWord := 0xF7#64

/-- R111: the fields of GMODE that a write replaces. -/
def gmodeFields : DWord := 0xBF7F#64

/-- R478: a write is Illegal Instruction for its value. -/
def wrstIllegal (n : Nat) (x : DWord) : Bool :=
  (decide (n = 8) && decide (6 ≤ fmodeRM x)) || (decide (n = 11) && !gmodeValid (gmodePitch x) (gmodeGuard x))

/-- R478: a write that more than one live path forbids. -/
def wrstAlone (n : Nat) : Bool := n == 8 || n == 11 || n == 12 || n == 13

/-- R478: what `wrst` does to a register. For PRIO the whole value is compared with CAP, as if no bit of it lay outside LEVEL (DESIGN CHOICE,
log 85). -/
def Group.writeStateReg (g : Group) (n : Nat) (x : DWord) : Group :=
  let m := g.modes
  match n with
  | 8 => { g with modes := { m with fmode := x &&& fmodeFields } }
  | 9 => { g with modes := { m with fflags := x &&& 0x3F#64 }, flagMarks := [{ port := none, serial := 0, lanes := [], whole := x &&& 0x3F#64 }] }
  | 10 => { g with modes := { m with sticky := m.sticky &&& ~~~x } }
  | 11 => { g with modes := { m with gmode := x &&& gmodeFields } }
  | 12 => { g with modes := { m with rngseed := x } }
  | 13 => { g with modes := { m with rngctr := x } }
  | 14 => g.setLevel x.toNat
  | 15 => { g with modes := { m with bintime := x &&& 0xFFFF_FFFF#64 } }
  | 21 => { g with trapRegs := { g.trapRegs with rplmask := x &&& g.trapRegs.entry } }
  | _ => g

/-- R477, R478: `wrst`. -/
def execWrst (d : BitVec 7) (a : BitVec 8) (s : State) : Answer :=
  .next (s.issue (.wrst d a) (fun s =>
    let x := s.g.operand64 s.port a
    if wrstIllegal d.toNat x then .no Cause.illegal
    else if wrstAlone d.toNat && s.g.diverged then .no Cause.modeDiverged
    else .run (s.onGroup (fun g => g.writeStateReg d.toNat x))))

/-- R257, R442: `prio`. -/
def execPrio (a : BitVec 8) (s : State) : Answer :=
  .next (s.plain (.prio a) (fun g p => g.setLevel (g.operand32 p a)))

/-- R258, R482: `yield`; without effect in the handler slot. -/
def execYield (s : State) : Answer :=
  .next (s.issue .yield (fun s => .run (s.onGroup (fun g =>
    if g.id.kind = .ordinary then { g.setSlot s.port (g.slot s.port).switch with age := s.clock } else g))))

/-- R76, R360: `acquire` waits for its grant. -/
def execAcquire (s : State) : Answer :=
  .next (s.issue .acquire (fun s =>
    if s.g.diverged then .no Cause.modeDiverged
    else if s.g.id.full ≤ s.g.regs.allot then .run s
    else .wait .acquire s))

/-- The registers from `v24` up as they read after a grant or a release: zero, without tags (R76, R447). -/
def Regs.clearUpper (r : Regs) : Regs :=
  { r with
    v := Vector.ofFn (fun i => if i.val < 24 then r.v.getD i.val 0 else 0)
    dark := r.dark &&& 0xFF_FFFF#128
    absorb := r.absorb &&& 0xFF_FFFF#128 }

/-- R76: the full allotment. -/
def Group.allotFull (g : Group) : Group := { g with regs := { g.regs.clearUpper with allot := g.id.full } }

/-- R447: a pending result still has to write at `v24` or above. -/
def Group.pendingUpper (g : Group) : Bool :=
  g.inflight.any (fun f => !f.done && (match f.dest with
    | .v d pair => decide (24 ≤ d) || (pair && decide (24 ≤ d + 1))
    | _ => false))

/-- R447: `release`. -/
def execRelease (s : State) : Answer :=
  .next (s.issue .release (fun s =>
    let g := s.g
    if g.diverged then .no Cause.modeDiverged
    else if g.id.kind ≠ .ordinary ∨ g.regs.allot ≤ 24 then .run s
    else if g.pendingUpper then .later
    else .run (s.onGroup (fun g => { g with regs := { g.regs.clearUpper with allot := 24 } }))))

end Sys2Proof.Machine
end

