-- ==== Sys2Proof/Machine/Shade.lean ====
section
/-! DEFINITION. The shade instructions and the fade step (R188, R191-R194, R199-R205). -/

namespace Sys2Proof.Machine

/-- R188: a region from its 64-byte descriptor; `none` where it breaks the map. -/
def regionOfDesc (x root : Nat) (creator : Option (BitVec 40)) : Option Region :=
  let esz := 2 ^ bitsOf x 201 200
  let base := bitsOf x 63 0
  let size := bitsOf x 127 64
  let shade := bitsOf x 191 128
  if bitsOf x 511 205 = 0 ∧ bitsOf x 204 203 ≠ 3 ∧ (bitAt x 202 = false ∨ shade = 0) ∧ shade < 2 ^ (8 * esz) ∧ size ≠ 0 ∧
      size % 65536 = 0 ∧ size ≤ 2 ^ 46 ∧ base % 65536 = 0 ∧ base + size ≤ 2 ^ 56 then
    some { root := root, base := base, size := size, esz := esz, shade := BitVec.ofNat 64 shade, absorb := bitAt x 202,
           pool := BitVec.ofNat 8 (bitsOf x 199 192), fade := BitVec.ofNat 2 (bitsOf x 204 203), creator := creator, lit := [],
           gone := false, deleter := none }
  else none

/-- R193: a region cannot be added to its address space. One that is being removed still counts, for overlap and among the 1,024 (DESIGN
CHOICE, log 62). -/
def State.regionClash (s : State) (r : Region) : Bool :=
  let rs := s.regions.filter (fun q => q.root == r.root)
  rs.any (fun q => decide (q.base < r.base + r.size) && decide (r.base < q.base + q.size)) || decide (1024 ≤ rs.length)

/-- R193: adds a region, every page dark; every translation cache drops its entries for the range. -/
def State.addRegion (s : State) (r : Region) : State :=
  { s with regions := s.regions ++ [r] }.dropTlb (fun e => e.root == r.root && decide (e.base < r.base + r.size) &&
    decide (r.base < e.base + e.leaf.size))

/-- R192: the grid of the group has the region-management grant. -/
def State.mayManage (s : State) : Bool :=
  match s.task s.g.ownTask with
  | some t => t.region
  | none => false

/-- R50: the regions of the objects that are loaded for an address space enter the table, with the effect of `shmap` and no creator, before the
first launch there; one that `shmap` would refuse does not (DESIGN CHOICE, log 88). -/
def State.loadFor (s : State) (root : Nat) : State :=
  let t := (s.loadRegions.filter (fun r => r.root == root)).foldl (fun (s : State) r =>
    if s.regionClash r then s else s.addRegion { r with creator := none, lit := [], gone := false, deleter := none }) s
  { t with loadRegions := s.loadRegions.filter (fun r => !(r.root == root)) }

/-- R192, R193, R205: `shmap`, a store of its stream for its order; its park is a group switch. -/
def execShmap (a : BitVec 8) (s : State) : Answer :=
  .next (s.issue (.shmap a) (fun s =>
    let off := s.g.operandFull s.port a
    if !s.mayManage then .no Cause.regionPriv
    else if off % 64 ≠ 0 ∨ s.windowSize s.g < off + 64 then .no Cause.regionDesc
    else if s.g.pendingOn s.port (.spad s.g.id.team off) 64 then .later
    else match regionOfDesc (ofBytes (s.spadBytes s.g off 64)) s.g.id.root (some s.g.ownTask) with
      | none => .no Cause.regionDesc
      | some r =>
        if s.regionClash r then .no Cause.regionDesc
        else if !(s.mayWrite s.port (.region r.root r.base) r.size) then .later
        else .run ((s.addRegion r).onGroup (fun g => g.unlatch s.port))))

/-- R191: the VA operand of a shade instruction. -/
def State.shadeVa (s : State) (a : BitVec 8) : Nat := (s.g.operand64 s.port a).toNat

/-- R203: the lit pages of a region from an index on, in ascending order. -/
def Region.litFrom (r : Region) (first : Nat) : List LitPage :=
  sortBy (fun a b => decide (a.index ≤ b.index)) (r.lit.filter (fun p => decide (first ≤ p.index)))

/-- R203: the scan block that `litscan` writes behind its header: NLIT, NOUT, and the entries. -/
def State.scanBlock (s : State) (r : Region) (first cap : Nat) : Nat × Nat × List Byte :=
  let ps := r.litFrom first
  let out := ps.take cap
  (ps.length, out.length, out.flatMap (fun p => toBytes 4 ((if p.held then 2 ^ 31 else 0) + (if s.pageClean r p then 2 ^ 30 else 0) + p.index)))

/-- R203, R213: a write of some bytes of the scratchpad of the group at the port, from a multiple of 8, as store entries of its instruction. -/
def State.postSpad (s : State) (off : Nat) (bs : List Byte) : State :=
  (List.range ((bs.length + 7) / 8)).foldl (fun (s : State) k =>
    let b := (bs.drop (8 * k)).take 8
    s.addEntry 0 (8 * k) .store (.spad s.g.id.team (off + 8 * k)) 0 b.length (BitVec.ofNat 64 (ofBytes b)) 0 none none false) s

/-- R192, R203, R205: `litscan`, a load of its stream, which performs as it issues, and then a scratchpad write, whose entries it waits for; its
park is a group switch. -/
def execLitscan (a b : BitVec 8) (s : State) : Answer :=
  .next (s.issue (.litscan a b) (fun s =>
    let va := s.shadeVa a
    let off := s.g.operandFull s.port b
    if off % 16 ≠ 0 ∨ s.windowSize s.g < off + 16 then .no Cause.shadeArg
    else if s.g.pendingOn s.port (.spad s.g.id.team off) 16 then .later
    else
      let h := ofBytes (s.spadBytes s.g off 16)
      let cap := bitsOf h 31 0
      if s.windowSize s.g < off + 16 + 4 * cap then .no Cause.shadeArg
      else match s.regionAt s.g.id.root va with
        | none => .no Cause.regionNone
        | some r =>
          if !(s.g.mayAccess s.port (.region r.root r.base) r.size .load) then .later
          else
            let b := s.scanBlock r (bitsOf h 63 32) cap
            let t := s.postSpad (off + 8) (toBytes 4 b.1 ++ toBytes 4 b.2.1 ++ b.2.2)
            .wait (.scan s.g.serial) (t.onGroup (fun g => { g with serial := g.serial + 1 }))))

/-- R194: the page range of `shlit` or `shfade`: the first page and the region, or the cause of its trap. -/
def State.pageRange (s : State) (va n : Nat) : Except Cause (Region × Nat) :=
  if va % 65536 ≠ 0 then .error Cause.shadeArg
  else match s.regionAt s.g.id.root va with
    | none => .error Cause.regionNone
    | some r => if r.base + r.size < va + 65536 * n then .error Cause.shadeArg else .ok (r, r.pageOf va)

/-- Sets or clears HELD on a lit page. -/
def State.holdPage (s : State) (r : Region) (page : Nat) (held : Bool) : State :=
  s.setLit r (updateWhere (fun x => x.index == page) (fun x => { x with held := held, candidate := x.candidate && !held }))

/-- How the page steps of `shlit` or `shfade` end: all are taken, one is refused, or one waits: the page, the pages left with it, and whether
its step has begun. -/
inductive Pages where
  | done (s : State)
  | refused (s : State)
  | waits (s : State) (page left : Nat) (begun : Bool)

/-- R204: the page steps of `shlit` from a page on. -/
def State.lightPages (r : Region) : Nat → Nat → State → Pages
  | 0, _, s => .done s
  | n + 1, page, s =>
    if (s.darkPage r.root (r.base + 65536 * page)).isSome then
      match s.allocate r page with
      | .granted t => State.lightPages r n (page + 1) (t.holdPage r page true)
      | .refused t => .refused t
      | .waits t => .waits t page (n + 1) false
    else State.lightPages r n (page + 1) (s.holdPage r page true)

/-- R200, R204: a page step of `shfade`, or what is left of one that has begun: the state, and false where it waits for accesses to perform. -/
def State.fadePage (s : State) (r : Region) (page : Nat) (begun : Bool) : State × Bool :=
  let s := if begun then s else s.holdPage r page false
  match (s.regionOf r.root (r.base + 65536 * page)).bind (fun q => q.litPage page) with
  | none => (s, true)
  | some p =>
    if !begun && !s.pageClean r p then (s, true)
    else if s.pageBusy r page then (s, false)
    else (s.fade r page, true)

/-- R204: the page steps of `shfade` from a page on, the first of which may have begun. -/
def State.fadePages (r : Region) : Nat → Nat → Bool → State → Pages
  | 0, _, _, s => .done s
  | n + 1, page, begun, s =>
    let x := s.fadePage r page begun
    if x.2 then State.fadePages r n (page + 1) false x.1 else .waits x.1 page (n + 1) true

/-- R204: the page step at which the stream of the port waits. -/
def State.pagesWait (s : State) : Option (Nat × Nat × Nat × Bool) :=
  match (if s.port = .setter then s.g.setWait else (s.g.slot s.port).wait) with
  | .pages base page left begun => some (base, page, left, begun)
  | _ => none

/-- R192, R194, R204, R205: `shlit` or `shfade`: as a store of its stream it waits for what is before it, then it takes its page steps in
ascending order, each once, and goes on where one had to wait. Its park is a group switch. -/
def State.pageSteps (i : Instr) (a b : BitVec 8) (steps : Region → Nat → Nat → Bool → State → Pages) (s : State) : State :=
  s.issue i (fun s =>
    let go := fun (r : Region) (page n : Nat) (begun : Bool) => match steps r n page begun s with
      | .done t => Act.run (t.onGroup (fun g => g.unlatch s.port))
      | .refused t => .refused t Cause.shadeFull 0 false
      | .waits t page left begun => .wait (.pages r.base page left begun) t
    match s.pagesWait with
    | some (base, page, left, begun) => match s.regionOf s.g.id.root base with
      | some r => go r page left begun
      | none => .run s
    | none =>
      let n := s.g.operandFull s.port b
      match s.pageRange (s.shadeVa a) n with
      | .error c => .no c
      | .ok (r, page) =>
        if !(s.mayWrite s.port (.region r.root (r.base + 65536 * page)) (65536 * n)) then .later
        else go r page n false)

/-- R204: `shlit`. -/
def execShlit (a b : BitVec 8) (s : State) : Answer :=
  .next (s.pageSteps (.shlit a b) a b (fun r n page _ s => s.lightPages r n page))

/-- R204: `shfade`. -/
def execShfade (a b : BitVec 8) (s : State) : Answer :=
  .next (s.pageSteps (.shfade a b) a b (fun r n page begun s => s.fadePages r n page begun))

/-- R199, R200: the fade step of a candidate of an eager region; it waits while an access to the page is under way. -/
def execFadeStep (root base page : Nat) (s : State) : Answer :=
  .next (match s.regions.find? (fun r => r.root == root && r.base == base && !r.gone) with
    | none => s
    | some r => match r.litPage page with
      | none => s
      | some p => if decide (r.fade = 0) && p.candidate && !p.held && !(s.pageBusy r page) then s.fade r page else s)

end Sys2Proof.Machine
end

