-- ==== Sys2Proof/Machine/Sched.lean ====
section
/-! DEFINITION. Launching, cancelling, spawning, admission, the ends of tasks, and what the distributor and the cores do by themselves
(R48, R55, R76, R82-R84, R246-R260, R317, R464, R465, R483). -/

namespace Sys2Proof.Machine

/-! ### Regions that leave (R483) -/

/-- R483: an access that was translated through a region has still to perform. -/
def State.regionBusy (s : State) (r : Region) : Bool :=
  let hit := fun l : Loc => match l with
    | .region root va => root == r.root && decide (r.base ≤ va) && decide (va < r.base + r.size)
    | _ => false
  s.groups.any (fun g => g.outq.any (fun e => hit e.loc)) || s.bufs.any (fun b => hit b.loc)

/-- R483 step 1: a region leaves the region table. -/
def State.closeRegion (s : State) (r : Region) : State :=
  { s with regions := updateWhere (fun q => q.same r && !q.gone) (fun q => { q with gone := true }) s.regions }.dropTlb (fun e =>
    e.root == r.root && decide (e.base < r.base + r.size) && decide (r.base < e.base + e.leaf.size))

/-- R483 step 3: the lit pages of a region that has left return to its pool. -/
def State.freeRegion (s : State) (r : Region) : State :=
  { s with regions := s.regions.filter (fun q => !(q.same r && q.gone)) }.setFree r.pool (fun f => f ++ r.lit.map LitPage.phys)

/-! ### Launch records (R247) -/

/-- R247: a launch record and its kernel record agree. -/
def fallbackOk (r : LaunchRec) (k : KernelRec) : Bool := r.nteams % k.gfall == 0

/-- R46, R247: the arguments of a launch. -/
def LaunchRec.argsFor (r : LaunchRec) (k : KernelRec) : List DWord := if r.argv then r.args else k.args

/-- R247: the launching grid has the region-management grant. -/
def State.hasGrant (s : State) (t : BitVec 40) : Bool :=
  match s.task t with
  | some t => t.region
  | none => false

/-- R254: `launch`. -/
def execLaunch (d : BitVec 7) (a : BitVec 8) (s : State) : Answer :=
  .next (s.issue (.launch d a) (fun s =>
    let g := s.g
    let off := (g.operand64 s.port a).toNat
    let dest := uniformDest s.port d
    if off % 128 ≠ 0 ∨ s.windowSize g < off + 128 then .no Cause.launchDesc
    else if !(s.mayRelease s.port 6) then .later
    else match launchRecOf (ofBytes (s.spadBytes g off 128)) with
      | none => .no Cause.launchDesc
      | some r => match s.kernelAt g.nodes g.id.root r.krec with
        | none => .no Cause.launchDesc
        | some k =>
          if r.root ≠ 0 ∨ fallbackOk r k = false ∨ (r.region = true ∧ s.hasGrant g.ownTask = false) then .no Cause.launchDesc
          else
            let prio := if g.modes.prioCap.toNat < r.prio.toNat then g.modes.prioCap else r.prio
            let now := s.queueOpen r.queue
            let t := newTask r.queue (some g.ownTask) prio k g.id.root r.nteams (r.argsFor k) r.seed r.done r.debug r.region s.nextUid
            if now then
              let x := s.enterTask .queued t
              .run (x.1.onGroup (fun g => dest.write (x.2.zeroExtend 64) g))
            else .wait (.launch t dest) { s with nextUid := s.nextUid + 1 }))

/-- R247, R254: `QUEUE_APPEND`: the first launch that waits for a queue is appended. A launch of the host completes; a stream's gets its id, which
the stream writes as it goes on. The submission of a host's launch is its consumption, and that of a stream's its append (DESIGN CHOICE,
log 95). -/
def execQueueAppend (queue : BitVec 6) (s : State) : Answer :=
  .next (match s.queueWaiters queue with
    | [] => s
    | w :: _ =>
      if 1024 ≤ (s.queueItems queue).length then s
      else match w with
        | .host t =>
          let s := s.modTask t.id (fun t => { t with stage := .queued, hostWait := none })
          match t.hostWait with
          | some (pair, sseq) => s.complete { pair := pair, result := t.id.zeroExtend 48, op := 1, status := 0, sseq := BitVec.ofNat 32 sseq }
          | none => s
        | .stream uid p t dest =>
          let x := s.enterTask .queued t
          x.1.finishWait uid p (.launch 0 0) dest (fun g => dest.write (x.2.zeroExtend 64) g))

/-! ### Cancellation (R255, R256) -/

/-- R255: a cancellation begins: its subtree stops, its regions and mailboxes close. The number of groups that it ended. -/
def State.beginCancel (s : State) (root : BitVec 40) : State × Nat :=
  let ids := s.subtree root
  let r := s.cancelTree root
  let ended := ((s.groups.filter (fun g => !g.ended)).map (fun g => g.id.uid)).filter (fun u => (r.1.group u).any (fun g => g.ended))
  let s := (r.1.dropMailboxCmds ended).closeMailboxes ids
  ((s.regions.filter (fun q => q.creator.any (fun t => ids.contains t))).foldl State.closeRegion s, r.2)

/-- R255: `cancel`. -/
def execCancel (d : BitVec 7) (a : BitVec 8) (s : State) : Answer :=
  .next (s.issue (.cancel d a) (fun s =>
    let x := s.g.operand64 s.port a
    let id : BitVec 40 := x.setWidth 40
    let dest := uniformDest s.port d
    if 2 ^ 40 ≤ x.toNat ∨ s.inTree id = false then .run (s.onGroup (fun g => dest.write 0 g))
    else if s.under s.g.ownTask id = false then .no Cause.cancelDenied
    else
      let r := s.beginCancel id
      if r.1.g.ended then .jump r.1 else .wait (.reclaim id r.2 dest) r.1))

/-- R317: mailboxes whose owner has left the task tree close. -/
def State.closeOrphans (s : State) : State :=
  s.closeMailboxes ((s.mailboxes.filterMap (fun m => m.owner)).filter (fun t => !(s.inTree t)))

/-- R58, R249: removes the groups of a task that have ended. -/
def State.dropGroups (s : State) (p : Group → Bool) : State := { s with others := s.others.filter (fun g => !(p g)) }

/-- The group at the issue port joins the others, so that it can be removed. -/
def State.clearPort (s : State) : State :=
  if s.g.id.present then { s with g := Group.launch, others := s.g :: s.others, port := .slot0 } else s

/-- R249: the completion word of a task. -/
def State.writeDone (s : State) (t : Task) (word : Nat) : State := if t.done = 0 then s else s.deviceWrite t.root t.done.toNat word

/-- R197: the completion word of a task has to wait for the allocation of its page. -/
def State.doneWaits (s : State) (t : Task) (word : Nat) : Bool := t.done != 0 && s.deviceWaits t.root t.done.toNat word

/-- R249: every group of a task has ended and everything it issued has performed. -/
def State.taskDrained (s : State) (id : BitVec 40) : Bool :=
  s.groups.all (fun g => !(decide (g.id.task = id) && decide (g.id.kind = .ordinary)) || (g.ended && s.drained g.id.uid))

/-- R249: `GRID_COMPLETE`. -/
def execGridComplete (task : BitVec 40) (s : State) : Answer :=
  .next (match s.task task with
    | none => s
    | some t =>
      if decide (t.stage = .running) && s.taskDrained task && !(s.doneWaits t (if t.endedByHandler then 2 else 1)) then
        let s := s.modTask task (fun t => { t with stage := .complete })
        let s := s.writeDone t (if t.endedByHandler then 2 else 1)
        ((s.clearPort.dropGroups (fun g => decide (g.id.task = task) && decide (g.id.kind = .ordinary))).reapTeams).closeOrphans
      else s)

/-- R255 steps 5-7: what the reclamation of a subtree waits for: accesses, and the release of attention-cache references. -/
def State.reclaimable (s : State) (ids : List (BitVec 40)) : Bool :=
  ids.all (fun t => s.taskDrained t) && s.kvDirs.all (fun dir => !(s.kvReleaseOwned ids dir).2) &&
  (s.regions.filter (fun q => q.gone && q.creator.any (fun t => ids.contains t))).all (fun q => !(s.regionBusy q)) &&
  s.groups.all (fun g => !(decide (g.id.kind = .ordinary) && decide (g.lanesUnder ids ≠ 0) && g.noLane) || s.drained g.id.uid)

/-- R325: the host launches of a subtree that was cancelled while they waited for room complete. -/
def State.abandonLaunches (s : State) (ids : List (BitVec 40)) : State :=
  (s.tasks.filter (fun t => ids.contains t.id)).foldl (fun s t => match t.hostWait with
    | some (pair, sseq) =>
      (s.complete { pair := pair, result := t.id.zeroExtend 48, op := 1, status := 0, sseq := BitVec.ofNat 32 sseq }).modTask t.id (fun t =>
        { t with hostWait := none })
    | none => s) s

/-- R255: the subtree is gone: windows, regions, attention-cache references, mailboxes, completion words. A grid of it that had completed
before keeps COMPLETE (R249, R256). -/
def State.reclaim (s : State) (ids : List (BitVec 40)) : State :=
  let s := (s.clearPort.dropGroups (fun g => ids.contains g.id.task && decide (g.id.kind = .ordinary))).reapTeams
  let s := (s.regions.filter (fun q => q.gone && q.creator.any (fun t => ids.contains t))).foldl State.freeRegion s
  let s := s.kvDirs.foldl (fun s dir => (s.kvReleaseOwned ids dir).1) s
  let s := (s.tasks.filter (fun t => ids.contains t.id)).foldl (fun s t => match t.stage with
    | .reclaiming => (s.writeDone t 2).modTask t.id (fun t => { t with stage := .cancelled })
    | .running => (s.writeDone t (if t.endedByHandler then 2 else 1)).modTask t.id (fun t => { t with stage := .complete })
    | _ => s) s
  s.closeOrphans

/-- R255, R256: the streams that wait for the reclamation of a task go on. -/
def State.reclaimed (s : State) (task : BitVec 40) : State :=
  (s.waiters (fun w => match w with
    | .reclaim t _ _ => decide (t = task)
    | _ => false)).foldl (fun s w => match w.2.2 with
      | .reclaim _ n dest => s.finishWait w.1 w.2.1 (.cancel 0 0) dest (fun g => dest.write (BitVec.ofNat 64 n) g)
      | _ => s) s

/-- R255, R256: `RECLAMATION_COMPLETE`. -/
def execReclamationComplete (task : BitVec 40) (s : State) : Answer :=
  .next (
    let ids := s.subtree task
    let asked := !(s.waiters (fun w => match w with
        | .reclaim t _ _ => decide (t = task)
        | _ => false)).isEmpty || s.cancels.any (fun c => decide (c.task = task)) ||
      s.tasks.any (fun t => decide (t.id = task) && decide (t.stage = .reclaiming))
    if asked && s.reclaimable ids && !(s.tasks.any (fun t => ids.contains t.id && !t.stage.over && (s.doneWaits t 1 || s.doneWaits t 2))) then
      let s := ((s.reclaim ids).reclaimed task).abandonLaunches ids
      let s := (s.cancels.filter (fun c => decide (c.task = task))).foldl (fun s c =>
        s.complete { pair := c.pair, result := BitVec.ofNat 48 c.count, op := 2, status := 0, sseq := c.sseq }) s
      { s with cancels := s.cancels.filter (fun c => !(decide (c.task = task))) }
    else s)

/-! ### Register lines that leave the cache (R260, R278) -/

/-- The lines of a group that it holds are written to its context image (R260, R276). Those of a group that a handler run has in hand stand
there since its entry, with what the handler has changed (R271). -/
def State.writeLines (s : State) (g : Group) : State :=
  if s.inHandler g then s
  else match s.imagePa g with
    | none => s
    | some pa => ((List.range g.regs.allot).foldl (fun (s : State) n =>
        s.writePhysical (pa + 0x2800 + 256 * n) (toBytes 256 (g.v n).toNat)) s).modGroup g.id.uid (fun g => { g with spilled := true })

/-- R273: the lines of a group that have left the register cache are fetched from its image; a poisoned sector there makes a machine check that
concerns the group. -/
def State.refetch (s : State) (uid : Nat) : State :=
  match s.group uid with
  | none => s
  | some g =>
    let bad := g.spilled && (s.imagePa g).any s.imagePoisoned
    let s := s.modGroup uid (fun g => { g with spilled := false })
    if bad then s.modCore g.id.core (fun c => { c with mcheckCause := some Cause.poison, mcheckGroup := some uid }) else s

/-- R260: one eviction round: the lines of blocked groups go to their context images, youngest group first, until some number of lines is
free. The groups keep their values and stay blocked. All lines of a group go at once (DESIGN CHOICE, log 77). -/
def State.evict : Nat → List Group → State → State
  | _, [], s => s
  | need, g :: rest, s => if need = 0 then s else State.evict (need - g.regs.allot) rest (s.writeLines g)

/-- R278: the lines of a newcomer push those of pre-empted groups of the core out to their context images, where the register cache has no
room for both. -/
def State.pushOut (s : State) (core : BitVec 10) (n : Nat) : State :=
  let gs := s.groups.filter (fun g => decide (g.id.core = core) && decide (g.id.kind = .ordinary) && !g.ended)
  State.evict (gs.foldl (fun k g => k + g.regs.allot) n - 3072) ((sortBy (fun a b => decide (a.age ≤ b.age)) (gs.filter (fun g => g.stopped))).reverse) s

/-! ### Admission (R250, R251) -/

/-- R48: the team does not start: its grid is cancelled and a record of TYPE 4 is posted. -/
def State.imageLost (s : State) (t : Task) (core : BitVec 10) (e : Nat × Nat) : State :=
  ((s.beginCancel t.id).1.postRecord (dieOf core) (errorRecord e.1 4 e.2 t.id core s.clock)).1

/-- R248: an item that the distributor may take now: the best of its queues, or one for room that the best cannot use. -/
def State.mayTake (s : State) (t : Task) : Bool :=
  (s.hubItems (t.queue.toNat / 32)).all (fun u => decide (u.id = t.id) || t.before u || (s.nextGang u).isNone)

/-- R250: the distributor places the next gang of a grid. -/
def State.admitGang (s : State) (task : BitVec 40) (cores : List (BitVec 10)) : State :=
  match s.task task, cores with
  | some t, core :: _ => match s.nextGang t with
    | none => s
    | some size =>
      if decide (t.stage = .queued) && !t.preempted && decide (s.bootStage = 3) && s.mayTake t &&
          decide (cores = gangCores size (core.toNat / size)) && s.gangFits t.krec cores then
        match s.readImage t.root t.krec.spimg.toNat t.krec.spsize with
        | .error e => s.imageLost t core e
        | .ok image =>
          match s.makeWindows (windowBytes t.krec.spsize) cores with
          | none => s
          | some (u, bases) =>
          let u := cores.foldl (fun (u : State) c => u.pushOut c (24 * t.krec.team)) u
          let gang := u.nextUid
          let s := { u with nextUid := u.nextUid + 1 }
          let s := ((List.range size).zip (cores.zip bases)).foldl (fun s x =>
            State.placeTeam t gang size x.1 (t.placed + x.1) x.2.1 x.2.2 image (BitVec.allOnes 64) 0 [] s) s
          s.modTask task (fun t => { t with
            placed := t.placed + size
            stage := if t.nteams ≤ t.placed + size then .running else .queued })
      else s
  | _, _ => s

/-- R279: a team of a grid that waits on its core to be re-admitted. -/
def State.pausedTeam (s : State) (task : BitVec 40) (core : BitVec 10) : Option Team :=
  s.teams.find? (fun t => decide (t.task = task) && decide (t.core = core) && (s.teamGroups t.uid).any (fun g => g.stopped && !g.ended))

/-- R278: the window of a pre-empted team is on its core again; `none` while there is no room for it. -/
def State.restoreWindow (s : State) (t : Team) : Option State :=
  match t.saved, s.ctxPool with
  | some j, some p => match s.makeWindow t.core t.size 32 with
    | none => none
    | some (u, b) =>
      let spad := Memory.writeBytes [] 0 (Memory.readBytes u.mem (p.saveAt j) t.size)
      some { u with
        saves := u.saves.filter (fun x => x != j)
        teams := updateWhere (fun x => x.uid == t.uid) (fun x => { x with saved := none, base := b, spad := spad }) u.teams }
  | _, _ => some s

/-- R252, R273, R279: a group that is re-admitted: lines of it that were pushed out are fetched from its image. It keeps its GSLOT unless another
group has taken it. -/
def State.readmit (s : State) (core : BitVec 10) (uid : Nat) : State :=
  let used := (s.residents core).map (fun g => g.id.gslot.toNat)
  (s.modGroup uid (fun g =>
    let slot := if used.contains g.id.gslot.toNat then BitVec.ofNat 5 ((lowestFree used 32).getD 0) else g.id.gslot
    { s.switchOut g with stopped := false, id := { g.id with gslot := slot } })).refetch uid

/-- R279: a saved team is re-admitted on its own core. -/
def State.resumeTeam (s : State) (t : Team) : State :=
  let gs := (s.teamGroups t.uid).filter (fun g => g.stopped && !g.ended)
  if 32 < (s.residents t.core).length + gs.length then s
  else match s.restoreWindow t with
    | none => s
    | some u => gs.foldl (fun (u : State) g => u.readmit t.core g.id.uid) u

/-- R250, R279: `TEAM_ADMISSION`: a saved team of a resumed grid is re-admitted on its core, or the next gang of a grid takes its place. -/
def execTeamAdmission (task : BitVec 40) (cores : List (BitVec 10)) (s : State) : Answer :=
  .next (
    let resumed := (s.task task).any (fun t => !t.preempted)
    match (cores.head?).bind (fun c => s.pausedTeam task c) with
    | some t => if resumed && cores.length == 1 then s.resumeTeam t else s
    | none => s.admitGang task cores)

/-- R248: `PRIORITY_AGING`: a full millisecond passes in which none of an item's teams has been admitted. -/
def execPriorityAging (task : BitVec 40) (s : State) : Answer :=
  .next (s.modTask task (fun t =>
    if decide (t.stage = .queued) && t.placed == 0 && decide (t.effective < 7) then { t with raised := t.raised + 1 } else t))

/-! ### `acquire` (R76, R260) -/

/-- A group that waits in `acquire`. -/
def Group.acquiring (g : Group) : Bool := (g.portWhere (fun w => decide (w = .acquire))).isSome

/-- R76: a parked `acquire` is granted, and lines of its group that were pushed out come back. -/
def State.grantAt (s : State) (uid : Nat) (p : Port) : State := ((s.finishWait uid p .acquire .none Group.allotFull).mirrorUpper uid).refetch uid

/-- R260: `ACQUIRE_GRANT`: the oldest request of a core is granted, within the budget or, when every resident group waits, beyond it. -/
def execAcquireGrant (core : BitVec 10) (s : State) : Answer :=
  .next (
    let rs := s.residents core
    match sortBy (fun a b => decide (a.age ≤ b.age)) (rs.filter Group.acquiring) with
    | [] => s
    | g :: younger =>
      let need := rs.foldl (fun n g => n + g.regs.allot) 0 + (g.id.full - g.regs.allot) - 3072
      match g.portWhere (fun w => decide (w = .acquire)) with
      | none => s
      | some p =>
        if need = 0 then (s.pushOut core (g.id.full - g.regs.allot)).grantAt g.id.uid p
        else if rs.all Group.acquiring = true then (State.evict need younger.reverse s).grantAt g.id.uid p
        else s)

/-! ### Spawn bins (R82-R84) -/

/-- The lanes of a group of `n` threads. -/
def firstLanes (n : Nat) : Lanes := lanesOf (fun j => decide (j < n))

/-- R465: the release of the `spawn` of some threads is over: its entry has left the out-queue of the group. -/
def State.startable (s : State) (ts : List Thread) : Bool :=
  ts.all (fun t => s.groups.all (fun g => g.outq.all (fun e => e.id != t.entry)))

/-- R83: what a launch leaves of a bin: the timer starts anew, for the value of the spawner of the thread that is now its first. -/
def Bin.after (b : Bin) (left : List Thread) : Bin :=
  { b with threads := left, ticks := ((left.head?).map (fun x => x.ticks)).getD b.ticks }

/-- R83, R251, R252: a bin launches one group of up to 64 of its threads on a core of its die. Where its image cannot be read, the task is cancelled
before it runs (R48). The spec names no record that would give such a
group its RNGSEED: it takes the one of its lane-0 thread's parent task, 0 where that has gone (DESIGN CHOICE, log 38). -/
def State.launchBin (s : State) (b : Bin) (core : BitVec 10) : State :=
  match b.threads with
  | [] => s
  | t0 :: _ =>
    if dieOf core ≠ BitVec.ofNat 4 b.die ∨ s.gangFits b.krec [core] = false ∨ s.startable (b.threads.take 64) = false then s
    else
      let ts := b.threads.take 64
      let number := (s.bins.filter (fun c => c.die == b.die)).findIdx (fun c => decide (c.key = b.key) && c.root == b.root)
      let parent := s.task t0.parent
      let x := s.enterTask .running { newTask (t0.parent.extractLsb' 34 6) (some t0.parent) t0.prio b.krec b.root 1 b.krec.args
        ((parent.map (fun p => p.seed)).getD 0) 0 false (s.hasGrant t0.parent) s.nextUid with ofBin := true }
      let s := x.1.modTask x.2 (fun t => { t with placed := 1 })
      let left := b.threads.drop 64
      let s := { s with bins := (s.bins.map (fun c => if c = b then b.after left else c)).filter (fun c => !c.threads.isEmpty) }
      match s.task x.2 with
      | none => s
      | some t =>
        match s.readImage b.root b.krec.spimg.toNat b.krec.spsize with
        | .error e => (s.modTask t.id (fun t => { t with stage := .queued })).imageLost t core e
        | .ok image =>
          match s.makeWindows (windowBytes t.krec.spsize) [core] with
          | none => s
          | some (u, bases) =>
          let u := u.pushOut core 24
          let gang := u.nextUid
          let s := State.placeTeam t gang 1 0 0 core (bases.headD 0) image (firstLanes ts.length) (wideOf (fun j => match ts[j]? with
            | some x => x.v0
            | none => 0)) (ts.map (fun x => x.parent)) { u with nextUid := u.nextUid + 1 }
          s.logTask t0.parent (b.die * 256 + number) 3 0 0 []

/-- R83: the bin of a kernel on a die. -/
def State.binOf (s : State) (die : Nat) (key : BitVec 64) (root : Nat) : Option Bin :=
  s.bins.find? (fun b => b.die == die && decide (b.key = key) && b.root == root)

/-- R83, R84: launches the full groups of a bin, and with a timer of 0 the threads present, while some core of the die has room. -/
def State.launchFull (die : Nat) (key : BitVec 64) (root : Nat) : Nat → State → State
  | 0, s => s
  | n + 1, s => match s.binOf die key root with
    | none => s
    | some b =>
      if (b.threads.length < 64 ∧ b.ticks ≠ 0) ∨ s.startable (b.threads.take 64) = false then s
      else match (List.range 64).find? (fun c => s.gangFits b.krec [BitVec.ofNat 10 (64 * die + c)]) with
        | none => s
        | some c => launchFull die key root n (s.launchBin b (BitVec.ofNat 10 (64 * die + c)))

/-- R465: `PERFORM_STORE` of the release of a `spawn`: the bin launches what is full of it, or, with a timer of 0, what is in it. -/
def State.spawnDone (s : State) (g : Group) (e : Entry) (key : BitVec 64) (root : Nat) : State :=
  (s.modGroup g.id.uid (fun g => g.leaves e)).launchFull (dieOf g.id.core).toNat key root 64

/-- R82, R83, R356, R464, R465: `spawn`. Its threads enter their bin at once, and start when its release at `.d` has performed, which is an
entry of the out-queue. The 128 bytes below a hitter entry hold a record of the loader's where they keep the map of R55 and name that entry
(DEDUCED, log 38). -/
def execSpawn (a : BitVec 6) (o : BitVec 18) (s : State) : Answer :=
  .next (s.issue (.spawn a o) (fun s =>
    let g := s.g
    let key := g.target s.port o - 128
    let root := g.id.root
    let die := (dieOf g.id.core).toNat
    match s.kernelAt g.nodes root key.toNat with
      | none => .no Cause.badSpawn
      | some k =>
        if k.team ≠ 1 ∨ k.gpref ≠ 1 ∨ k.hit.toNat ≠ key.toNat + 128 then .no Cause.badSpawn
        else
          let prio := match s.task g.ownTask with
            | some t => t.prio
            | none => 0
          let e := g.entry s.port s.nextUid 0 0 (.spawn key root) (.mem 0) 0 0 0 none (some 3) false
          let ts : List Thread := s.active.map (fun l =>
            { v0 := lane (g.v a.toNat) l, parent := g.ownTask, prio := prio, tag := g.tag (e.rel.getD 3), entry := s.nextUid,
              ticks := g.modes.bintime.setWidth 32 })
          let posted := fun (s : State) => { s with nextUid := s.nextUid + 1 }.onGroup (fun g => { g with outq := g.outq ++ [e] })
          if ts.isEmpty then .run s
          else match s.binOf die key root with
            | some b =>
              let t := { s with bins := updateWhere (fun c => decide (c = b)) (fun _ => { b with threads := b.threads ++ ts }) s.bins }
              .run (posted t)
            | none =>
              if 256 ≤ (s.bins.filter (fun b => b.die == die)).length then .later
              else
                let b : Bin := { die := die, key := key, root := root, krec := k, threads := ts, ticks := g.modes.bintime.setWidth 32 }
                let t := { s with bins := s.bins ++ [b] }
                .run (posted t)))

/-- R83: `BIN_TIMER_EXPIRY`: a bin launches a group of the threads present. -/
def execBinTimerExpiry (die : BitVec 4) (key : BitVec 64 × Nat) (core : BitVec 10) (s : State) : Answer :=
  .next (match s.binOf die.toNat key.1 key.2 with
    | none => s
    | some b => s.launchBin b core)

end Sys2Proof.Machine
end

