-- ==== Sys2Proof/Machine/Sync.lean ====
section
/-! DEFINITION. `wait`, barrier words and the echo probe (R177, R232-R235, R261, R262, R391). -/

namespace Sys2Proof.Machine

/-- R177: `wait` parks its stream until a counter is at or below the threshold, which is read once, as it issues. -/
def execWait (d : BitVec 7) (a : BitVec 8) (s : State) : Answer :=
  .next (s.issue (.wait d a) (fun s =>
    let path := d.setWidth 3
    let thr := match s.g.waitAt s.port with
      | .counter _ t => t.toNat
      | _ => s.g.operand32 s.port a
    if s.g.counter path ≤ thr then .run s else .wait (.counter path (BitVec.ofNat 32 thr)) s))

/-! ### Barrier words (R232-R235) -/

/-- R232: the fields of a barrier word. -/
def barExpect (w : Nat) : Nat := bitsOf w 7 0
def barArrived (w : Nat) : Nat := bitsOf w 15 8
def barPhase (w : Nat) : Nat := bitsOf w 31 16

/-- R232: a barrier word of a team. -/
def State.barWord (s : State) (team off : Nat) : Nat := s.homeRead (.spad team off) 8

/-- R235: the offset of a barrier word is bad. -/
def State.barOffsetBad (s : State) (off : Nat) : Bool := decide (off % 8 ≠ 0) || decide (s.windowSize s.g < off + 8)

/-- R235: the fields of a barrier word are bad. -/
def barWordBad (w : Nat) : Bool := decide (bitsOf w 63 32 ≠ 0) || decide (barExpect w = 0) || decide (barExpect w ≤ barArrived w)

/-- R235: BAR_DIVERGED. -/
def State.barDiverged (s : State) : Bool := decide (s.port ≠ .setter) && s.g.diverged

/-- R234: a barrier word after one more arrival. -/
def barNext (w : Nat) : Nat :=
  if barArrived w + 1 = barExpect w then (barPhase w + 1) % 2 ^ 16 * 2 ^ 16 + barExpect w
  else barPhase w * 2 ^ 16 + (barArrived w + 1) * 2 ^ 8 + barExpect w

/-- R234, R235, R216: `bar.arv`, a release access at `.t`, or wider behind a wider release fence. It acts once what comes before it has reached the team node. -/
def execBarArv (d : BitVec 7) (a : BitVec 8) (s : State) : Answer :=
  .next (s.issue (.barArv d a) (fun s =>
    let off := s.g.operandFull s.port a
    let scope := (s.g.writeScope s.port (some 1)).getD 1
    if s.barDiverged then .no Cause.barDiverged
    else if s.barOffsetBad off then .no Cause.barWord
    else if !(s.mayRelease s.port scope.toNat) then .later
    else
      let w := s.barWord s.g.id.team off
      if barWordBad w then .no Cause.barWord
      else
        let l : Loc := .spad s.g.id.team off
        let token := BitVec.ofNat 16 (barPhase w)
        let t := (s.homeWrite l 8 (barNext w)).setTags l 8 (some (s.g.tag scope))
        .run (t.onGroup (fun g => { g.setDest s.port d (token.zeroExtend 64) with
          arrivals := (off, token) :: g.arrivals.filter (fun x => x.1 != off) }))))

/-- R234: what the `bar.wait` at the port waits for, where it has already issued: the offset and the token. -/
def State.inBarrier (s : State) : Option (Nat × BitVec 16) :=
  match s.g.waitAt s.port with
  | .barrier off token => some (off, token)
  | _ => none

/-- R234, R235: `bar.wait`, whose operands are read as it issues. It reads the word at the team node, after what its own group has still to write
there. -/
def execBarWait (a b : BitVec 8) (s : State) : Answer :=
  .next (s.issue (.barWait a b) (fun s =>
    let x := s.inBarrier.getD (s.g.operandFull s.port a, BitVec.ofNat 16 (s.g.operand32 s.port b))
    let l : Loc := .spad s.g.id.team x.1
    let first := s.inBarrier.isNone
    if s.barDiverged then .no Cause.barDiverged
    else if s.barOffsetBad x.1 then .no Cause.barWord
    else if first && (s.g.pendingOn s.port l 8 || s.bufs.any (fun y => (s.g.below l).contains y.node && overlap y.loc y.size l 8)) then .later
    else
      let w := s.barWord s.g.id.team x.1
      if first && barWordBad w then .no Cause.barWord
      else if barPhase w ≠ x.2.toNat then .run s
      else .wait (.barrier x.1 x.2) s))

/-! ### Wait-for edges and the echo probe (R261, R262) -/

/-- R261: WAITFOR of a wait: KIND and OBJ. -/
def Wait.published : Wait → Nat × Nat
  | .running => (0, 0)
  | .barrier off _ => (1, off)
  | .gang c => (2, c)
  | _ => (3, 0)

/-- R234, R261: a stream parked in `bar.wait` is woken by the arrival that completes the phase of its token, and publishes nothing from then on. -/
def State.publishedBy (s : State) (g : Group) (w : Wait) : Nat × Nat :=
  match w with
  | .barrier off token => if barPhase (s.barWord g.id.team off) = token.toNat then w.published else (0, 0)
  | _ => w.published

/-- R261, R271: what a group publishes: KIND 3 while a trap of it waits for its entry, else that of its first parked stream. -/
def State.published (s : State) (g : Group) : Nat × Nat :=
  if g.slot0.trap.isSome || g.slot1.trap.isSome || g.setTrap.isSome then (3, 0)
  else if (s.publishedBy g g.slot0.wait).1 ≠ 0 then s.publishedBy g g.slot0.wait
  else if (s.publishedBy g g.slot1.wait).1 ≠ 0 then s.publishedBy g g.slot1.wait
  else s.publishedBy g g.setWait

/-- R261: WAITFOR as a register. -/
def waitforReg (x : Nat × Nat) : DWord := BitVec.ofNat 64 (x.1 * 2 ^ 60 + x.2 % 2 ^ 32)

/-- R261: the groups of a team that have not arrived in the current phase of a barrier word. -/
def State.barrierEdges (s : State) (team off : Nat) : List Nat :=
  let phase := BitVec.ofNat 16 (barPhase (s.barWord team off))
  ((s.teamGroups team).filter (fun g => !(g.arrivals.any (fun x => x.1 == off && decide (x.2 = phase))))).map (fun g => g.id.uid)

/-- R261: the members of a gang that have not posted their paired request. -/
def State.gangEdges (s : State) (g : Group) (count : Nat) : List Nat :=
  ((s.gangGroups g.id.gang g.id.gidx).filter (fun h =>
    !((s.paired g.id.gang g.id.gidx.toNat count).any (fun r => r.grp == h.id.uid)))).map (fun h => h.id.uid)

/-- R261: the edges of a published KIND and OBJ. -/
def State.edgesOf (s : State) (g : Group) (x : Nat × Nat) : List Nat :=
  match x with
  | (1, off) => s.barrierEdges g.id.team off
  | (2, c) => s.gangEdges g c
  | _ => []

/-- R261: the edges of a group. -/
def State.edges (s : State) (g : Group) : List Nat := s.edgesOf g (s.published g)

/-- R262: follows edges from some groups, each with the groups on the way to it, until the sender is reached: the members of the cycle. -/
def State.probe (s : State) (sender : Nat) : Nat → List (Nat × List Nat) → List Nat → Option (List Nat)
  | 0, _, _ => none
  | _, [], _ => none
  | n + 1, (u, way) :: rest, seen =>
    if u = sender then some (way ++ [u])
    else if seen.contains u then s.probe sender n rest seen
    else match s.group u with
      | none => s.probe sender n rest (u :: seen)
      | some g => s.probe sender n (rest ++ (s.edges g).map (fun v => (v, way ++ [u]))) (u :: seen)

/-- R268: the detail data of a WAIT_CYCLE. -/
def State.cycleDetail (s : State) (members : List Nat) : List Byte :=
  toBytes 4 members.length ++ ((members.take 32).filterMap s.group).flatMap (fun g =>
    toBytes 8 g.id.task.toNat ++ toBytes 4 g.id.teamId.toNat ++ toBytes 4 g.id.groupid.toNat)

/-- R262, R391: `echo`: the probe runs to its end before any agent moves; the stream's park is a group switch (R79). The starting word gives the
sender no edge to itself, as the stream that runs `echo` does not wait there (DESIGN CHOICE, log 111). -/
def execEcho (d : BitVec 7) (a : BitVec 8) (s : State) : Answer :=
  .next (s.issue (.echo d a) (fun s =>
    let off := (s.g.operand64 s.port a).toNat
    if s.barDiverged then .no Cause.barDiverged
    else if s.barOffsetBad off || barWordBad (s.barWord s.g.id.team off) then .no Cause.barWord
    else
      let me := s.g.id.uid
      let start := (s.barrierEdges s.g.id.team off).filter (fun u => u != me)
      match s.probe me 4096 (start.map (fun u => (u, []))) [] with
      | none => .run (s.onGroup (fun g => (g.unlatch s.port).setS d.toNat 0))
      | some members => .cycle (s.cycleDetail members)))

/-- R262: a stream parked with KIND 1 or 2 sends a probe from its own object, so an edge to its own group is part of a cycle; a report raises
WAIT_CYCLE at its instruction. -/
def execEchoTimeout (grp : Nat) (stream : Port) (s : State) : Answer :=
  .next (match s.group grp with
    | none => s
    | some g =>
      let w := if stream = .setter then g.setWait else (g.slot stream).wait
      let start := s.edgesOf g (s.publishedBy g w)
      match s.probe grp 4096 (start.map (fun u => (u, []))) [] with
      | none => s
      | some members =>
        let detail := s.cycleDetail members
        let s := match w with
          | .gang c => (s.paired g.id.gang g.id.gidx.toNat c).foldl (fun (s : State) (r : PmeReq) => if r.grp = grp then s.dropRequest r else s) s
          | _ => s
        s.visit grp stream (fun s => s.refuse {} Cause.waitCycle 0 false detail))

end Sys2Proof.Machine
end

