-- ==== Sys2Proof/Machine/Traps.lean ====
section
/-! DEFINITION. Entering and leaving the handler slot: context images, handler entries, machine checks, `trap`, `eret`, `eret.end`,
`replay`, `exit`, and the traps of a fetch (R263-R277, R335, R357, R393-R395, R448, R472, R484). -/

namespace Sys2Proof.Machine

/-! ### Context images (R276, R484) -/

/-- R276: a pending rejoin. -/
def rejoinWord (r : Option DWord) : Nat :=
  match r with
  | some x => 2 ^ 63 + x.toNat % 2 ^ 56
  | none => 0

/-- A pending rejoin from its word. -/
def rejoinOf (x : Nat) : Option DWord := if bitAt x 63 then some (BitVec.ofNat 64 (x % 2 ^ 56)) else none

/-- R276: the trap word of a port, 0 where no trap is pending there. -/
def trapWordOf (t : Option TrapWord) (p : Port) (pend : Bool) : Nat :=
  match t with
  | some t => (t.trapcs p pend).toNat
  | none => 0

/-- The traps that a group holds, each with its port. -/
def Group.heldTraps (g : Group) : List (Port × TrapWord) :=
  (g.slot0.trap.map (fun t => (Port.slot0, t))).toList ++ (g.slot1.trap.map (fun t => (Port.slot1, t))).toList ++
    (g.setTrap.map (fun t => (Port.setter, t))).toList

/-- R276: the 64 bytes of a PC slot; `pending` where a trap of it is pending, and `pend` where another port holds one that is. -/
def Slot.image (x : Slot) (p : Port) (pending pend : Bool) : List Byte :=
  let q := x.path.getD { pc := 0, mask := 0, rejoin := none, waiting := false }
  let m := match x.replay with
    | some r => r.full
    | none => q.mask
  toBytes 8 q.pc.toNat ++ toBytes 8 m.toNat ++ toBytes 8 (rejoinWord q.rejoin) ++ toBytes 8 x.rpl.toNat ++
    toBytes 8 (if pending then trapWordOf x.trap p pend else 0) ++ toBytes 24 0

/-- R276: an entry of the divergence stack. -/
def StackEntry.image (exited : Lanes) : StackEntry → List Byte
  | .record r u a => toBytes 8 r.toNat ++ toBytes 8 u.toNat ++ toBytes 8 ((a ||| exited) &&& u).toNat ++ toBytes 8 0
  | .path q => toBytes 8 q.pc.toNat ++ toBytes 8 q.mask.toNat ++ toBytes 8 (rejoinWord q.rejoin) ++ toBytes 8 1

/-- R276: a set queue as a ring of 16 positions; positions that hold no entry are zero. -/
def queueImage (head : Nat) (l : List (DWord × Nat)) : List Byte :=
  (List.range 16).flatMap (fun pos => toBytes 8 (match l[(pos + 16 - head) % 16]? with
    | some e => e.1.toNat
    | none => 0))

/-- R276: the state registers of an image, from offset `0x0D8`; `wf` is what WAITFOR publishes (R261). -/
def Group.imageModes (g : Group) (wf : Nat × Nat) : List Byte :=
  [g.modes.fmode, g.modes.gmode, g.modes.fflags, g.modes.sticky, g.modes.rngseed, g.modes.rngctr, g.modes.prio, g.modes.bintime,
    waitforReg wf, g.id.locid, g.id.groupid, g.id.teamId.zeroExtend 64, g.id.nteams.zeroExtend 64, g.id.gangsz,
    g.id.task.zeroExtend 64].flatMap (fun x => toBytes 8 x.toNat)

/-- R268: a fault record. -/
def recordBytes (instr : DWord) (r : Nat × BitVec 8 × BitVec 64 × Bool) : List Byte :=
  toBytes 16 (r.1 % 128 + r.2.1.toNat * 2 ^ 8 + instr.toNat % 2 ^ 56 / 2 * 2 ^ 16 + r.2.2.1.toNat % 2 ^ 56 * 2 ^ 71 +
    (if r.2.2.2 then 2 ^ 127 else 0))

/-- R268: where the records of a trap stand: those of lane faults at the lane, another one at index 0. -/
def TrapWord.recordParts (t : TrapWord) (p : Port) : List (Nat × List Byte) :=
  let base := if p = .slot1 then 0x2000 else 0x1C00
  t.records.map (fun r => (base + 16 * (if t.kind = 1 then r.1 else 0), recordBytes t.instr r))

/-- R276: the parts of an image, each with its offset. `now` is the port whose entry is being taken, and its trap; that trap is not pending
any more, and the others are (DEDUCED, log 87). -/
def Group.imageParts (g : Group) (wf : Nat × Nat) (now : Option (Port × TrapWord)) : List (Nat × List Byte) :=
  let pending := fun (p : Port) => match now with
    | some (q, _) => decide (p ≠ q)
    | none => true
  let pend := fun (p : Port) => g.heldTraps.any (fun t => decide (t.1 ≠ p) && pending t.1)
  let counts := (List.range 7).flatMap (fun i => toBytes 1 (g.counter (BitVec.ofNat 3 i)))
  let sizes := (List.range 8).flatMap (fun i => toBytes 1 (g.queues.getD i []).length)
  let heads := (List.range 8).flatMap (fun i => toBytes 1 (g.qhead.getD i 0).toNat)
  let saved := fun (x : Slot) => toBytes 8 (match x.held with
    | h :: _ => h.2.toNat
    | [] => 0)
  [(0, g.slot0.image .slot0 (pending .slot0) (pend .slot0)), (0x40, g.slot1.image .slot1 (pending .slot1) (pend .slot1)),
   (0x80, toBytes 8 g.stack.length ++ toBytes 8 g.setPc.toNat ++ toBytes 8 (if g.setExited then 1 else 0) ++ toBytes 8 g.regs.allot ++
      toBytes 8 (if pending .setter then trapWordOf g.setTrap .setter (pend .setter) else 0) ++ toBytes 24 0),
   (0xC0, counts ++ [0]), (0xC8, sizes ++ heads), (0xD8, g.imageModes wf), (0x150, toBytes 8 g.age),
   (0x158, saved g.slot0 ++ saved g.slot1), (0x168, toBytes 664 0),
   (0x400, (List.range 64).flatMap (fun i => toBytes 8 (g.s i).toNat)), (0x600, (List.range 32).flatMap (fun i => toBytes 8 (g.a i).toNat)),
   (0x700, (List.range 8).flatMap (fun i => toBytes 8 (g.p i).toNat)), (0x740, toBytes 16 g.regs.dark.toNat),
   (0x750, toBytes 16 (g.regs.absorb &&& g.regs.dark).toNat),
   (0x800, (List.range 8).flatMap (fun i => queueImage (g.qhead.getD i 0).toNat (g.queues.getD i []))),
   (0xC00, g.stack.reverse.flatMap (StackEntry.image g.exited)),
   (0x2800, (List.range g.regs.allot).flatMap (fun i => toBytes 256 (g.v i).toNat))] ++
  (match now with
   | some (p, t) => t.recordParts p ++ [(0x2400, t.detail)]
   | none => [])

/-- Writes a context image. -/
def State.writeImage (s : State) (g : Group) (now : Option (Port × TrapWord)) : State :=
  match s.imagePa g with
  | none => s
  | some pa => (g.imageParts (s.published g) now).foldl (fun s part => s.writePhysical (pa + part.1) part.2) s

/-- R271: the limits of what a handler may have written. -/
def imageOk (rd : Nat → Nat → Nat) : Bool :=
  (List.range 8).all (fun i => decide (rd (0xC8 + i) 1 ≤ 16)) && (List.range 8).all (fun i => decide (rd (0xD0 + i) 1 ≤ 15)) &&
    decide (rd 0x80 8 ≤ 128) && decide (fmodeRM (BitVec.ofNat 64 (rd 0xD8 8)) < 6) &&
    gmodeValid (gmodePitch (BitVec.ofNat 64 (rd 0xE0 8))) (gmodeGuard (BitVec.ofNat 64 (rd 0xE0 8)))

/-- R271: a set queue as an image gives it; an entry keeps the push that it stands for. -/
def queueFrom (rd : Nat → Nat → Nat) (n : Nat) (old : List (DWord × Nat)) : List (DWord × Nat) :=
  let head := rd (0xD0 + n) 1
  (List.range (rd (0xC8 + n) 1)).map (fun i => (BitVec.ofNat 64 (rd (0x800 + 128 * n + 8 * ((head + i) % 16)) 8),
    match old[i]? with
    | some e => e.2
    | none => 0))

/-- R271: the divergence stack as an image gives it, the top first. -/
def stackFrom (rd : Nat → Nat → Nat) : List StackEntry :=
  ((List.range (rd 0x80 8)).map (fun i =>
    let a := 0xC00 + 32 * i
    let x := BitVec.ofNat 64 (rd a 8)
    let m : Lanes := BitVec.ofNat 64 (rd (a + 8) 8)
    if rd (a + 24) 8 = 0 then StackEntry.record x m (BitVec.ofNat 64 (rd (a + 16) 8))
    else StackEntry.path { pc := x, mask := m, rejoin := rejoinOf (rd (a + 16) 8), waiting := false })).reverse

/-- R271: the path of a slot as an image gives it. A path waits at a `join` when its lanes have arrived there. -/
def pathFrom (rd : Nat → Nat → Nat) (at_ : Nat) (stack : List StackEntry) : Option Path :=
  let m : Lanes := BitVec.ofNat 64 (rd (at_ + 8) 8)
  if m = 0 then none
  else some { pc := BitVec.ofNat 64 (rd at_ 8), mask := m, rejoin := rejoinOf (rd (at_ + 16) 8),
              waiting := match recordFor m stack with
                | some (_, _, a) => decide (m &&& ~~~a = 0)
                | none => false }

/-- R269, R271: a slot with its path as its image gives it; a replay that has still to end goes on for its lanes of that path. A
stream that the handler has moved waits no longer where it stood. -/
def Slot.withPath (x : Slot) (path : Option Path) : Slot :=
  match x.replay, x.path, path with
  | some r, some old, some q =>
    if old.pc = q.pc ∧ q.mask &&& old.mask ≠ 0 then
      { x with path := some { q with mask := q.mask &&& old.mask }, replay := some { r with full := q.mask } }
    else { x with path := path, replay := none, held := [] }
  | _, _, _ =>
    let moved := decide (x.path.map (fun q => q.pc) ≠ path.map (fun q => q.pc)) && decide (x.wait ≠ .trapped)
    { x with
      path := path
      replay := none
      held := if moved then [] else x.held
      wait := if moved then .running else x.wait }

/-- R271: a group with the changes that its image holds. -/
def Group.fromImage (g : Group) (rd : Nat → Nat → Nat) : Group :=
  let stack := stackFrom rd
  let path0 := pathFrom rd 0 stack
  let path1 := pathFrom rd 0x40 stack
  let w := fun off => BitVec.ofNat 64 (rd off 8)
  let live := (path0.toList ++ path1.toList ++ stack.filterMap (fun e => match e with
    | .path q => some q
    | .record _ _ _ => none)).foldl (fun m q => m ||| q.mask) (0 : Lanes)
  let dark := BitVec.ofNat 128 (rd 0x740 16)
  let g := { g with
    flagMarks := []
    undo0 := Undo.none
    undo1 := Undo.none
    slot0 := g.slot0.withPath path0
    slot1 := g.slot1.withPath path1
    stack := stack
    exited := g.exited &&& ~~~live
    setPc := w 0x88
    setExited := decide (rd 0x90 8 ≠ 0)
    queues := Vector.ofFn (fun i => queueFrom rd i.val (g.queues.getD i.val []))
    qhead := Vector.ofFn (fun i => BitVec.ofNat 4 (rd (0xD0 + i.val) 1))
    modes := { g.modes with
      fmode := w 0xD8 &&& fmodeFields
      gmode := w 0xE0 &&& gmodeFields
      fflags := w 0xE8 &&& 0x3F#64
      sticky := w 0xF0 &&& 7#64
      rngseed := w 0xF8
      rngctr := w 0x100
      bintime := w 0x110 &&& 0xFFFF_FFFF#64 }
    regs := { g.regs with
      s := Vector.ofFn (fun i => w (0x400 + 8 * i.val))
      a := Vector.ofFn (fun i => w (0x600 + 8 * i.val))
      p := Vector.ofFn (fun i => if i.val = 7 then g.regs.p.getD 7 0 else w (0x700 + 8 * i.val))
      v := Vector.ofFn (fun i => if i.val < g.regs.allot then BitVec.ofNat 2048 (rd (0x2800 + 256 * i.val) 256) else g.regs.v.getD i.val 0)
      dark := dark
      absorb := BitVec.ofNat 128 (rd 0x750 16) &&& dark } }
  g.setLevel (rd 0x108 8 % 8)

/-! ### Handler entries (R270-R272) -/

/-- The handler run of a core, or its machine check. -/
def State.runOn (s : State) (core : BitVec 10) (k : GroupKind) : Option Group :=
  s.groups.find? (fun g => decide (g.id.kind = k) && decide (g.id.core = core) && !g.ended)

/-- R271: the traps of a core that wait for an entry, with their groups. -/
def State.waitingTraps (s : State) (core : BitVec 10) : List (Group × Port × TrapWord) :=
  (s.residents core).flatMap (fun g => g.heldTraps.map (fun t => (g, t.1, t.2)))

/-- R271: the first of the waiting traps of a core. -/
def State.firstTrap (s : State) (core : BitVec 10) : Option (Group × Port × TrapWord) :=
  (sortBy (fun a b => decide (a.2.2.order ≤ b.2.2.order)) (s.waitingTraps core)).head?

/-- R271: a run of the handler slot as it starts; it is a gang of its own (DEDUCED, log 51). -/
def handlerGroup (uid : Nat) (kind : GroupKind) (module : BitVec 12) (core : BitVec 10) (root : Nat) (team : Nat) (pc : DWord) (t : TrapRegs)
    (clock : Nat) : Group :=
  let args := ((Vector.replicate 32 (0 : DWord)).set 0 t.trapimg).set 1 t.trapcs
  { Group.launch with
    id := { Ident.none with uid := uid, kind := kind, present := true, core := core, locModule := module, team := team, gang := uid, root := root }
    regs := { Regs.launch with a := args, aLaunch := args }
    slot0 := Slot.entered { pc := pc, mask := BitVec.allOnes 64, rejoin := none, waiting := false }
    trapRegs := t
    age := clock }

/-- R272: the registers through which the handler reads a trap. -/
def State.trapRegsFor (s : State) (g : Group) (p : Port) (t : TrapWord) : TrapRegs where
  trapcs := t.trapcs p (decide (1 < g.heldTraps.length))
  trappc := t.pc &&& 0x00FF_FFFF_FFFF_FFFF#64
  trapimg := s.imageVa g
  trapgrp := BitVec.ofNat 64 (g.id.gslot.toNat * 2 ^ 40 + g.id.task.toNat)
  rplmask := if t.kind = 1 then (g.slot p).rpl else 0
  entry := if t.kind = 1 then (g.slot p).rpl else 0
  trapped := g.id.uid
  notice := false
  port := p

/-- R272, R281: the same for a notice, whose record stands at an address. -/
def State.noticeRegs (s : State) (at_ : Nat) : TrapRegs :=
  let r := Memory.readNat s.mem at_ 32
  { TrapRegs.zero with
    trapcs := BitVec.ofNat 64 (0x60 * 2 ^ 32 + 1 * 2 ^ 16 + 3)
    trapimg := BitVec.ofNat 64 at_
    trapgrp := BitVec.ofNat 64 (bitsOf r 127 88)
    notice := true }

/-- R270, R273: starts a kernel of the handler record in the handler slot; one that cannot be read is a handler fault. Earlier runs that are
drained leave no trace. -/
def State.startRun (s : State) (c : CoreCtl) (kind : GroupKind) (krec : DWord) (team : Nat) (t : TrapRegs) : State :=
  match s.kernelAt [] c.root krec.toNat with
  | some k =>
    { s with
      others := s.others.filter (fun g => g.id.kind == .ordinary || !g.ended || !(s.drained g.id.uid)) ++
        [handlerGroup s.nextUid kind s.module c.core c.root team k.hit t s.clock]
      nextUid := s.nextUid + 1 }
  | none => match kind with
    | .mcheck => (s.modCore c.core (fun c => { c with halted := true, mcheckCause := none })).event 7 (c.core.zeroExtend 48)
    | _ => s.modCore c.core (fun c => { c with mcheckCause := some Cause.illegal, mcheckGroup := none })

/-- R264: a slot of a group runs a latch chain, which comes to its end before a trap is entered. -/
def State.midChain (s : State) (g : Group) (p : Port) : Bool := s.inChain g p && (g.slot p).trap.isNone

/-- R271: `HANDLER_ENTRY`: the handler slot of a core takes its next entry. -/
def execHandlerEntry (core : BitVec 10) (s : State) : Answer :=
  .next (match s.coreCtl core with
    | none => s
    | some c =>
      if c.halted || c.mcheckCause.isSome || (s.runOn core .handler).isSome || (s.runOn core .mcheck).isSome then s
      else
        let notice := (sortBy (fun a b => decide (a.1 ≤ b.1)) c.notices).head?
        match s.firstTrap core, notice with
        | none, none => s
        | none, some n =>
          (s.modCore core (fun c => { c with notices := c.notices.erase n })).startRun c .handler c.handler 0 (s.noticeRegs n.2)
        | some (g, p, t), notice =>
          if notice.any (fun n => decide (n.1 < t.order)) then
            match notice with
            | some n => (s.modCore core (fun c => { c with notices := c.notices.erase n })).startRun c .handler c.handler 0 (s.noticeRegs n.2)
            | none => s
          else if s.midChain g .slot0 || s.midChain g .slot1 then s
          else
            let s := s.modGroup g.id.uid Group.switch
            let s := match s.group g.id.uid with
              | some g => s.writeImage g (some (p, t))
              | none => s
            s.startRun c .handler c.handler g.id.team (s.trapRegsFor g p t))

/-- The group that a machine check concerns: the one whose image was bad, that of the handler run, else the resident group of the lowest
index. -/
def State.affected (s : State) (core : BitVec 10) : Option Group :=
  let bad := ((s.coreCtl core).bind (fun c => c.mcheckGroup)).bind s.group
  match if bad.isSome then bad else (s.runOn core .handler).bind (fun h => s.group h.trapRegs.trapped) with
  | some g => some g
  | none => (sortBy (fun a b => decide (a.id.gslot.toNat ≤ b.id.gslot.toNat)) (s.residents core)).head?

/-- R273: `MACHINE_CHECK`: a handler fault, or an uncorrectable error that the hardware reports with a cause. Its entry, which pre-empts a
handler run, is a group switch for both slots of that run (R79, R264). -/
def execMachineCheck (core : BitVec 10) (cause : BitVec 8) (s : State) : Answer :=
  .next (match s.coreCtl core with
    | none => s
    | some c =>
      let h := s.runOn core .handler
      if c.halted || (s.runOn core .mcheck).isSome || c.mcheckCause.any (fun x => decide (x ≠ cause)) ||
          h.any (fun h => s.midChain h .slot0 || s.midChain h .slot1) then s
      else
        let group := s.affected core
        let s := s.modCore core (fun c => { c with mcheckCause := none, mcheckGroup := none })
        let s := match h with
          | some h => s.modGroup h.id.uid Group.switch
          | none => s
        let w := (h.bind (fun h => h.heldTraps.head?)).map (fun t => t.2)
        let t : TrapRegs :=
          { trapcs := BitVec.ofNat 64 (cause.toNat * 2 ^ 32 + 1 * 2 ^ 16)
            trappc := ((w.map (fun t => t.pc)).getD 0) &&& 0x00FF_FFFF_FFFF_FFFF#64
            trapimg := (match group with
              | some g => s.imageVa g
              | none => 0)
            trapgrp := (match group with
              | some g => BitVec.ofNat 64 (g.id.gslot.toNat * 2 ^ 40 + g.id.task.toNat)
              | none => 0)
            rplmask := 0
            entry := 0
            trapped := (match group with
              | some g => g.id.uid
              | none => 0)
            notice := false
            port := .slot0 }
        s.startRun c .mcheck c.mcheck ((group.map (fun g => g.id.team)).getD 0) t)

/-! ### Leaving the handler slot (R263, R269, R271, R275) -/

/-- R263, R269, R448: a port goes on after its trap has been handled: `m` are the lanes to replay. -/
def Group.resume (g : Group) (p : Port) (t : TrapWord) (m : Lanes) : Group :=
  match p with
  | .setter => { g with setTrap := none, setWait := .running }
  | p =>
    let x := g.slot p
    let again := decide (t.kind = 1) && x.path.any (fun q => decide (q.mask &&& m ≠ 0))
    let path := x.path.map (fun q =>
      if again then { q with mask := q.mask &&& m }
      else if t.kind = 1 ∧ q.pc = t.pc then { q with pc := t.next }
      else q)
    let full := match x.path with
      | some q => q.mask
      | none => 0
    g.setSlot p { x with
      path := path
      trap := none
      rpl := 0
      held := if again || decide (t.kind = 0) then x.held else []
      replay := if again then some { last := t.next, full := full } else x.replay
      wait := .running }

/-- R264, R393: the traps that a group still holds come next. -/
def Group.hastenTraps (g : Group) : Group :=
  let first := fun (t : Option TrapWord) => t.map (fun t => { t with order := 0 })
  { g with
    slot0 := { g.slot0 with trap := first g.slot0.trap }
    slot1 := { g.slot1 with trap := first g.slot1.trap }
    setTrap := first g.setTrap }

/-- R214: a run of the handler slot ends. The entries in its out-queue and its commands still perform; it is gone where it has none. -/
def State.finishRun (s : State) (uid : Nat) : State :=
  let t : State := { s with pme := s.pme.filter (fun r => !(r.grp == uid && !r.checked)) }
  t.modGroup uid (fun g => { g.finish with id := { g.id with present := !(t.drained uid) } })

/-- R275: the run at the issue port leaves the handler slot. -/
def State.endRun (s : State) : State := s.finishRun s.g.id.uid

/-- R255: the lanes of a group whose threads have been cancelled do not come back with its image. -/
def State.withoutCancelled (s : State) (uid : Nat) : State :=
  let ids := (s.tasks.filter (fun t => decide (t.stage = .reclaiming) || decide (t.stage = .cancelled))).map (fun t => t.id)
  s.modGroup uid (fun g => if g.lanesUnder ids = 0 then g else g.exitLanes (g.lanesUnder ids))

/-- R271: the trapped group goes on from its image. -/
def State.resumeTrapped (s : State) (g : Group) (replay : Bool) : State :=
  let r := s.g.trapRegs
  match s.imagePa g with
  | none => s
  | some pa =>
    let s := (s.modGroup g.id.uid (fun g => g.fromImage (s.imageRead pa))).withoutCancelled g.id.uid
    match (g.heldTraps.find? (fun t => decide (t.1 = r.port))).map (fun t => t.2) with
    | none => s
    | some t => s.modGroup g.id.uid (fun g => (g.resume r.port t (if replay then r.rplmask else 0)).hastenTraps)

/-- R273: the handler run that a machine check pre-empted goes on. -/
def State.resumeHandler (s : State) (core : BitVec 10) (replay : Bool) : State :=
  match s.runOn core .handler with
  | none => s
  | some h => h.heldTraps.foldl (fun s t => s.modGroup h.id.uid (fun g =>
      g.resume t.1 t.2 (if replay then (g.slot t.1).rpl else 0))) s

/-- R275: `eret`, `replay`, and `exit` in the handler slot. Its accesses have to be in the image first. -/
def State.leave (s : State) (replay : Bool) : Act :=
  if !(s.mayRelease s.port 6) then .later
  else
    let r := s.g.trapRegs
    if s.g.id.kind = .mcheck then .jump ((s.resumeHandler s.g.id.core replay).endRun)
    else if r.notice then .jump s.endRun
    else match s.group r.trapped with
      | none => .jump s.endRun
      | some g =>
        if g.ended then .jump s.endRun
        else match s.imagePa g with
          | none => .jump s.endRun
          | some pa =>
            if s.imagePoisoned pa then .no Cause.poison
            else if !imageOk (s.imageRead pa) then .no Cause.illegal
            else .jump ((s.resumeTrapped g replay).endRun.dropLighters)

/-- R393: `eret`. -/
def execEret (s : State) : Answer := .next (s.issue .eret (fun s => s.leave false))

/-- R448: `replay`. -/
def execReplay (s : State) : Answer := .next (s.issue .replay (fun s => s.leave true))

/-- R275: the group ends at `eret.end`, and its grid's completion word will be CANCELLED. -/
def State.endTrapped (s : State) (uid : Nat) : State :=
  match s.group uid with
  | none => s
  | some g => if g.ended then s
    else ((s.endGroup uid).dropMailboxCmds [uid]).modTask g.id.task (fun t => { t with endedByHandler := true })

/-- R273, R275: the handler run of a core that ends with `eret.end` of a machine check: the one that handles the affected group, or whose own
fault is checked; another one goes on. -/
def State.endsWith (s : State) (core : BitVec 10) (trapped : Nat) : Option Group :=
  (s.runOn core .handler).bind (fun h => if (!h.trapRegs.notice && h.trapRegs.trapped == trapped) || !h.heldTraps.isEmpty then some h else none)

/-- R275, R393: `eret.end`. In the machine-check kernel the affected group ends, and the handler run that handled it. -/
def execEretEnd (s : State) : Answer :=
  .next (s.issue .eretEnd (fun s =>
    let r := s.g.trapRegs
    let ends := if s.g.id.kind = .mcheck then s.endsWith s.g.id.core r.trapped else none
    if !(s.mayRelease s.port 6) then .later
    else if r.notice then .jump s.endRun
    else
      let t := s.endTrapped r.trapped
      let t := match ends with
        | some h => t.finishRun h.id.uid
        | none => t
      .jump { t.endRun with others := t.endRun.others.filter (fun g => g.id.present) }))

/-- R395: `exit`. -/
def execExit (s : State) : Answer :=
  .next (s.issue .exit (fun s =>
    if s.g.id.kind ≠ .ordinary then s.leave false
    else match s.port with
      | .setter => .run (s.onGroup (fun g => { g with setExited := true }))
      | p =>
        let t := s.onGroup (fun g => g.exitLanes (g.maskAt p))
        .jump (if t.g.noLane then t.endGroup t.g.id.uid else t)))

/-- R275, R472: `trap`. -/
def execTrap (a : BitVec 8) (s : State) : Answer :=
  .next (s.issue (.trap a) (fun s => .after s Cause.software (BitVec.ofNat 64 (s.g.operand32 s.port a % 2 ^ 16))))

/-! ### Fetches that fail (R335, R357) -/

/-- R357: `ILLEGAL_INSTRUCTION`: what the port fetches decodes to no instruction. -/
def execIllegalInstruction (s : State) : Answer :=
  .next (match s.fetchNow with
    | .error _ => s
    | .ok (lo, hi) => match decode (s.g.streamAt s.port) lo hi with
      | some _ => s
      | none => if s.held then s else s.refuse {} Cause.illegal)

/-- R335: the address of the halfword whose fetch fails. -/
def State.failedAt (s : State) : DWord :=
  let pc := s.g.pcAt s.port
  match s.fetchHalf s.g pc.toNat with
  | .error _ => pc
  | .ok _ => pc + 2

/-- R335: `FETCH_FAULT`. -/
def execFetchFault (cause : BitVec 8) (s : State) : Answer :=
  .next (match s.fetchNow with
    | .ok _ => s
    | .error c =>
      let a := s.failedAt
      if c = cause ∧ s.held = false then s.refuse {} c (a &&& 0x00FF_FFFF_FFFF_FFFF#64) (decide (2 ^ 56 ≤ a.toNat)) else s)

end Sys2Proof.Machine
end

