-- ==== Sys2Proof/Machine/Perform.lean ====
section
/-! DEFINITION. The steps of the memory machine: loads, stores and atomics perform, writes propagate, load data returns, counters fall
(R169-R175, R196, R206, R210-R219, R225-R231, R237, R281). -/

namespace Sys2Proof.Machine

/-! ### When an entry may perform (R213, R215, R219) -/

/-- The group that holds an entry in its out-queue, and the entry. -/
def State.entryOf (s : State) (entry : Nat) : Option (Group × Entry) :=
  match s.groups.find? (fun g => g.outq.any (fun e => e.id == entry)) with
  | none => none
  | some g => (g.outq.find? (fun e => e.id == entry)).map (fun e => (g, e))

/-- R219: a synchronising write was read before a fence on its path. -/
def Group.readBefore (_ : Group) (t : ReadTag) (x : Entry) : Bool :=
  decide (t.serial < x.serial) && onPath t.setter t.mask x.setter x.mask

/-- R219: an acquire point may be overtaken: no read of it has returned a write that is matched with it. -/
def Group.mayOvertake (g : Group) (x : Entry) : Bool :=
  match x.kind, x.acq with
  | .fence, some sc => !(g.readTags.any (fun t => g.readBefore t x && g.matched sc t.tag))
  | _, _ => true

/-- R213, R219: everything that an entry is ordered after has left the out-queue, but for acquire points that may be overtaken. -/
def Group.entryMay (g : Group) (e : Entry) : Bool :=
  !(g.outq.any (fun x => e.after.contains x.id)) && g.outq.all (fun x => !(e.weak.contains x.id) || g.mayOvertake x)

/-- R219: a read may return the writes of some tags: an overtaken acquire point, and a read before an overtaken fence, may return no
write that is matched with the point. -/
def Group.mayRead (g : Group) (e : Entry) (tags : List Tag) : Bool :=
  let clear := fun (sc : Option (BitVec 3)) => match sc with
    | some sc => !(tags.any (fun t => g.matched sc t))
    | none => true
  (!e.overtaken || clear e.acq) && g.outq.all (fun x => !(x.overtaken && x.after.contains e.id) || clear x.acq)

/-- R217: the release condition of an entry. -/
def State.releaseMay (s : State) (g : Group) (e : Entry) : Bool :=
  match e.rel with
  | some sc => s.released g sc.toNat
  | none => true

/-! ### Loads and fences -/

/-- R206: what a byte of a dark page of a region with shade zero says: whether its region is absorbing. -/
def State.darkZero (s : State) : Loc → Option Bool
  | .region root va => match s.darkPage root va with
    | some (r, _) => if r.shade = 0 then some r.absorb else none
    | none => none
  | _ => none

/-- R206: the tags of a load, with one more of its reads. -/
def FlightKind.noteDark (k : FlightKind) (d : Option Bool) : FlightKind :=
  match k with
  | .load t got dark absorb => .load t got (dark && d.isSome) (absorb && d.getD false)
  | k => k

/-- R237: what an entry reads at the HOME of its window, where that is another module. -/
def State.awayEntry (s : State) (e : Entry) : Option Nat := s.awayAt e.loc e.va e.size

/-- R213, R237: what an entry reads, with the tags of the writes that it reads. -/
def State.readEntry (s : State) (g : Group) (e : Entry) : Nat × List Tag :=
  match s.awayEntry e with
  | some x => (x, [])
  | none => s.unitVia g e.loc e.size

/-- R213: a load entry performs. -/
def State.loadOne (uid : Nat) (s : State) (e : Entry) : State :=
  match s.group uid with
  | none => s
  | some g =>
    let r := s.readEntry g e
    let d := if (s.awayEntry e).isSome then none else s.darkZero e.loc
    let s := s.acquirePoint uid g e.acq r.2
    let s := s.modGroup uid (fun g =>
      let g := (g.leaves e).noteTags e r.2
      let g := g.gotFor e.serial { lane := e.lane, byteOff := e.byteOff, size := e.size, data := BitVec.ofNat 64 r.1 } 0
      g.updateFlight e.serial (fun f => { f with kind := f.kind.noteDark d }))
    s.observeAccess uid e.serial e.loc e.va false false

/-- R213, R221: the acquire point of a fence performs. -/
def State.fenceOne (uid : Nat) (g : Group) (e : Entry) (s : State) : State :=
  let tags := (g.readTags.filter (fun t => g.readBefore t e)).map (fun t => t.tag)
  (s.acquirePoint uid g e.acq tags).modGroup uid (fun g => g.leaves e)

/-- R219: the fences of a group whose reads have all performed. -/
def Group.dueFences (g : Group) : List Entry :=
  g.outq.filter (fun e => decide (e.kind = .fence) && !(g.outq.any (fun x => e.after.contains x.id)))

/-- R219: the fences of a group whose reads have all performed perform in the same step. -/
def State.fencesDue (uid : Nat) (s : State) : State :=
  match s.group uid with
  | none => s
  | some g => g.dueFences.foldl (fun (s : State) e => match s.group uid with
    | some g => s.fenceOne uid g e
    | none => s) s

/-- R213, R214, R219: `PERFORM_LOAD`: a load entry performs, with the others of its instruction that read the same sector; or the acquire
point of a fence performs, whose reads have. -/
def execPerformLoad (entry : Nat) (s : State) : Answer :=
  .next (match s.entryOf entry with
    | none => s
    | some (g, e) => match e.kind with
      | .load =>
        let es := g.outq.filter (fun x => x.serial == e.serial && decide (x.kind = .load) && x.loc.sector == e.loc.sector)
        if es.all (fun x => g.entryMay x && g.mayRead x (s.readEntry g x).2) then (es.foldl (State.loadOne g.id.uid) s).fencesDue g.id.uid else s
      | .fence => if g.entryMay e then s.fenceOne g.id.uid g e else s
      | _ => s)

/-! ### Writes that reach their home -/

/-- R211: the node above a node on a group's path to the home of a byte; `none` = the home values. -/
def State.nodeAbove (s : State) (g : Group) (l : Loc) (n : Node) : Option Node :=
  let up := match n with
    | .grp _ => some (.team g.id.team)
    | .team _ => some (.cluster (clusterOf g.id.core))
    | .cluster _ => some (.die (dieOf g.id.core).toNat)
    | .die _ => some .module
    | .module => if s.windows.isEmpty then none else some .fabric
    | .fabric => none
  if up = l.home then none else up

/-- R213: the buffered write is the oldest one in its node to each of its bytes. -/
def State.isOldest (s : State) (b : BufWrite) : Bool :=
  !((s.bufs.takeWhile (fun x => x.id != b.id)).any (fun x => x.node == b.node && overlap x.loc x.size b.loc b.size))

/-- R213: `PROPAGATE`: a buffered write moves to the parent node or into the home values. -/
def execPropagate (wr : Nat) (s : State) : Answer :=
  .next (match s.bufs.find? (fun b => b.id == wr) with
    | none => s
    | some b =>
      if !(s.isOldest b) then s
      else
        let t := { s with bufs := s.bufs.filter (fun x => x.id != wr) }
        match (s.group b.grp).bind (fun g => s.nodeAbove g b.loc b.node) with
        | some n => { t with bufs := t.bufs ++ [{ b with node := n }] }
        | none => if s.writeHeld b.loc b.size b.data.toNat then s
          else (t.homeArrive b.grp b.loc b.va b.size b.data.toNat b.full).setTags b.loc b.size b.tag)

/-! ### Stores and contributions -/

/-- R225, R237, R240: what becomes of a contribution: it enters its merge slot; it waits, for the merge of the previous one of this module
or for the status of a closed window; or, the window gone, it is an ordinary access. -/
inductive Slotted where
  | entered (s : State)
  | waits
  | ordinary

/-- R225, R237: a write of a group to a merge slot. -/
def State.contribute (s : State) (g : Group) (e : Entry) : Slotted :=
  match e.win with
  | none => .ordinary
  | some (base, off) => match s.windows.find? (fun w => w.base == base) with
    | none => .ordinary
    | some w =>
      if w.closed || s.contribs.any (fun c => c.base == base && c.off == off) then .waits
      else .entered { s with contribs := s.contribs ++ [{ base := base, off := off, data := e.data.setWidth 32, grp := g.id.uid,
                                                          serial := e.serial, root := g.id.root }] }

/-- R203: a `litscan` whose writes have all performed is complete. -/
def State.scanSettled (s : State) (uid serial : Nat) : State :=
  match (s.group uid).bind (fun g => if g.outq.any (fun e => e.serial == serial) then none else g.portWhere (fun w => decide (w = .scan serial))) with
  | some p => s.finishWait uid p (.litscan 0 0) .none id
  | none => s

/-- R213: `PERFORM_STORE`: a store enters the leaf buffer of its group, or the merge slot of its address; or the release of a `spawn`
performs. -/
def execPerformStore (entry : Nat) (s : State) : Answer :=
  .next (match s.entryOf entry with
    | none => s
    | some (g, e) =>
      if !(g.entryMay e && s.releaseMay g e) then s
      else match e.kind with
      | .spawn key root => s.spawnDone g e key root
      | .store =>
        let gone := fun (s : State) =>
          ((s.modGroup g.id.uid (fun g => g.leaves e)).observeAccess g.id.uid e.serial e.loc e.va true false).scanSettled g.id.uid e.serial
        match s.contribute g e with
        | .ordinary => gone (s.bufferWrite g e.serial e.loc e.va e.size e.data e.full (e.rel.map g.tag))
        | .waits => s
        | .entered t => gone t
      | _ => s)

/-! ### Atomics (R213, R216, R229, R230) -/

/-- R213: no buffer on the path of a group holds a write to a byte of a unit. -/
def State.pathClear (s : State) (g : Group) (l : Loc) (n : Nat) : Bool :=
  !(s.bufs.any (fun b => (g.below l).contains b.node && overlap b.loc b.size l n))

/-- R213, R216: the read, the computation and the write of an atomic. A write that is no release keeps the tags of the bytes that it read; one
behind a release fence has the tag of the fence, whatever it reads (DESIGN CHOICE, log 92). -/
def State.atomicAt (s : State) (g : Group) (e : Entry) : State :=
  let old := s.homeRead e.loc e.size
  let tags := (s.unitVia g e.loc e.size).2
  let new := e.kind.update old e.data e.data2
  let s := s.observeAccess g.id.uid e.serial e.loc e.va new.isSome true
  let s := s.acquirePoint g.id.uid g e.acq tags
  let s := match new with
    | none => s
    | some (x, _) =>
      let s := s.homeArrive g.id.uid e.loc e.va e.size x false
      match e.rel with
      | some sc => s.setTags e.loc e.size (some (g.tag sc))
      | none => s
  s.modGroup g.id.uid (fun g =>
    ((g.leaves e).noteTags e tags).gotFor e.serial { lane := e.lane, byteOff := e.byteOff, size := e.size, data := BitVec.ofNat 64 old }
      (match new with
       | some (_, fl) => fl
       | none => 0))

/-- R196, R197: an atomic that holds its stream has no lane left on a dark page: it is finished, with the lanes that were refused or that wait
for a migration. -/
def State.atomicSettled (s : State) (uid serial : Nat) : State :=
  match (s.group uid).bind (fun g => (g.inflight.find? (fun f => f.serial == serial)).map (fun f => (g, f))) with
  | none => s
  | some (g, f) => match f.kind, g.portWhere (fun w => decide (w = .atomic serial)) with
    | .atom w got fl (some h), some p =>
      if g.outq.any (fun e => e.serial == serial && s.onDark e) then s
      else
        let recs := sortBy (fun x y => decide (x.1 ≤ y.1)) h.recs
        (s.visit uid p (fun s =>
          let s := s.onGroup (fun g => g.updateFlight serial (fun f => { f with kind := .atom w got fl none }))
          let first := s.onGroup (fun g => { g with modes := h.modes })
          if h.mig ≠ 0 then first.migrating s .nop {} (lanesOf (fun j => h.mig.getLsbD j || recs.any (fun x => x.1 == j)))
          else if recs.isEmpty then s.onGroup (fun g => g.retire g p .nop {} none false)
          else first.laneFault s .nop {} recs)).mirrorStep uid p .none 0
    | _, _ => s

/-- R197: a lane of an atomic is refused the allocation that it needs: it has done nothing. -/
def State.atomicRefused (s : State) (g : Group) (e : Entry) : State :=
  s.modGroup g.id.uid (fun g => (g.leaves e).updateFlight e.serial (fun f =>
    let left := f.lanes &&& ~~~(1#64 <<< e.lane)
    { f with
      lanes := left
      done := decide (left = 0)
      kind := match f.kind with
        | .atom w got fl (some h) => .atom w got fl (some { h with recs := h.recs ++ [laneRecord e.lane Cause.shadeFull e.va] })
        | k => k }))

/-- R196, R213: an atomic performs on the home values. Where it would write other than shade bytes to a dark page it allocates that page
first, or waits, or is refused; a write waits for the copy of its line, and until it can raise its bounds (R185, R297). -/
def State.atomicHome (s : State) (g : Group) (e : Entry) : State :=
  match e.kind.update (s.homeRead e.loc e.size) e.data e.data2 with
  | none => s.atomicAt g e
  | some (x, _) =>
    let go := fun (t : State) => if t.writeHeld e.loc e.size x then s else t.atomicAt g e
    match e.loc with
    | .region root a => match s.darkPage root a with
      | none => go s
      | some (r, page) =>
        if r.isShade a e.size x then go s
        else match s.allocate r page with
          | .granted t => go t
          | .waits t => t
          | .refused t => t.atomicRefused g e
    | _ => go s

/-- R213: an entry of an atomic. -/
def EntryKind.isAtomic : EntryKind → Bool
  | .atomic .. | .cas _ => true
  | _ => false

/-- R213, R237: `PERFORM_ATOMIC`: an atomic performs on the home values, or contributes to a window and returns the home value. -/
def execPerformAtomic (entry : Nat) (s : State) : Answer :=
  .next (match s.entryOf entry with
    | none => s
    | some (g, e) =>
      let tags := (s.readEntry g e).2
      if !(e.kind.isAtomic && g.entryMay e && s.releaseMay g e && g.mayRead e tags) then s
      else match s.contribute g e with
        | .ordinary => if s.pathClear g e.loc e.size && s.inheritMay g e tags then ((s.atomicHome g e).fencesDue g.id.uid).atomicSettled g.id.uid e.serial else s
        | .waits => s
        | .entered t =>
          let t := t.acquirePoint g.id.uid g e.acq tags
          let got : Got := { lane := e.lane, byteOff := e.byteOff, size := e.size, data := BitVec.ofNat 64 ((s.awayEntry e).getD (s.homeRead e.loc e.size)) }
          (((t.modGroup g.id.uid (fun g => ((g.leaves e).noteTags e tags).gotFor e.serial got 0)).observeAccess g.id.uid e.serial e.loc e.va true
            true).fencesDue g.id.uid).atomicSettled g.id.uid e.serial)

/-! ### Returns and counters (R172, R175) -/

/-- R348: an element of a memory type, extended to 64 bits. -/
def memExtend (t : BitVec 3) (x : Nat) : DWord :=
  let n := 8 * memSize t
  if t.toNat % 2 = 0 then BitVec.ofInt 64 (sextOf (x % 2 ^ n) n) else BitVec.ofNat 64 (x % 2 ^ n)

/-- The bytes that a lane's element has returned. -/
def gotValue (got : List Got) (l : Nat) : Nat :=
  (got.filter (fun x => x.lane == l)).foldl (fun n x => n + x.data.toNat % 256 ^ x.size * 256 ^ x.byteOff) 0

/-- R206: sets the dark tag of a register. -/
def Group.setDark (g : Group) (n : Nat) (absorb : Bool) : Group :=
  let b := BitVec.ofNat 128 (2 ^ n)
  { g with regs := { g.regs with dark := g.regs.dark ||| b, absorb := if absorb then g.regs.absorb ||| b else g.regs.absorb } }

/-- The values of an instruction that has returned, written at once (R172). -/
def Group.deliver (g : Group) (f : InFlight) (val : Nat → DWord) : Group :=
  match f.dest with
  | .none => g
  | .v n pair => if pair then g.setPair n f.lanes val else g.setLanes n f.lanes (fun l => (val l).setWidth 32)
  | .s n => g.setS n (val 0)
  | .a n => g.setA n (val 0)
  | .q n => { g with queues := g.queues.setIfInBounds n (g.queues.getD n [] ++ [(val 0, f.serial)]) }

/-- R64, R417: a push of an `ldq` waits for room and for the pushes that the setter issued before it. -/
def Group.mayPush (g : Group) (f : InFlight) : Bool :=
  match f.dest with
  | .q n => decide ((g.queues.getD n []).length < 16) &&
      !(g.inflight.any (fun x => decide (x.dest = .q n) && !x.done && decide (x.serial < f.serial)))
  | _ => true

/-- An instruction has completed: it stays in flight while its counter counts it. -/
def Group.completeFlight (g : Group) (serial : Nat) : Group :=
  { g with inflight := (g.inflight.map (fun f => if f.serial = serial then { f with done := true } else f)).filter (fun f =>
      !(f.done && f.path.isNone)) }

/-- R172, R175: `LOAD_DATA_RETURN`: every lane's access of a load or an atomic has performed, and the values are written in one step. -/
def execLoadDataReturn (grp : Nat) (serial : Nat) (s : State) : Answer :=
  .next (match s.group grp with
    | none => s
    | some g => match g.inflight.find? (fun f => f.serial == serial && !f.done) with
      | none => s
      | some f =>
        if g.outq.any (fun e => e.serial == serial) || !g.mayPush f then s
        else
          let write := fun (val : Nat → DWord) (tag : Group → Group) =>
            if g.ended then s.modGroup grp (fun g => g.completeFlight serial)
            else (s.modGroup grp (fun g => (tag ((g.deliver f val).completeFlight serial)).landedAt serial f.dest)).mirror grp f.dest f.lanes (val 0)
          match f.kind with
          | .load t got dark absorb => write (fun l => memExtend t (gotValue got l)) (fun g => match f.dest with
              | .v n pair => if dark then (if pair then (g.setDark n absorb).setDark (n + 1) absorb else g.setDark n absorb) else g
              | _ => g)
          | .atom _ got flags _ => (write (fun l => BitVec.ofNat 64 (gotValue got l)) (fun g => g)).flagsFor grp flags
          | _ => s)

/-- R160, R172: the CORDIC unit writes a result that is on its way. -/
def execCordicResult (grp serial : Nat) (s : State) : Answer :=
  .next (match s.group grp with
    | none => s
    | some g => match g.inflight.find? (fun f => f.serial == serial && !f.done) with
      | none => s
      | some f => match f.kind with
        | .cordic r =>
          if g.ended then s.modGroup grp (fun g => g.completeFlight serial)
          else (s.modGroup grp (fun g => ((g.deliver f (fun l => (lane r l).zeroExtend 64)).completeFlight serial).landedAt serial f.dest)).mirror
              grp f.dest f.lanes 0
        | _ => s)

/-- R175: an instruction in flight has completed, its writes at home. -/
def State.flightOver (s : State) (g : Group) (f : InFlight) : Bool :=
  f.done && !(g.outq.any (fun e => e.serial == f.serial)) && !(s.bufs.any (fun b => b.grp == g.id.uid && b.serial == f.serial)) &&
    !(s.contribs.any (fun c => c.grp == g.id.uid && c.serial == f.serial))

/-- R175: `COUNTER_FALL`: the oldest instruction of a path has completed. -/
def execCounterFall (grp : Nat) (path : BitVec 3) (s : State) : Answer :=
  .next (match s.group grp with
    | none => s
    | some g => match g.inflight.find? (fun f => decide (f.path = some path)) with
      | none => s
      | some f => if s.flightOver g f then s.modGroup grp (fun g => { g with inflight := g.inflight.filter (fun x => x.serial != f.serial) })
        else s)

end Sys2Proof.Machine
end

