-- ==== Sys2Proof/Machine/Engine.lean ====
section
/-! DEFINITION. The polynomial matrix engine: the arbiter, passes, and the completion of engine commands (R17, R89, R95, R105, R109, R115,
R119, R123-R132, R137-R143, R207). -/

namespace Sys2Proof.Machine

/-! ### The arbiter (R143) -/

/-- The command works on accumulator words. -/
def PmeCmd.touchesAcc : PmeCmd → Bool
  | .result .. => false
  | _ => true

/-- What the arbiter grants with a request: every member's entry of its gang-wide pass, or the request alone. -/
def State.unitOf (s : State) (r : PmeReq) : List PmeReq :=
  match r.cmd with
  | .pass gang gidx count _ => s.paired gang gidx count
  | _ => [r]

/-- The requests of a PME that wait for a grant. -/
def State.ungranted (s : State) (pme : Nat) : List PmeReq := s.pme.filter (fun r => r.pme == pme && !r.granted)

/-- R17, R124: a request of a pass takes its core's whole multiplier array. -/
def PmeReq.takesArray (r : PmeReq) : Bool := r.member?.isSome

/-- R115: a `pmul` takes one multiplier of its core's array. -/
def PmeReq.takesMultiplier (r : PmeReq) : Bool :=
  match r.cmd with
  | .result _ _ _ _ mul => mul
  | _ => false

/-- R17, R115, R143: the arrays that a unit needs are free: for a pass those of its members' cores, for a `pmul` one of the four multipliers
of its core's array. -/
def State.arraysFree (s : State) (unit : List PmeReq) : Bool :=
  unit.all (fun r =>
    let busy := s.pme.filter (fun x => x.granted && decide (x.core = r.core) && x.pme == r.pme)
    let passes := busy.any PmeReq.takesArray
    let muls := (busy.filter PmeReq.takesMultiplier).length
    if r.takesArray then !passes && muls == 0 else if r.takesMultiplier then !passes && decide (muls < 4) else true)

/-- R126, R143, R213: a unit may be granted as soon as its arrays are free: its members are complete, checked and dispatched, and none has an
older request of its group before it. -/
def State.grantable (s : State) (unit : List PmeReq) : Bool :=
  unit.all (fun r => r.checked && r.dispatched && !(s.pme.any (fun x => x.grp == r.grp && !x.granted && decide (x.order < r.order))))

/-- R143: the level, the age and the grants seen of a unit. -/
def unitLevel (unit : List PmeReq) : Nat := maxNat (unit.map (fun r => r.level.toNat))
def unitAge (unit : List PmeReq) : Nat := maxNat (unit.map (fun r => r.order))
def unitGrants (unit : List PmeReq) : Nat := unit.foldl (fun n r => min n r.grants) 32

/-- R143: a unit is granted ahead of another one. -/
def unitBefore (a b : List PmeReq) : Bool :=
  if decide (32 ≤ unitGrants a) != decide (32 ≤ unitGrants b) then decide (32 ≤ unitGrants a)
  else if unitGrants a < 32 ∧ unitLevel a ≠ unitLevel b then decide (unitLevel b < unitLevel a)
  else decide (unitAge a ≤ unitAge b)

/-- R143: the unit that the arbiter of a PME grants next: the first one whose arrays are free, but where a unit has seen 32 grants, that one,
for which the arbiter waits. -/
def State.nextUnit (s : State) (pme : Nat) : Option (List PmeReq) :=
  let units := sortBy unitBefore (((s.ungranted pme).map s.unitOf).filter s.grantable)
  match units.head? with
  | none => none
  | some u => if 32 ≤ unitGrants u then (if s.arraysFree u then some u else none) else (units.filter s.arraysFree).head?

/-- R143: `PME_GRANT`. Granted requests stand in grant order. -/
def execPmeGrant (pme : Nat) (s : State) : Answer :=
  .next (match s.nextUnit pme with
    | none => s
    | some unit =>
      let mine := fun (r : PmeReq) => unit.any (fun x => x.id == r.id)
      let rest := (s.pme.filter (fun r => !(mine r) && !r.granted)).map (fun r => if r.pme = pme then { r with grants := r.grants + 1 } else r)
      let s := { s with pme := s.pme.filter (fun r => r.granted) ++ unit.map (fun r => { r with granted := true }) ++ rest }
      match unit with
      | [] => s
      | r :: _ => match s.group r.grp with
        | none => s
        | some g => s.logTask g.id.task pme 2 g.id.task (((g.inflight.find? (fun f => f.serial == r.serial)).map (fun f => f.pc.toNat)).getD 0) [])

/-- R142: the requests of a granted unit may take effect: no earlier granted command of their groups, and none that works on accumulator
words where they do, is under way. -/
def State.turnOf (s : State) (unit : List PmeReq) : Bool :=
  unit.all (fun r => r.granted && (s.pme.takeWhile (fun x => x.id != r.id)).all (fun x =>
    unit.any (fun y => y.id == x.id) || (x.grp != r.grp && !(x.pme == r.pme && x.granted && x.cmd.touchesAcc && r.cmd.touchesAcc))))

/-! ### Aligned columns (R123, R130, R131, R137) -/

/-- An element of a column: its original value, its aligned integer at an exponent, its block scale, and whether it is absorbing. -/
structure Aligned where
  orig   : Val
  n      : Int
  e      : Int
  scale  : Scale
  absorb : Bool
  deriving DecidableEq, Repr

/-- The scale 1. -/
def unitScale : Scale := .val 1 0

/-- R130: floor(log2 |x|) of a finite nonzero value. -/
def Val.lead? : Val → Option Int
  | .fin _ m e => if m = 0 then none else some (leadExp m e)
  | _ => none

/-- R130: Trunc(x * 2^k). -/
def Val.truncAt (k : Int) : Val → Int
  | .fin s m e =>
    let d := e + k
    signedOf s (if 0 ≤ d then m * 2 ^ d.toNat else m / 2 ^ (-d).toNat)
  | _ => 0

/-- R130: the exponent of the block of some positions. -/
def blockExp (vals : List Val) : Int :=
  match vals.filterMap Val.lead? with
  | [] => 0
  | x :: xs => xs.foldl max x

/-- R130: an element of a block with its aligned integer. -/
def alignOne (int : Bool) (a : Nat) (e : Int) (v : Val) (scale : Scale) (absorb : Bool) : Aligned :=
  if int then { orig := v, n := v.truncAt 0, e := 0, scale := scale, absorb := absorb }
  else { orig := v, n := v.truncAt ((a : Int) - 2 - e), e := e - a + 2, scale := scale, absorb := absorb }

/-- R130: a column of dense positions, cut into blocks; a position that `mma.sp` has dropped is none (R137). -/
def alignColumn (fmt : Nat) (blk a : Nat) (col : List (Option (Val × Bool))) (scale : Nat → Scale) : List (Option Aligned) :=
  let n := max 1 blk
  (List.range col.length).map (fun k =>
    let b := k / n
    (col.getD k none).map (fun x =>
      alignOne (integerFormat fmt) a (blockExp ((((col.drop (b * n)).take n).filterMap (fun y => y)).map (fun y => y.1))) x.1 (scale b) x.2))

/-- R123: element `k` of a lane of an operand. -/
def operandElement (fmt : BitVec 8) (regs : List Wide) (abs : List Bool) (l k : Nat) : Val × Bool :=
  let w := ((engineFormat fmt.toNat).map (fun x => x.1)).getD 8
  ((typeOf (fmt.setWidth 6)).decode (elementBits regs w l k), abs.getD (k / (32 / w)) false)

/-- R123: K of an operand's format for an instruction. -/
def formatDepth (fmt : BitVec 8) (sparse : Bool) : Nat := ((engineFormat fmt.toNat).map (fun x => depthOf x.1 sparse)).getD 0

/-- A block's scale of a lane's column (R130). -/
def scaleOf (scales : List Scale) (nb l b : Nat) : Scale := if scales.isEmpty then unitScale else scales.getD (l * nb + b) unitScale

/-- R130, R137: column `l` of the P operand of a member. -/
def Member.pColumn (m : Member) (l : Nat) : List (Option Aligned) :=
  let b := m.block
  let sparse := decide (m.op = .mmaSp)
  let depth := formatDepth b.pfmt sparse
  let dense := fun k => some (operandElement b.pfmt m.p m.pAbs l k)
  let kept := fun k => ((List.range (depth / 2)).find? (fun i => 4 * (i / 2) + sparseIndex m.p l i == k)).map (fun i =>
    operandElement b.pfmt m.p m.pAbs l i)
  alignColumn b.pfmt.toNat b.pblk b.pa ((List.range depth).map (fun k => if sparse then kept k else dense k))
    (scaleOf m.pScale (depth / max 1 b.pblk) l)

/-- R130: column `l` of the Q operand of a member. -/
def Member.qColumn (m : Member) (l : Nat) : List (Option Aligned) :=
  let b := m.block
  let depth := formatDepth b.qfmt (decide (m.op = .mmaSp))
  alignColumn b.qfmt.toNat b.qblk b.qa ((List.range depth).map (fun k => some (operandElement b.qfmt m.q m.qAbs l k)))
    (scaleOf m.qScale (depth / max 1 b.qblk) l)

/-! ### Contributions (R131, R207) -/

/-- An element is NaN or infinite. -/
def Val.isSpecial : Val → Bool
  | .fin _ _ _ => false
  | _ => true

/-- The value is a zero. -/
def Val.isZero : Val → Bool
  | .fin _ m _ => m == 0
  | _ => false

/-- A scale that is NaN, and one whose word is bad (R95). -/
def Scale.isNan : Scale → Bool
  | .nan _ => true
  | _ => false
def Scale.isBad : Scale → Bool
  | .nan b => b
  | _ => false

/-- What the terms of an element add up to so far: the exact sum, NaN and its NV, an infinity against a zero, infinite terms of either sign. -/
structure Terms where
  sum  : List (Int × Int)
  nan  : Bool
  nv   : Bool
  zero : Bool
  pos  : Bool
  neg  : Bool
  deriving DecidableEq, Repr

/-- No term. -/
def Terms.none : Terms := { sum := [], nan := false, nv := false, zero := false, pos := false, neg := false }

/-- R131: one more term. A scale of a bad word raises NV in the elements that use it (R95, R132; DEDUCED, log 18). -/
def Terms.add (t : Terms) (p q : Option Aligned) : Terms :=
  match p, q with
  | some p, some q =>
    if p.absorb || q.absorb then t
    else match p.scale, q.scale, p.orig.isSpecial || q.orig.isSpecial with
      | .val mp ep, .val mq eq, false => { t with sum := (p.n * q.n * ((mp * mq : Nat) : Int), p.e + q.e + ep + eq) :: t.sum }
      | _, _, _ =>
        if p.orig.isNan || q.orig.isNan || p.scale.isNan || q.scale.isNan then
          { t with nan := true, nv := t.nv || p.scale.isBad || q.scale.isBad || decide (p.orig.sig ||| q.orig.sig ≠ 0) }
        else if p.orig.isZero || q.orig.isZero then { t with zero := true }
        else if p.orig.negative != q.orig.negative then { t with neg := true }
        else { t with pos := true }
  | _, _ => t

/-- The exact sum of some numbers, each at an exponent. -/
def exactSum (l : List (Int × Int)) : Val :=
  let e := l.foldl (fun e x => min e x.2) 0
  let x := sumInt (l.map (fun x => x.1 * ((2 ^ (x.2 - e).toNat : Nat) : Int)))
  if x = 0 then .fin false 0 0 else finOf x e

/-- R131: the contribution of some terms, and its flags. -/
def Terms.settle (t : Terms) : Val × BitVec 6 :=
  if t.nan then (.nan false, if t.nv then flagNV else 0)
  else if t.zero then (.nan false, flagNV)
  else if t.pos && t.neg then (.nan false, flagNV)
  else if t.pos then (.inf false, 0)
  else if t.neg then (.inf true, 0)
  else (exactSum t.sum, 0)

/-- R131: the contribution of two columns. -/
def contribution (p q : List (Option Aligned)) : Val × BitVec 6 := ((p.zip q).foldl (fun t x => t.add x.1 x.2) Terms.none).settle

/-- R132: the new accumulator word, and its flags: the contribution's, the sum's and the rounding's. -/
def accumulate (b : FormatBlock) (fmode : DWord) (draw : Nat) (old : Word) (c : Val × BitVec 6) : Word × BitVec 6 :=
  if b.acc = 1 then
    match c.1 with
    | .fin s m e => accS32 fmode (old.toInt + signedOf s (m * 2 ^ e.toNat))
    | _ => (old, 0)
  else
    let x := (Fmt.f32.decode old.toNat).add b.rnd.toNat c.1
    let r := Fmt.f32.round ⟨b.rnd.toNat, false, fmodeFTZ fmode, draw⟩ x.1
    (BitVec.ofNat 32 r.1, c.2 ||| x.2 ||| r.2)

/-! ### Passes (R124, R125, R132, R138, R139) -/

/-- The members of a unit in gang order. -/
def unitMembers (unit : List PmeReq) : List (PmeReq × Member) :=
  sortBy (fun a b => decide (a.2.pos ≤ b.2.pos)) (unit.filterMap (fun r => r.member?.map (fun m => (r, m))))

/-- R132: the draw of element (i, j) of a pass. -/
def passDraw (ms : List (PmeReq × Member)) (b : FormatBlock) (i j : Nat) : Nat :=
  if b.rnd = 5 then
    match ms[i / 64]? with
    | some (_, m) => drawFor m.seed m.count (m.glid0 + BitVec.ofNat 32 (i % 64)) j
    | none => 0
  else 0

/-- A pass under way: the words that it writes and the flags that it raises, by the position of their member. -/
abbrev PassRun := State × List (Nat × BitVec 6)

/-- Adds to an accumulator word, with the flags of its owner. -/
def PassRun.put (x : PassRun) (pme row col owner : Nat) (r : Word × BitVec 6) : PassRun :=
  (x.1.setAcc pme row col r.1, if r.2 = 0 then x.2 else (owner, r.2) :: x.2)

/-- R124-R132: an `mma` or `mma.sp` pass. -/
def runMma (pme : Nat) (ms : List (PmeReq × Member)) (s : State) : PassRun :=
  let qs := ms.flatMap (fun m => allLanes.map (fun l => m.2.qColumn l))
  ms.foldl (fun (x : PassRun) m =>
    (members m.2.mask).foldl (fun (x : PassRun) l =>
      let p := m.2.pColumn l
      let i := 64 * m.2.pos + l
      (List.range qs.length).foldl (fun (x : PassRun) j =>
        x.put pme (m.2.row0 + i) (m.2.col0 + j) m.2.pos
          (accumulate m.2.block m.2.fmode (passDraw ms m.2.block i j) (x.1.accWord pme (m.2.row0 + i) (m.2.col0 + j))
            (contribution p (qs.getD j [])))) x) x) (s, [])

/-- R138, R429: an `mmd.ld` pass: RNE to `bf16`, where FTZ does not act. -/
def runMmdLd (pme : Nat) (ms : List (PmeReq × Member)) (s : State) : PassRun :=
  let t := 64 * ms.length
  ms.foldl (fun (x : PassRun) m =>
    allLanes.foldl (fun (x : PassRun) l =>
      let u := 64 * m.2.pos + l
      (List.range t).foldl (fun (x : PassRun) v =>
        let y := Fmt.f32.decode (x.1.accWord pme (m.2.row0 + u) (m.2.col0 + v)).toNat
        let r := Fmt.bf16.round ⟨0, false, false, 0⟩ y
        let fl := r.2 ||| y.sig
        ({ x.1 with resident := sparseWrite x.1.resident (residentKey pme u v) (BitVec.ofNat 16 r.1) },
          if fl = 0 then x.2 else (m.2.pos, fl) :: x.2)) x) x) (s, [])

/-- R139: an element of the resident buffer as a term: exact, with no scale. -/
def State.residentTerm (s : State) (pme u v : Nat) : Option Aligned :=
  let x := Fmt.bf16.decode (sparseRead s.resident (residentKey pme u v)).toNat
  match x with
  | .fin sg m e => some { orig := x, n := signedOf sg m, e := e, scale := unitScale, absorb := false }
  | x => some { orig := x, n := 0, e := 0, scale := unitScale, absorb := false }

/-- R139: a column of a lane that is inactive counts as zero. -/
def zeroTerm : Option Aligned := some { orig := .fin false 0 0, n := 0, e := 0, scale := unitScale, absorb := false }

/-- R139: the columns of an operand over the gang. -/
def gangColumns (ms : List (PmeReq × Member)) (f : Member → Nat → List (Option Aligned)) : List (List (Option Aligned)) :=
  ms.flatMap (fun m => allLanes.map (fun l => if m.2.mask.getLsbD l then f m.2 l else []))

/-- R139: an `mmd` pass. -/
def runMmd (pme : Nat) (ms : List (PmeReq × Member)) (s : State) : PassRun :=
  let ps := gangColumns ms Member.pColumn
  let qs := gangColumns ms Member.qColumn
  let n := ps.length
  let at_ := fun (cols : List (List (Option Aligned))) (k c : Nat) => match (cols.getD c [])[k]? with
    | some x => x
    | none => zeroTerm
  ms.foldl (fun (x : PassRun) m =>
    let depth := formatDepth m.2.block.pfmt false
    (members m.2.mask).foldl (fun (x : PassRun) l =>
      let j := 64 * m.2.pos + l
      (List.range depth).foldl (fun (x : PassRun) k =>
        let draw := passDraw ms m.2.block k j
        let w := contribution ((List.range n).map (fun u => at_ ps k u)) ((List.range n).map (fun u => s.residentTerm pme u j))
        let d := contribution ((List.range n).map (fun v => at_ qs k v)) ((List.range n).map (fun v => s.residentTerm pme j v))
        let x := x.put pme (m.2.row0 + k) (m.2.col0 + j) m.2.pos
          (accumulate m.2.block m.2.fmode draw (x.1.accWord pme (m.2.row0 + k) (m.2.col0 + j)) w)
        x.put pme (m.2.drow + k) (m.2.col0 + j) m.2.pos
          (accumulate m.2.block m.2.fmode draw (x.1.accWord pme (m.2.drow + k) (m.2.col0 + j)) d)) x) x) (s, [])

/-- The pass of a unit. -/
def runPass (pme : Nat) (ms : List (PmeReq × Member)) (s : State) : PassRun :=
  match ms with
  | [] => (s, [])
  | m :: _ =>
    match m.2.op with
      | .mma | .mmaSp => runMma pme ms s
      | .mmdLd => runMmdLd pme ms s
      | .mmd => runMmd pme ms s

/-- R115: flags of a command for a group that has not ended. -/
def State.engineFlags (s : State) (uid : Nat) (fl : DWord) : State :=
  match s.group uid with
  | none => s
  | some g => if g.ended then s else s.flagsFor uid fl

/-- A request has taken its effect. -/
def State.requestDone (s : State) (r : PmeReq) : State :=
  { s with pme := s.pme.filter (fun x => x.id != r.id) }.modGroup r.grp (fun g => g.completeFlight r.serial)

/-- R132: `PASS_COMPLETE`: a granted pass writes each updated element once. -/
def execPassComplete (pme : Nat) (req : Nat) (s : State) : Answer :=
  .next (match s.pme.find? (fun r => r.id == req && r.pme == pme) with
    | none => s
    | some r =>
      let unit := s.unitOf r
      if r.member?.isNone || !(s.turnOf unit) then s
      else
        let ms := unitMembers unit
        let x := runPass pme ms s
        let s := ms.foldl (fun (s : State) m =>
          s.engineFlags m.1.grp (((x.2.filter (fun f => f.1 == m.2.pos)).foldl (fun a f => a ||| f.2) (0#6)).setWidth 64)) x.1
        unit.foldl State.requestDone s)

/-! ### Commands of one group (R115, R119, R140) -/

/-- R115: a result of a request comes back in the lanes `m` of a `v` register: into the registers, and into the image where the handler has
them; nothing for a group that has ended. -/
def State.resultTo (s : State) (r : PmeReq) (n : Nat) (m : Lanes) (f : Group → Group) : State :=
  match s.group r.grp with
  | none => s
  | some g =>
    if g.ended then s
    else (s.modGroup r.grp (fun g => (f g).landed r.serial [n] [] (decide (m = BitVec.allOnes 64)))).mirror r.grp (.v n false) m 0

/-- R119: GUARD_OVF on the completed `pmul`: in the slot whose path holds its lanes. -/
def State.guardTrap (s : State) (uid : Nat) (f : InFlight) : State :=
  match s.group uid with
  | none => s
  | some g =>
    let p : Port := if g.slotMask .slot1 &&& f.lanes ≠ 0 ∧ g.slotMask .slot0 &&& f.lanes = 0 then .slot1 else .slot0
    if g.ended then s
    else s.visit uid p (fun s => s.hold p { cause := Cause.guardOvf, kind := 2, chain := false, pc := f.pc, mask := f.lanes,
                                            records := [(lowest f.lanes, Cause.guardOvf, 0, false)], detail := [],
                                            next := s.g.pcAt p, instr := f.pc, order := 0 })

/-- R140: a 64 x 64 block of zeros. -/
def State.zeroBlock (s : State) (pme row col : Nat) : State :=
  (List.range 64).foldl (fun (s : State) r => (List.range 64).foldl (fun (s : State) c => s.setAcc pme (row + r) (col + c) 0) s) s

/-- R140: the word that a `drain` writes at a position of its block, row by row, and its offset. -/
def drainWord (row col spad : Nat) (turned : Bool) (pos : Nat) : Nat × Nat × Nat :=
  let r := pos / 64
  let c := pos % 64
  (row + r, col + c, spad + (if turned then 256 * c + 4 * r else 256 * r + 4 * c))

/-- R140, R142, R217, R222: a `drain` writes its next word, a release write at `.t`: the entries it is ordered after have performed, and its
group's leaf buffer is empty. -/
def State.drainStep (s : State) (r : PmeReq) (row col spad : Nat) (turned : Bool) (pos : Nat) (after : List Nat) : State :=
  match s.group r.grp with
  | none => s
  | some g =>
    if decide (4096 ≤ pos) || g.outq.any (fun e => after.contains e.id) || !(s.released g 1) then s
    else
      let w := drainWord row col spad turned pos
      let t := s.bufferWrite g r.serial (.spad g.id.team w.2.2) 0 4 ((s.accWord r.pme w.1 w.2.1).zeroExtend 64) false (some (g.tag 1))
      { t with pme := updateWhere (fun x => x.id == r.id) (fun x => { x with cmd := .drain row col spad turned (pos + 1) after }) t.pme }

/-- R140: the effect of a command. -/
def State.engineEffect (s : State) (r : PmeReq) (f : InFlight) : State :=
  match r.cmd with
  | .result regs fl govf trap _ =>
    let s := regs.foldl (fun (s : State) x => s.resultTo r x.1 (BitVec.allOnes 64) (fun g => g.setV x.1 x.2)) s
    let s := s.engineFlags r.grp fl
    let ended := ((s.group r.grp).map (fun g => g.ended)).getD true
    let s := if govf && !trap && !ended then s.stickyFor r.grp stickyGOVF else s
    if trap then s.guardTrap r.grp f else s
  | .acz row col => s.zeroBlock r.pme row col
  | .acrd d row col mask => s.resultTo r d mask (fun g => g.setLanes d mask (fun l => s.accWord r.pme (row + l) col))
  | .acwr row col mask x => (members mask).foldl (fun (s : State) l => s.setAcc r.pme (row + l) col (lane x l)) s
  | .drain .. => s
  | .pass .. => s

/-- R115, R140: `ENGINE_COMMAND_COMPLETE`: a command of one group takes its effect. -/
def execEngineCommandComplete (pme : Nat) (req : Nat) (s : State) : Answer :=
  .next (match s.pme.find? (fun r => r.id == req && r.pme == pme) with
    | none => s
    | some r =>
      match (s.group r.grp).bind (fun g => g.inflight.find? (fun f => f.serial == r.serial)) with
      | none => if s.turnOf [r] then s.requestDone r else s
      | some f =>
        let waits := match r.cmd with
          | .drain _ _ _ _ pos _ => decide (pos < 4096)
          | .pass .. => true
          | _ => false
        if waits || !(s.turnOf [r]) then s else (s.engineEffect r f).requestDone r)

/-! ### Engine accesses (R180, R213) -/

/-- R213: `ENGINE_ACCESS`: an engine performs the next read or write of a command: a copy engine that of a dispatched copy, in the order in
which its commands arrived (R18), or a PME that of a granted `drain`. -/
def execEngineAccess (cmd : Nat) (s : State) : Answer :=
  .next (match s.copies.find? (fun c => c.id == cmd) with
    | some c => s.copyAccess c
    | none => match s.pme.find? (fun r => r.id == cmd) with
      | some r => match r.cmd with
        | .drain row col spad turned pos after => if s.turnOf [r] then s.drainStep r row col spad turned pos after else s
        | _ => s
      | none => s)

end Sys2Proof.Machine
end

