-- ==== Sys2Proof/Machine/Migration.lean ====
section
/-! DEFINITION. The migration engines: taking a command, and the switch-over (R18, R21, R167, R170, R184-R186, R281, R288, R336). -/

namespace Sys2Proof.Machine

/-- R163: the address of the page-table entry that maps a page of a size, whatever it holds. -/
def entryFrom (m : Mem) (va size : Nat) : List (Nat × Nat × Nat) → Nat → Option Nat
  | [], _ => none
  | (lo, n, _) :: rest, table =>
    let entry := table + 8 * (va / 2 ^ lo % 2 ^ n)
    let pte := Memory.readNat m entry 8
    if 2 ^ lo = size then some entry
    else if bitAt pte 0 && !(bitAt pte 1) then entryFrom m va size rest (bitsOf pte 51 8 * 256)
    else none

/-- The place where a page lies on NVMe. -/
def State.nvmePlace (s : State) (root va : Nat) : Option Nat :=
  (s.nvmeAt.find? (fun x => x.1 == root && x.2.1 == va)).map (fun x => x.2.2)

/-- R184: MIG is set in a leaf entry, and no translation of the page stays in a cache. -/
def State.openMig (s : State) (pte : Nat) : State :=
  { s with mem := Memory.writeNat s.mem pte 8 (Nat.lor (Memory.readNat s.mem pte 8) 32) }.dropTlb (fun e => e.leaf.pte == pte)

/-- R184, R288: an engine takes a command, for a page that lies in memory or on NVMe, or for a block of an attention cache. -/
def State.takeMigration (s : State) (queue : BitVec 5) (cmd : MigCommand) : State :=
  let va := cmd.va.toNat
  let m : Migration := { id := s.nextUid, queue := queue, cmd := cmd, pte := 0, oldPhys := 0, oldCode := 0, window := true, bitmap := 0, copying := none }
  let add := fun (m : Migration) => { s with migs := s.migs ++ [m], nextUid := s.nextUid + 1 }
  let newOk := decide (cmd.size ∈ [65536, 2 ^ 21, 2 ^ 30]) && decide (va % cmd.size = 0) && decide (va < 2 ^ 56) &&
    (decide (cmd.newTier = 3) || (decide (cmd.newPhys % cmd.size = 0) && decide (tierOf cmd.newPhys = some cmd.newTier)))
  if cmd.block.isSome then (if 2 ≤ cmd.newTier.toNat then add m else s)
  else match entryFrom s.mem va cmd.size walkLevels cmd.root with
    | none => s
    | some pte =>
      if !newOk || (s.regionAt cmd.root va).isSome then s
      else match walk s.mem cmd.root va, s.nvmePlace cmd.root va with
        | .ok l, _ =>
          if l.size ≠ cmd.size then s
          else
            let window := decide (2 ≤ cmd.newTier.toNat) || (match tierOf l.page with
              | some t => decide (2 ≤ t.toNat)
              | none => true)
            let s := add { m with pte := pte, oldPhys := l.page, oldCode := l.code, window := window }
            if window then s.openMig pte else s
        | .error _, some place => if cmd.newTier = 3 then s else add { m with pte := pte, oldPhys := place }
        | .error _, none => s

/-- R185: the next step of a non-blocking move: the copy of a line begins, or it ends and the bitmap marks the line. -/
def State.copyLine (s : State) (m : Migration) : State :=
  let set := fun (f : Migration → Migration) (s : State) => { s with migs := updateWhere (fun x => x.id == m.id) f s.migs }
  match m.copying with
  | none => match (List.range m.lines).find? (fun i => !(m.bitmap.testBit i)) with
    | some i => set (fun x => { x with copying := some i }) s
    | none => s
  | some i =>
    let s := (List.range 4).foldl (fun (s : State) n =>
      let off := 128 * i + 32 * n
      let bad := s.poisoned (.mem (m.oldKey off))
      let s := s.carry m off
      if bad then s.memoryError 0 3 (m.cmd.va.toNat + off) (m.oldPhys + off) (m.oldKey off) else s) s
    set (fun x => { x with copying := none, bitmap := Nat.lor x.bitmap (2 ^ i) }) s

/-- R184, R185: `MIGRATION_COMMAND`: an engine takes a command, or goes on with the one of its queue that copies line by line. A move from or to
tier 2 or 3 opens a write-protect window: it sets MIG, which every translation sees. A command whose page is not there to move, or whose new
page does not fit, moves nothing (log 30). -/
def execMigrationCommand (queue : BitVec 5) (cmd : MigCommand) (s : State) : Answer :=
  .next (match s.migs.find? (fun m => m.cmd.root == cmd.root && decide (m.cmd.va = cmd.va)) with
    | some m => if decide (m.queue = queue) && decide (m.cmd = cmd) && !m.window then s.copyLine m else s
    | none => s.takeMigration queue cmd)

/-- The migration brings a page in from NVMe. -/
def State.fromNvme (s : State) (m : Migration) : Bool := (s.nvmePlace m.cmd.root m.cmd.va.toNat).isSome

/-- The storage key lies in the new page. -/
def Migration.inNew (m : Migration) (k : Nat) : Bool :=
  let pa := physicalOf m.cmd.newCode k
  decide (m.cmd.newPhys ≤ pa) && decide (pa < m.cmd.newPhys + m.cmd.size)

/-- Where a storage key lies after the move. -/
def Migration.moved (m : Migration) (k : Nat) : Nat :=
  match m.offsetOf k with
  | some o => m.newKey o
  | none => k

/-- Where a location lies after the move. -/
def Migration.movedLoc (m : Migration) : Loc → Loc
  | .mem k => .mem (m.moved k)
  | l => l

/-- R170, R186, R281: the sectors of the old page in a list of them, as sectors of the new page. -/
def Migration.sectors (m : Migration) (l : List Nat) : List Nat :=
  l.filter (fun x => !(m.inNew (32 * x))) ++ (l.filter (fun x => (m.offsetOf (32 * x)).isSome)).map (fun x => m.moved (32 * x) / 32)

/-- R170: the halos that the sectors of the old page carry, at the sectors of the new page. -/
def Migration.movedHalos (m : Migration) (l : List (Nat × BitVec 16)) : List (Nat × BitVec 16) :=
  l.filter (fun x => !(m.inNew (32 * x.1))) ++ (l.filter (fun x => (m.offsetOf (32 * x.1)).isSome)).map (fun x => (m.moved (32 * x.1) / 32, x.2))

/-- R186, R336: device memory, or what a fetch may still give of it, with the bytes of the old page in the new one. -/
def Migration.movedMem (m : Migration) (c : Mem) : Mem :=
  (c.filterMap (fun x => (m.offsetOf x.1).map (fun o => (o, x.2)))).foldl (fun (mm : Mem) x => Memory.write mm (m.newKey x.1) x.2)
    (c.filter (fun x => !(m.inNew x.1)))

/-- The NVMe tier with the bytes of the old page, which lies in memory, in the new one. -/
def Migration.movedOut (m : Migration) (c nvme : Mem) : Mem :=
  (c.filterMap (fun x => (m.offsetOf x.1).map (fun o => (o, x.2)))).foldl (fun (mm : Mem) x => Memory.write mm (m.cmd.newPhys + x.1) x.2)
    (nvme.filter (fun x => !(decide (m.cmd.newPhys ≤ x.1) && decide (x.1 < m.cmd.newPhys + m.cmd.size))))

/-- Device memory with the bytes of the old page, which lies on NVMe, in the new one. -/
def Migration.movedIn (m : Migration) (nvme c : Mem) : Mem :=
  (nvme.filter (fun x => decide (m.oldPhys ≤ x.1) && decide (x.1 < m.oldPhys + m.cmd.size))).foldl
    (fun (mm : Mem) x => Memory.write mm (m.newKey (x.1 - m.oldPhys)) x.2) (c.filter (fun x => !(m.inNew x.1)))

/-- The sector of a location after the move. -/
def Migration.movedSector (m : Migration) : Loc → Loc
  | .mem k => .mem (m.moved (32 * k) / 32)
  | l => l

/-- R186: what is under way to the old page goes on to the new one. -/
def State.redirect (s : State) (m : Migration) : State :=
  let bufs := s.bufs.map (fun (b : BufWrite) => { b with loc := m.movedLoc b.loc })
  let tags := s.homeTags.map (fun (x : Loc × Tag) => (m.movedLoc x.1, x.2))
  let debug := s.recorders.map (fun (d : DebugBlock) => { d with
    touched := d.touched.map (fun (x : Loc × List Nat) => (m.movedSector x.1, x.2)), saved := d.saved.map m.movedSector })
  let t : State := { s with bufs := bufs, homeTags := tags, recorders := debug }
  t.mapGroups (fun (g : Group) => { g with outq := g.outq.map (fun (e : Entry) => { e with loc := m.movedLoc e.loc }) })

/-- R186, R336: the halfwords that a fetch may still give as they stood at a launch move as the page does. -/
def State.mapCode (s : State) (f : Task → Task) : State := { s with tasks := s.tasks.map f }

/-- R281: sectors of the old page post a record; their state moves with them. -/
def State.migrationErrors (s : State) (m : Migration) (type : BitVec 8) (l : List Nat) : State :=
  l.foldl (fun (s : State) x => match m.offsetOf (32 * x) with
    | some o => s.memoryError 0 type (m.cmd.va.toNat + o) (m.oldPhys + o) (m.oldKey o)
    | none => s) s

/-- R171, R281: the sectors of the old page that an engine cannot read. -/
def State.unreadable (s : State) (m : Migration) : List Nat :=
  ((s.poison ++ s.failing).filter (fun x => (m.offsetOf (32 * x)).isSome)).dedup

/-- R186: the contents move between two places in memory. Of a non-blocking move they stand in the new page already, and stay as they are. -/
def State.moveMemory (s : State) (m : Migration) : State :=
  let t : State := { s with
    mem := m.movedMem s.mem
    poison := m.sectors s.poison
    failing := m.sectors s.failing
    halos := m.movedHalos s.halos }
  let t := (t.redirect m).mapCode (fun t => { t with code := m.movedMem t.code })
  if m.window then t.migrationErrors m 3 (s.unreadable m) else t

/-- R170: a transfer out to NVMe from a physical address has completed, with HALO_ERR or without. -/
def State.leftFor (s : State) (pa : Nat) (haloErr : Bool) : State :=
  { s with outward := s.outward ++ [{ way := .nvme, addr := pa, bytes := [], haloErr := haloErr }] }

/-- The contents go out to NVMe. -/
def State.moveOut (s : State) (m : Migration) : State :=
  { s.mapCode (fun t => { t with codeNvme := m.movedOut t.code t.codeNvme }) with
    nvme := m.movedOut s.mem s.nvme
    nvmeAt := s.nvmeAt ++ [(m.cmd.root, m.cmd.va.toNat, m.cmd.newPhys)] }

/-- R170: the contents come in from NVMe, with halos made anew. -/
def State.moveIn (s : State) (m : Migration) : State :=
  { s.mapCode (fun t => { t with code := m.movedIn t.codeNvme t.code }) with
    mem := m.movedIn s.nvme s.mem
    poison := s.poison.filter (fun x => !(m.inNew (32 * x)))
    failing := s.failing.filter (fun x => !(m.inNew (32 * x)))
    halos := s.halos.filter (fun x => !(m.inNew (32 * x.1)))
    nvmeAt := s.nvmeAt.filter (fun x => !(x.1 == m.cmd.root && x.2.1 == m.cmd.va.toNat)) }

/-- R164, R184: a leaf entry for the new page, with the permissions of the old one and MIG clear; a page on NVMe is not mapped. -/
def newLeaf (old : Nat) (c : MigCommand) : Nat :=
  let bits := bitsOf old 4 1 * 2
  if c.newTier = 3 then bits else c.newCode.toNat * 2 ^ 61 + c.newPhys / 256 * 256 + bits + 1

/-- R184 steps 4 and 5: the new entry, out of every translation cache, and the writes that wait go on. A group that has been parked as a whole
has been switched at both slots (R79). -/
def State.switchLeaf (s : State) (m : Migration) (pte : Nat) : State :=
  let s := { s with
    mem := Memory.writeNat s.mem m.pte 8 pte
    migs := s.migs.filter (fun x => x.id != m.id) }.dropTlb (fun e => e.leaf.pte == m.pte)
  let wake := fun (w : Wait) => if w = .migrating then .running else w
  s.mapGroups (fun (g : Group) =>
    let g := if g.slot0.wait = .migrating ∨ g.slot1.wait = .migrating then s.switchOut g else g
    { g with
      slot0 := { g.slot0 with wait := wake g.slot0.wait }
      slot1 := { g.slot1 with wait := wake g.slot1.wait }
      setWait := wake g.setWait })

/-- Writes to the old page of a move out to NVMe that have still to reach it. -/
def State.pageUnsettled (s : State) (m : Migration) : Bool :=
  let hit := fun (l : Loc) => match l with
    | .mem k => (m.offsetOf k).isSome
    | _ => false
  s.groups.any (fun g => g.outq.any (fun e => hit e.loc)) || s.bufs.any (fun b => hit b.loc)

/-- Writes to a block that have still to reach it. -/
def State.blockUnsettled (s : State) (b : TrackedBlock) : Bool :=
  s.groups.any (fun g => g.outq.any (fun e => (s.offsetIn b e.loc).isSome)) || s.bufs.any (fun w => (s.offsetIn b w.loc).isSome)

/-- R170, R281: the sectors of a block whose halo fails as it leaves the module: a record each. -/
def State.haloErrors (root : Nat) (from_ : Nat × Bool) (was : State) (s : State) (i : Nat) : State :=
  match if from_.2 then none else (was.locAt root (from_.1 + 32 * i)) with
  | none => s
  | some l => match was.keyOf l with
    | some k => if was.haloBad (sectorOf k) then s.memoryError 0 2 (from_.1 + 32 * i) (was.sectorPa 0 (from_.1 + 32 * i) l) k else s
    | none => s

/-- R170, R281: a sector of a block cannot leave the module: its halo fails, or it cannot be read. -/
def State.sectorStops (s : State) (root : Nat) (from_ : Nat × Bool) (i : Nat) : Bool :=
  match if from_.2 then none else (s.locAt root (from_.1 + 32 * i)) with
  | none => false
  | some l => s.poisoned l || (s.keyOf l).any (fun k => s.haloBad (sectorOf k))

/-- R170: a halo mismatch stops a block that leaves the module. -/
def State.blockMismatch (s : State) (root : Nat) (from_ : Nat × Bool) (sectors : List Nat) : Bool :=
  sectors.any (fun i => (if from_.2 then none else (s.locAt root (from_.1 + 32 * i)).bind s.keyOf).any (fun k => s.haloBad (sectorOf k)))

/-- R288, R297: the bytes of a block that a command moves: out to NVMe or to their place in memory, with what is under way to them. `none` where a
page that they are written to moves or has to be allocated first (R184, R185, R201). -/
def State.carryBlock (s : State) (base e : Nat) (sectors : List Nat) (block : TrackedBlock) (to_ : Nat × Bool) : Option State :=
  let root := block.root
  if to_.2 then
    some (sectors.foldl (fun (t : State) i => { t with nvme := Memory.writeBytes t.nvme (to_.1 + 32 * i) (t.blockSector root base e i) }) s)
  else
    (foldWaiting (fun (t : State) i => t.moveSector root base e to_.1 i) sectors s).map (fun t =>
      (sectors.foldl (State.kvReadError (0, 0) root (block.va, block.nvme) s) t).redirectBlock block to_.1)

/-- R288, R297: a block of an attention cache moves, and the entry that names it gets its new TIER, ADDR and CSIZE. Where a page that it writes
moves or has to be allocated first, or where writes to it have still to reach it before it goes out to NVMe, it waits. A halo mismatch or a
sector that cannot be read stops a move out to NVMe, as for a page (R170, R281). -/
def State.moveBlock (s : State) (m : Migration) (base : Nat) (csize : BitVec 7) : State :=
  let root := m.cmd.root
  let done := { s with migs := s.migs.filter (fun x => x.id != m.id) }
  match s.kvHeader root base, s.kvRead root m.cmd.va.toNat 8 with
  | .ok h, .ok e =>
    let new := m.cmd.newPhys % 2 ^ 48 * 65536 + m.cmd.newTier.toNat * 16384 + csize.toNat * 128 + e % 128
    let from_ := kvPlace base e
    let to_ := kvPlace base new
    let block : TrackedBlock := { root := root, va := from_.1, nvme := from_.2, fmt := h.fmt, dim := h.dim }
    let sectors := List.range (h.blockSize / 32)
    let left := fun (t : State) (haloErr : Bool) => if to_.2 && !from_.2 then
      t.leftFor (((s.locAt root from_.1).map (s.sectorPa 0 from_.1)).getD 0) haloErr else t
    if kvValid e = false then done
    else if to_.2 && s.blockUnsettled block then s
    else if to_.2 && sectors.any (s.sectorStops root from_) then
      left (sectors.foldl (State.kvReadError (0, 0) root from_ s) (sectors.foldl (State.haloErrors root from_ s) done))
        (s.blockMismatch root from_ sectors)
    else match done.carryBlock base e sectors block to_ with
      | none => s
      | some t =>
        let tracked := t.tracked.map (fun b => if b.at_ root from_ then { b with va := to_.1, nvme := to_.2 } else b)
        match { t with tracked := tracked }.kvWrite (0, 0) root m.cmd.va.toNat 8 new with
        | .ok u => left u false
        | .error c => if c = kvPending ∨ c = Cause.shadeFull then s else done
  | _, _ => done

/-- R184, R185, R288: `MIGRATION_SWITCHOVER`. A non-blocking move waits until the bitmap is full. A halo mismatch or a poisoned sector stops a
move out to NVMe, and the page stays where it is; the transfer completes, after a mismatch with HALO_ERR (R170, R281). -/
def execMigrationSwitchover (mig : Nat) (s : State) : Answer :=
  .next (match s.migs.find? (fun m => m.id == mig) with
    | none => s
    | some m => match m.cmd.block with
      | some b => s.moveBlock m b.1 b.2
      | none =>
        let pte := Memory.readNat s.mem m.pte 8
        if s.fromNvme m then (s.moveIn m).switchLeaf m (newLeaf pte m.cmd)
        else if m.cmd.newTier = 3 then
          if s.pageUnsettled m then s
          else
            let here := fun (x : Nat) => (m.offsetOf (32 * x)).isSome
            let bad := (s.halos.map Prod.fst).filter (fun x => here x && s.haloBad x)
            let poisoned := s.unreadable m
            let s := s.leftFor m.oldPhys (!bad.isEmpty)
            if bad.isEmpty && poisoned.isEmpty then (s.moveOut m).switchLeaf m (newLeaf pte m.cmd)
            else ((s.migrationErrors m 2 bad).migrationErrors m 3 poisoned).switchLeaf m (pte - (if bitAt pte 5 then 32 else 0))
        else if !m.window && !m.full then s
        else (s.moveMemory m).switchLeaf m (newLeaf pte m.cmd))

end Sys2Proof.Machine
end

