-- ==== Sys2Proof/Machine/Host.lean ====
section
/-! DEFINITION. The host link: queue registers, rings, submissions and completions, and the commands that touch no other module
(R5, R13, R48, R166, R190, R246-R249, R255, R270-R273, R278, R279, R282, R284, R304, R305, R321-R326, R330, R333, R483-R485). -/

namespace Sys2Proof.Machine

/-! ### Writes of the device at home -/

/-- R184, R185, R196, R201: a write of the device in an address space, byte by byte, with the tag of a synchronising write or none; `none` where one
of its bytes has to wait for a migration or an allocation. Bytes that do not translate, or that find no free page, are not written (DESIGN
CHOICE, log 110). -/
def State.tryPut (s : State) (root va : Nat) (tag : Option Tag) (bs : List Byte) : Option State :=
  foldWaiting (fun (t : State) (x : Nat × Byte) => t.tryWrite root (va + x.1) 1 x.2.toNat tag) ((List.range bs.length).zip bs) s

/-- R184, R185, R197: a write of the device has to wait. -/
def State.putWaits (s : State) (root va : Nat) (bs : List Byte) : Bool := (s.tryPut root va none bs).isNone

/-- R196: a write of the device, which does not have to wait. -/
def State.devicePut (s : State) (root va : Nat) (tag : Option Tag) (bs : List Byte) : State := (s.tryPut root va tag bs).getD s

/-- R245: several such writes, one after another. -/
def State.tryPuts (s : State) (root : Nat) (tag : Option Tag) (l : List (Nat × List Byte)) : Option State :=
  foldWaiting (fun (t : State) (x : Nat × List Byte) => t.tryPut root x.1 tag x.2) l s

/-- R167: some bytes lie within the memory of the physical map. -/
def inMemory (pa n : Nat) : Bool := (tierOf pa).isSome && decide (tierOf (pa + n - 1) = tierOf pa)

/-- Bytes of the device, by physical address, as a number. -/
def State.physical (s : State) (pa n : Nat) : Nat := Memory.readNat s.mem pa n

/-! ### Rings (R321-R325) -/

/-- A queue pair. -/
def State.pair (s : State) (n : BitVec 4) : QueuePair := (s.pairs.find? (fun p => p.num == n.toNat)).getD (QueuePair.reset n.toNat)

/-- Changes a queue pair. -/
def State.modPair (s : State) (n : BitVec 4) (f : QueuePair → QueuePair) : State :=
  { s with pairs := updateWhere (fun p => p.num == n.toNat) f s.pairs }

/-- The entries of the rings of a pair. -/
def QueuePair.sqSize (p : QueuePair) : Nat := 2 ^ p.sq.toNat
def QueuePair.cqSize (p : QueuePair) : Nat := 2 ^ p.cq.toNat

/-- R322: a submission entry. -/
structure Submission where
  seq      : BitVec 32
  op       : BitVec 8
  arg0     : Nat
  arg1     : Nat
  reserved : Bool
  deriving DecidableEq, Repr

/-- R322: a submission from its 64 bytes. -/
def submissionOf (x : Nat) : Submission where
  seq := BitVec.ofNat 32 (bitsOf x 31 0)
  op := BitVec.ofNat 8 (bitsOf x 39 32)
  arg0 := bitsOf x 127 64
  arg1 := bitsOf x 191 128
  reserved := decide (bitsOf x 63 40 ≠ 0) || decide (bitsOf x 511 192 ≠ 0)

/-- R323, R327: the entry that the device takes next from a pair, if it takes one. -/
def State.submission (s : State) (n : BitVec 4) : Option Submission :=
  let p := s.pair n
  if s.bootStage ≠ 3 ∨ s.stopped = true ∨ p.stall = true ∨ p.take = p.tail.toNat % p.sqSize then none
  else some (submissionOf (Memory.readNat s.hostMem (p.sqb.toNat + 64 * p.take) 64))

/-- R323: an entry is consumed. -/
def State.consume (s : State) (n : BitVec 4) : State :=
  s.modPair n (fun p => { p with sub := p.sub + 1, take := (p.take + 1) % p.sqSize })

/-- R323: an entry with another SEQ stops consumption. -/
def State.stallPair (s : State) (n : BitVec 4) (e : Submission) : State :=
  (s.modPair n (fun p => { p with stall := true })).complete { pair := n.toNat, result := 0, op := e.op, status := 1, sseq := e.seq }

/-- How a command ends: refused, with no effect or with a record that says so (R245); done, with its RESULT; consumed, its completion to come later; or still to be consumed. -/
inductive Ran where
  | refused
  | refusedIn (s : State)
  | done (s : State) (result : BitVec 48)
  | later (s : State)
  | waits (s : State)

/-- R322, R323, R325: a command of an OP at the head of a pair. -/
def State.command (n : BitVec 4) (ops : BitVec 8 → Bool) (f : State → Submission → Ran) (s : State) : State :=
  match s.submission n with
  | none => s
  | some e =>
    if !(ops e.op) then s
    else if e.seq ≠ (s.pair n).sub then s.stallPair n e
    else
      let done := fun (s : State) (status : BitVec 8) (result : BitVec 48) =>
        (s.consume n).complete { pair := n.toNat, result := result, op := e.op, status := status, sseq := e.seq }
      if e.reserved then done s 3 0
      else match f s e with
        | .refused => done s 3 0
        | .refusedIn t => done t 3 0
        | .done t r => done t 0 r
        | .later t => t.consume n
        | .waits t => t

/-- A command that has an OP of its own. -/
def opIs (x : Nat) : BitVec 8 → Bool := fun op => op.toNat == x

/-- R322: `BAD_OP`. -/
def execBadOp (pair : BitVec 4) (s : State) : Answer :=
  .next (match s.submission pair with
    | none => s
    | some e =>
      if 1 ≤ e.op.toNat ∧ e.op.toNat ≤ 0x11 then s
      else if e.seq ≠ (s.pair pair).sub then s.stallPair pair e
      else (s.consume pair).complete { pair := pair.toNat, result := 0, op := e.op, status := 2, sseq := e.seq })

/-- R324: a completion entry as a number. -/
def Completion.entry (c : Completion) (cseq : BitVec 32) : Nat :=
  cseq.toNat + c.sseq.toNat * 2 ^ 32 + c.status.toNat * 2 ^ 64 + c.op.toNat * 2 ^ 72 + c.result.toNat * 2 ^ 80

/-- R325: `COMPLETION_WRITE`: the oldest completion of a pair is written, where the ring has room. -/
def execCompletionWrite (pair : BitVec 4) (s : State) : Answer :=
  .next (match s.completions.find? (fun c => c.pair == pair.toNat) with
    | none => s
    | some c =>
      let p := s.pair pair
      if p.cqSize ≤ p.held then s
      else
        { s with
          hostMem := Memory.writeNat s.hostMem (p.cqb.toNat + 16 * p.put) 16 (c.entry p.cmp)
          completions := s.completions.erase c }.modPair pair (fun p =>
            { p with cmp := p.cmp + 1, put := (p.put + 1) % p.cqSize, held := p.held + 1 }))

/-! ### Registers (R5, R321, R323, R325) -/

/-- R321, R323: a write of HQTAIL. -/
def State.writeTail (s : State) (pair : BitVec 4) (value : BitVec 64) : State :=
  if s.bootStage ≠ 3 then s
  else s.modPair pair (fun p =>
    let tail := value.setWidth 12
    if value.getLsbD 63 then { p with tail := tail, stall := false, take := tail.toNat % p.sqSize } else { p with tail := tail })

/-- R323: `HQTAIL_DOORBELL`. -/
def execHqtailDoorbell (pair : BitVec 4) (value : BitVec 64) (s : State) : Answer := .next (s.writeTail pair value)

/-- R323: `HQTAIL_RESYNC`. -/
def execHqtailResync (pair : BitVec 4) (value : BitVec 64) (s : State) : Answer := .next (s.writeTail pair value)

/-- R325: `HQHEAD_WRITE`: the host passes the entries up to an index. -/
def execHqheadWrite (pair : BitVec 4) (value : BitVec 64) (s : State) : Answer :=
  .next (s.modPair pair (fun p =>
    let n := (value.toNat % 2 ^ 12 + 4096 - p.head.toNat) % p.cqSize
    { p with head := value.setWidth 12, held := p.held - n }))

/-- R5, R321: `REGISTER_WRITE`: a register that has no event of its own; a write of an RO register and of reserved bits is ignored. -/
def execRegisterWrite (addr : Nat) (value : BitVec 64) (s : State) : Answer :=
  .next (
    let off := addr - 0x8_0000_0000_0000
    let pair := BitVec.ofNat 4 (off / 256)
    if addr < 0x8_0000_0000_0000 ∨ 0x1000 ≤ off then s
    else match off % 256 with
      | 0x00 => s.modPair pair (fun p => { p with sqb := value })
      | 0x08 => s.modPair pair (fun p => { p with cqb := value })
      | 0x10 => s.modPair pair (fun p => { p with sq := value.extractLsb' 0 4, cq := value.extractLsb' 4 4 })
      | 0x18 => s.writeTail pair value
      | 0x20 => match execHqheadWrite pair value s with
        | .next t => t
        | _ => s
      | _ => s)

/-- R13, R329: FAILDIE of BOOTFAIL. -/
def failDie (f : BitVec 18) : Nat :=
  let n := ((List.range 16).filter (fun i => f.getLsbD i)).length
  (if f.getLsbD 17 then 128 else 0) + (if f.getLsbD 16 then 64 else 0) + (if n = 0 then 0 else 32) + n

/-- R331: MONSUM of a die. -/
def DieCtl.monsum (d : DieCtl) : Nat :=
  d.tmax.toNat + d.vmin.toNat * 2 ^ 24 + d.thr.toNat * 2 ^ 36 + d.proc.toNat * 2 ^ 40 + d.rdevt.toNat * 2 ^ 48

/-- R5, R321, R329, R331: what the host reads of a device register. -/
def State.registerRead (s : State) (addr : Nat) : Nat :=
  let off := addr - 0x8_0000_0000_0000
  if addr < 0x8_0000_0000_0000 then 0
  else if off < 0x1000 then
    let p := s.pair (BitVec.ofNat 4 (off / 256))
    match off % 256 with
    | 0x00 => p.sqb.toNat
    | 0x08 => p.cqb.toNat
    | 0x10 => p.cq.toNat * 16 + p.sq.toNat
    | 0x18 => p.tail.toNat
    | 0x20 => p.head.toNat
    | 0x28 => p.cmp.toNat * 2 ^ 32 + p.sub.toNat
    | 0x30 => if p.stall then 1 else 0
    | _ => 0
  else if off = 0xFFFF_0000 then s.bootStage.toNat + s.bootReason.toNat * 256 + failDie s.bootFail * 65536
  else if off = 0xFFFF_0008 then s.bootFail.toNat
  else if 0xFFFF_1000 ≤ off ∧ off < 0xFFFF_1080 then ((s.dieCtl (BitVec.ofNat 4 ((off - 0xFFFF_1000) / 8))).map DieCtl.monsum).getD 0
  else 0

/-! ### LAUNCH, CANCEL (R247, R255) -/

/-- R50, R247, R322: `LAUNCH_COMMAND`. The regions of the objects that are loaded for its address space stand in the table from then on. -/
def execLaunchCommand (pair : BitVec 4) (s : State) : Answer :=
  .next (s.command pair (opIs 1) (fun s e =>
    if e.arg0 % 128 ≠ 0 ∨ inMemory e.arg0 128 = false ∨ e.arg1 ≠ 0 then .refused
    else match launchRecOf (s.physical e.arg0 128) with
      | none => .refused
      | some r => match s.kernelAt [] r.root r.krec with
        | none => .refused
        | some k =>
          if r.root = 0 ∨ fallbackOk r k = false then .refused
          else
            let s := s.loadFor r.root
            let now := s.queueOpen r.queue
            let x := s.enterTask (if now then .queued else .waiting)
              { newTask r.queue none r.prio k r.root r.nteams (r.argsFor k) r.seed r.done r.debug r.region s.nextUid with
                hostWait := if now then none else some (pair.toNat, e.seq.toNat) }
            if now then .done x.1 (x.2.zeroExtend 48) else .later x.1))

/-- R255, R322: `CANCEL_COMMAND`: it completes when reclamation has finished. -/
def execCancelCommand (pair : BitVec 4) (s : State) : Answer :=
  .next (s.command pair (opIs 2) (fun s e =>
    let id := BitVec.ofNat 40 e.arg0
    if e.arg1 ≠ 0 then .refused
    else if 2 ^ 40 ≤ e.arg0 ∨ s.inTree id = false then .done s 0
    else
      let r := s.beginCancel id
      .later { r.1 with cancels := r.1.cancels ++ [{ task := id, count := r.2, pair := pair.toNat, sseq := e.seq }] }))

/-! ### PREEMPT, RESUME (R278, R279) -/

/-- R252: a task that was launched from a bin, and is no grid. -/
def State.isBinTask (s : State) (id : BitVec 40) : Bool := (s.task id).any (fun t => t.ofBin)

/-- The groups of a grid that have not ended. -/
def State.liveGroups (s : State) (id : BitVec 40) : List Group :=
  s.groups.filter (fun g => decide (g.id.task = id) && decide (g.id.kind = .ordinary) && !g.ended)

/-- R79, R278, R279: `PREEMPT`: the groups of a grid stop, their slots switched. -/
def execPreempt (pair : BitVec 4) (s : State) : Answer :=
  .next (s.command pair (opIs 3) (fun s e =>
    let id := BitVec.ofNat 40 e.arg0
    match s.task id with
    | none => .refused
    | some t =>
      let n := (s.liveGroups id).length
      let word := if n = 0 then 2 else 1 + n % 2 ^ 32 * 256
      if 2 ^ 40 ≤ e.arg0 ∨ s.isBinTask id = true ∨ 2 ^ 56 ≤ e.arg1 then .refused
      else if s.deviceWaits t.root e.arg1 word then .waits s
      else
        let s := s.mapGroups (fun (g : Group) => if g.id.task = id ∧ g.id.kind = .ordinary ∧ g.ended = false then
          { s.switchOut g with stopped := true } else g)
        let s := s.modTask id (fun t => { t with preempted := !t.stage.stopping })
        .done (s.deviceWrite t.root e.arg1 word) 0))

/-- R279: `RESUME`: the saved teams are then re-admitted as their cores have room. A grid that has completed or is cancelled is pre-empted no
longer. -/
def execResume (pair : BitVec 4) (s : State) : Answer :=
  .next (s.command pair (opIs 4) (fun s e =>
    match s.task (BitVec.ofNat 40 e.arg0) with
    | none => .refused
    | some t =>
      if 2 ^ 40 ≤ e.arg0 ∨ t.preempted = false ∨ t.stage.stopping = true ∨ e.arg1 ≠ 0 then .refused
      else .done (s.modTask t.id (fun t => { t with preempted := false })) 0))

/-! ### Translations, pools and regions (R166, R483, R485) -/

/-- R166, R322: `INVALIDATE`. -/
def execInvalidate (pair : BitVec 4) (s : State) : Answer :=
  .next (s.command pair (opIs 5) (fun s e =>
    .done (s.dropTlb (fun x => x.root == e.arg0 && (e.arg1 == 0 || (decide (x.base ≤ e.arg1) && decide (e.arg1 < x.base + x.leaf.size))))) 0))

/-- R485: `POOL_ADD`. -/
def execPoolAdd (pair : BitVec 4) (s : State) : Answer :=
  .next (s.command pair (opIs 6) (fun s e =>
    let num := BitVec.ofNat 8 (bitsOf e.arg0 7 0)
    let code := BitVec.ofNat 3 (bitsOf e.arg0 10 8)
    let pool : Pool := (s.pools.find? (fun p => decide (p.num = num))).getD { num := num, code := none, free := [] }
    let hbm := decide (tierOf e.arg1 = some 0)
    if e.arg0 / 2048 ≠ 0 ∨ e.arg1 % 65536 ≠ 0 ∨ inMemory e.arg1 65536 = false ∨ (hbm && pool.code.any (fun c => decide (c ≠ code))) = true then
      .refused
    else
      let q : Pool := { pool with code := if hbm then some code else pool.code, free := pool.free ++ [e.arg1] }
      .done { s with pools := q :: s.pools.filter (fun p => !(decide (p.num = num))) } 0))

/-- R483: `REGION_DEL`: the region leaves the table at once; the command is consumed once every access through it has performed. -/
def execRegionDel (pair : BitVec 4) (s : State) : Answer :=
  .next (s.command pair (opIs 7) (fun s e =>
    let mine := some pair.toNat
    match s.regions.find? (fun r => r.root == e.arg0 && r.base == e.arg1 && (!r.gone || r.deleter == mine)) with
    | none => .refused
    | some r =>
      let t := if r.gone then s else s.closeRegion r
      if t.regionBusy r then
        .waits { t with regions := updateWhere (fun q => q.same r && q.gone && q.deleter.isNone) (fun q => { q with deleter := mine }) t.regions }
      else .done (t.freeRegion { r with gone := true }) 0))

/-! ### Courts (R304, R305) -/

/-- R304: `COURT_START`. -/
def execCourtStart (pair : BitVec 4) (s : State) : Answer :=
  .next (s.command pair (opIs 8) (fun s e =>
    let x := s.physical e.arg0 64
    let die := BitVec.ofNat 4 (bitsOf x 87 84)
    let mbox := BitVec.ofNat 8 (bitsOf x 79 72)
    let mem := bitsOf x 223 192
    let used := ((s.mailboxes.filter (fun m => decide (m.die = die))).filterMap (fun m => m.court)).foldl (fun n c => n + c.mem) 0
    match s.courtObjs.find? (fun o => o.va.toNat == bitsOf x 63 0) with
    | none => .refused
    | some o =>
      if inMemory e.arg0 64 = false ∨ e.arg1 ≠ 0 ∨ bitsOf x 511 256 + bitsOf x 127 90 + bitsOf x 83 80 + bitsOf x 71 64 ≠ 0 ∨
          bitsOf x 89 88 = 3 ∨ (s.mailbox die mbox).court.isSome = true ∨ mem = 0 ∨ mem % 65536 ≠ 0 ∨ 16 * 2 ^ 20 < mem ∨ mem < o.extent ∨
          60 * 2 ^ 20 < used + mem then .refused
      else
        let c : Court :=
          { obj := o, rule := BitVec.ofNat 2 (bitsOf x 89 88), mem := mem, cycles := bitsOf x 191 128, time := bitsOf x 255 224,
            x := Vector.replicate 32 0, f := Vector.replicate 32 0, fcsr := 0, pc := 0, resv := none, ram := [], running := false,
            used := 0, hart := none }
        .done (s.modMailbox die mbox (fun m => { m with court := some c.atEntry, ended := true, opened := none, action := [], obsBuf := [] })) 0))

/-- R305: `COURT_STOP`. -/
def execCourtStop (pair : BitVec 4) (s : State) : Answer :=
  .next (s.command pair (opIs 0x10) (fun s e =>
    let die := BitVec.ofNat 4 e.arg0
    let mbox := BitVec.ofNat 8 e.arg1
    if 16 ≤ e.arg0 ∨ 256 ≤ e.arg1 ∨ (s.mailbox die mbox).court.isNone = true then .refused
    else .done (s.modMailbox die mbox (fun m => { m.close with gen := 0, obs := [], court := none, ended := false, action := [], obsBuf := [] })) 0))

/-! ### Handlers, context pool, error rings, attestation (R270, R273, R322, R330, R333, R484) -/

/-- R322: the handler record of a core. -/
def State.setHandler (s : State) (core : BitVec 10) (root : Nat) (handler mcheck : DWord) : State :=
  if (s.coreCtl core).isSome then s.modCore core (fun c => { c with root := root, handler := handler, mcheck := mcheck })
  else { s with cores := s.cores ++ [{ core := core, root := root, handler := handler, mcheck := mcheck, notices := [], halted := false,
                                       mcheckCause := none, mcheckGroup := none }] }

/-- R322: `HANDLER_SET`. -/
def execHandlerSet (pair : BitVec 4) (s : State) : Answer :=
  .next (s.command pair (opIs 0xB) (fun s e =>
    let x := s.physical e.arg0 32
    if inMemory e.arg0 32 = false ∨ bitsOf x 255 192 ≠ 0 ∨ (1024 ≤ e.arg1 ∧ e.arg1 ≠ 0xFFFF) then .refused
    else
      let cores := if e.arg1 = 0xFFFF then List.range 1024 else [e.arg1]
      .done (cores.foldl (fun (s : State) c => s.setHandler (BitVec.ofNat 10 c) (bitsOf x 63 0) (BitVec.ofNat 64 (bitsOf x 127 64))
        (BitVec.ofNat 64 (bitsOf x 191 128))) s) 0))

/-- R484: `CTX_POOL`. -/
def execCtxPool (pair : BitVec 4) (s : State) : Answer :=
  .next (s.command pair (opIs 0x11) (fun s e =>
    let x := s.physical e.arg0 64
    let p : CtxPool := { pbase := bitsOf x 63 0, vbase := BitVec.ofNat 64 (bitsOf x 127 64), nimg := bitsOf x 191 160, nsave := bitsOf x 223 192 }
    if inMemory e.arg0 64 = false ∨ e.arg1 ≠ 0 ∨ bitsOf x 511 224 + bitsOf x 159 128 ≠ 0 ∨ p.nimg = 0 ∨ p.vbase.toNat % 65536 ≠ 0 ∨
        p.pbase % 65536 ≠ 0 ∨ (tierOf p.pbase).any (fun t => decide (t.toNat < 2)) = false ∨
        s.groups.any (fun g => decide (g.id.kind = .ordinary) && !g.ended) = true then .refused
    else .done { s with ctxPool := some p, images := [], saves := [] } 0))

/-- A die's record as it stands at module reset. -/
def DieCtl.reset (die : BitVec 4) : DieCtl := { die := die, ring := none, rdevt := 0, proc := 0, thr := 0, vmin := 0, tmax := 0 }

/-- Changes the record of a die. -/
def State.modDie (s : State) (die : BitVec 4) (f : DieCtl → DieCtl) : State :=
  if (s.dieCtl die).isSome then { s with dies := updateWhere (fun d => decide (d.die = die)) f s.dies }
  else { s with dies := s.dies ++ [f (DieCtl.reset die)] }

/-- R333: `ERR_RING`. -/
def execErrRing (pair : BitVec 4) (s : State) : Answer :=
  .next (s.command pair (opIs 0xD) (fun s e =>
    if 16 ≤ e.arg0 ∨ e.arg1 % 4096 ≠ 0 ∨ inMemory e.arg1 (64 + 32 * 1024) = false then .refused
    else .done ((s.writePhysical e.arg1 (toBytes 64 0)).modDie (BitVec.ofNat 4 e.arg0) (fun d => { d with ring := some e.arg1 })) 0))

/-- R330: the bytes of the attestation log. -/
def logBytes (l : List (BitVec 32 × BitVec 384)) : List Byte :=
  ((List.range l.length).zip l).flatMap (fun x => toBytes 4 x.1 ++ toBytes 4 x.2.1.toNat ++ toBytes 8 0 ++ toBytes 48 x.2.2.toNat)

/-- R330: the quote for a nonce. -/
def State.quote (s : State) (nonce : Nat) : List Byte :=
  let body := toBytes 8 nonce ++ logBytes s.attestLog
  let d := Config.sha384 body
  body ++ (Config.rsaSign d).toList ++ (Config.slhSign d).toList

/-- R330: `ATTEST`. -/
def execAttest (pair : BitVec 4) (s : State) : Answer :=
  .next (s.command pair (opIs 0xE) (fun s e =>
    if inMemory e.arg1 (s.quote e.arg0).length = false then .refused else .done (s.writePhysical e.arg1 (s.quote e.arg0)) 0))

/-! ### DEBUG_ATTACH (R282, R284) -/

/-- R284: a debug block from its 64 bytes. A checkpoint is due at once, since the area begins with one (log 32). -/
def debugBlockOf (x : Nat) (task : BitVec 40) : Option DebugBlock :=
  let ckpt := bitsOf x 255 192
  let cksz := bitsOf x 191 160
  let period := bitsOf x 159 128
  let logn := bitsOf x 95 64
  let log := bitsOf x 63 0
  if bitsOf x 511 256 + bitsOf x 127 96 = 0 ∧ ckpt % 4096 = 0 ∧ cksz ≠ 0 ∧ 10 ≤ period ∧ period ≤ 100000 ∧ 2 ^ 10 ≤ logn ∧ logn ≤ 2 ^ 24 ∧
      2 ^ Nat.log2 logn = logn ∧ log % 4096 = 0 then
    some { task := task, ckpt := ckpt, cksz := cksz, period := period, logn := logn, log := log, order := 0, inLog := 0, number := 0, used := 0,
           touched := [], saved := [], due := true, full := false, recording := true }
  else none

/-- R284: `DEBUG_ATTACH`. -/
def execDebugAttach (pair : BitVec 4) (s : State) : Answer :=
  .next (s.command pair (opIs 0xC) (fun s e =>
    let id := BitVec.ofNat 40 e.arg0
    match s.task id, debugBlockOf (s.physical e.arg1 64) id with
    | some t, some d =>
      if 2 ^ 40 ≤ e.arg0 ∨ t.debug = false ∨ inMemory e.arg1 64 = false then .refused
      else .done { s with recorders := s.recorders.filter (fun x => !(decide (x.task = id))) ++ [d] } 0
    | _, _ => .refused))

/-! ### Checkpoints (R282, R284) -/

/-- Clears a range of bytes. -/
def Memory.clear (m : Mem) (a n : Nat) : Mem := m.filter (fun c => !(decide (a ≤ c.1) && decide (c.1 < a + n)))

/-- R284: the PMEs of the clusters of some groups. -/
def pmesOf (gs : List Group) : List Nat := sortBy (fun a b => decide (a ≤ b)) (gs.map (fun g => clusterOf g.id.core)).dedup

/-- R284: the groups of a checkpoint, in order. -/
def State.savedGroups (s : State) (task : BitVec 40) : List Group :=
  sortBy (fun a b => decide (a.id.task.toNat * 32 + a.id.gslot.toNat ≤ b.id.task.toNat * 32 + b.id.gslot.toNat)) (s.liveGroups task)

/-- R284: the accumulator words of a PME, into a checkpoint. -/
def State.saveAcc (s : State) (m : Mem) (at_ pme : Nat) : Mem :=
  (s.acc.filter (fun x => x.1 / 2 ^ 20 == pme)).foldl (fun m x => Memory.writeNat m (at_ + 8 + 4 * (x.1 % 2 ^ 20)) 4 x.2.toNat)
    (Memory.writeNat m at_ 8 pme)

/-- R278: the bytes of a team's window, on its core or in its save area. -/
def State.windowBytesOf (s : State) (t : Team) : Mem :=
  match t.saved, s.ctxPool with
  | some j, some p => Memory.writeBytes [] 0 (Memory.readBytes s.mem (p.saveAt j) t.size)
  | _, _ => t.spad

/-- R284: the team of a checkpoint: its TEAMID.TEAM, its size and its bytes. -/
def State.saveTeam (s : State) (m : Mem) (at_ : Nat) (t : Team) : Mem :=
  (s.windowBytesOf t).foldl (fun m c => Memory.write m (at_ + 16 + c.1) c.2) (Memory.writeNat (Memory.writeNat m at_ 8 t.teamId.toNat) (at_ + 8) 8 t.size)

/-- R284: the size of a checkpoint without saved sectors. -/
def checkpointSize (groups : Nat) (teams : List Team) (pmes : Nat) : Nat :=
  64 + 48 * 1024 * groups + teams.foldl (fun n t => n + 16 + t.size) 0 + pmes * (8 + 4 * 2 ^ 20)

/-- R284: writes a checkpoint of a grid into its area. -/
def State.saveGrid (s : State) (d : DebugBlock) : State :=
  let gs := s.savedGroups d.task
  let teams := s.teams.filter (fun t => decide (t.task = d.task))
  let pmes := pmesOf gs
  let m := Memory.clear s.mem d.ckpt (checkpointSize gs.length teams pmes.length)
  let m := Memory.writeBytes m d.ckpt (toBytes 8 d.number ++ toBytes 4 gs.length ++ toBytes 4 teams.length ++ toBytes 4 pmes.length)
  let x := gs.foldl (fun (x : Mem × Nat) g =>
    ((g.imageParts (s.published g) none).foldl (fun m part => Memory.writeBytes m (x.2 + part.1) part.2) x.1, x.2 + 48 * 1024)) (m, d.ckpt + 64)
  let x := teams.foldl (fun (x : Mem × Nat) t => (s.saveTeam x.1 x.2 t, x.2 + 16 + t.size)) x
  let x := pmes.foldl (fun (x : Mem × Nat) p => (s.saveAcc x.1 x.2 p, x.2 + 8 + 4 * 2 ^ 20)) x
  { s with mem := x.1 }.modDebug d.task (fun d => { d with number := d.number + 1, used := x.2 - d.ckpt, touched := [], saved := [], due := false, full := false })

/-- R282: every group of a grid has stopped at an instruction boundary, and all that its groups, those too that have ended, and the handler runs
for them have under way has performed. -/
def State.gridStill (s : State) (task : BitVec 40) : Bool :=
  (s.liveGroups task).all (fun g => !(s.inChain g .slot0) && !(s.inChain g .slot1) && !(s.inHandler g)) &&
    (s.groups.filter (fun g => decide (g.id.task = task) || s.teams.any (fun t => decide (t.task = task) && t.uid == g.id.team))).all (fun g =>
      s.drained g.id.uid)

/-- R282, R284: `CHECKPOINT`: it becomes due, and is taken once the grid stands still. Where the area cannot hold it, recording stops. -/
def execCheckpoint (task : BitVec 40) (s : State) : Answer :=
  .next (match s.recorders.find? (fun d => decide (d.task = task)) with
    | none => s
    | some d =>
      if !d.recording then s
      else if !d.due then s.modDebug task (fun d => { d with due := true })
      else if !(s.gridStill task) then s
      else
        let gs := s.savedGroups task
        let size := checkpointSize gs.length (s.teams.filter (fun t => decide (t.task = task))) (pmesOf gs).length
        let fits := decide (size ≤ d.cksz * 4096)
        let s := s.modDebug task (fun d => { d with inLog := if d.logn ≤ d.inLog then 0 else d.inLog })
        match s.recorders.find? (fun d => decide (d.task = task)) with
        | none => s
        | some d =>
          let s := s.logIn d 0 6 false false 0 (if fits then d.number else 2 ^ 56 - 1) []
          if fits then s.saveGrid d else s.modDebug task (fun d => { d with recording := false, due := false }))

end Sys2Proof.Machine
end

