-- ==== Sys2Proof/Machine/Fabric.lean ====
section
/-! DEFINITION. Reduction windows and ring collectives, as one member module takes part in them (R15, R211, R225, R236-R245). -/

namespace Sys2Proof.Machine

/-! ### Windows (R236-R240, R245) -/

/-- R236: a window from its 64-byte descriptor. -/
def windowOf (x id : Nat) : Option Window :=
  let w : Window :=
    { id := id, base := bitsOf x 63 0, size := bitsOf x 127 64, op := BitVec.ofNat 4 (bitsOf x 183 180), home := bitsOf x 171 160,
      first := bitsOf x 139 128, nmem := bitsOf x 156 144, status := BitVec.ofNat 64 (bitsOf x 255 192), absent := [], epochs := 0,
      partialEpoch := false, closed := false, arrived := [], away := [] }
  if bitsOf x 511 256 + bitsOf x 191 184 + bitsOf x 179 172 + bitsOf x 159 157 + bitsOf x 143 140 = 0 ∧ w.op.toNat ≤ 4 ∧
      w.first ≤ w.home ∧ w.home < w.first + w.nmem ∧ 2 ≤ w.nmem ∧ w.first + w.nmem ≤ 4096 ∧ w.base % 256 = 0 ∧ w.size % 256 = 0 ∧
      w.size ≤ 2 ^ 30 ∧ w.status.toNat % 64 = 0 then some w else none

/-- R236: every page of a window is mapped in an address space: by a leaf entry or by a shade region. -/
def State.windowMapped (s : State) (root base size : Nat) : Bool :=
  (List.range ((base + size + 65535) / 65536 - base / 65536)).all (fun i =>
    let va := (base / 65536 + i) * 65536
    decide (va < 2 ^ 56) && ((s.regionAt root va).isSome || (match walk s.mem root va with
      | .ok _ => true
      | .error _ => false)))

/-- R236: the ranges of two windows share a byte. -/
def Window.overlaps (v w : Window) : Bool :=
  v.size != 0 && w.size != 0 && decide (v.base < w.base + w.size) && decide (w.base < v.base + v.size)

/-- R245: the tag of the device's write of a status record: an acquire at `.m` or wider is matched with it. -/
def recordTag : Tag := { grp := 0, team := 0, core := 0, outside := true, scope := 4 }

/-- R245: the bytes of a status record. -/
def statusBytes (state nabs epochs : Nat) : List Byte := toBytes 4 state ++ toBytes 4 nabs ++ toBytes 4 epochs ++ toBytes 52 0

/-- R245: writes a status record. -/
def State.writeRecord (s : State) (space va state nabs epochs : Nat) : State :=
  s.devicePut space va (some recordTag) (statusBytes state nabs epochs)

/-- R245: the record of a command whose descriptor is refused, STATE 3, at the STATUS that it names; the command has no other effect (log 25). -/
def State.abortRecord (s : State) (pa space status : Nat) : State :=
  if inMemory pa 64 && decide (status % 64 = 0) then s.writeRecord space status 3 0 0 else s

/-- R197, R245: how a command whose descriptor is refused ends: with its record, which may have to wait for its page. -/
def State.aborted (s : State) (pa space status : Nat) : Ran :=
  if inMemory pa 64 && decide (status % 64 = 0) && s.putWaits space status (statusBytes 3 0 0) then .waits s
  else .refusedIn (s.abortRecord pa space status)

/-- R236: `WINDOW_OPEN`. -/
def execWindowOpen (pair : BitVec 4) (s : State) : Answer :=
  .next (s.command pair (opIs 9) (fun s e =>
    let x := s.physical e.arg0 64
    let space := Config.windowSpace (bitsOf x 63 0)
    let aborted := s.aborted e.arg0 space (bitsOf x 255 192)
    match windowOf x s.nextUid with
    | none => aborted
    | some w =>
      if inMemory e.arg0 64 = false ∨ e.arg1 ≠ 0 ∨ 16 ≤ s.windows.length ∨ s.windows.any (fun v => v.overlaps w) = true ∨
          s.windows.any (fun v => v.first != w.first || v.nmem != w.nmem) = true ∨ s.windowMapped space w.base w.size = false then aborted
      else if s.putWaits space w.status.toNat (statusBytes 0 0 0) then .waits s
      else .done ({ s with windows := s.windows ++ [w], nextUid := s.nextUid + 1 }.writeRecord space w.status.toNat 0 0 0) 0))

/-- R237: the bytes of an element of a window. -/
def Window.element (w : Window) : Nat := if w.op = 1#4 then 2 else 4

/-- R238: the operation of a window. -/
def Window.combine (w : Window) (a b : Nat) : Nat :=
  match w.op.toNat with
  | 0 => (Fmt.f32.round (Round.rne false) ((Fmt.f32.decode a).add 0 (Fmt.f32.decode b)).1).1
  | 1 => (Fmt.bf16.round (Round.rne false) ((Fmt.bf16.decode a).add 0 (Fmt.bf16.decode b)).1).1
  | 2 => (a + b) % 2 ^ 32
  | 3 => Fmt.f32.codeOf (Val.minmax true (Fmt.f32.decode a) (Fmt.f32.decode b)).1
  | _ => if sextOf a 32 < sextOf b 32 then b else a

/-- Changes a window. -/
def State.modWindow (s : State) (id : Nat) (f : Window → Window) : State :=
  { s with windows := updateWhere (fun w => w.id == id) f s.windows }

/-- R237, R239: a contribution of another member reaches its epoch: one of a member that is absent is discarded, and one that comes before the
member's previous one has merged waits with its member. -/
def Window.arrive (me : Nat) (off : Nat) (w : Window) (x : Nat × BitVec 32) : Window :=
  if w.first ≤ x.1 ∧ x.1 < w.first + w.nmem ∧ x.1 ≠ me ∧ w.absent.contains x.1 = false ∧ w.arrived.any (fun y => y.1 == off && y.2.1 == x.1) = false then
    { w with arrived := w.arrived ++ [(off, x.1, x.2)] }
  else w

/-- R238: the contributions that an epoch holds, in ascending module order. -/
def State.epochInputs (s : State) (w : Window) (own : Option Contribution) (off : Nat) : List (Nat × Nat) :=
  let mine := (own.map (fun c => (s.module.toNat, c.data.toNat))).toList
  let others := (w.arrived.filter (fun x => x.1 == off)).map (fun x => (x.2.1, x.2.2.toNat))
  sortBy (fun a b => decide (a.1 ≤ b.1)) (mine ++ others)

/-- R225, R237, R238: the merged value becomes the home value of an address: in this module's memory where it is HOME, and at HOME where that is
another module. It carries no tag, whatever the contributions were (DESIGN CHOICE, log 14). `none` while the page waits to be allocated or moves. A
value whose HOME address does not translate, or finds no page, is dropped, and its epoch counts as merged (DESIGN CHOICE, log 94). -/
def State.homeMerge (s : State) (w : Window) (own : Option Contribution) (off v : Nat) : Option State :=
  let n := w.element
  if w.home ≠ s.module.toNat then
    some (s.modWindow w.id (fun w => { w with
      away := ((List.range n).zip (toBytes n v)).map (fun x => (off + x.1, x.2)) ++ w.away.filter (fun x => decide (x.1 < off) || decide (off + n ≤ x.1)) }))
  else
    let space := match own with
      | some c => c.root
      | none => Config.windowSpace w.base
    match s.translate none space ((w.base + off : Nat) : Int) .read with
    | .error _ => some s
    | .ok x =>
      let l := x.loc
      if s.moveHolds x then none
      else match s.preparePage l n v with
      | .waits _ => none
      | .refused t => some t
      | .granted t =>
        let dark := match l with
          | .region r a => (t.darkPage r a).isSome
          | _ => false
        if dark then some t
        else if t.writeHeld l n v then none
        else some (((t.observe none l (w.base + off) 0 true false).homeArrive ((own.map (fun (c : Contribution) => c.grp)).getD 0) l (w.base + off) n v false).setTags l n none)

/-- R238-R240: an epoch of an address merges once every member that is not absent has contributed, or, `all` being closed, with what it holds. -/
def State.mergeEpoch (s : State) (w : Window) (off : Nat) (all : Bool) : State :=
  let own := s.contribs.find? (fun c => c.base == w.base && c.off == off)
  let xs := s.epochInputs w own off
  let has := fun m => xs.any (fun x => x.1 == m)
  let members := (List.range w.nmem).map (w.first + ·)
  if off % w.element ≠ 0 ∨ w.size ≤ off ∨ !(all || members.all (fun m => has m || w.absent.contains m)) then s
  else match xs with
    | [] => s
    | x :: rest =>
      let v := rest.foldl (fun a y => w.combine a y.2) (x.2 % 256 ^ w.element)
      match s.homeMerge w own off v with
      | none => s
      | some t =>
        { t with contribs := t.contribs.filter (fun c => !(c.base == w.base && c.off == off)) }.modWindow w.id (fun w => { w with
          epochs := w.epochs + 1
          partialEpoch := w.partialEpoch || !(members.all has)
          arrived := w.arrived.filter (fun x => x.1 != off) })

/-- R238, R239: `EPOCH_MERGE`: contributions of other members, `remote`, reach an epoch, which merges if it is complete. -/
def execEpochMerge (base : BitVec 64) (off : Nat) (remote : List (Nat × BitVec 32)) (s : State) : Answer :=
  .next (match s.windows.find? (fun w => w.base == base.toNat && decide (off < w.size)) with
    | none => s
    | some w =>
      let w' := remote.foldl (Window.arrive s.module.toNat off) w
      (s.modWindow w.id (fun _ => w')).mergeEpoch w' off false)

/-- R240: the addresses of a window with an epoch that holds contributions. -/
def State.openEpochs (s : State) (w : Window) : List Nat :=
  ((s.contribs.filter (fun c => c.base == w.base && decide (c.off < w.size))).map (fun c => c.off) ++ w.arrived.map (fun x => x.1)).dedup

/-- R240: every member has closed: what has not merged merges, the status record is written, and the window is gone. -/
def State.finishWindow (s : State) (w : Window) : State :=
  let s := (s.openEpochs w).foldl (fun (s : State) off => match s.windows.find? (fun v => v.id == w.id) with
    | some w => s.mergeEpoch w off true
    | none => s) s
  match s.windows.find? (fun v => v.id == w.id) with
  | none => s
  | some w =>
    let state := if w.absent.isEmpty && !w.partialEpoch then 1 else 2
    let space := Config.windowSpace w.base
    if !(s.openEpochs w).isEmpty || s.putWaits space w.status.toNat (statusBytes state w.absent.length w.epochs) then s
    else
      let s := s.writeRecord space w.status.toNat state w.absent.length w.epochs
      { s with windows := s.windows.filter (fun v => v.id != w.id) }

/-- R240, R322: `WINDOW_CLOSE`: the command closes this member's window; one of a window that this member has closed already is refused (DESIGN
CHOICE, log 93). A further occurrence, with no such command at the head of the pair, is the last member's close reaching this one: of the
closed windows, the one at the place that the number of the pair names (log 28). -/
def execWindowClose (pair : BitVec 4) (s : State) : Answer :=
  .next (
    let waiting := match s.submission pair with
      | some e => e.op.toNat == 0xF
      | none => false
    if waiting then
      s.command pair (opIs 0xF) (fun s e =>
        match s.windows.find? (fun w => w.base == e.arg0 && !w.closed) with
        | none => .refused
        | some w => if e.arg1 ≠ 0 then .refused else .done (s.modWindow w.id (fun w => { w with closed := true })) 0)
    else
      let closed := s.windows.filter (fun w => w.closed)
      match closed[pair.toNat % closed.length]? with
      | some w => s.finishWindow w
      | none => s)

/-! ### Liveness (R239) -/

/-- R239: `LIVENESS_FLIT`: a flit that only the other modules see. -/
def execLivenessFlit (_link : Nat) (s : State) : Answer := .next s

/-- R239: `MEMBER_ABSENT`: a member is absent for the rest of the windows and the collectives that it takes part in. This module's own absence is
for the others to act on, and changes nothing here (DESIGN CHOICE, log 107). -/
def execMemberAbsent (member : Nat) (s : State) : Answer :=
  .next (
    let add := fun (first nmem : Nat) (l : List Nat) =>
      if first ≤ member ∧ member < first + nmem ∧ member ≠ s.module.toNat ∧ l.contains member = false then l ++ [member] else l
    { s with
      windows := s.windows.map (fun (w : Window) => { w with absent := add w.first w.nmem w.absent })
      colls := s.colls.map (fun (c : Collective) => { c with absent := add c.first c.nmem c.absent }) })

/-! ### Ring collectives (R241-R245) -/

/-- R241: a collective from its 64-byte descriptor. -/
def collectiveOf (x id : Nat) : Option Collective :=
  let c : Collective :=
    { id := id, kind := BitVec.ofNat 4 (bitsOf x 391 388), rnd := BitVec.ofNat 3 (bitsOf x 386 384), nmem := bitsOf x 380 368,
      first := bitsOf x 363 352, chunk := bitsOf x 351 320, seed := BitVec.ofNat 64 (bitsOf x 319 256),
      maskVa := BitVec.ofNat 64 (bitsOf x 255 192), status := BitVec.ofNat 64 (bitsOf x 191 128), dst := BitVec.ofNat 64 (bitsOf x 127 64),
      src := BitVec.ofNat 64 (bitsOf x 63 0), absent := [], written := [] }
  if bitsOf x 511 392 + bitsOf x 387 387 + bitsOf x 383 381 + bitsOf x 367 364 = 0 ∧ c.kind.toNat ≤ 1 ∧ (c.rnd = 0 ∨ c.rnd = 5) ∧ 2 ≤ c.nmem ∧
      c.nmem ≤ 4096 ∧ c.first + c.nmem ≤ 4096 ∧ c.chunk % 128 = 0 ∧ c.chunk ≤ 2 ^ 24 ∧ c.maskVa.toNat % 8 = 0 ∧
      c.status.toNat % 64 = 0 then some c else none

/-- R241: the members that are absent from the start, since their copy of the descriptor differs from this module's (log 74). -/
def Collective.differing (me : Nat) (c : Collective) : List Nat :=
  ((List.range c.nmem).map (c.first + ·)).filter (fun m => m != me && Config.copyDiffers c.id m)

/-- R241: `COLLECTIVE`. -/
def execCollective (pair : BitVec 4) (s : State) : Answer :=
  .next (s.command pair (opIs 0xA) (fun s e =>
    let x := s.physical e.arg0 64
    match collectiveOf x s.nextUid with
    | none => s.aborted e.arg0 (Config.windowSpace (bitsOf x 63 0)) (bitsOf x 191 128)
    | some c => if inMemory e.arg0 64 = false ∨ e.arg1 ≠ 0 then
        s.aborted e.arg0 (Config.windowSpace (bitsOf x 63 0)) (bitsOf x 191 128)
      else .done { s with colls := s.colls ++ [{ c with absent := c.differing s.module.toNat }], nextUid := s.nextUid + 1 } 0))

/-- R242, R243: the live members on the path of a chunk, its end last. -/
def Collective.route (c : Collective) (chunk : Nat) : List Nat :=
  ((List.range c.nmem).map (fun i => c.first + (chunk + 1 + i) % c.nmem)).filter (fun m => !(c.absent.contains m))

/-- R242: the draw of an element at a member. -/
def Collective.draw (c : Collective) (e chunk m : Nat) : Nat :=
  if c.rnd = 5 then
    (philoxGo 10 (c.seed.setWidth 32) (c.seed.extractLsb' 32 32) (BitVec.ofNat 32 e, BitVec.ofNat 32 chunk, BitVec.ofNat 32 m, 0)).1.toNat
  else 0

/-- R242: the `f32` element of this member, from its four bytes, which may lie on two pages. A byte whose address does not translate is 0 (DESIGN
CHOICE, log 109). -/
def State.sourceElement (s : State) (c : Collective) (chunk e : Nat) : Val :=
  let va := c.src.toNat + 4 * (c.chunk * chunk + e)
  Fmt.f32.decode (ofBytes ((List.range 4).map (fun i => match s.locAt (Config.windowSpace c.src.toNat) (va + i) with
    | some l => s.homeByte l
    | none => 0)))

/-- R242: an element as it leaves this member: the first one rounds its own, a later one adds its own and rounds once. -/
def State.hop (s : State) (c : Collective) (chunk e : Nat) (old : Option (BitVec 16)) : BitVec 16 :=
  let x := s.sourceElement c chunk e
  let y := match old with
    | none => x
    | some t => ((Fmt.bf16.decode t.toNat).add 0 x).1
  BitVec.ofNat 16 (Fmt.bf16.round ⟨c.rnd.toNat, false, false, c.draw e chunk s.module.toNat⟩ y).1

/-- R242, R244: where a chunk and its contributor mask go, with their bytes. -/
def Collective.writes (c : Collective) (chunk : Nat) (data : List (BitVec 16)) (by_ : List Nat) : List (Nat × List Byte) :=
  let words := (c.nmem + 63) / 64
  [(c.dst.toNat + (if c.kind = 1#4 then 2 * c.chunk * chunk else 0), data.flatMap (fun x => toBytes 2 x.toNat)),
   (c.maskVa.toNat + 8 * words * chunk, toBytes (8 * words) (packBits (fun p => by_.contains (c.first + p)) (64 * words)))]

/-- R242, R244: writes a chunk and its contributor mask; `none` where a byte of them has to wait. -/
def State.writeChunk (s : State) (c : Collective) (chunk : Nat) (data : List (BitVec 16)) (by_ : List Nat) : Option State :=
  (s.tryPuts (Config.windowSpace c.src.toNat) none (c.writes chunk data by_)).map (fun s =>
    { s with colls := updateWhere (fun x => x.id == c.id) (fun x => { x with written := x.written ++ [(chunk, by_)] }) s.colls })

/-- R242, R243: the next live member of the ring after this one. -/
def Collective.nextLive (me : Nat) (c : Collective) : Option Nat :=
  ((List.range c.nmem).map (fun i => c.first + (me - c.first + 1 + i) % c.nmem)).find? (fun m => !(c.absent.contains m))

/-- R242: a chunk goes on to the next live member, unless that one is where it started to go round, its owner. -/
def State.passOn (s : State) (c : Collective) (chunk : Nat) (data : List (BitVec 16)) (by_ : List Nat) (start : Option Nat) : State :=
  match c.nextLive s.module.toNat with
  | some m => if some m = start ∨ m = s.module.toNat then s
    else { s with passed := s.passed ++ [{ coll := c.id, chunk := chunk, next := m, data := data, contributed := by_ }] }
  | none => s

/-- R242, R243: the chunks that this member writes. -/
def State.chunksOf (s : State) (c : Collective) : List Nat :=
  (List.range c.nmem).filter (fun k => decide (c.kind = 1#4) || decide ((c.route k).getLast? = some s.module.toNat))

/-- R242: this member has done its part for a chunk: it has passed it on, or has written it. -/
def State.handled (s : State) (c : Collective) (chunk : Nat) : Bool :=
  c.written.any (fun w => w.1 == chunk) || s.passed.any (fun p => p.coll == c.id && p.chunk == chunk)

/-- R245: the collective ends: its record is written once this member has done its part for every chunk, as the members now are. -/
def State.endCollective (s : State) (c : Collective) : State :=
  let space := Config.windowSpace c.src.toNat
  let state := if c.absent.isEmpty then 1 else 2
  let due := (List.range c.nmem).filter (fun k => (c.route k).contains s.module.toNat)
  if due.all (s.handled c) && (s.chunksOf c).all (fun k => c.written.any (fun w => w.1 == k)) &&
      !(s.putWaits space c.status.toNat (statusBytes state c.absent.length 0)) then
    { s with colls := s.colls.filter (fun x => x.id != c.id) }.writeRecord space c.status.toNat state c.absent.length 0
  else s

/-- R242, R243: a finished chunk is written and, in ALL_REDUCE, passed on until it has gone round the ring. -/
def State.finishChunk (s : State) (c : Collective) (chunk : Nat) (data : List (BitVec 16)) (by_ : List Nat) : Option State :=
  (s.writeChunk c chunk data by_).map (fun t => if c.kind = 1#4 then t.passOn c chunk data by_ (some (c.first + chunk)) else t)

/-- R243: a chunk that this member has passed on, to a member which has become absent since and did not pass it further
(DEDUCED, log 91). -/
def State.stranded (s : State) (c : Collective) (chunk : Nat) (data : List (BitVec 16)) (by_ : List Nat) : Option Passed :=
  s.passed.find? (fun p => p.coll == c.id && p.chunk == chunk && c.absent.contains p.next && decide (p.data = data) && decide (p.contributed = by_))

/-- R243: such a chunk goes to the next live member instead, unchanged; where none is left on its path it ends here. -/
def State.resend (s : State) (c : Collective) (chunk : Nat) (p : Passed) : State :=
  let t := { s with passed := s.passed.filter (fun q => decide (q ≠ p)) }
  if c.written.any (fun w => w.1 == chunk) then t.passOn c chunk p.data p.contributed (some (c.first + chunk))
  else if decide ((c.route chunk).getLast? = some s.module.toNat) then (t.finishChunk c chunk p.data p.contributed).getD s
  else t.passOn c chunk p.data p.contributed none

/-- R242-R245: `CHUNK_HOP`: a chunk reaches this member, empty where this member is the first on its path. It adds and rounds its elements and
passes the chunk on; at the end of the path, and where a finished chunk comes round (ALL_REDUCE), it writes the chunk. A chunk that comes back from
an absent member goes on from here (R243), and the number behind the last chunk's tells that the collective has ended (log 28). A chunk is taken as
it comes, with what an absent member has added to it (DESIGN CHOICE, log 108). -/
def execChunkHop (coll : Nat) (chunk : Nat) (data : List (BitVec 16)) (contributed : List Nat) (s : State) : Answer :=
  .next (match s.colls.find? (fun c => c.id == coll) with
    | none => s
    | some c =>
      let me := s.module.toNat
      let route := c.route chunk
      let last := decide (route.getLast? = some me)
      let mine := contributed.contains me
      let round := mine && decide (c.kind = 1#4)
      let out := if mine then data else (List.range c.chunk).map (fun e => s.hop c chunk e data[e]?)
      let by_ := if mine then contributed else contributed ++ [me]
      if chunk = c.nmem then s.endCollective c
      else match s.stranded c chunk data contributed with
      | some p => s.resend c chunk p
      | none =>
        if c.nmem < chunk ∨ !(route.contains me) ∨ c.written.any (fun w => w.1 == chunk) ∨ (mine && !round) ∨ (!mine && s.handled c chunk) ∨
            (if contributed.isEmpty then !data.isEmpty || decide (route.head? ≠ some me) else data.length != c.chunk) then s
        else if !last && !round then s.passOn c chunk out by_ none
        else (s.finishChunk c chunk out by_).getD s)

end Sys2Proof.Machine
end

