-- ==== Sys2Proof/Machine/Boot.lean ====
section
/-! DEFINITION. Boot and firmware, attestation of components, health, and data that enters and leaves the module (R6, R13, R15, R18, R22,
R170, R171, R281, R282, R327-R332). -/

namespace Sys2Proof.Machine

/-! ### Boot (R327-R329) -/

/-- R6, R13, R22, R327: `POWER_UP`: everything is as after reset, the self-test has named the dies that failed, and the ROM awaits an image, or,
where a die failed, the whole module has failed boot. What lies outside the module stays. -/
def execPowerUp (failed : BitVec 18) (s : State) : Answer :=
  .next { State.reset with
    agenda := s.agenda
    clock := s.clock
    hostMem := s.hostMem
    nvme := s.nvme
    courtObjs := s.courtObjs
    loadRegions := s.loadRegions
    dies := (List.range 16).map (fun n => DieCtl.reset (BitVec.ofNat 4 n))
    bootStage := if failed = 0 then 1 else 4
    bootFail := failed }

/-- R328: the reason for which an image is refused, 0 for none. -/
def imageReason (x : FirmwareImage) : BitVec 8 :=
  if !x.wellFormed || x.length != x.body.length then 4
  else if !(Config.rsaVerify x.rsaKey x.digest x.rsaSig && decide (Config.sha384 x.rsaKey = Config.fusedRsaHash) &&
      Config.slhVerify x.slhKey x.digest x.slhSig && decide (Config.sha384 x.slhKey = Config.fusedSlhHash)) then 1
  else if Config.sha384 x.body ≠ x.digest then 2
  else if x.version.toNat < Config.fusedMinVersion then 3
  else 0

/-- R327, R328, R330: the check of an image ends: the module runs, its components measured, or the image is discarded and the ROM awaits
another. -/
def State.checkImage (s : State) (image : FirmwareImage) : State :=
  let r := imageReason image
  if r = 0 then { s with bootStage := 3, bootImage := none, attestLog := image.components.map (fun c => (c.1, Config.sha384 c.2)) }
  else { s with bootStage := 1, bootImage := none, bootReason := r }

/-- R327-R330: `FIRMWARE_IMAGE`: an image arrives and is checked from then on (STAGE 2); a further occurrence ends its check. -/
def execFirmwareImage (image : FirmwareImage) (s : State) : Answer :=
  .next (match s.bootImage with
    | some x => if s.bootStage = 2 then s.checkImage x else s
    | none => if s.bootStage = 1 then { s with bootStage := 2, bootImage := some image } else s)

/-- R15, R16: `FABRIC_BRING_UP`: the groups launched from then on have the number; LOCID of a group does not change after its launch. -/
def execFabricBringUp (module : BitVec 12) (s : State) : Answer := .next { s with module := module }

/-! ### Health (R331, R332) -/

/-- R331: the entry temperatures in quarter degrees. -/
def throttleAt : Nat → Nat
  | 0 => 0
  | 1 => 380
  | 2 => 408
  | _ => 432

/-- R331: the throttle state whose entry temperature is reached. -/
def throttleFor (tmax : Nat) : Nat := if throttleAt 3 ≤ tmax then 3 else if throttleAt 2 ≤ tmax then 2 else if throttleAt 1 ≤ tmax then 1 else 0

/-- R331: the sensors of a die are read: its temperature, its rail voltage, which lies within 400-500 mV, and its process code; at 115 degrees the
module stops. -/
def State.sense (s : State) (die : BitVec 4) (tmax : BitVec 12) (thr : DieCtl → Nat) : State :=
  let s := s.modDie die (fun d => { d with
    tmax := tmax
    vmin := BitVec.ofNat 12 (400 + (Config.railLow s.clock die.toNat).toNat % 101)
    proc := Config.processCode s.clock die.toNat
    thr := BitVec.ofNat 2 (thr d) })
  if 460 ≤ tmax.toNat then { s with stopped := true, bootStage := 4 } else s

/-- R331: the throttle state of a die at a temperature: the states that it reaches are entered, and those that lie 5 degrees above are left. -/
def DieCtl.throttled (tmax : Nat) (d : DieCtl) : Nat :=
  max (throttleFor tmax) (maxNat ((List.range 4).filter (fun k => decide (k ≤ d.thr.toNat) && !decide (tmax + 20 ≤ throttleAt k))))

/-- R331: `THROTTLE_ENTRY`: a die's temperature reaches an entry temperature, or package power takes the module one state higher. -/
def execThrottleEntry (die : BitVec 4) (tmax : BitVec 12) (overPower : Bool) (s : State) : Answer :=
  .next (
    let s := s.sense die tmax (fun d => max d.thr.toNat (throttleFor tmax.toNat))
    if overPower then
      { s with dies := s.dies.map (fun (d : DieCtl) => { d with thr := BitVec.ofNat 2 (min 3 (d.thr.toNat + 1)) }) }
    else s)

/-- R331: `THROTTLE_EXIT`: a die leaves the states that lie 5 degrees above its temperature. -/
def execThrottleExit (die : BitVec 4) (tmax : BitVec 12) (s : State) : Answer := .next (s.sense die tmax (DieCtl.throttled tmax.toNat))

/-- R331: `THERMAL_STOP`: at 115 degrees the module stops and BOOTST.STAGE reads FAILED. -/
def execThermalStop (die : BitVec 4) (tmax : BitVec 12) (s : State) : Answer := .next (s.sense die tmax (DieCtl.throttled tmax.toNat))

/-- R332: `ROW_DISTURB`: a counter that is over threshold in either way counts once. -/
def execRowDisturb (die : BitVec 4) (saturated : Bool) (parityBad : Bool) (s : State) : Answer :=
  .next (if saturated || parityBad then
    s.modDie die (fun d => { d with rdevt := if d.rdevt = BitVec.allOnes 16 then d.rdevt else d.rdevt + 1 }) else s)

/-! ### The pages of an address space (R163) -/

/-- The entries of a table that are not zero. -/
def tableUsed (m : Mem) (table n : Nat) : List Nat :=
  ((m.filter (fun c => decide (table ≤ c.1) && decide (c.1 < table + 8 * n))).map (fun c => (c.1 - table) / 8)).dedup

/-- R163: the leaves of a table, each with its virtual address. -/
def leavesFrom (m : Mem) : List (Nat × Nat × Nat) → Nat → Nat → List (Nat × Leaf)
  | [], _, _ => []
  | (lo, n, _) :: rest, table, base =>
    (tableUsed m table (2 ^ n)).flatMap (fun i =>
      let entry := table + 8 * i
      let pte := Memory.readNat m entry 8
      let va := base + i * 2 ^ lo
      let addr := bitsOf pte 51 8 * 256
      if !(bitAt pte 0) then []
      else if bitAt pte 1 then [(va, leafOf pte addr (2 ^ lo) entry)]
      else leavesFrom m rest addr va)

/-- The virtual address of a storage key in an address space. -/
def State.findVa (s : State) (root key : Nat) : Option Nat :=
  match (leavesFrom s.mem walkLevels root 0).findSome? (fun x =>
    let pa := physicalOf x.2.code key
    if x.2.page ≤ pa ∧ pa < x.2.page + x.2.size then some (x.1 + (pa - x.2.page)) else none) with
  | some va => some va
  | none => (s.regions.filter (fun r => r.root == root && !r.gone)).findSome? (fun r => r.lit.findSome? (fun p =>
      let pa := physicalOf (s.poolCode r.pool) key
      if p.phys ≤ pa ∧ pa < p.phys + 65536 then some (r.base + 65536 * p.index + (pa - p.phys)) else none))

/-! ### Data that enters and leaves (R170, R171, R281) -/

/-- R170: bytes that enter the module at physical addresses; `none` while one of them waits for the copy of its line or for its bounds (R185, R201). -/
def State.enter (s : State) (addr : Nat) (bytes : List Byte) : Option State :=
  foldWaiting (fun (s : State) (x : Nat × Byte) =>
    let a := addr + x.1
    if (tierOf a).isNone then some s
    else if s.writeHeld (.mem a) 1 x.2.toNat then none
    else
      let full := decide (addr ≤ a / 32 * 32) && decide (a / 32 * 32 + 32 ≤ addr + bytes.length)
      some ((s.homeArrive 0 (.mem a) 0 1 x.2.toNat full).setTags (.mem a) 1 none)) ((List.range bytes.length).zip bytes) s

/-- The sectors of a run of bytes. -/
def runSectors (addr n : Nat) : List Nat := if n = 0 then [] else (List.range ((addr + n - 1) / 32 - addr / 32 + 1)).map (addr / 32 + ·)

/-- R282: an access of the host or of a link to some bytes, as one of another party. -/
def State.outsideAccess (s : State) (addr n : Nat) (wr : Bool) : State :=
  (runSectors addr n).foldl (fun (s : State) x => s.observe none (.mem (32 * x)) 0 0 wr false) s

/-- R282: a host write into the pages of a debug grid enters its log, with the contents of each sector. -/
def State.logHost (s : State) (addr n : Nat) : State :=
  (runSectors addr n).foldl (fun (s : State) x =>
    (s.recorders.filter (fun d => d.recording)).foldl (fun (s : State) d =>
      match s.recorders.find? (fun y => decide (y.task = d.task)), s.task d.task with
      | some d, some t => match s.findVa t.root (32 * x) with
        | some va => s.logIn d (va / 32 * 32) 5 false false 0 0 (Memory.readBytes s.mem (32 * x) 32)
        | none => s
      | _, _ => s) s) (s.outsideAccess addr n true)

/-- R170: `HOST_MEMORY_WRITE`. -/
def execHostMemoryWrite (addr : Nat) (bytes : List (BitVec 8)) (s : State) : Answer :=
  .next (((s.enter addr bytes).map (fun t => t.logHost addr bytes.length)).getD s)

/-- R170, R281: bytes leave the module; a halo mismatch stops the transfer before its sector, and a record is posted. -/
def State.leaveModule (s : State) (way : Way) (addr n : Nat) : State :=
  let bad := (runSectors addr n).find? (fun x => s.haloBad x)
  let good := match bad with
    | some x => 32 * x - addr
    | none => n
  let s := { s.outsideAccess addr good false with
    outward := s.outward ++ [{ way := way, addr := addr, bytes := Memory.readBytes s.mem addr good, haloErr := bad.isSome }] }
  match bad with
  | some x => s.memoryError 0 2 0 (physicalOf 0 (32 * x)) (32 * x)
  | none => s

/-- R170: `HOST_MEMORY_READ`. -/
def execHostMemoryRead (addr : Nat) (len : Nat) (s : State) : Answer := .next (s.leaveModule .host addr len)

/-- R170: `ETHERNET_RECEIVE`. -/
def execEthernetReceive (_port : Bool) (addr : Nat) (bytes : List (BitVec 8)) (s : State) : Answer := .next (((s.enter addr bytes).map (fun t => t.outsideAccess addr bytes.length true)).getD s)

/-- R170: `ETHERNET_SEND`. -/
def execEthernetSend (_port : Bool) (addr : Nat) (len : Nat) (s : State) : Answer := .next (s.leaveModule .ethernet addr len)

end Sys2Proof.Machine
end

