-- ==== Sys2Proof/Machine/Float.lean ====
section
/-! DEFINITION. The float lane instructions (R148, R149, R397-R401) and their 16-bit forms (R152). -/

namespace Sys2Proof.Machine

/-- A value of a float operation, rounded to its format as a lane word, with every flag. -/
def rounded (f : Fmt) (r : Round) (v : Val × BitVec 6) : Word × BitVec 6 :=
  let c := f.round r v.1
  (BitVec.ofNat 32 c.1, v.2 ||| c.2)

/-- A value that is not rounded (R149), as a lane word. -/
def unrounded (f : Fmt) (v : Val × BitVec 6) : Word × BitVec 6 := (BitVec.ofNat 32 (f.codeOf v.1), v.2)

/-- A lane of a register or another source, as a number. -/
abbrev Read := Group → Port → Nat → Nat

/-- The 32-bit value of a source code. -/
def readCode (c : BitVec 8) : Read := fun g p j => (g.source p c j).toNat

/-- A lane word of a `v` register. -/
def readV (n : Nat) : Read := fun g _ j => (lane (g.v n) j).toNat

/-- R398: an operation on two values that rounds once; it consumes a draw under SR (R399). -/
def State.float2 (i : Instr) (d : BitVec 7) (w : Bool) (f : Fmt) (x y : Read) (op : Nat → Val → Val → Val × BitVec 6)
    (s : State) : State :=
  s.laneFlagOp i d w (s.g.drawing s.port) (fun g p j =>
    rounded f (g.rounding p j 0) (op (fmodeRM (g.fmode p)) (f.read (g.fmode p) (x g p j)) (f.read (g.fmode p) (y g p j))))

/-- R398: `ffma`, which adds the destination. -/
def State.float3 (i : Instr) (d : BitVec 7) (f : Fmt) (x y : Read) (s : State) : State :=
  s.laneFlagOp i d false (s.g.drawing s.port) (fun g p j =>
    rounded f (g.rounding p j 0) (Val.fma (fmodeRM (g.fmode p)) (f.read (g.fmode p) (x g p j))
      (f.read (g.fmode p) (y g p j)) (f.read (g.fmode p) (readV d.toNat g p j))))

/-- R149: `fmin` and `fmax`, which round nothing. -/
def State.floatM (i : Instr) (d : BitVec 7) (w : Bool) (f : Fmt) (x y : Read) (isMax : Bool) (s : State) : State :=
  s.laneFlagOp i d w false (fun g p j =>
    unrounded f (Val.minmax isMax (f.read (g.fmode p) (x g p j)) (f.read (g.fmode p) (y g p j))))

/-- The operations of `fadd`, `fsub` and `fmul`. -/
def opAdd (rm : Nat) (a b : Val) : Val × BitVec 6 := a.add rm b
def opSub (rm : Nat) (a b : Val) : Val × BitVec 6 := a.add rm b.neg
def opMul (_ : Nat) (a b : Val) : Val × BitVec 6 := a.mul b

/-- R397: the type field of the 16-bit formats. -/
def halfFmt (t : BitVec 3) : Fmt := if t = 0#3 then Fmt.f16 else Fmt.bf16

/-- R401: a condition of `fcmp`, and NV (R149). -/
def fcmpOf (c : BitVec 3) (a b : Val) : Bool × BitVec 6 :=
  let un := a.isNan || b.isNan
  let sig := a.sig ||| b.sig
  let o := a.compare b
  match c.toNat with
  | 0 => (!un && o == .eq, sig)
  | 1 => (un || o != .eq, sig)
  | 2 => if un then (false, flagNV) else (o == .lt, 0)
  | 3 => if un then (false, flagNV) else (o != .gt, 0)
  | 4 => if un then (false, flagNV) else (o == .gt, 0)
  | 5 => if un then (false, flagNV) else (o != .lt, 0)
  | _ => (un, sig)

/-- R401: `fcmp` to a predicate. -/
def State.fcmpP (i : Instr) (d c : BitVec 3) (f : Fmt) (a b : BitVec 8) (s : State) : State :=
  s.predOp i d.toNat (fun g p j => fcmpOf c (f.read (g.fmode p) (readCode a g p j)) (f.read (g.fmode p) (readCode b g p j)))

/-- R401: `fcmp` to a lane register. -/
def State.fcmpV (i : Instr) (d : BitVec 4) (c : BitVec 3) (f : Fmt) (a b : BitVec 8) (s : State) : State :=
  s.laneFlagOp i (d.zeroExtend 7) false false (fun g p j =>
    let r := fcmpOf c (f.read (g.fmode p) (readCode a g p j)) (f.read (g.fmode p) (readCode b g p j))
    (truth r.1, r.2))

/-- R398: `fadd.f32`. -/
def execFadd (d : BitVec 7) (w : Bool) (a b : BitVec 8) (s : State) : Answer :=
  .next (s.float2 (.fadd d w a b) d w Fmt.f32 (readCode a) (readCode b) opAdd)

/-- R398: `fsub.f32`. -/
def execFsub (d : BitVec 7) (w : Bool) (a b : BitVec 8) (s : State) : Answer :=
  .next (s.float2 (.fsub d w a b) d w Fmt.f32 (readCode a) (readCode b) opSub)

/-- R398: `fmul.f32`. -/
def execFmul (d : BitVec 7) (w : Bool) (a b : BitVec 8) (s : State) : Answer :=
  .next (s.float2 (.fmul d w a b) d w Fmt.f32 (readCode a) (readCode b) opMul)

/-- R398: `ffma.f32`. -/
def execFfma (d : BitVec 7) (a b : BitVec 8) (s : State) : Answer :=
  .next (s.float3 (.ffma d a b) d Fmt.f32 (readCode a) (readCode b))

/-- R149: `fmin.f32`. -/
def execFmin (d : BitVec 7) (w : Bool) (a b : BitVec 8) (s : State) : Answer :=
  .next (s.floatM (.fmin d w a b) d w Fmt.f32 (readCode a) (readCode b) false)

/-- R149: `fmax.f32`. -/
def execFmax (d : BitVec 7) (w : Bool) (a b : BitVec 8) (s : State) : Answer :=
  .next (s.floatM (.fmax d w a b) d w Fmt.f32 (readCode a) (readCode b) true)

/-- R152: the 16-bit `fadd.f32`. -/
def execFadd16 (sc : BitVec 5) (d : BitVec 6) (s : State) : Answer :=
  .next (s.float2 (.fadd16 sc d) (d.zeroExtend 7) false Fmt.f32 (readCode (d.zeroExtend 8)) (readCode (source16 sc)) opAdd)

/-- R152: the 16-bit `fsub.f32`. -/
def execFsub16 (sc : BitVec 5) (d : BitVec 6) (s : State) : Answer :=
  .next (s.float2 (.fsub16 sc d) (d.zeroExtend 7) false Fmt.f32 (readCode (d.zeroExtend 8)) (readCode (source16 sc)) opSub)

/-- R152: the 16-bit `fmul.f32`. -/
def execFmul16 (sc : BitVec 5) (d : BitVec 6) (s : State) : Answer :=
  .next (s.float2 (.fmul16 sc d) (d.zeroExtend 7) false Fmt.f32 (readCode (d.zeroExtend 8)) (readCode (source16 sc)) opMul)

/-- R152: the 16-bit `fmin.f32`. -/
def execFmin16 (sc : BitVec 5) (d : BitVec 6) (s : State) : Answer :=
  .next (s.floatM (.fmin16 sc d) (d.zeroExtend 7) false Fmt.f32 (readCode (d.zeroExtend 8)) (readCode (source16 sc)) false)

/-- R152: the 16-bit `fmax.f32`. -/
def execFmax16 (sc : BitVec 5) (d : BitVec 6) (s : State) : Answer :=
  .next (s.floatM (.fmax16 sc d) (d.zeroExtend 7) false Fmt.f32 (readCode (d.zeroExtend 8)) (readCode (source16 sc)) true)

/-- R398: `fadd` on 16-bit formats. -/
def execFaddH (d a b : BitVec 6) (t : BitVec 3) (s : State) : Answer :=
  .next (s.float2 (.faddH d a b t) (d.zeroExtend 7) false (halfFmt t) (readV a.toNat) (readV b.toNat) opAdd)

/-- R398: `fsub` on 16-bit formats. -/
def execFsubH (d a b : BitVec 6) (t : BitVec 3) (s : State) : Answer :=
  .next (s.float2 (.fsubH d a b t) (d.zeroExtend 7) false (halfFmt t) (readV a.toNat) (readV b.toNat) opSub)

/-- R398: `fmul` on 16-bit formats. -/
def execFmulH (d a b : BitVec 6) (t : BitVec 3) (s : State) : Answer :=
  .next (s.float2 (.fmulH d a b t) (d.zeroExtend 7) false (halfFmt t) (readV a.toNat) (readV b.toNat) opMul)

/-- R398: `ffma` on 16-bit formats. -/
def execFfmaH (d a b : BitVec 6) (t : BitVec 3) (s : State) : Answer :=
  .next (s.float3 (.ffmaH d a b t) (d.zeroExtend 7) (halfFmt t) (readV a.toNat) (readV b.toNat))

/-- R149: `fmin` on 16-bit formats. -/
def execFminH (d a b : BitVec 6) (t : BitVec 3) (s : State) : Answer :=
  .next (s.floatM (.fminH d a b t) (d.zeroExtend 7) false (halfFmt t) (readV a.toNat) (readV b.toNat) false)

/-- R149: `fmax` on 16-bit formats. -/
def execFmaxH (d a b : BitVec 6) (t : BitVec 3) (s : State) : Answer :=
  .next (s.floatM (.fmaxH d a b t) (d.zeroExtend 7) false (halfFmt t) (readV a.toNat) (readV b.toNat) true)

/-- R401: `fcmp.cc.f32` to a predicate. -/
def execFcmpF32P (d c : BitVec 3) (a b : BitVec 8) (s : State) : Answer :=
  .next (s.fcmpP (.fcmpF32P d c a b) d c Fmt.f32 a b)

/-- R401: `fcmp.cc.f32` to a lane register. -/
def execFcmpF32V (d : BitVec 4) (c : BitVec 3) (a b : BitVec 8) (s : State) : Answer :=
  .next (s.fcmpV (.fcmpF32V d c a b) d c Fmt.f32 a b)

/-- R401: `fcmp.cc.f16` to a predicate. -/
def execFcmpF16P (d c : BitVec 3) (a b : BitVec 8) (s : State) : Answer :=
  .next (s.fcmpP (.fcmpF16P d c a b) d c Fmt.f16 a b)

/-- R401: `fcmp.cc.f16` to a lane register. -/
def execFcmpF16V (d : BitVec 4) (c : BitVec 3) (a b : BitVec 8) (s : State) : Answer :=
  .next (s.fcmpV (.fcmpF16V d c a b) d c Fmt.f16 a b)

/-- R401: `fcmp.cc.bf16` to a predicate. -/
def execFcmpBf16P (d c : BitVec 3) (a b : BitVec 8) (s : State) : Answer :=
  .next (s.fcmpP (.fcmpBf16P d c a b) d c Fmt.bf16 a b)

/-- R401: `fcmp.cc.bf16` to a lane register. -/
def execFcmpBf16V (d : BitVec 4) (c : BitVec 3) (a b : BitVec 8) (s : State) : Answer :=
  .next (s.fcmpV (.fcmpBf16V d c a b) d c Fmt.bf16 a b)

end Sys2Proof.Machine
end

