-- ==== Sys2Proof/Machine/Convert.lean ====
section
/-! DEFINITION. Conversions, quantisation and the packed 8-bit instructions (R106-R108, R150, R151, R384-R388, R443, R444, R479,
R480). -/

namespace Sys2Proof.Machine

/-- R94: a widening to `f32`, which never flushes and never rounds. -/
def isWidening (t2 t1 : NumType) : Bool :=
  decide (t2 = .flt Fmt.f32) && (match t1 with
    | .flt f => decide (f.width ≤ 16)
    | .int _ _ => false)

/-- R386: some finite value of a format of 8 or 4 bits lies strictly between two adjacent values of `t2`, within its range. -/
def someBetween (t2 t1 : Fmt) : Bool :=
  (List.range (2 ^ t1.width)).any (fun c =>
    match t1.decode c with
    | .fin neg m e =>
      let r := t2.roundFin ⟨1, false, false, 0⟩ neg m e false
      (t2.signed || !neg) && r.2.getLsbD 0 && !(exceeds m e t2.largest.1 t2.largest.2)
    | _ => false)

/-- R386: the rounding pairs. -/
def roundingPair (t2 t1 : NumType) : Bool :=
  match t2, t1 with
  | .int _ _, .int _ _ => false
  | .int _ _, .flt _ => true
  | .flt f, .int n sg =>
    let top := if sg then 2 ^ (n - 1) - 1 else 2 ^ n - 1
    decide (2 ^ f.prec + 1 ≤ top) && !(exceeds (2 ^ f.prec + 1) 0 f.largest.1 f.largest.2)
  | .flt f, .flt h =>
    if f = h ∨ f = Fmt.f32 then false
    else if h.wide then true
    else someBetween f h

/-- R385: the result of `cvt` in a lane: the source bits, the modes and the rounding. -/
def cvtOf (t2 t1 : NumType) (fmode : DWord) (r : Round) (x : Nat) : Nat × BitVec 6 :=
  match t2, t1 with
  | .int n sg, .int m sh =>
    let v : Int := if sh then sextOf x m else ((x % 2 ^ m : Nat) : Int)
    let c := if sg then satS n v else satZ n v
    (wrapOf n c.1, if c.2 then flagSAT else 0)
  | t2, .int m sh => t2.round r (intVal m sh x)
  | t2, .flt f =>
    let wide := isWidening t2 (.flt f)
    let v := if wide then f.decode x else f.read fmode x
    let c := t2.round (if wide then { r with ftz := false } else r) v
    (c.1, v.sig ||| c.2)

/-- The bits of a lane that a type reads: a pair for a 64-bit type (R86). -/
def Group.typed (g : Group) (n j : Nat) (is64 : Bool) : Nat :=
  if is64 then (g.pairV n j).toNat else (lane (g.v n) j).toNat

/-- R385, R386: `cvt.t2.t1`: a lane result, or a pair for a 64-bit destination. -/
def execCvt (d a gc fc : BitVec 6) (s : State) : Answer :=
  let t1 := typeOf gc
  let t2 := typeOf fc
  let draws := s.g.drawing s.port && roundingPair t2 t1
  let val := fun (g : Group) (p : Port) (j : Nat) =>
    cvtOf t2 t1 (g.fmode p) (g.rounding p j 0) (g.typed a.toNat j (is64Type gc))
  .next (if is64Type fc then
      s.issue (.cvt d a gc fc) (fun s =>
        let m := s.g.maskAt s.port
        let p := s.port
        let g := s.g.setPair d.toNat m (fun j => BitVec.ofNat 64 (val s.g p j).1)
        let g := (g.raiseFlags (laneFlags m (fun j => (val s.g p j).2))).noteFlags p m (fun j => (val s.g p j).2)
        .run { s with g := if draws then g.countDraw p else g })
    else s.laneFlagOp (.cvt d a gc fc) (d.zeroExtend 7) false draws (fun g p j =>
      let r := val g p j
      (BitVec.ofNat 32 r.1, r.2)))

/-- R444: `qnt`. -/
def execQnt (d a b f : BitVec 6) (s : State) : Answer :=
  .next (s.laneFlagOp (.qnt d a b f) (d.zeroExtend 7) false (s.g.drawing s.port) (fun g p j =>
    let x := (Fmt.f32.read (g.fmode p) (readV a.toNat g p j)).mul (Fmt.f32.read (g.fmode p) (readV b.toNat g p j))
    let r := (typeOf f).round (g.rounding p j 0) x.1
    (BitVec.ofNat 32 r.1, x.2 ||| r.2)))

/-- R388: `dqnt.f32`. -/
def execDqnt (d a b f : BitVec 6) (s : State) : Answer :=
  .next (s.laneFlagOp (.dqnt d a b f) (d.zeroExtend 7) false (s.g.drawing s.port) (fun g p j =>
    rounded Fmt.f32 (g.rounding p j 0)
      (((typeOf f).decode (readV a.toNat g p j)).mul (Fmt.f32.read (g.fmode p) (readV b.toNat g p j)))))

/-- The operations of the packed instructions. -/
inductive PackedOp where
  | add | mul | fma | max | min
  deriving DecidableEq, Repr

/-- R480: one sub-element: its 8 bits and its flags. -/
def packedOf (op : PackedOp) (t : NumType) (r : Round) (a b c : Nat) : Nat × BitVec 6 :=
  match t with
  | .int n sg =>
    let v := fun x : Nat => if sg then sextOf x n else ((x % 2 ^ n : Nat) : Int)
    let y := match op with
      | .add => v a + v b
      | .mul => v a * v b
      | .fma => v a * v b + v c
      | .max => max (v a) (v b)
      | .min => min (v a) (v b)
    let k := if sg then satS n y else satZ n y
    (wrapOf n k.1, if k.2 then flagSAT else 0)
  | .flt f =>
    let x := f.decode a
    let y := f.decode b
    let fin := fun v : Val × BitVec 6 =>
      let k := f.round r v.1
      (k.1, v.2 ||| k.2)
    match op with
    | .add => fin (x.add r.rm y)
    | .mul => fin (x.mul y)
    | .fma => fin (Val.fma r.rm x y (f.decode c))
    | .max => let k := Val.minmax true x y
      (f.codeOf k.1, k.2)
    | .min => let k := Val.minmax false x y
      (f.codeOf k.1, k.2)

/-- R108: sub-element `j` of a lane word. -/
def subElement (x : Word) (j : Nat) : Nat := (x.extractLsb' (8 * j) 8).toNat

/-- R108, R480: the four sub-elements of a lane, the draw of sub-element `j` being index `j`. -/
def State.packed (i : Instr) (op : PackedOp) (d a b f : BitVec 6) (s : State) : State :=
  let t := typeOf f
  let flt := match t with
    | .flt _ => true
    | .int _ _ => false
  let rounds := decide (op = .add) || decide (op = .mul) || decide (op = .fma)
  s.laneFlagOp i (d.zeroExtend 7) false (s.g.drawing s.port && flt && rounds) (fun g p j =>
    let one := fun k => packedOf op t (g.rounding p j k) (subElement (lane (g.v a.toNat) j) k)
      (subElement (lane (g.v b.toNat) j) k) (subElement (lane (g.v d.toNat) j) k)
    (BitVec.ofNat 32 ((one 0).1 + 2 ^ 8 * (one 1).1 + 2 ^ 16 * (one 2).1 + 2 ^ 24 * (one 3).1),
      (one 0).2 ||| (one 1).2 ||| (one 2).2 ||| (one 3).2))

/-- R480: `xadd`. -/
def execXadd (d a b f : BitVec 6) (s : State) : Answer := .next (s.packed (.xadd d a b f) .add d a b f)

/-- R480: `xmul`. -/
def execXmul (d a b f : BitVec 6) (s : State) : Answer := .next (s.packed (.xmul d a b f) .mul d a b f)

/-- R480: `xfma`. -/
def execXfma (d a b f : BitVec 6) (s : State) : Answer := .next (s.packed (.xfma d a b f) .fma d a b f)

/-- R480: `xmax`. -/
def execXmax (d a b f : BitVec 6) (s : State) : Answer := .next (s.packed (.xmax d a b f) .max d a b f)

/-- R480: `xmin`. -/
def execXmin (d a b f : BitVec 6) (s : State) : Answer := .next (s.packed (.xmin d a b f) .min d a b f)

end Sys2Proof.Machine
end

