-- ==== Sys2Proof/Machine/Cordic.lean ====
section
/-! DEFINITION. The CORDIC unit (R158-R160, R378, R379). The exact value of a function is bracketed by fixed-point series; where it is
known to be representable, or to lie just beside a representable value, it is handled without a series. -/

namespace Sys2Proof.Machine

/-- The eight functions of R158. -/
inductive CordicFn where
  | exp | log | sin | atan | sqrt | rsq | rcp | tanh
  deriving DecidableEq, Repr

/-- What is known of f(x). -/
inductive Approx where
  /-- The special inputs of R158: the code and the flag. -/
  | code (c : Nat) (f : BitVec 6)
  /-- f(x) = (-1)^neg * m * 2^e. -/
  | exactly (neg : Bool) (m : Nat) (e : Int)
  /-- |f(x)| lies strictly between m * 2^e and (m + 1) * 2^e, or rounds as such a value does. -/
  | near (neg : Bool) (m : Nat) (e : Int)
  /-- For a working precision: |f(x)| lies strictly within `slack` of `a`, both times 2^e. -/
  | series (neg : Bool) (f : Nat → Nat × Nat × Int)

/-! ### Fixed-point series; a value v stands for v / 2^W -/

/-- The square root of a natural number, rounded down; `k + 1` bits of it. -/
def rootFrom (a : Nat) : Nat → Nat → Nat
  | 0, r => r
  | k + 1, r => let t := r + 2 ^ k
    rootFrom a k (if t * t ≤ a then t else r)

/-- The square root of a number below 2^400, rounded down. -/
def rootOf (a : Nat) : Nat := rootFrom a 200 0

/-- The sum of t / (2k + 1) while t shrinks by the factor z / 2^W. -/
def oddSeries (w z : Nat) : Nat → Nat → Nat → Nat → Nat
  | 0, _, _, sum => sum
  | n + 1, k, t, sum => oddSeries w z n (k + 1) (t * z / 2 ^ w) (sum + t / (2 * k + 1))

/-- The natural logarithm of m in [1, 2], by 2 atanh((m - 1) / (m + 1)). -/
def lnFix (w m : Nat) : Nat :=
  let z := (m - 2 ^ w) * 2 ^ w / (m + 2 ^ w)
  2 * oddSeries w (z * z / 2 ^ w) (w / 3 + 4) 0 z 0

/-- ln 2. -/
def ln2Fix (w : Nat) : Nat := lnFix w (2 ^ (w + 1))

/-- The terms of e^x. -/
def expSeries (w x : Nat) : Nat → Nat → Nat → Nat → Nat
  | 0, _, _, sum => sum
  | n + 1, k, t, sum => expSeries w x n (k + 1) (t * x / 2 ^ w / (k + 1)) (sum + t)

/-- 2^f for f in [0, 1). -/
def exp2Fix (w f : Nat) : Nat := expSeries w (f * ln2Fix w / 2 ^ w) (w / 3) 0 (2 ^ w) 0

/-- The terms of Euler's series for the arc tangent. -/
def atanSeries (w r : Nat) : Nat → Nat → Nat → Nat → Nat
  | 0, _, _, sum => sum
  | n + 1, k, t, sum => atanSeries w r n (k + 1) (t * (2 * k + 2) / (2 * k + 3) * r / 2 ^ w) (sum + t)

/-- atan y for y in (0, 1]. -/
def atanFix (w y : Nat) : Nat :=
  let s := y * y / 2 ^ w
  let c := 2 ^ w + s
  atanSeries w (s * 2 ^ w / c) (w + 16) 0 (y * 2 ^ w / c) 0

/-- π. -/
def piFix (w : Nat) : Nat := 4 * atanFix w (2 ^ w)

/-- The terms of sin t, as the sums of the positive and of the negative ones. -/
def sinSeries (w t2 : Nat) : Nat → Nat → Nat → Nat → Nat → Nat × Nat
  | 0, _, _, pos, neg => (pos, neg)
  | n + 1, k, t, pos, neg =>
    let t' := t * t2 / 2 ^ w / ((2 * k + 2) * (2 * k + 3))
    if k % 2 = 0 then sinSeries w t2 n (k + 1) t' (pos + t) neg else sinSeries w t2 n (k + 1) t' pos (neg + t)

/-- sin t for t in [0, π/2]. -/
def sinFix (w t : Nat) : Nat :=
  let r := sinSeries w (t * t / 2 ^ w) (w / 4) 0 t 0 0
  r.1 - r.2

/-- The bound on the error of every series at a working precision: 2^32 units, far above what the steps can lose. -/
def slackFix : Nat := 2 ^ 32

/-- m * 2^e scaled by 2^w. -/
def scaleFix (w m : Nat) (e : Int) : Nat :=
  if 0 ≤ (w : Int) + e then m * 2 ^ ((w : Int) + e).toNat else m / 2 ^ (-((w : Int) + e)).toNat

/-! ### The functions (R158) -/

/-- |x| below which the first term of a series settles the rounding. -/
def tinyLead : Int := -40

/-- 2^x. -/
def approxExp (neg : Bool) (m : Nat) (e : Int) : Approx :=
  if m = 0 then .exactly false 1 0
  else if 10 ≤ leadExp m e then .exactly false 1 (if neg then -2000 else 2000)
  else if leadExp m e < tinyLead then .near false (2 ^ 64) (-64)
  else
    let k := (-e).toNat
    let x : Int := signedOf neg (m * 2 ^ e.toNat)
    let n := x.ediv (2 ^ k : Nat)
    let f := (x.emod (2 ^ k : Nat)).toNat
    if f = 0 then .exactly false 1 n
    else .series false (fun w => (exp2Fix w (scaleFix w f (-(k : Int))), slackFix, n - w))

/-- log2 x, for x > 0. -/
def approxLog (m : Nat) (e : Int) : Approx :=
  let l := leadExp m e
  if m = 2 ^ Nat.log2 m then .exactly (decide (l < 0)) l.natAbs 0
  else .series (decide (l < 0)) (fun w =>
    let y : Int := l * (2 ^ w : Nat) + (lnFix w (scaleFix w m (-(Nat.log2 m : Int))) * 2 ^ w / ln2Fix w : Nat)
    (y.natAbs, slackFix, -(w : Int)))

/-- sin(πx). -/
def approxSin (neg : Bool) (m : Nat) (e : Int) : Approx :=
  if m = 0 then .exactly neg 0 0
  else if 0 ≤ e then .exactly false 0 0
  else
    let k := (-e).toNat
    let r := m % 2 ^ (k + 1)
    let y := r % 2 ^ k
    let sign := neg != decide (2 ^ k < r)
    if y = 0 then .exactly false 0 0
    else if 2 * y = 2 ^ k then .exactly sign 1 0
    else
      let y := min y (2 ^ k - y)
      if leadExp y (-(k : Int)) < tinyLead then
        .series sign (fun w => let a := piFix w * y
          (a, a / 2 ^ 70, -(w : Int) - k))
      else .series sign (fun w => (sinFix w (piFix w * y / 2 ^ k), slackFix, -(w : Int)))

/-- atan(x) / π. -/
def approxAtan (neg : Bool) (m : Nat) (e : Int) : Approx :=
  if m = 0 then .exactly neg 0 0
  else
    let l := leadExp m e
    if m = 2 ^ Nat.log2 m ∧ l = 0 then .exactly neg 1 (-2)
    else if 40 < l then .near neg (2 ^ 64 - 1) (-65)
    else if l < tinyLead then .series neg (fun w => let a := m * 2 ^ (2 * w) / piFix w
      (a, a / 2 ^ 70, e - w))
    else if l < 0 then .series neg (fun w => (atanFix w (scaleFix w m e) * 2 ^ w / piFix w, slackFix, -(w : Int)))
    else .series neg (fun w =>
      (2 ^ (w - 1) - atanFix w (2 ^ (2 * w) / scaleFix w m e) * 2 ^ w / piFix w, slackFix, -(w : Int)))

/-- The same value with an even exponent. -/
def evenExp (m : Nat) (e : Int) : Nat × Int := if e % 2 = 0 then (m, e) else (2 * m, e - 1)

/-- The square root of a positive value. -/
def approxSqrt (m : Nat) (e : Int) : Approx :=
  let x := evenExp m e
  let a := x.1 * 2 ^ 128
  let n := rootOf a
  if n * n = a then .exactly false n (x.2 / 2 - 64) else .near false n (x.2 / 2 - 64)

/-- The reciprocal square root of a positive value. -/
def approxRsq (m : Nat) (e : Int) : Approx :=
  let x := evenExp m e
  let n := rootOf (2 ^ 256 / x.1)
  if n * n * x.1 = 2 ^ 256 then .exactly false n (-(x.2 / 2) - 128) else .near false n (-(x.2 / 2) - 128)

/-- The reciprocal of a value that is not zero. -/
def approxRcp (neg : Bool) (m : Nat) (e : Int) : Approx :=
  let n := 2 ^ 128 / m
  if n * m = 2 ^ 128 then .exactly neg n (-e - 128) else .near neg n (-e - 128)

/-- tanh x. -/
def approxTanh (neg : Bool) (m : Nat) (e : Int) : Approx :=
  if m = 0 then .exactly neg 0 0
  else
    let l := leadExp m e
    if 6 ≤ l then .near neg (2 ^ 100 - 1) (-100)
    else if l < tinyLead then .near neg (m * 2 ^ 64 - 1) (e - 64)
    else .series neg (fun w =>
      let u := 2 * scaleFix w m e * 2 ^ w / ln2Fix w
      let x := exp2Fix w (u % 2 ^ w) * 2 ^ (u / 2 ^ w)
      ((x - 2 ^ w) * 2 ^ w / (x + 2 ^ w), slackFix, -(w : Int)))

/-- The code of an infinity of a sign in `f32`. -/
def infF32 (neg : Bool) : Nat := if neg then 0xFF800000 else 0x7F800000

/-- R158: what is known of the function at an input. -/
def CordicFn.approx : CordicFn → Val → Approx
  | _, .nan sg => .code 0x7FC00000 (if sg then flagNV else 0)
  | .exp, .inf neg => .code (if neg then 0 else infF32 false) 0
  | .exp, .fin neg m e => approxExp neg m e
  | .log, .inf neg => if neg then .code 0x7FC00000 flagNV else .code (infF32 false) 0
  | .log, .fin neg m e => if m = 0 then .code (infF32 true) flagDZ
      else if neg then .code 0x7FC00000 flagNV else approxLog m e
  | .sin, .inf _ => .code 0x7FC00000 flagNV
  | .sin, .fin neg m e => approxSin neg m e
  | .atan, .inf neg => .code (if neg then 0xBF000000 else 0x3F000000) 0
  | .atan, .fin neg m e => approxAtan neg m e
  | .sqrt, .inf neg => if neg then .code 0x7FC00000 flagNV else .code (infF32 false) 0
  | .sqrt, .fin neg m e => if m = 0 then .exactly neg 0 0
      else if neg then .code 0x7FC00000 flagNV else approxSqrt m e
  | .rsq, .inf neg => if neg then .code 0x7FC00000 flagNV else .code 0 0
  | .rsq, .fin neg m e => if m = 0 then .code (infF32 neg) flagDZ
      else if neg then .code 0x7FC00000 flagNV else approxRsq m e
  | .rcp, .inf neg => .code (if neg then 0x80000000 else 0) 0
  | .rcp, .fin neg m e => if m = 0 then .code (infF32 neg) flagDZ else approxRcp neg m e
  | .tanh, .inf neg => .code (if neg then 0xBF800000 else 0x3F800000) 0
  | .tanh, .fin neg m e => approxTanh neg m e

/-! ### The two roundings (R159) -/

/-- R159: p significant bits, then `f32`, both to nearest even; UF is judged on the exact value (R105). -/
def cordicRound (p : Nat) (ftz neg : Bool) (m : Nat) (e : Int) (sticky : Bool) : Nat × BitVec 6 :=
  if m = 0 then (Fmt.f32.encode neg 0 0, 0)
  else
    let near := Round.rne ftz
    let q := leadExp m e - (p - 1 : Nat)
    let k := near.quantum neg m e sticky q
    let q24 := leadExp m e - 23
    let u := near.quantum neg m e sticky q24
    let tiny := decide (leadExp u.1 q24 < Fmt.f32.emin)
    let r := Fmt.f32.roundFin near neg k.1 q false
    let nx := k.2 || r.2.getLsbD 0
    let flushed := ftz && decide (r.1 % 2 ^ 31 = 0)
    (r.1, (r.2 &&& ~~~(flagUF ||| flagNX)) ||| (if nx then flagNX else 0) ||| (if (tiny && nx) || flushed then flagUF else 0))

/-- The rounding of a bracketed value at the first working precision at which both ends of the bracket round alike. -/
def cordicSettle (p : Nat) (ftz neg : Bool) (f : Nat → Nat × Nat × Int) : List Nat → Nat × BitVec 6
  | [] => (0, 0)
  | w :: ws =>
    let x := f w
    let lo := cordicRound p ftz neg (x.1 - x.2.1) x.2.2 true
    let hi := cordicRound p ftz neg (x.1 + x.2.1) x.2.2 true
    if lo = hi ∨ ws = [] then lo else cordicSettle p ftz neg f ws

/-- R379: the result of a lane, and its flags. -/
def CordicFn.eval (fn : CordicFn) (n : Nat) (fmode : DWord) (x : Nat) : Nat × BitVec 6 :=
  let p := n / 2 + 4
  let ftz := fmodeFTZ fmode
  match fn.approx (Fmt.f32.read fmode x) with
  | .code c f => (c, f)
  | .exactly neg m e => cordicRound p ftz neg m e false
  | .near neg m e => cordicRound p ftz neg m e true
  | .series neg f => cordicSettle p ftz neg f [192, 384, 768]

/-- R105, R160: the instruction issues: it raises its flags, which the later instructions of its path see, and its result is on its
way. -/
def State.cordic (i : Instr) (fn : CordicFn) (d : BitVec 7) (w : Bool) (a n : BitVec 8) (s : State) : State :=
  s.issue i (fun s =>
    let p := s.port
    let m := s.g.maskAt p
    let val := fun j => fn.eval n.toNat (s.g.fmode p) (s.g.source p a j).toNat
    let r := laneWrite (s.g.pathMask p) (fun j => BitVec.ofNat 32 (val j).1) 0
    let x : InFlight := { serial := s.g.serial, path := none, kind := .cordic r,
                          dest := if w then .none else .v d.toNat false, lanes := m, pc := s.g.pcAt p, done := false }
    .result (s.onGroup (fun g =>
      { ((g.raiseFlags (laneFlags m (fun j => (val j).2))).noteFlags p m (fun j => (val j).2)) with inflight := g.inflight ++ [x] })) r)

/-- R379: `cexp.f32`. -/
def execCexp (d : BitVec 7) (w : Bool) (a n : BitVec 8) (s : State) : Answer := .next (s.cordic (.cexp d w a n) .exp d w a n)

/-- R379: `clog.f32`. -/
def execClog (d : BitVec 7) (w : Bool) (a n : BitVec 8) (s : State) : Answer := .next (s.cordic (.clog d w a n) .log d w a n)

/-- R379: `csin.f32`. -/
def execCsin (d : BitVec 7) (w : Bool) (a n : BitVec 8) (s : State) : Answer := .next (s.cordic (.csin d w a n) .sin d w a n)

/-- R379: `catan.f32`. -/
def execCatan (d : BitVec 7) (w : Bool) (a n : BitVec 8) (s : State) : Answer := .next (s.cordic (.catan d w a n) .atan d w a n)

/-- R379: `csqrt.f32`. -/
def execCsqrt (d : BitVec 7) (w : Bool) (a n : BitVec 8) (s : State) : Answer := .next (s.cordic (.csqrt d w a n) .sqrt d w a n)

/-- R379: `crsq.f32`. -/
def execCrsq (d : BitVec 7) (w : Bool) (a n : BitVec 8) (s : State) : Answer := .next (s.cordic (.crsq d w a n) .rsq d w a n)

/-- R379: `crcp.f32`. -/
def execCrcp (d : BitVec 7) (w : Bool) (a n : BitVec 8) (s : State) : Answer := .next (s.cordic (.crcp d w a n) .rcp d w a n)

/-- R379: `ctanh.f32`. -/
def execCtanh (d : BitVec 7) (w : Bool) (a n : BitVec 8) (s : State) : Answer := .next (s.cordic (.ctanh d w a n) .tanh d w a n)

end Sys2Proof.Machine
end

