-- ==== Sys2Proof/Machine/CrossLane.lean ====
section
/-! DEFINITION. Cross-lane instructions, votes and random words (R153-R157, R369, R392, R421, R422, R450, R453, R454, R462, R463,
R475). -/

namespace Sys2Proof.Machine

/-- R153: register `a` of the source lane `k`, or the reading lane's own value where `k` is outside the group or the path. -/
def Group.fromLane (g : Group) (p : Port) (a i : Nat) (k : Int) : Word :=
  if 0 ≤ k ∧ k < 64 ∧ (g.pathMask p).getLsbD k.toNat = true then lane (g.v a) k.toNat else lane (g.v a) i

/-- R463: the one offset of `.up`, `.dn` and `.xor`; with `.rw` the distance GWIDTH >> o. As an offset `laneid` gives its value in the path's
lowest lane (DESIGN CHOICE, log 90). -/
def Group.distance (g : Group) (p : Port) (rw : Bool) (b : BitVec 8) : Nat :=
  let o := ((g.oneValue p b).setWidth 32).toNat
  if rw then (if 7 ≤ o then 0 else Config.gwidth / 2 ^ o) else o

/-- R154: `shfl.idx`. -/
def execShflIdx (d : BitVec 7) (w : Bool) (a : BitVec 7) (b : BitVec 8) (s : State) : Answer :=
  .next (s.laneOp (.shflIdx d w a b) d w (fun g p j =>
    g.fromLane p a.toNat j ((g.source p b j).toNat % 128 % Config.gwidth : Nat)))

/-- R154: `shfl.up`. -/
def execShflUp (d : BitVec 7) (w : Bool) (a : BitVec 7) (r : Bool) (b : BitVec 8) (s : State) : Answer :=
  .next (s.laneOp (.shflUp d w a r b) d w (fun g p j => g.fromLane p a.toNat j ((j : Int) - g.distance p r b)))

/-- R154: `shfl.dn`. -/
def execShflDn (d : BitVec 7) (w : Bool) (a : BitVec 7) (r : Bool) (b : BitVec 8) (s : State) : Answer :=
  .next (s.laneOp (.shflDn d w a r b) d w (fun g p j => g.fromLane p a.toNat j ((j : Int) + g.distance p r b)))

/-- R154: `shfl.xor`. -/
def execShflXor (d : BitVec 7) (w : Bool) (a : BitVec 7) (r : Bool) (b : BitVec 8) (s : State) : Answer :=
  .next (s.laneOp (.shflXor d w a r b) d w (fun g p j =>
    g.fromLane p a.toNat j (Nat.xor j (g.distance p r b))))

/-- R369: `bcast`. -/
def execBcast (d : BitVec 7) (w : Bool) (a : BitVec 7) (b : BitVec 8) (s : State) : Answer :=
  .next (s.laneOp (.bcast d w a b) d w (fun g p j =>
    g.fromLane p a.toNat j (g.operand32 p b % Config.gwidth : Nat)))

/-- R422: the exact sum of float participants, with the sign of a zero sum. Infinities of both signs beside a quiet NaN raise no NV, since
the NaN settles the sum first (DESIGN CHOICE, log 80). -/
def floatSum (rm : Nat) (xs : List Val) : Val × BitVec 6 :=
  let sig := xs.foldl (fun acc x => acc ||| x.sig) (0#6)
  if xs.any Val.isNan then (.nan false, sig)
  else
    let pos := xs.any (fun x => x == .inf false)
    let neg := xs.any (fun x => x == .inf true)
    if pos && neg then (.nan false, flagNV)
    else if pos then (.inf false, 0)
    else if neg then (.inf true, 0)
    else match xs with
      | [] => (.fin false 0 0, 0)
      | x :: rest => (rest.foldl (fun acc y => (acc.add rm y).1) x, 0)

/-- R155: `min` and `max` over float participants, of which there is at least one. -/
def floatBest (isMax : Bool) (xs : List Val) : Val × BitVec 6 :=
  xs.foldl (fun acc x =>
    let k := Val.minmax isMax acc.1 x
    (k.1, acc.2 ||| k.2)) (.nan false, 0)

/-- R155: the largest magnitude. -/
def floatAmax (xs : List Val) : Val × BitVec 6 :=
  let sig := xs.foldl (fun acc x => acc ||| x.sig) (0#6)
  if xs.any Val.isNan then (.nan false, sig)
  else
    let mag := fun x : Val => match x with
      | .inf _ => .inf false
      | .fin _ m e => .fin false m e
      | x => x
    ((xs.foldl (fun acc x => (Val.minmax true acc (mag x)).1) (.fin false 0 0)), 0)

/-- R350, R155: an operation over the participants' words, narrowed or rounded once; with none, its identity. -/
def reduce (f : Nat) (fmode : DWord) (r : Round) (xs : List Word) : Word × BitVec 6 :=
  let vals := xs.map (fun x => Fmt.f32.read fmode x.toNat)
  let best := fun (isMax : Bool) (le : Word → Word → Bool) (unit : Word) =>
    xs.foldl (fun acc x => if isMax = le acc x then x else acc) unit
  match f with
  | 0 => accS32 fmode (sumInt (xs.map (fun x => x.toInt)))
  | 1 => accZ32 fmode (sumInt (xs.map (fun x => (x.toNat : Int))))
  | 2 => rounded Fmt.f32 r (floatSum r.rm vals)
  | 3 => (best false (fun a x => a.sle x) 0x7FFFFFFF#32, 0)
  | 4 => (best false (fun a x => a.ule x) 0xFFFFFFFF#32, 0)
  | 5 => if xs.isEmpty then (0x7F800000#32, 0) else unrounded Fmt.f32 (floatBest false vals)
  | 6 => (best true (fun a x => a.sle x) 0x80000000#32, 0)
  | 7 => (best true (fun a x => a.ule x) 0#32, 0)
  | 8 => if xs.isEmpty then (0xFF800000#32, 0) else unrounded Fmt.f32 (floatBest true vals)
  | 9 => unrounded Fmt.f32 (floatAmax vals)
  | 10 => (xs.foldl (fun acc x => acc &&& x) (BitVec.allOnes 32), 0)
  | 11 => (xs.foldl (fun acc x => acc ||| x) 0, 0)
  | _ => (xs.foldl (fun acc x => acc ^^^ x) 0, 0)

/-- R155: the participants: the lanes of the path that the predicate selects. -/
def Group.participants (g : Group) (p : Port) (n : Nat) : List Nat := members (g.pathMask p &&& g.p n)

/-- R422: `lred`: one value for every active lane, rounded with the draw of the lowest one. -/
def execLred (d a : BitVec 7) (q : BitVec 3) (f : BitVec 4) (s : State) : Answer :=
  .next (s.laneFlagOp (.lred d a q f) d false (s.g.drawing s.port && decide (f = 2#4)) (fun g p _ =>
    reduce f.toNat (g.fmode p) (g.rounding p (lowest (g.pathMask p)) 0)
      ((g.participants p q.toNat).map (fun j => lane (g.v a.toNat) j))))

/-- R454: `scan`, inclusive or exclusive. -/
def execScan (x : Bool) (d a : BitVec 7) (q : BitVec 3) (f : BitVec 4) (s : State) : Answer :=
  .next (s.laneFlagOp (.scan x d a q f) d false (s.g.drawing s.port && decide (f = 2#4)) (fun g p i =>
    reduce f.toNat (g.fmode p) (g.rounding p i 0)
      (((g.participants p q.toNat).filter (fun j => if x then decide (j < i) else decide (j ≤ i))).map
        (fun j => lane (g.v a.toNat) j))))

/-- R157: `vote.ball`. -/
def execVoteBall (a : BitVec 7) (q : BitVec 3) (s : State) : Answer :=
  .next (s.predOp (.voteBall a q) q.toNat (fun g _ j => (lane (g.v a.toNat) j != 0, 0)))

/-- R157: `vote.any`. -/
def execVoteAny (a : BitVec 7) (q : BitVec 3) (s : State) : Answer :=
  .next (s.predOp (.voteAny a q) q.toNat (fun g p _ => ((members (g.pathMask p)).any (fun k => lane (g.v a.toNat) k != 0), 0)))

/-- R157: `vote.all`. -/
def execVoteAll (a : BitVec 7) (q : BitVec 3) (s : State) : Answer :=
  .next (s.predOp (.voteAll a q) q.toNat (fun g p _ => ((members (g.pathMask p)).all (fun k => lane (g.v a.toNat) k != 0), 0)))

/-- R157, R475: `vote.eq` compares bit patterns. -/
def execVoteEq (a : BitVec 7) (q : BitVec 3) (s : State) : Answer :=
  .next (s.predOp (.voteEq a q) q.toNat (fun g p _ =>
    ((members (g.pathMask p)).all (fun k => lane (g.v a.toNat) k == lane (g.v a.toNat) (lowest (g.pathMask p))), 0)))

/-- R392: `elect`. -/
def execElect (q : BitVec 3) (s : State) : Answer :=
  .next (s.predOp (.elect q) q.toNat (fun g p j => (j == lowest (g.pathMask p), 0)))

/-- R450: `rng`. -/
def execRng (d : BitVec 7) (w : Bool) (s : State) : Answer :=
  .next (s.laneFlagOp (.rng d w) d w true (fun g p j => (BitVec.ofNat 32 (g.draw p j 0), 0)))

end Sys2Proof.Machine
end

