-- ==== Sys2Proof/Machine/Dispatch.lean ====
section
/-! DEFINITION. One arm for every row of the opcode table: the call of its meaning. -/

namespace Sys2Proof.Machine

def exec (i : Instr) (s : State) : Host.Outcome State Fault Refusal :=
  match i with
  | .abs d w a => Sys2Proof.Machine.execAbs d w a s
  | .acquire => Sys2Proof.Machine.execAcquire s
  | .acrd d a => Sys2Proof.Machine.execAcrd d a s
  | .acwr d a => Sys2Proof.Machine.execAcwr d a s
  | .acz d => Sys2Proof.Machine.execAcz d s
  | .add d w a b => Sys2Proof.Machine.execAdd d w a b s
  | .add16 sc d => Sys2Proof.Machine.execAdd16 sc d s
  | .addPair d a b => Sys2Proof.Machine.execAddPair d a b s
  | .addWide d a b => Sys2Proof.Machine.execAddWide d a b s
  | .and d w a b => Sys2Proof.Machine.execAnd d w a b s
  | .and16 sc d => Sys2Proof.Machine.execAnd16 sc d s
  | .atom sc q t x m d => Sys2Proof.Machine.execAtom sc q t x m d s
  | .barArv d a => Sys2Proof.Machine.execBarArv d a s
  | .barWait a b => Sys2Proof.Machine.execBarWait a b s
  | .bcast d w a b => Sys2Proof.Machine.execBcast d w a b s
  | .bfxS32 d w a b => Sys2Proof.Machine.execBfxS32 d w a b s
  | .bfxZ32 d w a b => Sys2Proof.Machine.execBfxZ32 d w a b s
  | .bfi d a b => Sys2Proof.Machine.execBfi d a b s
  | .br h n p o => Sys2Proof.Machine.execBr h n p o s
  | .brev d w a => Sys2Proof.Machine.execBrev d w a s
  | .call o => Sys2Proof.Machine.execCall o s
  | .cancel d a => Sys2Proof.Machine.execCancel d a s
  | .cas sc q t m d => Sys2Proof.Machine.execCas sc q t m d s
  | .cexp d w a n => Sys2Proof.Machine.execCexp d w a n s
  | .clog d w a n => Sys2Proof.Machine.execClog d w a n s
  | .csin d w a n => Sys2Proof.Machine.execCsin d w a n s
  | .catan d w a n => Sys2Proof.Machine.execCatan d w a n s
  | .csqrt d w a n => Sys2Proof.Machine.execCsqrt d w a n s
  | .crsq d w a n => Sys2Proof.Machine.execCrsq d w a n s
  | .crcp d w a n => Sys2Proof.Machine.execCrcp d w a n s
  | .ctanh d w a n => Sys2Proof.Machine.execCtanh d w a n s
  | .cordicResult grp serial => Sys2Proof.Machine.execCordicResult grp serial s
  | .clz d w a => Sys2Proof.Machine.execClz d w a s
  | .cmpS32P d c a b => Sys2Proof.Machine.execCmpS32P d c a b s
  | .cmpS32V d c a b => Sys2Proof.Machine.execCmpS32V d c a b s
  | .cmpZ32P d c a b => Sys2Proof.Machine.execCmpZ32P d c a b s
  | .cmpZ32V d c a b => Sys2Proof.Machine.execCmpZ32V d c a b s
  | .cpy a b => Sys2Proof.Machine.execCpy a b s
  | .cpyg a b => Sys2Proof.Machine.execCpyg a b s
  | .copyComplete cmd => Sys2Proof.Machine.execCopyComplete cmd s
  | .cvt d a g f => Sys2Proof.Machine.execCvt d a g f s
  | .dqnt d a b f => Sys2Proof.Machine.execDqnt d a b f s
  | .drain d => Sys2Proof.Machine.execDrain d s
  | .drainT d => Sys2Proof.Machine.execDrainT d s
  | .echo d a => Sys2Proof.Machine.execEcho d a s
  | .elect p => Sys2Proof.Machine.execElect p s
  | .eret => Sys2Proof.Machine.execEret s
  | .eretEnd => Sys2Proof.Machine.execEretEnd s
  | .exit => Sys2Proof.Machine.execExit s
  | .extrS32 d a b => Sys2Proof.Machine.execExtrS32 d a b s
  | .extrS64 d a b => Sys2Proof.Machine.execExtrS64 d a b s
  | .fadd d w a b => Sys2Proof.Machine.execFadd d w a b s
  | .fadd16 sc d => Sys2Proof.Machine.execFadd16 sc d s
  | .fsub d w a b => Sys2Proof.Machine.execFsub d w a b s
  | .fsub16 sc d => Sys2Proof.Machine.execFsub16 sc d s
  | .fmul d w a b => Sys2Proof.Machine.execFmul d w a b s
  | .fmul16 sc d => Sys2Proof.Machine.execFmul16 sc d s
  | .ffma d a b => Sys2Proof.Machine.execFfma d a b s
  | .fmin d w a b => Sys2Proof.Machine.execFmin d w a b s
  | .fmin16 sc d => Sys2Proof.Machine.execFmin16 sc d s
  | .fmax d w a b => Sys2Proof.Machine.execFmax d w a b s
  | .fmax16 sc d => Sys2Proof.Machine.execFmax16 sc d s
  | .faddH d a b t => Sys2Proof.Machine.execFaddH d a b t s
  | .fsubH d a b t => Sys2Proof.Machine.execFsubH d a b t s
  | .fmulH d a b t => Sys2Proof.Machine.execFmulH d a b t s
  | .ffmaH d a b t => Sys2Proof.Machine.execFfmaH d a b t s
  | .fminH d a b t => Sys2Proof.Machine.execFminH d a b t s
  | .fmaxH d a b t => Sys2Proof.Machine.execFmaxH d a b t s
  | .fcmpF32P d c a b => Sys2Proof.Machine.execFcmpF32P d c a b s
  | .fcmpF32V d c a b => Sys2Proof.Machine.execFcmpF32V d c a b s
  | .fcmpF16P d c a b => Sys2Proof.Machine.execFcmpF16P d c a b s
  | .fcmpF16V d c a b => Sys2Proof.Machine.execFcmpF16V d c a b s
  | .fcmpBf16P d c a b => Sys2Proof.Machine.execFcmpBf16P d c a b s
  | .fcmpBf16V d c a b => Sys2Proof.Machine.execFcmpBf16V d c a b s
  | .fence sc k => Sys2Proof.Machine.execFence sc k s
  | .fsh d w a b => Sys2Proof.Machine.execFsh d w a b s
  | .gset a b => Sys2Proof.Machine.execGset a b s
  | .gth sc q t a d => Sys2Proof.Machine.execGth sc q t a d s
  | .jmp o => Sys2Proof.Machine.execJmp o s
  | .join => Sys2Proof.Machine.execJoin s
  | .kvx n b a d => Sys2Proof.Machine.execKvx n b a d s
  | .kvxW n b a d => Sys2Proof.Machine.execKvxW n b a d s
  | .kvfork n b a d => Sys2Proof.Machine.execKvfork n b a d s
  | .kvskip n b a d => Sys2Proof.Machine.execKvskip n b a d s
  | .kvrel n a d => Sys2Proof.Machine.execKvrel n a d s
  | .kvActionComplete grp serial => Sys2Proof.Machine.execKvActionComplete grp serial s
  | .launch d a => Sys2Proof.Machine.execLaunch d a s
  | .ld d t n e => Sys2Proof.Machine.execLd d t n e s
  | .ldAcq d t n sc => Sys2Proof.Machine.execLdAcq d t n sc s
  | .ldq d t n e => Sys2Proof.Machine.execLdq d t n e s
  | .ldqAcq d t n sc => Sys2Proof.Machine.execLdqAcq d t n sc s
  | .lds d t n e => Sys2Proof.Machine.execLds d t n e s
  | .ldsAcq d t n sc => Sys2Proof.Machine.execLdsAcq d t n sc s
  | .litscan a b => Sys2Proof.Machine.execLitscan a b s
  | .lred d a p f => Sys2Proof.Machine.execLred d a p f s
  | .madS32 d a b => Sys2Proof.Machine.execMadS32 d a b s
  | .madZ32 d a b => Sys2Proof.Machine.execMadZ32 d a b s
  | .minS32 d w a b => Sys2Proof.Machine.execMinS32 d w a b s
  | .minS3216 sc d => Sys2Proof.Machine.execMinS3216 sc d s
  | .minZ32 d w a b => Sys2Proof.Machine.execMinZ32 d w a b s
  | .maxS32 d w a b => Sys2Proof.Machine.execMaxS32 d w a b s
  | .maxS3216 sc d => Sys2Proof.Machine.execMaxS3216 sc d s
  | .maxZ32 d w a b => Sys2Proof.Machine.execMaxZ32 d w a b s
  | .mma d a b => Sys2Proof.Machine.execMma d a b s
  | .mmaSp d a b => Sys2Proof.Machine.execMmaSp d a b s
  | .mmc d a b => Sys2Proof.Machine.execMmc d a b s
  | .mmd d a b => Sys2Proof.Machine.execMmd d a b s
  | .mmdLd d => Sys2Proof.Machine.execMmdLd d s
  | .pmeGrant pme => Sys2Proof.Machine.execPmeGrant pme s
  | .passComplete pme req => Sys2Proof.Machine.execPassComplete pme req s
  | .engineCommandComplete pme req => Sys2Proof.Machine.execEngineCommandComplete pme req s
  | .mov d w a => Sys2Proof.Machine.execMov d w a s
  | .mov16 sc d => Sys2Proof.Machine.execMov16 sc d s
  | .movPush n a => Sys2Proof.Machine.execMovPush n a s
  | .movS d a => Sys2Proof.Machine.execMovS d a s
  | .movHi d a => Sys2Proof.Machine.execMovHi d a s
  | .movi d w im => Sys2Proof.Machine.execMovi d w im s
  | .movh d im => Sys2Proof.Machine.execMovh d im s
  | .mul d w a b => Sys2Proof.Machine.execMul d w a b s
  | .mul16 sc d => Sys2Proof.Machine.execMul16 sc d s
  | .mulPair d a b => Sys2Proof.Machine.execMulPair d a b s
  | .mulhS32 d w a b => Sys2Proof.Machine.execMulhS32 d w a b s
  | .mulhZ32 d w a b => Sys2Proof.Machine.execMulhZ32 d w a b s
  | .neg d w a => Sys2Proof.Machine.execNeg d w a s
  | .not d w a => Sys2Proof.Machine.execNot d w a s
  | .popc d w a => Sys2Proof.Machine.execPopc d w a s
  | .nop => Sys2Proof.Machine.execNop s
  | .or d w a b => Sys2Proof.Machine.execOr d w a b s
  | .or16 sc d => Sys2Proof.Machine.execOr16 sc d s
  | .packS32 d a => Sys2Proof.Machine.execPackS32 d a s
  | .packZ32 d a => Sys2Proof.Machine.execPackZ32 d a s
  | .packRevS32 d a => Sys2Proof.Machine.execPackRevS32 d a s
  | .packRevZ32 d a => Sys2Proof.Machine.execPackRevZ32 d a s
  | .pmul d a b => Sys2Proof.Machine.execPmul d a b s
  | .pmulUns d a b => Sys2Proof.Machine.execPmulUns d a b s
  | .prio a => Sys2Proof.Machine.execPrio a s
  | .qnt d a b f => Sys2Proof.Machine.execQnt d a b f s
  | .rdst d a b => Sys2Proof.Machine.execRdst d a b s
  | .release => Sys2Proof.Machine.execRelease s
  | .replay => Sys2Proof.Machine.execReplay s
  | .ret => Sys2Proof.Machine.execRet s
  | .rng d w => Sys2Proof.Machine.execRng d w s
  | .sar d w a b => Sys2Proof.Machine.execSar d w a b s
  | .shl d w a b => Sys2Proof.Machine.execShl d w a b s
  | .shl16 sc d => Sys2Proof.Machine.execShl16 sc d s
  | .shr d w a b => Sys2Proof.Machine.execShr d w a b s
  | .shr16 sc d => Sys2Proof.Machine.execShr16 sc d s
  | .scan x d a p f => Sys2Proof.Machine.execScan x d a p f s
  | .sct sc q t a d => Sys2Proof.Machine.execSct sc q t a d s
  | .sel d p a b => Sys2Proof.Machine.execSel d p a b s
  | .setrj o => Sys2Proof.Machine.execSetrj o s
  | .shmap a => Sys2Proof.Machine.execShmap a s
  | .shlit a b => Sys2Proof.Machine.execShlit a b s
  | .shfade a b => Sys2Proof.Machine.execShfade a b s
  | .shflIdx d w a b => Sys2Proof.Machine.execShflIdx d w a b s
  | .shflUp d w a r b => Sys2Proof.Machine.execShflUp d w a r b s
  | .shflDn d w a r b => Sys2Proof.Machine.execShflDn d w a r b s
  | .shflXor d w a r b => Sys2Proof.Machine.execShflXor d w a r b s
  | .spawn a o => Sys2Proof.Machine.execSpawn a o s
  | .st d t n e => Sys2Proof.Machine.execSt d t n e s
  | .stRel d t n sc => Sys2Proof.Machine.execStRel d t n sc s
  | .stm sc q a d => Sys2Proof.Machine.execStm sc q a d s
  | .sts d t n e => Sys2Proof.Machine.execSts d t n e s
  | .stsRel d t n sc => Sys2Proof.Machine.execStsRel d t n sc s
  | .sub d w a b => Sys2Proof.Machine.execSub d w a b s
  | .sub16 sc d => Sys2Proof.Machine.execSub16 sc d s
  | .subPair d a b => Sys2Proof.Machine.execSubPair d a b s
  | .subWide d a b => Sys2Proof.Machine.execSubWide d a b s
  | .trap a => Sys2Proof.Machine.execTrap a s
  | .vserve d a b => Sys2Proof.Machine.execVserve d a b s
  | .vcatch a b => Sys2Proof.Machine.execVcatch a b s
  | .vpoll d a => Sys2Proof.Machine.execVpoll d a s
  | .voteBall a p => Sys2Proof.Machine.execVoteBall a p s
  | .voteAny a p => Sys2Proof.Machine.execVoteAny a p s
  | .voteAll a p => Sys2Proof.Machine.execVoteAll a p s
  | .voteEq a p => Sys2Proof.Machine.execVoteEq a p s
  | .wait d a => Sys2Proof.Machine.execWait d a s
  | .wrst d a => Sys2Proof.Machine.execWrst d a s
  | .xadd d a b f => Sys2Proof.Machine.execXadd d a b f s
  | .xmul d a b f => Sys2Proof.Machine.execXmul d a b f s
  | .xfma d a b f => Sys2Proof.Machine.execXfma d a b f s
  | .xmax d a b f => Sys2Proof.Machine.execXmax d a b f s
  | .xmin d a b f => Sys2Proof.Machine.execXmin d a b f s
  | .xor d w a b => Sys2Proof.Machine.execXor d w a b s
  | .xor16 sc d => Sys2Proof.Machine.execXor16 sc d s
  | .yield => Sys2Proof.Machine.execYield s
  | .performLoad entry => Sys2Proof.Machine.execPerformLoad entry s
  | .performStore entry => Sys2Proof.Machine.execPerformStore entry s
  | .performAtomic entry => Sys2Proof.Machine.execPerformAtomic entry s
  | .propagate wr => Sys2Proof.Machine.execPropagate wr s
  | .dispatch entry => Sys2Proof.Machine.execDispatch entry s
  | .engineAccess cmd => Sys2Proof.Machine.execEngineAccess cmd s
  | .loadDataReturn grp serial => Sys2Proof.Machine.execLoadDataReturn grp serial s
  | .counterFall grp path => Sys2Proof.Machine.execCounterFall grp path s
  | .migrationCommand queue cmd => Sys2Proof.Machine.execMigrationCommand queue cmd s
  | .migrationSwitchover mig => Sys2Proof.Machine.execMigrationSwitchover mig s
  | .fadeStep root base page => Sys2Proof.Machine.execFadeStep root base page s
  | .teamAdmission task cores => Sys2Proof.Machine.execTeamAdmission task cores s
  | .queueAppend queue => Sys2Proof.Machine.execQueueAppend queue s
  | .priorityAging task => Sys2Proof.Machine.execPriorityAging task s
  | .starvationBound grp => Sys2Proof.Machine.execStarvationBound grp s
  | .acquireGrant core => Sys2Proof.Machine.execAcquireGrant core s
  | .binTimerExpiry die key core => Sys2Proof.Machine.execBinTimerExpiry die key core s
  | .echoTimeout grp stream => Sys2Proof.Machine.execEchoTimeout grp stream s
  | .gridComplete task => Sys2Proof.Machine.execGridComplete task s
  | .reclamationComplete task => Sys2Proof.Machine.execReclamationComplete task s
  | .handlerEntry core => Sys2Proof.Machine.execHandlerEntry core s
  | .machineCheck core cause => Sys2Proof.Machine.execMachineCheck core cause s
  | .checkpoint task => Sys2Proof.Machine.execCheckpoint task s
  | .vservePerform die mbox => Sys2Proof.Machine.execVservePerform die mbox s
  | .vcatchPerform die mbox => Sys2Proof.Machine.execVcatchPerform die mbox s
  | .vbrecvRead die mbox => Sys2Proof.Machine.execVbrecvRead die mbox s
  | .vbsendWrite die mbox => Sys2Proof.Machine.execVbsendWrite die mbox s
  | .shotClockExpiry die mbox => Sys2Proof.Machine.execShotClockExpiry die mbox s
  | .courtQuantum die hart => Sys2Proof.Machine.execCourtQuantum die hart s
  | .courtException die mbox => Sys2Proof.Machine.execCourtException die mbox s
  | .launchCommand pair => Sys2Proof.Machine.execLaunchCommand pair s
  | .cancelCommand pair => Sys2Proof.Machine.execCancelCommand pair s
  | .preempt pair => Sys2Proof.Machine.execPreempt pair s
  | .resume pair => Sys2Proof.Machine.execResume pair s
  | .invalidate pair => Sys2Proof.Machine.execInvalidate pair s
  | .poolAdd pair => Sys2Proof.Machine.execPoolAdd pair s
  | .regionDel pair => Sys2Proof.Machine.execRegionDel pair s
  | .courtStart pair => Sys2Proof.Machine.execCourtStart pair s
  | .windowOpen pair => Sys2Proof.Machine.execWindowOpen pair s
  | .collective pair => Sys2Proof.Machine.execCollective pair s
  | .handlerSet pair => Sys2Proof.Machine.execHandlerSet pair s
  | .debugAttach pair => Sys2Proof.Machine.execDebugAttach pair s
  | .errRing pair => Sys2Proof.Machine.execErrRing pair s
  | .attest pair => Sys2Proof.Machine.execAttest pair s
  | .windowClose pair => Sys2Proof.Machine.execWindowClose pair s
  | .courtStop pair => Sys2Proof.Machine.execCourtStop pair s
  | .ctxPool pair => Sys2Proof.Machine.execCtxPool pair s
  | .badOp pair => Sys2Proof.Machine.execBadOp pair s
  | .completionWrite pair => Sys2Proof.Machine.execCompletionWrite pair s
  | .illegalInstruction => Sys2Proof.Machine.execIllegalInstruction s
  | .fetchFault cause => Sys2Proof.Machine.execFetchFault cause s
  | .courtInstruction die mbox => Sys2Proof.Machine.execCourtInstruction die mbox s
  | .epochMerge base off remote => Sys2Proof.Machine.execEpochMerge base off remote s
  | .livenessFlit link => Sys2Proof.Machine.execLivenessFlit link s
  | .memberAbsent member => Sys2Proof.Machine.execMemberAbsent member s
  | .chunkHop coll chunk data contributed => Sys2Proof.Machine.execChunkHop coll chunk data contributed s
  | .hqtailDoorbell pair value => Sys2Proof.Machine.execHqtailDoorbell pair value s
  | .hqtailResync pair value => Sys2Proof.Machine.execHqtailResync pair value s
  | .hqheadWrite pair value => Sys2Proof.Machine.execHqheadWrite pair value s
  | .registerWrite addr value => Sys2Proof.Machine.execRegisterWrite addr value s
  | .powerUp failed => Sys2Proof.Machine.execPowerUp failed s
  | .firmwareImage image => Sys2Proof.Machine.execFirmwareImage image s
  | .throttleEntry die tmax overPower => Sys2Proof.Machine.execThrottleEntry die tmax overPower s
  | .throttleExit die tmax => Sys2Proof.Machine.execThrottleExit die tmax s
  | .thermalStop die tmax => Sys2Proof.Machine.execThermalStop die tmax s
  | .rowDisturb die saturated parityBad => Sys2Proof.Machine.execRowDisturb die saturated parityBad s
  | .hostMemoryWrite addr bytes => Sys2Proof.Machine.execHostMemoryWrite addr bytes s
  | .hostMemoryRead addr len => Sys2Proof.Machine.execHostMemoryRead addr len s
  | .ethernetReceive port addr bytes => Sys2Proof.Machine.execEthernetReceive port addr bytes s
  | .ethernetSend port addr len => Sys2Proof.Machine.execEthernetSend port addr len s
  | .fabricBringUp module => Sys2Proof.Machine.execFabricBringUp module s

end Sys2Proof.Machine
end

