-- ==== Sys2Proof/Machine/Pick.lean ====
section
/-! DEFINITION. The module's own choice of the next turn, where the agenda is empty (log 11): of the turns that change something, an
internal happening or the next instruction of a port, by turns, with the ports of a core in the order of R259. -/

namespace Sys2Proof.Machine

/-! ### The order of issue (R85, R259) -/

/-- The instruction of a port, tried now, would issue. One that only has to wait, for a register, a queue or room, leaves its stream waiting to
be tried again; a stream that is parked already does something where what it was parked for has come. -/
def State.issues (s : State) (uid : Nat) (p : Port) : Bool :=
  let s := (s.select uid p).fetched
  match exec s.nextInstr s with
  | .next u => if s.g.waitAt p = .running then decide (u.g.waitAt p ≠ .other) else decide (u ≠ s)
  | _ => true

/-- R85, R259: a port is ready: it may issue, its stream is not held, and its instruction would issue. -/
def State.readyAt (s : State) (g : Group) (p : Port) : Bool :=
  s.mayIssue g p && (decide (p = .setter) || !(g.holdsIssue p)) && s.issues g.id.uid p

/-- R259: the group has a ready PC slot. -/
def State.readySlot (s : State) (g : Group) : Bool := s.readyAt g .slot0 || s.readyAt g .slot1

/-- The ready ports of a group for one stream, by its uid. -/
def State.readyPorts (s : State) (g : Group) (setter : Bool) : List (Nat × Port) :=
  ((if setter then [Port.setter] else [Port.slot0, Port.slot1]).filter (s.readyAt g)).map (fun q => (g.id.uid, q))

/-- R259: the ready ports of other groups of the core, of the same stream, that come before a port. -/
def State.rivals (s : State) (g : Group) (p : Port) : List (Nat × Port) :=
  (s.groups.filter (fun h => decide (h.id.core = g.id.core) && h.id.uid != g.id.uid && h.ahead g p)).flatMap (fun h =>
    s.readyPorts h (decide (p = .setter)))

/-- R26: the port that has had the first datapath of a core in its current clock. -/
def State.firstPath (s : State) (core : BitVec 10) : Option (Nat × Port) :=
  (s.datapaths.find? (fun x => decide (x.1 = core))).map (fun x => x.2)

/-- R26, R61, R259: a clock of a core takes an instruction of one setter, and of two ready PC slots one after the other, each in the order of
the issue choice. The port that had the first datapath begins the next clock only where no other slot of the core is ready for the second. -/
def State.inOrder (s : State) (g : Group) (p : Port) : Bool :=
  if p = .setter then (s.rivals g p).isEmpty
  else match s.firstPath g.id.core with
    | none => (s.rivals g p).isEmpty
    | some q =>
      if q = (g.id.uid, p) then
        (s.groups.filter (fun h => decide (h.id.core = g.id.core))).all (fun h => (s.readyPorts h false).all (fun r => decide (r = q)))
      else (s.rivals g p).all (fun r => decide (r = q))

/-- R26: the datapaths after an issue at a port: the first of a clock is noted, and the second ends the clock. -/
def State.claim (s : State) : List (BitVec 10 × Nat × Port) :=
  let me := (s.g.id.uid, s.port)
  let rest := s.datapaths.filter (fun x => decide (x.1 ≠ s.g.id.core))
  if s.port = .setter ∨ s.readyAt s.g s.port = false then s.datapaths
  else match s.firstPath s.g.id.core with
    | none => (s.g.id.core, me) :: rest
    | some q => if q = me then (s.g.id.core, me) :: rest else rest

/-- R259: the clock advances; a group that has a ready slot, or a ready setter, has waited one clock more to issue there. -/
def State.tick (s : State) : State :=
  { s with clock := s.clock + 1 }.mapGroups (fun g => { g with
    ready := if s.readySlot g then g.ready + 1 else 0
    readySet := if s.readyAt g .setter then g.readySet + 1 else 0 })

/-! ### Room for the sectors that a debug block keeps (R284) -/

/-- The bytes that an access writes, and the bounds that its rows raise (R297). -/
def State.writtenBy (s : State) (l : Loc) (n : Nat) : List Loc :=
  [l, l.add (n - 1)] ++ (s.rowsAt l n).filterMap (fun x => (s.boundAt x.1 x.2).map (fun y => y.loc))

/-- The bytes that an action of an attention cache has still to write for its group: its entry, the words that it raises, and the block of a
copy-on-write (R293). -/
def State.writtenByAct (s : State) (a : KvAct) : List Loc :=
  let block := if a.promote then [] else
    (List.range ((512 + 64 * a.dim * kvBytes a.fmt + 31) / 32)).map (fun i => a.base + 256 * kvAddr a.new.toNat + 32 * i)
  (a.entry :: a.raises.map (fun x => x.1) ++ block).filterMap (s.locAt a.root)

/-- The bytes that a copy has still to write to device memory. -/
def State.writtenByCopy (s : State) (c : CopyCmd) : List Loc :=
  if c.desc.dstSp || c.fault.isSome then []
  else ((List.range (tuples c.desc.dims - c.pos)).map (fun i => c.destOf (c.pos + i))).filterMap (fun (a : Int) => s.locAt c.root a.toNat)

/-- The bytes that a grid has still to write. -/
def State.dueBytes (s : State) (task : BitVec 40) : List Loc :=
  let gs := s.groups.filter (fun g => decide (g.id.task = task))
  gs.flatMap (fun g =>
    (g.outq.filter (fun e => e.kind.writes)).flatMap (fun e => s.writtenBy e.loc e.size) ++
    g.inflight.flatMap (fun f => match f.kind with
      | .kv _ acts _ => if f.done then [] else acts.flatMap s.writtenByAct
      | _ => []) ++
    (s.bufs.filter (fun b => b.grp == g.id.uid)).flatMap (fun b => s.writtenBy b.loc b.size) ++
    (s.copies.filter (fun c => c.grp == g.id.uid)).flatMap s.writtenByCopy)

/-- R282, R284: the sectors that a grid has still to write and whose prior contents are not kept yet. -/
def State.dueSectors (s : State) (d : DebugBlock) : List Loc :=
  ((s.dueBytes d.task).filterMap (fun l =>
    let names := s.sectorsOf l
    if names.any (fun x => d.saved.contains x) then none else names.head?)).dedup

/-- R284: the area of a debug block might not hold the sectors that are due to be kept, or has failed to hold one. -/
def State.areaShort (s : State) (task : BitVec 40) : Bool :=
  s.recorders.any (fun d => decide (d.task = task) && (d.full || decide (d.cksz * 4096 < d.used + 40 * (s.dueSectors d).length)))

/-! ### Turns -/

/-- The state in which an instruction issues: its fetch has left a translation, and its port has a datapath. -/
def State.begun (s : State) : State := { s.fetched with datapaths := s.claim }

/-- R284: the instruction that issues at a port of a debug grid is put off, and a checkpoint is due, where the checkpoint area might not hold the
sectors that are due to be kept behind it. With an area as empty as a checkpoint leaves it, it issues (log 99). -/
def State.reserve (s : State) (o : Host.Outcome State Fault Refusal) : Host.Outcome State Fault Refusal :=
  match s.recorders.find? (fun d => decide (d.task = s.g.id.task) && d.recording) with
  | none => o
  | some d => match o with
    | .next t => if t.areaShort d.task && (!d.saved.isEmpty || !(s.dueSectors d).isEmpty) then .next (s.modDebug d.task (fun d => { d with due := true }))
      else o
    | o => o

/-- A port of a group takes its turn: it fetches and runs an instruction, if it may issue and none comes before it (R259). One that has to wait
comes before none, and takes no datapath. -/
def State.issueTurn (s : State) (uid : Nat) (p : Port) : Host.Outcome State Fault Refusal :=
  let s := s.select uid p
  if s.g.id.uid = uid ∧ s.mayIssue s.g p = true ∧ (s.inOrder s.g p = true ∨ s.readyAt s.g p = false) then
    s.reserve (exec s.nextInstr s.begun)
  else .next s

/-- R331: what still reaches a module that has stopped. -/
def wakesStopped : Turn → Bool
  | .happen (.powerUp _) => true
  | _ => false

/-- One turn. A module that has stopped does nothing until it is powered up (R331). -/
def State.take (s : State) (t : Turn) : Host.Outcome State Fault Refusal :=
  if s.stopped && !(wakesStopped t) then .next s
  else match t with
    | .issue uid p => s.issueTurn uid p
    | .happen ev => exec ev s

/-- The state that a turn which does nothing leaves. -/
def State.idle (s : State) (t : Turn) : State :=
  if s.stopped then s
  else match t with
    | .issue uid p => s.select uid p
    | .happen _ => s

/-- A turn that changes something beside the datapaths. -/
def State.changes (s : State) (t : Turn) : Bool :=
  match s.take t with
  | .next u => decide ({ u with datapaths := s.datapaths } ≠ s.idle t)
  | _ => true

/-! ### The turns to choose from -/

/-- A list that starts at its n-th member, counted around. -/
def rotate {α : Type} (l : List α) (n : Nat) : List α := l.drop (n % l.length) ++ l.take (n % l.length)

/-- R259: the groups of a core in the order of its issue choice for a stream. -/
def issueOrder (p : Port) (gs : List Group) : List Group := sortBy (fun (a b : Group) => !(b.ahead a p)) gs

/-- The ports that may issue: those of one core first, in the order of R259. Which core, and which slot of a group, goes on with the clock. -/
def State.portTurns (s : State) : List Turn :=
  let gs := s.groups.filter (fun g => !g.ended)
  let mine := (gs[s.clock / 2 % gs.length]?).map (fun (g : Group) => g.id.core)
  let first := gs.filter (fun (g : Group) => decide (some g.id.core = mine))
  let rest := gs.filter (fun (g : Group) => !(decide (some g.id.core = mine)))
  let setters := (issueOrder .setter first ++ issueOrder .setter rest).map (fun (g : Group) => Turn.issue g.id.uid .setter)
  let slots := (issueOrder .slot0 first ++ issueOrder .slot0 rest).flatMap (fun (g : Group) =>
    (rotate [Port.slot0, Port.slot1] (s.clock / 2)).map (fun p => Turn.issue g.id.uid p))
  if s.clock / 2 % 3 = 2 then setters ++ slots else slots ++ setters

/-- The happenings of the memory machine of a group. -/
def Group.happenings (g : Group) : List Instr :=
  g.outq.flatMap (fun e => match e.kind with
    | .load | .fence => [Instr.performLoad e.id]
    | .store | .spawn .. => [Instr.performStore e.id]
    | .atomic .. | .cas .. => [Instr.performAtomic e.id]
    | .engine _ => [Instr.dispatch e.id]
    | .mailbox => []) ++
  g.inflight.flatMap (fun f => match f.kind with
    | .load .. | .atom .. => [Instr.loadDataReturn g.id.uid f.serial]
    | .cordic .. => [Instr.cordicResult g.id.uid f.serial]
    | .kv .. => [Instr.kvActionComplete g.id.uid f.serial]
    | _ => []) ++
  (List.range 8).map (fun n => Instr.counterFall g.id.uid (BitVec.ofNat 3 n))

/-- R247: the queues for which streams of a group wait. -/
def Group.appends (g : Group) : List Instr :=
  [g.slot0.wait, g.slot1.wait, g.setWait].filterMap (fun w => match w with
    | .launch t _ => some (Instr.queueAppend t.queue)
    | _ => none)

/-- R250, R279: where the teams of a task may be admitted. -/
def State.admissions (s : State) (t : Task) : List Instr :=
  let fit := match s.nextGang t with
    | some n => ((List.range (1024 / n)).map (gangCores n)).find? (fun cs => s.gangFits t.krec cs)
    | none => none
  ((s.teams.filter (fun u => decide (u.task = t.id))).map (fun u => Instr.teamAdmission t.id [u.core])) ++
    (fit.map (fun cs => Instr.teamAdmission t.id cs)).toList

/-- The happenings of a task. -/
def State.taskHappenings (s : State) (t : Task) : List Instr :=
  [Instr.gridComplete t.id, Instr.reclamationComplete t.id] ++ (if t.stage = .waiting then [Instr.queueAppend t.queue] else []) ++
    (if t.stage = .queued ∨ t.stage = .running then s.admissions t else [])

/-- The happenings of a core's record. -/
def CoreCtl.happenings (c : CoreCtl) : List Instr :=
  (match c.mcheckCause with
    | some x => [Instr.machineCheck c.core x]
    | none => []) ++ [Instr.handlerEntry c.core]

/-- The happenings of a mailbox and its court. A core goes to a court that waits for one, where a core is free. -/
def Mailbox.happenings (m : Mailbox) (free : Option (BitVec 5)) : List Instr :=
  [Instr.vservePerform m.die m.num, Instr.vcatchPerform m.die m.num, Instr.courtInstruction m.die m.num, Instr.vbrecvRead m.die m.num,
    Instr.vbsendWrite m.die m.num, Instr.courtException m.die m.num] ++
  (if m.court.any (fun c => m.spent c) then [Instr.shotClockExpiry m.die m.num] else []) ++
  (free.map (fun h => Instr.courtQuantum m.die h)).toList

/-- R303: a core of a die that no court holds. -/
def State.freeHart (s : State) (die : BitVec 4) : Option (BitVec 5) :=
  ((List.range 32).map (BitVec.ofNat 5)).find? (fun h =>
    !(s.mailboxes.any (fun m => decide (m.die = die) && m.court.any (fun c => decide (c.hart = some h)))))

/-- The commands that the head of a pair may be, and the write of its oldest completion. -/
def pairHappenings (n : BitVec 4) : List Instr :=
  [Instr.launchCommand n, Instr.cancelCommand n, Instr.preempt n, Instr.resume n, Instr.invalidate n, Instr.poolAdd n, Instr.regionDel n,
    Instr.courtStart n, Instr.courtStop n, Instr.windowOpen n, Instr.windowClose n, Instr.collective n, Instr.handlerSet n, Instr.ctxPool n,
    Instr.errRing n, Instr.attest n, Instr.debugAttach n, Instr.badOp n, Instr.completionWrite n]

/-- The happenings of a PME's queue. -/
def PmeReq.happenings (r : PmeReq) : List Instr :=
  [Instr.pmeGrant r.pme, Instr.passComplete r.pme r.id, Instr.engineAccess r.id, Instr.engineCommandComplete r.pme r.id]

/-- The happenings that the module has in hand. What comes from outside, and what only time brings, is not among them. -/
def State.happenings (s : State) : List Instr :=
  s.groups.flatMap Group.happenings ++
  s.groups.flatMap Group.appends ++
  s.bufs.map (fun b => Instr.propagate b.id) ++
  s.copies.flatMap (fun c => [Instr.engineAccess c.id, Instr.copyComplete c.id]) ++
  s.pme.flatMap PmeReq.happenings ++
  s.tasks.flatMap s.taskHappenings ++
  s.cores.flatMap CoreCtl.happenings ++
  (s.groups.filter Group.acquiring).map (fun g => Instr.acquireGrant g.id.core) ++
  s.mailboxes.flatMap (fun m => m.happenings (s.freeHart m.die)) ++
  s.migs.flatMap (fun m => [Instr.migrationCommand m.queue m.cmd, Instr.migrationSwitchover m.id]) ++
  s.regions.flatMap (fun r => (r.lit.filter LitPage.candidate).map (fun p => Instr.fadeStep r.root r.base p.index)) ++
  (s.recorders.filter (fun d => d.due)).map (fun d => Instr.checkpoint d.task) ++
  (s.bootImage.map Instr.firmwareImage).toList ++
  (List.range 16).flatMap (fun n => pairHappenings (BitVec.ofNat 4 n))

/-- What the timers bring where nothing else moves: a bin that waits for threads, a probe, and a starvation bound (R83, R259, R262). -/
def State.timeouts (s : State) : List Instr :=
  s.bins.flatMap (fun b => (((List.range 64).map (fun j => BitVec.ofNat 10 (64 * b.die + j))).filter (fun c => s.gangFits b.krec [c])).map (fun c =>
    Instr.binTimerExpiry (BitVec.ofNat 4 b.die) (b.key, b.root) c)) ++
  s.groups.flatMap (fun g => [Port.slot0, Port.slot1, Port.setter].map (fun p => Instr.echoTimeout g.id.uid p)) ++
  s.groups.map (fun g => Instr.starvationBound g.id.uid)

/-- The turn that the module takes by itself. -/
def State.pick (s : State) : Option Turn :=
  let inner := rotate (s.happenings.map Turn.happen) (s.clock / 2)
  let order := if s.clock % 2 = 0 then inner ++ s.portTurns else s.portTurns ++ inner
  (order ++ s.timeouts.map Turn.happen).find? s.changes

end Sys2Proof.Machine
end

