-- ==== Sys2Proof/Machine/Step.lean ====
section
/-! DEFINITION. One step of the module: the next turn of the agenda, or the module's own choice where the agenda is empty. -/

namespace Sys2Proof.Machine

/-- One step: the clock advances and one agent moves. -/
def step (s : State) : Host.Outcome State Fault Refusal :=
  let s := s.tick
  match s.agenda with
  | t :: rest => ({ s with agenda := rest }).take t
  | [] => match s.pick with
    | some t => s.take t
    | none => .next s

/-- The state in which the very next step runs the instruction whose bits are `w`: its bytes stand at the pc of a running group,
behind a page table that maps them, and that group has the next turn (log 10). -/
def State.withFetchWord (s : State) (nbits w : Nat) : State :=
  let lo := tableLo w
  let hi := tableHi nbits w
  let st := match tableReading lo hi with
    | some r => r.1
    | none => .hitter
  { s with
    mem := loadMemory s.mem lo hi
    g := loadGroup s.nextUid st
    port := if st = .setter then .setter else .slot0
    others := if s.g.id.present then s.g :: s.others else s.others
    nextUid := s.nextUid + 1
    agenda := [.issue s.nextUid (if st = .setter then .setter else .slot0)] }

end Sys2Proof.Machine
end

