-- ==== Sys2Proof/Safety.lean ====
section
/-! DEFINITION. What claims about the machine are stated in: a step that goes on, an instruction that issues at once, and what it leaves
as it was. -/

namespace Sys2Proof.Machine

/-- A step ends in a next state: no fault, no refusal. -/
def isNext {σ φ ρ : Type} : Host.Outcome σ φ ρ → Bool
  | .next _ => true
  | _ => false

/-- The instruction at the issue port issues in this step: it is legal there (R357), does not end a latch chain it may not end (R80), names
allotted registers (R77), written latches (R79) and set queues that hold an entry (R65) for a group on one path (R66); nothing that it
names is pending (R172); no other agent holds the issue (R119, R126, R197); and no copy fault is due (R182). -/
structure Clear (i : Instr) (s : State) : Prop where
  here : s.port = .setter ∨ (s.g.slot s.port).path.isSome = true
  legal : i.legalIn (s.g.streamAt s.port) = true
  chain : (usesOf (s.g.streamAt s.port) i).last = false ∧ (usesOf (s.g.streamAt s.port) i).pops = [] ∨
    s.goesOn i (usesOf (s.g.streamAt s.port) i) = false
  allotted : ∀ n ∈ (usesOf (s.g.streamAt s.port) i).vs, n < s.g.regs.allot
  latched : ∀ n ∈ (usesOf (s.g.streamAt s.port) i).latches, (((s.g.slot s.port).latches.getD n none).isSome) = true
  queued : ∀ n ∈ (usesOf (s.g.streamAt s.port) i).queues, (s.g.queueEntry s.port n).isSome = true
  single : (usesOf (s.g.streamAt s.port) i).queues = [] ∨ s.g.diverged = false
  free : ∀ f ∈ s.g.inflight, f.done = true ∨ f.dest.hits (usesOf (s.g.streamAt s.port) i) = false
  unheld : s.port = .setter ∨ s.g.holdsIssue s.port = false
  copies : s.copyTrap = none

/-- An instruction of a group leaves every other part of the module as it was: memory, the other groups, the other agents. -/
def OnlyGroup (s t : State) : Prop := t = { s with g := t.g }

/-- What an instruction that moves on leaves of its group, whatever it writes and wherever it goes: who the group is, its divergence stack and
exited lanes, what is in flight and in the out-queue, its other slot and its other stream, its place on chip and its count of gang pairs. -/
structure Frames (s t : State) : Prop where
  only : OnlyGroup s t
  id : t.g.id = s.g.id
  stack : t.g.stack = s.g.stack
  exited : t.g.exited = s.g.exited
  setExited : t.g.setExited = s.g.setExited
  setTrap : t.g.setTrap = s.g.setTrap
  setter : s.port ≠ .setter → t.g.setPc = s.g.setPc ∧ t.g.setWait = s.g.setWait
  mask : (s.g.slot s.port).replay = none → t.g.maskAt s.port = s.g.maskAt s.port
  slot0 : s.port ≠ .slot0 → t.g.slot0 = s.g.slot0
  slot1 : s.port ≠ .slot1 → t.g.slot1 = s.g.slot1
  traps : t.g.trapRegs = s.g.trapRegs
  inflight : t.g.inflight = s.g.inflight
  outq : t.g.outq = s.g.outq
  marks : t.g.marks = s.g.marks
  readTags : t.g.readTags = s.g.readTags
  arrivals : t.g.arrivals = s.g.arrivals
  ended : t.g.ended = s.g.ended
  pairs : t.g.pairs = s.g.pairs
  residence : t.g.stopped = s.g.stopped ∧ t.g.spilled = s.g.spilled

/-- What an instruction that retires leaves of its group, whatever it writes: all that `Frames` says, the issue age, and of its own path the
pending rejoin. -/
structure Retires (s t : State) : Prop extends Frames s t where
  rejoin : (t.g.slot s.port).path.map (fun q => (q.rejoin, q.waiting)) = (s.g.slot s.port).path.map (fun q => (q.rejoin, q.waiting))
  age : t.g.age = s.g.age

/-- The trap that a stream of a group holds for the handler (R264). -/
def Group.heldAt (g : Group) (p : Port) : Option TrapWord :=
  match p with
  | .setter => g.setTrap
  | p => (g.slot p).trap

/-- The stream at the issue port has stopped on a trap of a cause and a kind (R263, R264) whose record names an address (R268). -/
def Trapped (s t : State) (c : Cause) (kind : BitVec 2) (addr : BitVec 64) : Prop :=
  ∃ w, t.g.heldAt s.port = some w ∧ w.cause = c ∧ w.kind = kind ∧ w.pc = s.g.pcAt s.port ∧ w.mask = s.g.maskAt s.port ∧
    w.instr = s.g.pcAt s.port ∧ w.records.map (fun r => (r.2.1, r.2.2.1)) = [(c, addr)] ∧ t.g.waitAt s.port = .trapped

/-- The program counter moves past the instruction (R334). -/
def Steps (i : Instr) (s t : State) : Prop := t.g.pcAt s.port = s.g.pcAt s.port + BitVec.ofNat 64 i.len

/-- R64: the queues lose the entries that the instruction pops, and nothing else. -/
def Pops (i : Instr) (s t : State) : Prop :=
  t.g.queues = if s.port = .setter then s.g.queues else (s.g.popAll s.port (usesOf (s.g.streamAt s.port) i).pops).queues

/-- The lanes of the path in `vN` take `f`, its other lanes keep their values, its tags are clear (R206), and no other register changes. -/
structure WritesLanes (s t : State) (n : Nat) (f : Nat → Word) : Prop where
  lanes : ∀ j, j < 64 → lane (t.g.v n) j = if (s.g.maskAt s.port).getLsbD j then f j else lane (s.g.v n) j
  rest : ∀ k, k ≠ n → t.g.v k = s.g.v k
  dark : ∀ k, k < 128 → t.g.regs.dark.getLsbD k = (s.g.regs.dark.getLsbD k && decide (k ≠ n))
  absorb : ∀ k, k < 128 → t.g.regs.absorb.getLsbD k = (s.g.regs.absorb.getLsbD k && decide (k ≠ n))
  uniform : t.g.regs.s = s.g.regs.s ∧ t.g.regs.a = s.g.regs.a ∧ t.g.regs.aLaunch = s.g.regs.aLaunch
  preds : t.g.regs.p = s.g.regs.p
  allot : t.g.regs.allot = s.g.regs.allot

/-- The lanes of the path in the pair `vN:vN+1` take the halves of `f`; their tags are clear, and no other register changes. -/
structure WritesPair (s t : State) (n : Nat) (f : Nat → DWord) : Prop where
  low : ∀ j, j < 64 → lane (t.g.v n) j = if (s.g.maskAt s.port).getLsbD j then (f j).setWidth 32 else lane (s.g.v n) j
  high : ∀ j, j < 64 → lane (t.g.v (n + 1)) j = if (s.g.maskAt s.port).getLsbD j then (f j).extractLsb' 32 32 else lane (s.g.v (n + 1)) j
  rest : ∀ k, k ≠ n → k ≠ n + 1 → t.g.v k = s.g.v k
  dark : ∀ k, k < 128 → t.g.regs.dark.getLsbD k = (s.g.regs.dark.getLsbD k && decide (k ≠ n) && decide (k ≠ n + 1))
  absorb : ∀ k, k < 128 → t.g.regs.absorb.getLsbD k = (s.g.regs.absorb.getLsbD k && decide (k ≠ n) && decide (k ≠ n + 1))
  uniform : t.g.regs.s = s.g.regs.s ∧ t.g.regs.a = s.g.regs.a ∧ t.g.regs.aLaunch = s.g.regs.aLaunch
  preds : t.g.regs.p = s.g.regs.p
  allot : t.g.regs.allot = s.g.regs.allot

/-- Predicate `pN` takes `f` in the active lanes and 0 in the inactive ones (R144); the lanes of the path that a replay leaves alone keep
theirs (the model's reading of R81, log 69). A write to `p7` is ignored (R74). No other register changes. -/
structure WritesPred (s t : State) (n : Nat) (f : Nat → Bool) : Prop where
  lanes : n ≠ 7 → ∀ j, j < 64 → (t.g.p n).getLsbD j =
    if (s.g.maskAt s.port).getLsbD j then f j else ((s.g.p n).getLsbD j && (s.g.pathMask s.port).getLsbD j)
  rest : ∀ k, k ≠ n → t.g.p k = s.g.p k
  ones : t.g.p 7 = BitVec.allOnes 64
  lanesKept : t.g.regs.v = s.g.regs.v ∧ t.g.regs.dark = s.g.regs.dark ∧ t.g.regs.absorb = s.g.regs.absorb
  uniform : t.g.regs.s = s.g.regs.s ∧ t.g.regs.a = s.g.regs.a ∧ t.g.regs.aLaunch = s.g.regs.aLaunch
  allot : t.g.regs.allot = s.g.regs.allot

/-- `sN` takes a value; no other register changes. -/
structure WritesS (s t : State) (n : Nat) (x : DWord) : Prop where
  value : t.g.s n = x
  rest : ∀ k, k ≠ n → t.g.s k = s.g.s k
  lanesKept : t.g.regs.v = s.g.regs.v ∧ t.g.regs.dark = s.g.regs.dark ∧ t.g.regs.absorb = s.g.regs.absorb
  setter : t.g.regs.a = s.g.regs.a ∧ t.g.regs.aLaunch = s.g.regs.aLaunch
  preds : t.g.regs.p = s.g.regs.p
  allot : t.g.regs.allot = s.g.regs.allot

/-- `aN` takes a value in the setter's view; the hitter's view and every other register stay (R62). -/
structure WritesA (s t : State) (n : Nat) (x : DWord) : Prop where
  value : t.g.a n = x
  rest : ∀ k, k ≠ n → t.g.a k = s.g.a k
  lanesKept : t.g.regs.v = s.g.regs.v ∧ t.g.regs.dark = s.g.regs.dark ∧ t.g.regs.absorb = s.g.regs.absorb
  hitter : t.g.regs.s = s.g.regs.s ∧ t.g.regs.aLaunch = s.g.regs.aLaunch
  preds : t.g.regs.p = s.g.regs.p
  allot : t.g.regs.allot = s.g.regs.allot

/-- R78: a lane result enters the latches of the slot: the new one, which is 0 in the lanes outside the path, then the three before it. In a
replay the lanes that it leaves alone keep there what the first issue gave them (the model's reading of R81, log 69). -/
def Latches (s t : State) (f : Nat → Word) : Prop :=
  ∃ r : Wide, (∀ j, j < 64 → lane r j = if (s.g.pathMask s.port).getLsbD j then f j else 0) ∧
    (t.g.slot s.port).latches = #v[some (s.g.latched s.port r), (s.g.slot s.port).latches.getD 0 none, (s.g.slot s.port).latches.getD 1 none,
      (s.g.slot s.port).latches.getD 2 none]

end Sys2Proof.Machine
end

