-- ==== Sys2Proof/WellFormed.lean ====
section
/-! DEFINITION. When an instruction is well formed: it is an encoded row whose fields are within their limits in the stream
(R351, R352, R357). -/

namespace Sys2Proof

/-- R357: the instruction stands for words that the stream accepts. -/
def Instr.wf (st : Stream) (i : Instr) : Bool := i.legalIn st

/-- R351: some stream accepts the instruction. -/
def Instr.wfSome (i : Instr) : Bool := i.wf .hitter || i.wf .setter || i.wf .handler

end Sys2Proof
end

