-- ==== Sys2Proof/Certificates/Slice0/Obligations.lean ====
section
/-! DEFINITION. The statements for the provers. -/

namespace Sys2Proof.Claims

open Sys2Proof.Machine

/-! ### What each instruction computes, in the words of its rule -/

/-- R344: a condition of `cmp` on exact values, by its code. -/
def condition (c : Nat) (x y : Int) : Bool :=
  match c with
  | 0 => decide (x = y)
  | 1 => decide (x ≠ y)
  | 2 => decide (x < y)
  | 3 => decide (x ≤ y)
  | 4 => decide (y < x)
  | _ => decide (y ≤ x)

/-- R153: register `a` of the source lane, where it is a lane of the group on the path, else the reading lane's own value. -/
def fromLane (g : Group) (p : Port) (a j : Nat) (k : Int) : Word :=
  if 0 ≤ k ∧ k < 64 ∧ (g.pathMask p).getLsbD k.toNat = true then lane (g.v a) k.toNat else lane (g.v a) j

/-- R152: the operands of a 16-bit form. -/
def first16 (d : BitVec 6) : Group → Port → Nat → Word := fun g _ j => lane (g.v d.toNat) j
def second16 (sc : BitVec 5) : Group → Port → Nat → Word := fun g p j =>
  if sc.toNat < 28 then lane (g.v sc.toNat) j else lane (g.latch p (sc.toNat - 28)) j

/-- The integer operations on exact values. -/
def sum (x y : Word) : Word := BitVec.ofInt 32 (x.toInt + y.toInt)
def difference (x y : Word) : Word := BitVec.ofInt 32 (x.toInt - y.toInt)
def product (x y : Word) : Word := BitVec.ofInt 32 (x.toInt * y.toInt)
def leftShift (x y : Word) : Word := BitVec.ofNat 32 (x.toNat * 2 ^ (y.toNat % 256))
def rightShift (x y : Word) : Word := BitVec.ofNat 32 (x.toNat / 2 ^ (y.toNat % 256))
def signedShift (x y : Word) : Word := BitVec.ofInt 32 (x.toInt / 2 ^ (y.toNat % 256))
def least (x y : Word) : Word := BitVec.ofInt 32 (min x.toInt y.toInt)
def greatest (x y : Word) : Word := BitVec.ofInt 32 (max x.toInt y.toInt)

/-- The lane results without flags: the destination, whether the register write is suppressed, and the value in a lane. -/
def laneValue : Instr → Option (Nat × Bool × (Group → Port → Nat → Word))
  | .abs d w a => some (d.toNat, w, fun g p j => BitVec.ofInt 32 |(g.source p a j).toInt|)
  | .neg d w a => some (d.toNat, w, fun g p j => BitVec.ofInt 32 (-(g.source p a j).toInt))
  | .not d w a => some (d.toNat, w, fun g p j => BitVec.ofNat 32 (2 ^ 32 - 1 - (g.source p a j).toNat))
  | .clz d w a => some (d.toNat, w, fun g p j => clzOf (g.source p a j))
  | .popc d w a => some (d.toNat, w, fun g p j => popcOf (g.source p a j))
  | .brev d w a => some (d.toNat, w, fun g p j => brevOf (g.source p a j))
  | .mov d w a => some (d.toNat, w, fun g p j => g.source p a j)
  | .movi d w i => some (d.toNat, w, fun _ _ _ => BitVec.ofNat 32 i.toNat)
  | .movh d i => some (d.toNat, false, fun g _ j => BitVec.ofNat 32 (i.toNat * 2 ^ 16 + (lane (g.v d.toNat) j).toNat % 2 ^ 16))
  | .add d w a b => some (d.toNat, w, fun g p j => sum (g.source p a j) (g.source p b j))
  | .sub d w a b => some (d.toNat, w, fun g p j => difference (g.source p a j) (g.source p b j))
  | .mul d w a b => some (d.toNat, w, fun g p j => product (g.source p a j) (g.source p b j))
  | .and d w a b => some (d.toNat, w, fun g p j => g.source p a j &&& g.source p b j)
  | .or d w a b => some (d.toNat, w, fun g p j => g.source p a j ||| g.source p b j)
  | .xor d w a b => some (d.toNat, w, fun g p j => g.source p a j ^^^ g.source p b j)
  | .shl d w a b => some (d.toNat, w, fun g p j => leftShift (g.source p a j) (g.source p b j))
  | .shr d w a b => some (d.toNat, w, fun g p j => rightShift (g.source p a j) (g.source p b j))
  | .sar d w a b => some (d.toNat, w, fun g p j => signedShift (g.source p a j) (g.source p b j))
  | .mulhS32 d w a b => some (d.toNat, w, fun g p j => BitVec.ofInt 32 ((g.source p a j).toInt * (g.source p b j).toInt / 2 ^ 32))
  | .mulhZ32 d w a b => some (d.toNat, w, fun g p j => BitVec.ofNat 32 ((g.source p a j).toNat * (g.source p b j).toNat / 2 ^ 32))
  | .minS32 d w a b => some (d.toNat, w, fun g p j => least (g.source p a j) (g.source p b j))
  | .maxS32 d w a b => some (d.toNat, w, fun g p j => greatest (g.source p a j) (g.source p b j))
  | .minZ32 d w a b => some (d.toNat, w, fun g p j => BitVec.ofNat 32 (min (g.source p a j).toNat (g.source p b j).toNat))
  | .maxZ32 d w a b => some (d.toNat, w, fun g p j => BitVec.ofNat 32 (max (g.source p a j).toNat (g.source p b j).toNat))
  | .bfxS32 d w a b => some (d.toNat, w, fun g p j => bfxSOf (g.source p a j) (g.source p b j))
  | .bfxZ32 d w a b => some (d.toNat, w, fun g p j => bfxZOf (g.source p a j) (g.source p b j))
  | .bfi d a b => some (d.toNat, false, fun g p j => bfiOf (lane (g.v d.toNat) j) (g.source p a j) (g.source p b j))
  | .fsh d w a b => some (d.toNat, w, fun g p j => BitVec.ofNat 32
      (((lane (g.v (a.toNat + 1)) j).toNat * 2 ^ 32 + (lane (g.v a.toNat) j).toNat) / 2 ^ ((g.source p b j).toNat % 32)))
  | .cmpS32V d c a b => some (d.toNat, false, fun g p j =>
      if condition c.toNat (g.source p a j).toInt (g.source p b j).toInt then 0xFFFF_FFFF#32 else 0#32)
  | .cmpZ32V d c a b => some (d.toNat, false, fun g p j =>
      if condition c.toNat (g.source p a j).toNat (g.source p b j).toNat then 0xFFFF_FFFF#32 else 0#32)
  | .sel d q a b => some (d.toNat, false, fun g p j => if (g.p q.toNat).getLsbD j then g.source p a j else g.source p b j)
  | .add16 sc d => some (d.toNat, false, fun g p j => sum (first16 d g p j) (second16 sc g p j))
  | .sub16 sc d => some (d.toNat, false, fun g p j => difference (first16 d g p j) (second16 sc g p j))
  | .mul16 sc d => some (d.toNat, false, fun g p j => product (first16 d g p j) (second16 sc g p j))
  | .and16 sc d => some (d.toNat, false, fun g p j => first16 d g p j &&& second16 sc g p j)
  | .or16 sc d => some (d.toNat, false, fun g p j => first16 d g p j ||| second16 sc g p j)
  | .xor16 sc d => some (d.toNat, false, fun g p j => first16 d g p j ^^^ second16 sc g p j)
  | .shl16 sc d => some (d.toNat, false, fun g p j => leftShift (first16 d g p j) (second16 sc g p j))
  | .shr16 sc d => some (d.toNat, false, fun g p j => rightShift (first16 d g p j) (second16 sc g p j))
  | .minS3216 sc d => some (d.toNat, false, fun g p j => least (first16 d g p j) (second16 sc g p j))
  | .maxS3216 sc d => some (d.toNat, false, fun g p j => greatest (first16 d g p j) (second16 sc g p j))
  | .mov16 sc d => some (d.toNat, false, fun g p j => second16 sc g p j)
  | .shflIdx d w a b => some (d.toNat, w, fun g p j => fromLane g p a.toNat j ((g.source p b j).toNat % 64 : Nat))
  | .shflUp d w a r b => some (d.toNat, w, fun g p j => fromLane g p a.toNat j ((j : Int) - g.distance p r b))
  | .shflDn d w a r b => some (d.toNat, w, fun g p j => fromLane g p a.toNat j ((j : Int) + g.distance p r b))
  | .shflXor d w a r b => some (d.toNat, w, fun g p j => fromLane g p a.toNat j (Nat.xor j (g.distance p r b)))
  | .bcast d w a b => some (d.toNat, w, fun g p j => fromLane g p a.toNat j ((g.uniform p b).toNat % 64 : Nat))
  | _ => none

end Sys2Proof.Claims

open Sys2Proof Sys2Proof.Machine

/-- R78, R110, R144, R146: a lane instruction without flags that is clear to issue writes its value to the lanes of the path of its destination
(unless the write is suppressed) and to the latches, moves past itself, and leaves everything else as it was. -/
def Obligations.LaneResults : Prop :=
  ∀ (i : Instr) (s : State) (d : Nat) (w : Bool) (f : Group → Port → Nat → Word), Claims.laneValue i = some (d, w, f) →
    s.port ≠ .setter → Clear i s →
    ∃ t, exec i s = .next t ∧ Retires s t ∧ Steps i s t ∧ Pops i s t ∧ Latches s t (f s.g s.port) ∧ t.g.modes = s.g.modes ∧
      (if w then t.g.regs = s.g.regs else WritesLanes s t d (f s.g s.port))

namespace Sys2Proof.Claims

open Sys2Proof.Machine

/-! ### Lane results with flags -/

/-- R148, R398: one rounding of an operation on the values of two words of a format, under the modes of the port. -/
def twoValues (f : Fmt) (op : Nat → Val → Val → Val × BitVec 6) (x y : Group → Port → Nat → Nat) : Group → Port → Nat → Word × BitVec 6 :=
  fun g p j =>
    let v := op (fmodeRM (g.fmode p)) (f.read (g.fmode p) (x g p j)) (f.read (g.fmode p) (y g p j))
    let r := f.round (g.rounding p j 0) v.1
    (BitVec.ofNat 32 r.1, v.2 ||| r.2)

/-- R398: the fused product and sum of three words, rounded once. -/
def threeValues (f : Fmt) (x y z : Group → Port → Nat → Nat) : Group → Port → Nat → Word × BitVec 6 :=
  fun g p j =>
    let v := Val.fma (fmodeRM (g.fmode p)) (f.read (g.fmode p) (x g p j)) (f.read (g.fmode p) (y g p j)) (f.read (g.fmode p) (z g p j))
    let r := f.round (g.rounding p j 0) v.1
    (BitVec.ofNat 32 r.1, v.2 ||| r.2)

/-- R149: the smaller or the larger of two values, which is not rounded. -/
def oneOfTwo (f : Fmt) (isMax : Bool) (x y : Group → Port → Nat → Nat) : Group → Port → Nat → Word × BitVec 6 :=
  fun g p j =>
    let v := Val.minmax isMax (f.read (g.fmode p) (x g p j)) (f.read (g.fmode p) (y g p j))
    (BitVec.ofNat 32 (f.codeOf v.1), v.2)

/-- R401: a condition of `fcmp` as a lane word. -/
def compared (f : Fmt) (c : BitVec 3) (x y : Group → Port → Nat → Nat) : Group → Port → Nat → Bool × BitVec 6 :=
  fun g p j => fcmpOf c (f.read (g.fmode p) (x g p j)) (f.read (g.fmode p) (y g p j))

def asWord (f : Group → Port → Nat → Bool × BitVec 6) : Group → Port → Nat → Word × BitVec 6 :=
  fun g p j => (if (f g p j).1 then 0xFFFF_FFFF#32 else 0#32, (f g p j).2)

/-- The numbers in the operands: a source code, a lane of `vN`, the second operand of a 16-bit form. -/
def num (c : BitVec 8) : Group → Port → Nat → Nat := fun g p j => (g.source p c j).toNat
def reg (n : Nat) : Group → Port → Nat → Nat := fun g _ j => (lane (g.v n) j).toNat
def num16 (sc : BitVec 5) : Group → Port → Nat → Nat := fun g p j => (second16 sc g p j).toNat

/-- R397: the format of a 16-bit float instruction. -/
def half (t : BitVec 3) : Fmt := if t.toNat = 0 then Fmt.f16 else Fmt.bf16

def minus (rm : Nat) (a b : Val) : Val × BitVec 6 := a.add rm b.neg
def plus (rm : Nat) (a b : Val) : Val × BitVec 6 := a.add rm b
def times (_ : Nat) (a b : Val) : Val × BitVec 6 := a.mul b

/-- R108, R480: the four sub-elements of a lane of a packed instruction. -/
def packedLane (op : PackedOp) (d a b f : BitVec 6) : Group → Port → Nat → Word × BitVec 6 := fun g p j =>
  let byte := fun (n : BitVec 6) (k : Nat) => (lane (g.v n.toNat) j).toNat / 256 ^ k % 256
  let one := fun k => packedOf op (typeOf f) (g.rounding p j k) (byte a k) (byte b k) (byte d k)
  (BitVec.ofNat 32 ((one 0).1 + 256 * (one 1).1 + 256 ^ 2 * (one 2).1 + 256 ^ 3 * (one 3).1),
    (one 0).2 ||| (one 1).2 ||| (one 2).2 ||| (one 3).2)

/-- A packed instruction consumes a draw where it rounds a float type under SR (R99, R480). -/
def packedDraws (rounds : Bool) (f : BitVec 6) (g : Group) (p : Port) : Bool :=
  g.drawing p && rounds && (match typeOf f with
    | .flt _ => true
    | .int _ _ => false)

/-- The lane results with flags: the destination, whether the register write is suppressed, whether a draw is consumed (R99), and the value and
the flags of a lane. -/
def flagValue : Instr → Option (Nat × Bool × (Group → Port → Bool) × (Group → Port → Nat → Word × BitVec 6))
  | .fadd d w a b => some (d.toNat, w, Group.drawing, twoValues Fmt.f32 plus (num a) (num b))
  | .fsub d w a b => some (d.toNat, w, Group.drawing, twoValues Fmt.f32 minus (num a) (num b))
  | .fmul d w a b => some (d.toNat, w, Group.drawing, twoValues Fmt.f32 times (num a) (num b))
  | .ffma d a b => some (d.toNat, false, Group.drawing, threeValues Fmt.f32 (num a) (num b) (reg d.toNat))
  | .fmin d w a b => some (d.toNat, w, fun _ _ => false, oneOfTwo Fmt.f32 false (num a) (num b))
  | .fmax d w a b => some (d.toNat, w, fun _ _ => false, oneOfTwo Fmt.f32 true (num a) (num b))
  | .fadd16 sc d => some (d.toNat, false, Group.drawing, twoValues Fmt.f32 plus (reg d.toNat) (num16 sc))
  | .fsub16 sc d => some (d.toNat, false, Group.drawing, twoValues Fmt.f32 minus (reg d.toNat) (num16 sc))
  | .fmul16 sc d => some (d.toNat, false, Group.drawing, twoValues Fmt.f32 times (reg d.toNat) (num16 sc))
  | .fmin16 sc d => some (d.toNat, false, fun _ _ => false, oneOfTwo Fmt.f32 false (reg d.toNat) (num16 sc))
  | .fmax16 sc d => some (d.toNat, false, fun _ _ => false, oneOfTwo Fmt.f32 true (reg d.toNat) (num16 sc))
  | .faddH d a b t => some (d.toNat, false, Group.drawing, twoValues (half t) plus (reg a.toNat) (reg b.toNat))
  | .fsubH d a b t => some (d.toNat, false, Group.drawing, twoValues (half t) minus (reg a.toNat) (reg b.toNat))
  | .fmulH d a b t => some (d.toNat, false, Group.drawing, twoValues (half t) times (reg a.toNat) (reg b.toNat))
  | .ffmaH d a b t => some (d.toNat, false, Group.drawing, threeValues (half t) (reg a.toNat) (reg b.toNat) (reg d.toNat))
  | .fminH d a b t => some (d.toNat, false, fun _ _ => false, oneOfTwo (half t) false (reg a.toNat) (reg b.toNat))
  | .fmaxH d a b t => some (d.toNat, false, fun _ _ => false, oneOfTwo (half t) true (reg a.toNat) (reg b.toNat))
  | .fcmpF32V d c a b => some (d.toNat, false, fun _ _ => false, asWord (compared Fmt.f32 c (num a) (num b)))
  | .fcmpF16V d c a b => some (d.toNat, false, fun _ _ => false, asWord (compared Fmt.f16 c (num a) (num b)))
  | .fcmpBf16V d c a b => some (d.toNat, false, fun _ _ => false, asWord (compared Fmt.bf16 c (num a) (num b)))
  | .madS32 d a b => some (d.toNat, false, fun _ _ => false, fun g p j =>
      accS32 (g.fmode p) ((lane (g.v d.toNat) j).toInt + (g.source p a j).toInt * (g.source p b j).toInt))
  | .madZ32 d a b => some (d.toNat, false, fun _ _ => false, fun g p j =>
      accZ32 (g.fmode p) ((lane (g.v d.toNat) j).toNat + (g.source p a j).toNat * (g.source p b j).toNat : Nat))
  | .qnt d a b f => some (d.toNat, false, Group.drawing, fun g p j =>
      let x := (Fmt.f32.read (g.fmode p) (reg a.toNat g p j)).mul (Fmt.f32.read (g.fmode p) (reg b.toNat g p j))
      let r := (typeOf f).round (g.rounding p j 0) x.1
      (BitVec.ofNat 32 r.1, x.2 ||| r.2))
  | .dqnt d a b f => some (d.toNat, false, Group.drawing, fun g p j =>
      let x := ((typeOf f).decode (reg a.toNat g p j)).mul (Fmt.f32.read (g.fmode p) (reg b.toNat g p j))
      let r := Fmt.f32.round (g.rounding p j 0) x.1
      (BitVec.ofNat 32 r.1, x.2 ||| r.2))
  | .cvt d a t f => if is64Type f then none else some (d.toNat, false, fun g p => g.drawing p && roundingPair (typeOf f) (typeOf t), fun g p j =>
      let r := cvtOf (typeOf f) (typeOf t) (g.fmode p) (g.rounding p j 0) (if is64Type t then (g.pairV a.toNat j).toNat else reg a.toNat g p j)
      (BitVec.ofNat 32 r.1, r.2))
  | .lred d a q f => some (d.toNat, false, fun g p => g.drawing p && decide (f.toNat = 2), fun g p _ =>
      reduce f.toNat (g.fmode p) (g.rounding p (lowest (g.pathMask p)) 0)
        ((members (g.pathMask p &&& g.p q.toNat)).map (fun k => lane (g.v a.toNat) k)))
  | .scan x d a q f => some (d.toNat, false, fun g p => g.drawing p && decide (f.toNat = 2), fun g p j =>
      reduce f.toNat (g.fmode p) (g.rounding p j 0)
        (((members (g.pathMask p &&& g.p q.toNat)).filter (fun k => if x then decide (k < j) else decide (k ≤ j))).map
          (fun k => lane (g.v a.toNat) k)))
  | .rng d w => some (d.toNat, w, fun _ _ => true, fun g p j => (BitVec.ofNat 32 (g.draw p j 0), 0))
  | .xadd d a b f => some (d.toNat, false, packedDraws true f, packedLane .add d a b f)
  | .xmul d a b f => some (d.toNat, false, packedDraws true f, packedLane .mul d a b f)
  | .xfma d a b f => some (d.toNat, false, packedDraws true f, packedLane .fma d a b f)
  | .xmax d a b f => some (d.toNat, false, packedDraws false f, packedLane .max d a b f)
  | .xmin d a b f => some (d.toNat, false, packedDraws false f, packedLane .min d a b f)
  | _ => none

/-- The predicate results: the destination, and the truth and the flags of a lane. -/
def predValue : Instr → Option (Nat × (Group → Port → Nat → Bool × BitVec 6))
  | .cmpS32P d c a b => some (d.toNat, fun g p j => (condition c.toNat (g.source p a j).toInt (g.source p b j).toInt, 0))
  | .cmpZ32P d c a b => some (d.toNat, fun g p j => (condition c.toNat (g.source p a j).toNat (g.source p b j).toNat, 0))
  | .fcmpF32P d c a b => some (d.toNat, compared Fmt.f32 c (num a) (num b))
  | .fcmpF16P d c a b => some (d.toNat, compared Fmt.f16 c (num a) (num b))
  | .fcmpBf16P d c a b => some (d.toNat, compared Fmt.bf16 c (num a) (num b))
  | .voteBall a q => some (q.toNat, fun g _ j => (decide (lane (g.v a.toNat) j ≠ 0), 0))
  | .voteAny a q => some (q.toNat, fun g p _ => (decide (∃ k ∈ members (g.pathMask p), lane (g.v a.toNat) k ≠ 0), 0))
  | .voteAll a q => some (q.toNat, fun g p _ => (decide (∀ k ∈ members (g.pathMask p), lane (g.v a.toNat) k ≠ 0), 0))
  | .voteEq a q => some (q.toNat, fun g p _ =>
      (decide (∀ k ∈ members (g.pathMask p), lane (g.v a.toNat) k = lane (g.v a.toNat) (lowest (g.pathMask p))), 0))
  | .elect q => some (q.toNat, fun g p j => (decide (j = lowest (g.pathMask p)), 0))
  | _ => none

/-- R364, R435, R471: the pair results: the destination and the value of a lane. -/
def pairValue : Instr → Option (Nat × (Group → Port → Nat → DWord))
  | .addPair d a b => some (d.toNat, fun g p j => BitVec.ofInt 64 ((g.pair p a j).toInt + (g.pair p b j).toInt))
  | .subPair d a b => some (d.toNat, fun g p j => BitVec.ofInt 64 ((g.pair p a j).toInt - (g.pair p b j).toInt))
  | .mulPair d a b => some (d.toNat, fun g p j => BitVec.ofInt 64 ((g.pair p a j).toInt * (g.pair p b j).toInt))
  | _ => none

/-- R63, R432, R446: what an instruction of the setter puts into an `a` register. -/
def setterValue : Instr → Option (Nat × (Group → DWord))
  | .add d _ a b => some (d.toNat, fun g => BitVec.ofNat 64 ((g.a a.toNat).toNat + (g.a b.toNat).toNat))
  | .sub d _ a b => some (d.toNat, fun g => BitVec.ofInt 64 ((g.a a.toNat).toNat - (g.a b.toNat).toNat : Int))
  | .mul d _ a b => some (d.toNat, fun g => BitVec.ofNat 64 ((g.a a.toNat).toNat * (g.a b.toNat).toNat))
  | .and d _ a b => some (d.toNat, fun g => g.a a.toNat &&& g.a b.toNat)
  | .or d _ a b => some (d.toNat, fun g => g.a a.toNat ||| g.a b.toNat)
  | .xor d _ a b => some (d.toNat, fun g => g.a a.toNat ^^^ g.a b.toNat)
  | .shl d _ a b => some (d.toNat, fun g => BitVec.ofNat 64 ((g.a a.toNat).toNat * 2 ^ ((g.a b.toNat).toNat % 256)))
  | .shr d _ a b => some (d.toNat, fun g => BitVec.ofNat 64 ((g.a a.toNat).toNat / 2 ^ ((g.a b.toNat).toNat % 256)))
  | .mov d _ a => some (d.toNat, fun g => g.a a.toNat)
  | .rdst d n _ => some (d.toNat, fun g => g.stateReg n.toNat 0)
  | _ => none

/-- R446: `rdst` to an `s` register reads the lane of the lowest member of the path. -/
def uniformValue : Instr → Option (Nat × (Group → Port → DWord))
  | .movS d a => some (d.toNat, fun g p => g.oneValue p a)
  | .movHi d a => some (d.toNat, fun g p => BitVec.ofNat 64 ((g.oneValue p a).toNat % 2 ^ 32 * 2 ^ 32 + (g.s d.toNat).toNat % 2 ^ 32))
  | .rdst d n b => if b = 1#8 then some (d.toNat, fun g p => g.stateReg n.toNat (lowest (g.pathMask p))) else none
  | _ => none

end Sys2Proof.Claims

/-- R78, R104, R105, R144, R148: a lane instruction with flags that is clear to issue: as `LaneResults`, and it ORs the flags of the lanes of the
path into FFLAGS, and advances RNGCTR by 1 where it consumes a draw and is not replayed (R99, R269). -/
def Obligations.FlaggedLaneResults : Prop :=
  ∀ (i : Instr) (s : State) (d : Nat) (w : Bool) (draws : Group → Port → Bool) (f : Group → Port → Nat → Word × BitVec 6),
    Claims.flagValue i = some (d, w, draws, f) → s.port ≠ .setter → Clear i s →
    ∃ t, exec i s = .next t ∧ Retires s t ∧ Steps i s t ∧ Pops i s t ∧ Latches s t (fun j => (f s.g s.port j).1) ∧
      t.g.modes = { s.g.modes with
        fflags := s.g.modes.fflags ||| laneFlags (s.g.maskAt s.port) (fun j => (f s.g s.port j).2)
        rngctr := if draws s.g s.port && (s.g.slot s.port).replay.isNone then s.g.modes.rngctr + 1 else s.g.modes.rngctr } ∧
      (if w then t.g.regs = s.g.regs else WritesLanes s t d (fun j => (f s.g s.port j).1))

/-- R74, R104, R144, R157, R382, R392, R401: an instruction that writes a predicate: the active lanes take their
values, and the inactive ones 0. The lanes of the path that a replay leaves alone keep theirs, by the model's choice (log 69). -/
def Obligations.PredicateResults : Prop :=
  ∀ (i : Instr) (s : State) (d : Nat) (f : Group → Port → Nat → Bool × BitVec 6), Claims.predValue i = some (d, f) →
    s.port ≠ .setter → Clear i s →
    ∃ t, exec i s = .next t ∧ Retires s t ∧ Steps i s t ∧ Pops i s t ∧ WritesPred s t d (fun j => (f s.g s.port j).1) ∧
      t.g.modes = { s.g.modes with fflags := s.g.modes.fflags ||| laneFlags (s.g.maskAt s.port) (fun j => (f s.g s.port j).2) }

/-- R145, R364, R385, R435, R471: The 64-bit integer instructions on pairs. `cvt` to a 64-bit type writes a pair, ORs its flags in, and
consumes a draw for a rounding pair under SR. -/
def Obligations.PairResults : Prop :=
  (∀ (i : Instr) (s : State) (d : Nat) (f : Group → Port → Nat → DWord), Claims.pairValue i = some (d, f) →
    s.port ≠ .setter → Clear i s →
    ∃ t, exec i s = .next t ∧ Retires s t ∧ Steps i s t ∧ Pops i s t ∧ WritesPair s t d (f s.g s.port) ∧ t.g.modes = s.g.modes) ∧
  (∀ (d a c f : BitVec 6) (s : State), is64Type f = true → s.port ≠ .setter → Clear (.cvt d a c f) s →
    let x := fun j => cvtOf (typeOf f) (typeOf c) (s.g.fmode s.port) (s.g.rounding s.port j 0)
      (if is64Type c then (s.g.pairV a.toNat j).toNat else (lane (s.g.v a.toNat) j).toNat)
    ∃ t, exec (.cvt d a c f) s = .next t ∧ Retires s t ∧ Steps (.cvt d a c f) s t ∧
      WritesPair s t d.toNat (fun j => BitVec.ofNat 64 (x j).1) ∧
      t.g.modes = { s.g.modes with
        fflags := s.g.modes.fflags ||| laneFlags (s.g.maskAt s.port) (fun j => (x j).2)
        rngctr := if s.g.drawing s.port && roundingPair (typeOf f) (typeOf c) && (s.g.slot s.port).replay.isNone
          then s.g.modes.rngctr + 1 else s.g.modes.rngctr })

/-- R110, R364, R471: `add.wide` and `sub.wide` on the 4,096 bits of a wide pair, in every lane, whatever the path mask. -/
def Obligations.WideResults : Prop :=
  ∀ (d : BitVec 7) (a b : BitVec 8) (s : State), s.port ≠ .setter →
    (Clear (.addWide d a b) s → ∃ t, exec (.addWide d a b) s = .next t ∧ Retires s t ∧ Steps (.addWide d a b) s t ∧
      t.g.v (d.toNat + 1) ++ t.g.v d.toNat = (s.g.v (a.toNat + 1) ++ s.g.v a.toNat) + (s.g.v (b.toNat + 1) ++ s.g.v b.toNat) ∧
      (∀ k, k ≠ d.toNat → k ≠ d.toNat + 1 → t.g.v k = s.g.v k) ∧ t.g.regs.s = s.g.regs.s ∧ t.g.regs.a = s.g.regs.a ∧
      t.g.regs.p = s.g.regs.p ∧ t.g.modes = s.g.modes) ∧
    (Clear (.subWide d a b) s → ∃ t, exec (.subWide d a b) s = .next t ∧ Retires s t ∧ Steps (.subWide d a b) s t ∧
      t.g.v (d.toNat + 1) ++ t.g.v d.toNat = (s.g.v (a.toNat + 1) ++ s.g.v a.toNat) - (s.g.v (b.toNat + 1) ++ s.g.v b.toNat) ∧
      (∀ k, k ≠ d.toNat → k ≠ d.toNat + 1 → t.g.v k = s.g.v k) ∧ t.g.regs.s = s.g.regs.s ∧ t.g.regs.a = s.g.regs.a ∧
      t.g.regs.p = s.g.regs.p ∧ t.g.modes = s.g.modes)

/-- R62, R63, R432, R452: an instruction of the setter that writes an `a` register, 64 bits wide. -/
def Obligations.SetterResults : Prop :=
  ∀ (i : Instr) (s : State) (d : Nat) (f : Group → DWord), Claims.setterValue i = some (d, f) → s.port = .setter → Clear i s →
    ∃ t, exec i s = .next t ∧ Retires s t ∧ Steps i s t ∧ WritesA s t d (f s.g) ∧ t.g.queues = s.g.queues ∧ t.g.modes = s.g.modes

/-- R433, R446: `mov` and `mov.hi` to an `s` register, and `rdst` to one. `rdst` to a lane register gives each lane of the path the low 32
bits of the state register as that lane reads it. -/
def Obligations.UniformResults : Prop :=
  (∀ (i : Instr) (s : State) (d : Nat) (f : Group → Port → DWord), Claims.uniformValue i = some (d, f) → s.port ≠ .setter → Clear i s →
    ∃ t, exec i s = .next t ∧ Retires s t ∧ Steps i s t ∧ Pops i s t ∧ WritesS s t d (f s.g s.port) ∧ t.g.modes = s.g.modes) ∧
  (∀ (d : BitVec 7) (n b : BitVec 8) (s : State), b = 0#8 → s.port ≠ .setter → Clear (.rdst d n b) s →
    ∃ t, exec (.rdst d n b) s = .next t ∧ Retires s t ∧ Steps (.rdst d n b) s t ∧
      WritesLanes s t d.toNat (fun j => (s.g.stateReg n.toNat j).setWidth 32) ∧ t.g.modes = s.g.modes)

namespace Sys2Proof.Claims

open Sys2Proof.Machine

/-- R478: the state registers after `wrst` to a register of the ordinary encoding, reserved bits dropped. PRIO.LEVEL takes the smaller of the whole
value and PRIO.CAP (the model's choice, log 85). -/
def modesAfter (n : Nat) (x : DWord) (m : Modes) : Modes :=
  match n with
  | 8 => { m with fmode := x &&& 0xF7#64 }
  | 9 => { m with fflags := x &&& 0x3F#64 }
  | 10 => { m with sticky := m.sticky &&& ~~~x }
  | 11 => { m with gmode := x &&& 0xBF7F#64 }
  | 12 => { m with rngseed := x }
  | 13 => { m with rngctr := x }
  | 14 => { m with prioLevel := BitVec.ofNat 3 (min x.toNat m.prioCap.toNat) }
  | 15 => { m with bintime := x &&& 0xFFFF_FFFF#64 }
  | _ => m

/-- R112, R478: a value of `wrst` that is Illegal Instruction. -/
def badValue (n : Nat) (x : DWord) : Prop :=
  (n = 8 ∧ 6 ≤ x.toNat % 8) ∨
  (n = 11 ∧ ¬(x.toNat % 128 = 0 ∧ x.toNat / 256 % 64 = 0 ∨
    8 ≤ x.toNat % 128 ∧ x.toNat % 128 ≤ 64 ∧ 1 ≤ x.toNat / 256 % 64 ∧ x.toNat / 256 % 64 + 2 ≤ x.toNat % 128 ∧
      x.toNat % 128 ≤ x.toNat / 256 % 64 + 32))

/-- The instructions that touch nothing but the set queues that they pop: `nop`; `release` of an allotment that is 24 or of the handler slot;
`acquire` of a full allotment; `join` away from the rejoin of its lanes; `wait` at or below its threshold, which a parked one keeps from its issue. -/
def quiet (i : Instr) (s : State) : Prop :=
  i = .nop ∨
  (i = .release ∧ s.g.diverged = false ∧ (s.g.id.kind ≠ .ordinary ∨ s.g.regs.allot ≤ 24)) ∨
  (i = .acquire ∧ s.g.diverged = false ∧ s.g.id.full ≤ s.g.regs.allot) ∨
  (i = .join ∧ ∀ r u a, recordFor (s.g.maskAt s.port) s.g.stack = some (r, u, a) → s.g.pcAt s.port ≠ r) ∨
  (∃ d a, i = .wait d a ∧ s.g.counter (d.setWidth 3) ≤ (match s.g.waitAt s.port with
    | .counter _ thr => thr.toNat
    | _ => s.g.operand32 s.port a))

end Sys2Proof.Claims

/-- R258, R482: `yield` is a group switch of its slot (R79): its latches are cleared, and the group's issue age is the present clock; in the
handler slot it does nothing. No other state changes: the path but its pc, the registers, the modes, the set queues, the accesses and every other
group stay. Its word is 0x0000_00E3 in the hitter; in the setter it is Illegal Instruction. -/
def Obligations.YieldSwitches : Prop :=
  (∀ (s : State), s.port ≠ .setter → Clear .yield s →
    ∃ t, exec .yield s = .next t ∧ Frames s t ∧ Steps .yield s t ∧ t.g.regs = s.g.regs ∧ t.g.modes = s.g.modes ∧
      t.g.queues = s.g.queues ∧ (t.g.slot s.port).trap = (s.g.slot s.port).trap ∧ (t.g.slot s.port).rpl = (s.g.slot s.port).rpl ∧
      (t.g.slot s.port).path.map (fun q => (q.rejoin, q.waiting)) = (s.g.slot s.port).path.map (fun q => (q.rejoin, q.waiting)) ∧
      ((s.g.slot s.port).replay = none →
        (t.g.slot s.port).path = (s.g.slot s.port).path.map (fun q => { q with pc := q.pc + 4 })) ∧
      (s.g.id.kind = .ordinary → t.g.age = s.clock ∧ (t.g.slot s.port).latches = Vector.replicate 4 none) ∧
      (s.g.id.kind ≠ .ordinary → t.g.age = s.g.age ∧ (t.g.slot s.port).latches = (s.g.slot s.port).latches)) ∧
  (∀ (s : State), s.port = .setter → s.g.id.kind = .ordinary →
    ∃ t, exec .yield s = .next t ∧ Trapped s t Cause.illegal 0 0 ∧ t.g.regs = s.g.regs ∧ t.g.modes = s.g.modes ∧ t.g.age = s.g.age ∧
      t.g.slot0 = s.g.slot0 ∧ t.g.slot1 = s.g.slot1) ∧
  decode .hitter 0x00E3#16 0x0000#16 = some .yield ∧ decode .handler 0x00E3#16 0x0000#16 = some .yield ∧
  decode .setter 0x00E3#16 0x0000#16 = none

/-- R76, R177, R257, R360, R408, R409, R438, R442, R447: `prio` sets PRIO.LEVEL to the smaller of its operand and PRIO.CAP. An instruction
that has nothing to do: `nop`, a `release` or an `acquire` without effect, a `join` away from its rejoin, a `wait` whose counter is low
enough. It moves past itself and changes no register. -/
def Obligations.PriorityAndQuiet : Prop :=
  (∀ (a : BitVec 8) (s : State), Clear (.prio a) s →
    ∃ t, exec (.prio a) s = .next t ∧ Retires s t ∧ Steps (.prio a) s t ∧ Pops (.prio a) s t ∧ t.g.regs = s.g.regs ∧
      t.g.modes = { s.g.modes with prioLevel := BitVec.ofNat 3 (min (s.g.operand32 s.port a) s.g.modes.prioCap.toNat) }) ∧
  (∀ (i : Instr) (s : State), Clear i s → Claims.quiet i s →
    ∃ t, exec i s = .next t ∧ Retires s t ∧ Steps i s t ∧ Pops i s t ∧ t.g.regs = s.g.regs ∧ t.g.modes = s.g.modes)

/-- R76, R260, R360, R447: `release` of a group on one path gives up the registers from `v24` upward; with a result pending there it would
wait. The lower registers, the uniform ones and the predicates stay. `acquire` parks its stream, and ACQUIRE_GRANT of its core, where no
older request waits and the core has the registers (or every resident group waits), gives it the full allotment with the new registers at
zero and moves it past the instruction. Of the other groups it changes none, but that the lines of one may have gone to its context image
(R260, R278). `acquire` and `release` of a group with more than one live path are MODE_DIVERGED; its registers and its allotment stay. -/
def Obligations.AllotmentChanges : Prop :=
  (∀ (s : State), s.port ≠ .setter → Clear .release s → s.g.diverged = false → s.g.id.kind = .ordinary → 24 < s.g.regs.allot →
    s.g.pendingUpper = false →
    ∃ t, exec .release s = .next t ∧ Retires s t ∧ Steps .release s t ∧ t.g.modes = s.g.modes ∧ t.g.regs.allot = 24 ∧
      (∀ n, n < 24 → t.g.v n = s.g.v n) ∧ (∀ n, 24 ≤ n → t.g.v n = 0) ∧ t.g.regs.s = s.g.regs.s ∧ t.g.regs.a = s.g.regs.a ∧
      t.g.regs.p = s.g.regs.p) ∧
  ((∀ s : State, s.port ≠ .setter → Clear .acquire s → s.g.diverged = false → s.g.regs.allot < s.g.id.full →
    ∃ t, exec .acquire s = .next t ∧ OnlyGroup s t ∧ t.g.waitAt s.port = .acquire ∧ t.g.pcAt s.port = s.g.pcAt s.port ∧
      t.g.regs = s.g.regs ∧ t.g.modes = s.g.modes) ∧
  (∀ (s : State) (core : BitVec 10), s.g.id.present = true → (∀ h ∈ s.others, h.id.uid ≠ s.g.id.uid) → s.g.residentOn core = true →
    s.port ≠ .setter → s.g.portWhere (fun w => decide (w = .acquire)) = some s.port →
    (s.g.slot s.port).path.isSome = true →
    (∀ h ∈ s.residents core, h.acquiring = true → h = s.g ∨ s.g.age < h.age) →
    let fits := (s.residents core).foldl (fun n h => n + h.regs.allot) 0 + (s.g.id.full - s.g.regs.allot) ≤ 3072
    (fits ∨ (s.residents core).all Group.acquiring = true) →
    ∃ t, exec (.acquireGrant core) s = .next t ∧ (∀ h ∈ s.others, ∃ k ∈ t.others, k = { h with spilled := k.spilled }) ∧
      t.others.length = s.others.length ∧ t.teams = s.teams ∧ t.g.pcAt s.port = s.g.pcAt s.port + 4 ∧
      t.g.waitAt s.port = .running ∧ t.g.regs.allot = s.g.id.full ∧ (∀ n, n < 24 → t.g.v n = s.g.v n) ∧ (∀ n, 24 ≤ n → t.g.v n = 0) ∧
      t.g.regs.s = s.g.regs.s ∧ t.g.regs.p = s.g.regs.p ∧ t.g.modes = s.g.modes ∧
      (fits → s.inHandler s.g = false → s.g.spilled = false → (∀ h ∈ s.groups, h.stopped = false) → OnlyGroup s t))) ∧
  (∀ (i : Instr) (s : State), (i = .acquire ∨ i = .release) → s.port ≠ .setter → Clear i s → s.g.diverged = true → s.g.id.kind = .ordinary →
    (s.g.slot s.port).chain = none →
    ∃ t, exec i s = .next t ∧ Trapped s t Cause.modeDiverged 0 0 ∧ t.g.regs = s.g.regs ∧ t.g.modes = s.g.modes ∧ t.others = s.others)

namespace Sys2Proof.Claims

open Sys2Proof.Machine

/-- A path moves to an address with all its lanes: its mask, its pending rejoin and its arrival stay, the set queues too; what a replay does to the
mask at its end is R269's. -/
def Moves (s t : State) (pc : DWord) : Prop :=
  t.g.pcAt s.port = pc ∧ t.g.queues = s.g.queues ∧
    (s.port ≠ .setter → (s.g.slot s.port).replay = none → (t.g.slot s.port).path = (s.g.slot s.port).path.map (fun q => { q with pc := pc }))

end Sys2Proof.Claims

/-- R68, R69, R70, R277, R373: `br` where the lanes of its path agree: they all move to the target, or all go on; the pending rejoin is used
up, and no lane leaves the path. `br` where they do not agree, with a pending rejoin and room on the stack: a rejoin record of all lanes of
the path is pushed, the taken lanes keep the slot, and the others take the free slot or the top of the stack. A divergent `br` traps:
UNIFORM_MISS under the uniform hint, NO_REJOIN without a pending rejoin, DIV_OVERFLOW without room; no lane moves, and the path keeps its
pc, its mask and its pending rejoin. -/
def Obligations.Branches : Prop :=
  (∀ (h : BitVec 2) (n : Bool) (p : BitVec 3) (o : BitVec 18) (s : State) (q : Path), s.port ≠ .setter → Clear (.br h n p o) s →
    (s.g.slot s.port).path = some q → (s.g.slot s.port).replay = none →
    let take := if n then ~~~(s.g.p p.toNat) else s.g.p p.toNat
    (q.mask &&& ~~~take = 0 ∨ q.mask &&& take = 0) →
    ∃ t, exec (.br h n p o) s = .next t ∧ Frames s t ∧ t.g.age = s.g.age ∧ t.g.regs = s.g.regs ∧ t.g.modes = s.g.modes ∧
      (t.g.slot s.port).path = some { q with
        pc := if q.mask &&& ~~~take = 0 then q.pc + BitVec.ofInt 64 (2 * o.toInt) else q.pc + 4
        rejoin := none }) ∧
  (∀ (h : BitVec 2) (n : Bool) (p : BitVec 3) (o : BitVec 18) (s : State) (q : Path) (r : DWord), s.port ≠ .setter → Clear (.br h n p o) s →
    (s.g.slot s.port).path = some q → (s.g.slot s.port).replay = none → q.rejoin = some r → h ≠ 2#2 →
    let take := if n then ~~~(s.g.p p.toNat) else s.g.p p.toNat
    let other := otherSlot s.port
    let fall : Path := { pc := q.pc + 4, mask := q.mask &&& ~~~take, rejoin := none, waiting := false }
    q.mask &&& ~~~take ≠ 0 → q.mask &&& take ≠ 0 →
    s.g.stack.length + (if (s.g.slot other).path.isNone then 1 else 2) ≤ 128 →
    ∃ t, exec (.br h n p o) s = .next t ∧ OnlyGroup s t ∧ t.g.regs = s.g.regs ∧ t.g.modes = s.g.modes ∧ t.g.exited = s.g.exited ∧
      (t.g.slot s.port).path = some { pc := q.pc + BitVec.ofInt 64 (2 * o.toInt), mask := q.mask &&& take, rejoin := none, waiting := false } ∧
      (if (s.g.slot other).path.isNone then
        (t.g.slot other).path = some fall ∧ t.g.stack = .record r q.mask 0 :: s.g.stack
      else (t.g.slot other).path = (s.g.slot other).path ∧ t.g.stack = .path fall :: .record r q.mask 0 :: s.g.stack)) ∧
  (∀ (h : BitVec 2) (n : Bool) (p : BitVec 3) (o : BitVec 18) (s : State) (q : Path), s.port ≠ .setter → Clear (.br h n p o) s →
    (s.g.slot s.port).path = some q → s.g.id.kind = .ordinary → (s.g.slot s.port).chain = none →
    let take := if n then ~~~(s.g.p p.toNat) else s.g.p p.toNat
    q.mask &&& ~~~take ≠ 0 → q.mask &&& take ≠ 0 →
    let stays := fun (t : State) => (t.g.slot s.port).path = some q ∧ t.g.slot (otherSlot s.port) = s.g.slot (otherSlot s.port) ∧
      t.g.stack = s.g.stack ∧ t.g.regs = s.g.regs ∧ t.g.exited = s.g.exited
    (h = 2#2 → ∃ t, exec (.br h n p o) s = .next t ∧ Trapped s t Cause.uniformMiss 0 0 ∧ stays t) ∧
    (h ≠ 2#2 → q.rejoin = none → ∃ t, exec (.br h n p o) s = .next t ∧ Trapped s t Cause.noRejoin 0 0 ∧ stays t) ∧
    (h ≠ 2#2 → q.rejoin.isSome = true → 128 < s.g.stack.length + (if (s.g.slot (otherSlot s.port)).path.isNone then 1 else 2) →
      ∃ t, exec (.br h n p o) s = .next t ∧ Trapped s t Cause.divOverflow 0 0 ∧ stays t))

/-- R68, R343, R375, R407, R449, R458: `jmp`, `call` and `ret` in either stream: the path moves with its pending rejoin, the link register
takes the address after the `call`, `ret` ignores bit 0 of it, and nothing else changes. `setrj` makes its target the pending rejoin of the
path, in place of an older one. -/
def Obligations.JumpsAndRejoins : Prop :=
  (∀ (o : BitVec 18) (s : State),
    (Clear (.jmp o) s → ∃ t, exec (.jmp o) s = .next t ∧ Retires s t ∧
      Claims.Moves s t (s.g.pcAt s.port + BitVec.ofInt 64 (2 * o.toInt)) ∧ t.g.regs = s.g.regs ∧ t.g.modes = s.g.modes) ∧
    (Clear (.call o) s → ∃ t, exec (.call o) s = .next t ∧ Retires s t ∧
      Claims.Moves s t (s.g.pcAt s.port + BitVec.ofInt 64 (2 * o.toInt)) ∧ t.g.modes = s.g.modes ∧
      (s.port = .setter → WritesA s t 31 (s.g.setPc + 4)) ∧ (s.port ≠ .setter → WritesS s t 63 (s.g.pcAt s.port + 4))) ∧
    (Clear .ret s → ∃ t, exec .ret s = .next t ∧ Retires s t ∧ t.g.regs = s.g.regs ∧ t.g.modes = s.g.modes ∧
      Claims.Moves s t ((if s.port = .setter then s.g.a 31 else s.g.s 63) &&& ~~~1#64))) ∧
  (∀ (o : BitVec 18) (s : State) (q : Path), s.port ≠ .setter → Clear (.setrj o) s → (s.g.slot s.port).path = some q →
    (s.g.slot s.port).replay = none →
    ∃ t, exec (.setrj o) s = .next t ∧ Frames s t ∧ t.g.age = s.g.age ∧ t.g.regs = s.g.regs ∧ t.g.modes = s.g.modes ∧ t.g.queues = s.g.queues ∧
      (t.g.slot s.port).path = some { q with pc := q.pc + 4, rejoin := some (q.pc + BitVec.ofInt 64 (2 * o.toInt)) })

/-- R68, R70, R395, R408, R409, R459: `join` at the rejoin of the innermost record of its lanes, where other lanes of the record are still
to come and the sibling holds the other slot: the lanes are counted as arrived, and the path waits at the `join`. `join` with which the last
lanes of a record arrive: its paths merge. One path of all lanes of the record that have not exited goes on behind the `join`, without a
pending rejoin, in the lower-numbered slot that a merging path held; the record leaves the stack, and the topmost path of the stack takes
the slot that becomes free. `exit` of the lanes of a path while the group has another one: they are among the exited lanes and on no path
any more, the other path goes on, and the topmost path of the stack takes the slot; a record whose other lanes have all arrived or exited
counts them as arrived, and its paths merge. `exit` of the setter ends its stream alone; `exit` of the lanes of the only path of a group
ends the group: they are among the exited lanes, and no lane is left. -/
def Obligations.JoinsAndExits : Prop :=
  (∀ (s : State) (q : Path) (u a : Lanes), s.port ≠ .setter → Clear .join s → (s.g.slot s.port).path = some q →
    (s.g.slot s.port).replay = none → q.mask ≠ 0 →
    recordFor q.mask s.g.stack = some (q.pc, u, a) → u &&& ~~~(a ||| q.mask ||| s.g.exited) ≠ 0 →
    s.g.slotMask (otherSlot s.port) &&& u ≠ 0 → dueRecord s.g.exited s.g.stack = none → s.g.givesUp (otherSlot s.port) = false →
    dueRecord s.g.exited (withRecord q.mask (fun _ => [.record q.pc u (a ||| q.mask)]) s.g.stack) = none →
    ∃ t, exec .join s = .next t ∧ OnlyGroup s t ∧ t.g.regs = s.g.regs ∧ t.g.modes = s.g.modes ∧
      t.g.stack = withRecord q.mask (fun _ => [.record q.pc u (a ||| q.mask)]) s.g.stack ∧
      (t.g.slot s.port).path = some { q with waiting := true } ∧ (t.g.slot (otherSlot s.port)).path = (s.g.slot (otherSlot s.port)).path) ∧
  (∀ (s : State) (q : Path) (u a : Lanes), s.port ≠ .setter → Clear .join s → (s.g.slot s.port).path = some q →
    (s.g.slot s.port).replay = none → recordFor q.mask s.g.stack = some (q.pc, u, a) →
    let arrived := withRecord q.mask (fun _ => [.record q.pc u (a ||| q.mask)]) s.g.stack
    let rest := dropRecord u arrived
    let other := otherSlot s.port
    let merged : Path := { pc := q.pc + 4, mask := u &&& ~~~s.g.exited, rejoin := none, waiting := false }
    let joins := fun (t : State) => OnlyGroup s t ∧ t.g.regs = s.g.regs ∧ t.g.modes = s.g.modes ∧ t.g.queues = s.g.queues ∧
      t.g.exited = s.g.exited ∧ t.g.setPc = s.g.setPc
    q.mask &&& u ≠ 0 → u &&& ~~~(a ||| q.mask ||| s.g.exited) = 0 → dueRecord s.g.exited arrived = some (q.pc, u) → dueRecord s.g.exited rest = none → u &&& ~~~s.g.exited ≠ 0 →
    (∀ o, (s.g.slot other).path = some o → o.waiting = true → o.mask &&& u ≠ 0 →
      (popPath rest = none →
        ∃ t, exec .join s = .next t ∧ joins t ∧ t.g.slot0.path = some merged ∧ t.g.slot0.latches = Vector.replicate 4 none ∧
          t.g.slot1.path = none ∧ t.g.stack = rest) ∧
      (∀ w l, popPath rest = some (w, l) → w.mask &&& ~~~s.g.exited ≠ 0 → w.waiting = false → dueRecord s.g.exited l = none →
        ∃ t, exec .join s = .next t ∧ joins t ∧ t.g.slot0.path = some merged ∧ t.g.slot0.latches = Vector.replicate 4 none ∧
          t.g.slot1.path = some { w with mask := w.mask &&& ~~~s.g.exited } ∧ t.g.stack = l)) ∧
    ((∀ o, (s.g.slot other).path = some o → o.waiting = false) → ((s.g.slot other).path = none → popPath rest = none) →
      ∃ t, exec .join s = .next t ∧ joins t ∧ (t.g.slot s.port).path = some merged ∧ (t.g.slot s.port).latches = Vector.replicate 4 none ∧
        t.g.slot other = s.g.slot other ∧ t.g.stack = rest)) ∧
  (∀ (s : State) (o : Path), s.port ≠ .setter → Clear .exit s → s.g.id.kind = .ordinary → (s.g.slot s.port).replay = none →
    let other := otherSlot s.port
    let e := s.g.exited ||| s.g.maskAt s.port
    let leaves := fun (t : State) => OnlyGroup s t ∧ t.g.exited = e ∧ t.g.ended = s.g.ended ∧ t.g.setExited = s.g.setExited ∧
      t.g.regs = s.g.regs ∧ t.g.modes = s.g.modes ∧ t.g.queues = s.g.queues
    (s.g.slot other).path = some o → (s.g.slot other).replay = none → o.mask &&& ~~~e ≠ 0 →
    (o.waiting = false → dueRecord e s.g.stack = none →
      (popPath s.g.stack = none →
        ∃ t, exec .exit s = .next t ∧ leaves t ∧ (t.g.slot s.port).path = none ∧
          (t.g.slot other).path = some { o with mask := o.mask &&& ~~~e } ∧ t.g.stack = s.g.stack) ∧
      (∀ w l, popPath s.g.stack = some (w, l) → w.mask &&& ~~~e ≠ 0 → w.waiting = false → dueRecord e l = none →
        ∃ t, exec .exit s = .next t ∧ leaves t ∧ (t.g.slot s.port).path = some { w with mask := w.mask &&& ~~~e } ∧
          (t.g.slot other).path = some { o with mask := o.mask &&& ~~~e } ∧ t.g.stack = l)) ∧
    (∀ r u, o.waiting = true → dueRecord e s.g.stack = some (r, u) → o.mask &&& ~~~e &&& u ≠ 0 → dueRecord e (dropRecord u s.g.stack) = none →
      popPath (dropRecord u s.g.stack) = none →
      ∃ t, exec .exit s = .next t ∧ leaves t ∧ (t.g.slot s.port).path = none ∧ (t.g.slot other).path = some ⟨r + 4, u &&& ~~~e, none, false⟩ ∧
        t.g.stack = dropRecord u s.g.stack)) ∧
  ((∀ s : State, s.port = .setter → Clear .exit s → s.g.id.kind = .ordinary →
    ∃ t, exec .exit s = .next t ∧ OnlyGroup s t ∧ t.g.setExited = true ∧ t.g.regs = s.g.regs ∧ t.g.modes = s.g.modes ∧
      t.g.slot0 = s.g.slot0 ∧ t.g.slot1 = s.g.slot1 ∧ t.g.stack = s.g.stack) ∧
  (∀ s : State, s.port ≠ .setter → Clear .exit s → s.g.id.kind = .ordinary → s.g.id.present = true → (∀ r ∈ s.pme, r.checked = true) →
    s.g.stack = [] →
    (s.g.slot (otherSlot s.port)).path = none →
    ∃ t, exec .exit s = .next t ∧ t.mem = s.mem ∧ t.g.exited = s.g.exited ||| s.g.maskAt s.port ∧ t.g.noLane = true ∧ t.g.ended = true))

/-- R172, R263, R358: An encoded instruction that the checks before its own refuse (Illegal Instruction, REG_UNALLOTTED, LATCH_INVALID,
QUEUE_EMPTY or QUEUE_DIVERGED) has no effect but the trap: no register, no queue entry, no memory, no other agent changes; what it had
popped while it waited returns to the heads of its queues. The issue is not held (R119, R126, R197), and `mmc` names a format that is not
illegal, which stands before the others. An encoded instruction that names a register or a queue whose value is still to come parks its
stream and changes nothing else. -/
def Obligations.ChecksBeforeIssue : Prop :=
  (∀ (i : Instr) (s : State) (c : Cause), i.isEncoded = true → s.g.id.kind = .ordinary →
    (s.port = .setter ∨ s.g.holdsIssue s.port = false) →
    (∀ d a b, i = .mmc d a b → c = Cause.illegal ∨ (engineFormat (s.g.operand32 s.port b)).isSome = true) →
    (s.port = .setter ∨ (s.g.slot s.port).chain = none) →
    s.preTrap i (usesOf (s.g.streamAt s.port) i) = some c →
    ∃ t, exec i s = .next t ∧ Trapped s t c 0 0 ∧ t.g.regs = s.g.regs ∧ t.g.modes = s.g.modes ∧
      t.g.queues = (s.g.unpop s.port).queues ∧ ((s.g.slot s.port).held = [] → t.g.queues = s.g.queues) ∧
      t.g.outq = s.g.outq ∧ t.g.inflight = s.g.inflight ∧ t.others = s.others ∧ t.mem = s.mem ∧ t.teams = s.teams ∧
      t.pme = s.pme ∧ t.nextTrap = s.nextTrap + 1) ∧
  (∀ (i : Instr) (s : State), i.isEncoded = true → s.preTrap i (usesOf (s.g.streamAt s.port) i) = none →
    (s.port = .setter ∨ s.g.holdsIssue s.port = false) → s.mustWait (usesOf (s.g.streamAt s.port) i) = true →
    ∃ t, exec i s = .next t ∧ OnlyGroup s t ∧ t.g.waitAt s.port = .other ∧ t.g.regs = s.g.regs ∧ t.g.modes = s.g.modes ∧
      t.g.queues = s.g.queues ∧ t.g.outq = s.g.outq ∧ t.g.inflight = s.g.inflight ∧ t.g.pcAt s.port = s.g.pcAt s.port)

/-- R275, R334, R335, R357, R472: `trap` completes and then stops its stream with SOFTWARE, whose record names the low 16 bits of the
operand. ILLEGAL_INSTRUCTION: what the port fetches decodes to no instruction of its stream, and the stream stops with the trap.
FETCH_FAULT: the translation of the address at the pc fails with a cause, and the stream stops with that cause at that address. -/
def Obligations.StreamTraps : Prop :=
  (∀ (a : BitVec 8) (s : State), Clear (.trap a) s → s.g.id.kind = .ordinary →
    ∃ t, exec (.trap a) s = .next t ∧ t.g.pcAt s.port = s.g.pcAt s.port + 4 ∧ t.g.regs = s.g.regs ∧ t.g.modes = s.g.modes ∧ t.mem = s.mem ∧
      Trapped s t Cause.software 2 (BitVec.ofNat 64 (s.g.operand32 s.port a % 2 ^ 16))) ∧
  (∀ (s : State) (lo hi : BitVec 16), s.fetchNow = .ok (lo, hi) → decode (s.g.streamAt s.port) lo hi = none → s.g.id.kind = .ordinary →
    ∃ t, exec .illegalInstruction s = .next t ∧ t.mem = s.mem ∧
      ((s.g.slot s.port).chain = none → (s.port = .setter ∨ s.g.holdsIssue s.port = false) → Trapped s t Cause.illegal 0 0 ∧ t.g.regs = s.g.regs ∧ t.g.modes = s.g.modes)) ∧
  (∀ (s : State) (c : Cause), s.fetchHalf s.g (s.g.pcAt s.port).toNat = .error c → s.g.id.kind = .ordinary →
    (s.g.slot s.port).chain = none → (s.port = .setter ∨ s.g.holdsIssue s.port = false) →
    ∃ t, exec (.fetchFault c) s = .next t ∧ t.mem = s.mem ∧ t.g.regs = s.g.regs ∧ t.g.modes = s.g.modes ∧
      Trapped s t c 0 (s.g.pcAt s.port &&& 0x00FF_FFFF_FFFF_FFFF#64))

namespace Sys2Proof.Claims

open Sys2Proof.Machine

/-! ### Instructions that go in flight -/

/-- What an instruction that issues and goes in flight leaves as it was: memory and every buffer, the other groups, the teams, the group's
registers, its modes, its stack, its queues, and its other streams. -/
structure Begun (i : Instr) (s t : State) : Prop where
  memory : t.mem = s.mem ∧ t.bufs = s.bufs ∧ t.contribs = s.contribs ∧ t.teams = s.teams ∧ t.poison = s.poison
  others : t.others = s.others
  id : t.g.id = s.g.id
  regs : t.g.regs = s.g.regs
  stack : t.g.stack = s.g.stack
  queues : Pops i s t
  steps : Steps i s t

/-- The same, and no page of a shade region changes. -/
structure Started (i : Instr) (s t : State) : Prop extends Begun i s t where
  regions : t.regions = s.regions

/-- No page of a region waits for a store of the group at the port that has lit it and waits for another page (R197, R199). -/
def NoneLighting (s : State) : Prop := ∀ r ∈ s.regions, ∀ p ∈ r.lit, p.lighter ≠ some s.g.id.uid

/-- The flight that an instruction leaves behind: its counter, what it waits for, its destination, its lanes, and whether it is complete. -/
def Flies (s t : State) (path : Option (BitVec 3)) (kind : FlightKind) (dest : Dest) (lanes : Lanes) (done : Bool) : Prop :=
  ∃ f : InFlight, t.g.inflight = s.g.inflight ++ [f] ∧ f.serial = s.g.serial ∧ f.path = path ∧ f.kind = kind ∧ f.dest = dest ∧
    f.lanes = lanes ∧ f.done = done ∧ f.pc = s.g.pcAt s.port

/-- R160, R379: the CORDIC instructions: the function, the destination, whether the register write is suppressed, the operand, and N. -/
def cordicOf : Instr → Option (CordicFn × BitVec 7 × Bool × BitVec 8 × BitVec 8)
  | .cexp d w a n => some (.exp, d, w, a, n)
  | .clog d w a n => some (.log, d, w, a, n)
  | .csin d w a n => some (.sin, d, w, a, n)
  | .catan d w a n => some (.atan, d, w, a, n)
  | .csqrt d w a n => some (.sqrt, d, w, a, n)
  | .crsq d w a n => some (.rsq, d, w, a, n)
  | .crcp d w a n => some (.rcp, d, w, a, n)
  | .ctanh d w a n => some (.tanh, d, w, a, n)
  | _ => none

/-- A load as the rules give it: its type, the address of a lane, the alignment rule, the counter, the acquire scope and the destination. -/
structure LoadForm where
  ty : BitVec 3
  addr : Nat → Int
  aligned : Bool
  path : BitVec 3
  acq : Option (BitVec 3)
  dest : Dest

/-- R342, R416, R417: the address of lane `l`: the base register, the offset, and, in a hitter, one element for each lane. -/
def consecutive (s : State) (n : BitVec 5) (e : Int) (t : BitVec 3) (l : Nat) : Int :=
  if s.port = .setter then (s.g.a n.toNat).toNat + e else (s.g.aBase n.toNat).toNat + e + l * memSize t

/-- R416: where `ld` puts its values. -/
def loadTo (s : State) (d : BitVec 5) (t : BitVec 3) : Dest :=
  if s.port = .setter then .a d.toNat else .v d.toNat (decide (6 ≤ t.toNat))

def loadForm (s : State) : Instr → Option LoadForm
  | .ld d t n e => some ⟨t, consecutive s n e.toInt t, true, 0, none, loadTo s d t⟩
  | .ldAcq d t n sc => some ⟨t, consecutive s n 0 t, true, 0, some sc, loadTo s d t⟩
  | .ldq d t n e => some ⟨t, fun _ => (s.g.a n.toNat).toNat + e.toInt, true, 0, none, .q d.toNat⟩
  | .ldqAcq d t n sc => some ⟨t, fun _ => (s.g.a n.toNat).toNat, true, 0, some sc, .q d.toNat⟩
  | .gth sc q t a d => some ⟨t, fun l => (s.g.pairV a.toNat l).toNat, false, 3, if q = 1#2 then some sc else none,
      .v d.toNat (decide (6 ≤ t.toNat))⟩
  | _ => none

/-- The lanes that an instruction at the port acts for: those of the path, or the setter's one. -/
def lanesAt (s : State) : List Nat := if s.port = .setter then [0] else members (s.g.maskAt s.port)

/-- A scratchpad access: its type, its address, its acquire or release scope. -/
def spadForm (s : State) : Instr → Option (BitVec 5 × BitVec 3 × (Nat → Int) × Option (BitVec 3) × Bool)
  | .lds d t n e => some (d, t, consecutive s n e.toInt t, none, true)
  | .ldsAcq d t n sc => some (d, t, consecutive s n 0 t, some sc, true)
  | .sts d t n e => some (d, t, consecutive s n e.toInt t, none, false)
  | .stsRel d t n sc => some (d, t, consecutive s n 0 t, some sc, false)
  | _ => none

/-- A store: the pieces of a lane, its address, the element size where alignment is required, and the release scope. -/
structure StoreForm where
  pieces : Nat → List Piece
  addr : Nat → Int
  size : Option Nat
  rel : Option (BitVec 3)

/-- R340, R467: the stored value of a lane. -/
def stored (s : State) (t : BitVec 3) (d : BitVec 5) (l : Nat) : Nat :=
  (if s.port = .setter then (s.g.a d.toNat).toNat
   else if t.toNat % 2 = 0 then (s.g.source s.port (alternate d) l).toNat
   else if t.toNat = 7 then (s.g.pairV d.toNat l).toNat
   else (lane (s.g.v d.toNat) l).toNat) % 256 ^ memSize t

def storeForm (s : State) : Instr → Option StoreForm
  | .st d t n e => some ⟨fun l => piecesOf (consecutive s n e.toInt t l) (memSize t) (stored s t d l), consecutive s n e.toInt t,
      some (memSize t), none⟩
  | .stRel d t n sc => some ⟨fun l => piecesOf (consecutive s n 0 t l) (memSize t) (stored s t d l), consecutive s n 0 t,
      some (memSize t), some sc⟩
  | .sct sc q t a d => some ⟨fun l => piecesOf (s.g.pairV a.toNat l).toNat (memSize t)
        ((if t.toNat = 7 then (s.g.pairV d.toNat l).toNat else (lane (s.g.v d.toNat) l).toNat) % 256 ^ memSize t),
      fun l => (s.g.pairV a.toNat l).toNat, none, if q = 2#2 then some sc else none⟩
  | .stm sc q a d => some ⟨fun l => maskedPieces (s.g.pairV a.toNat l).toNat (lane (s.g.v d.toNat) l).toNat (lane (s.g.v (d.toNat + 1)) l).toNat,
      fun l => (s.g.pairV a.toNat l).toNat, none, if q = 2#2 then some sc else none⟩
  | _ => none

/-- R165, R266: a piece of a lane passes the checks of an access: it translates to a target, no reduction window, no write-protect window and
(for a read) no poison stands in its way. -/
def passes (s : State) (acc : Access) (p : Piece) (l : Loc) : Prop :=
  ∃ t : Target, s.translate (some s.g.id.core) s.g.id.root p.va acc = .ok t ∧ t.loc = l ∧
    (acc = .read → ∀ k, k < p.size → s.poisoned (l.add k) = false) ∧
    (acc = .write → t.mig = false ∧ ∀ k, k < p.size → s.windowAt (p.va.toNat + k) = none)

/-- R266: the first cause that applies to a lane of a memory instruction, in the order of the rule, but for SHADE_FULL: an address outside the
address space, one that is not aligned, the first walk cause of its pieces, a write that an open window does not take, and, for what reads, a
poisoned byte that no earlier store of the path covers (R280) and that no other module's HOME serves (R237). -/
def lapse (s : State) (acc : Access) (takes : Window → Bool) (reads : Bool) (size : Option Nat) (addr : Int) (ps : List Piece) : Option Cause :=
  let target := fun p : Piece => s.translate (some s.g.id.core) s.g.id.root p.va acc
  let walkCause := ps.findSome? (fun p => match target p with
    | .error c => some c
    | .ok _ => none)
  let turned := fun p : Piece => (s.windowAt p.va.toNat).any (fun w => !w.closed && !takes w)
  let poisoned := fun p : Piece => match target p with
    | .error _ => false
    | .ok t => (List.range p.size).any (fun k => s.poisoned (t.loc.add k) && (s.awayAt (t.loc.add k) (p.va.toNat + k) 1).isNone &&
        !(s.coverComing s.g (t.loc.add k)))
  if addr < 0 ∨ 2 ^ 56 ≤ addr then some Cause.badVa
  else if size.any (fun n => decide (addr % (n : Int) ≠ 0)) then some Cause.misaligned
  else if walkCause.isSome then walkCause
  else if acc = .write ∧ ps.any turned = true then some Cause.windowOp
  else if reads = true ∧ ps.any poisoned = true then some Cause.poison
  else none

/-- R419: the first cause that applies to a lane of a scratchpad access. -/
def spadLapse (s : State) (addr : Int) (size : Nat) : Option Cause :=
  if addr < 0 ∨ (s.windowSize s.g : Int) ≤ addr then some Cause.badVa else if addr % (size : Int) ≠ 0 then some Cause.misaligned else none

/-- R268: the record of a lane: its cause, bits 55:0 of its address, and whether the address lay outside the address space. -/
def failRecord (l : Nat) (c : Cause) (addr : Int) : Nat × Cause × BitVec 64 × Bool :=
  (l, c, BitVec.ofNat 64 (addr % 2 ^ 56).toNat, decide (addr < 0 ∨ 2 ^ 56 ≤ addr))

/-- A write of a lane finds no write-protect window (R184) and no window that this module has closed (R240). -/
def writable (s : State) (p : Piece) : Prop :=
  (∀ t : Target, s.translate (some s.g.id.core) s.g.id.root p.va .write = .ok t → t.mig = false) ∧
    ∀ w, s.windowAt p.va.toNat = some w → w.closed = false

/-- R263, R266, R268, R269: a lane-fault trap: the failing lanes have done nothing, one record names each of them, and RPLMASK holds them. The
stream stops at the instruction, with its whole path, and would go on behind it. -/
structure LanesFail (i : Instr) (s t : State) (recs : List (Nat × Cause × BitVec 64 × Bool)) : Prop where
  memory : t.mem = s.mem ∧ t.bufs = s.bufs ∧ t.contribs = s.contribs ∧ t.teams = s.teams ∧ t.poison = s.poison
  others : t.others = s.others
  id : t.g.id = s.g.id
  regs : t.g.regs = s.g.regs
  stack : t.g.stack = s.g.stack
  queues : Pops i s t
  path : (t.g.slot s.port).path = (s.g.slot s.port).path.map (fun q => { q with
    mask := (((s.g.slot s.port).replay).map (fun r => r.full)).getD (s.g.maskAt s.port) })
  other : t.g.slot (otherSlot s.port) = s.g.slot (otherSlot s.port)
  replayMask : ∀ j, j < 64 → (t.g.slot s.port).rpl.getLsbD j = recs.any (fun r => r.1 == j)
  trap : ∃ w, t.g.heldAt s.port = some w ∧ w.kind = 1 ∧ w.chain = false ∧ some w.cause = (recs.map (fun r => r.2.1)).head? ∧ w.pc = s.g.pcAt s.port ∧
    w.instr = s.g.pcAt s.port ∧ w.next = s.g.pcAt s.port + BitVec.ofNat 64 i.len ∧ w.records = recs
  wait : t.g.waitAt s.port = .trapped

/-- The port is a slot of an ordinary group, outside a latch chain. -/
def plainSlot (s : State) : Prop := s.port ≠ .setter ∧ s.g.id.kind = .ordinary ∧ (s.g.slot s.port).chain = none

/-- R265: a setter's access that would fault is a refused trap, and nothing happens. -/
def SetterFails (i : Instr) (s : State) (c : Cause) (addr : Int) : Prop :=
  ∃ t, exec i s = .next t ∧ Trapped s t c 0 (BitVec.ofNat 64 (addr % 2 ^ 56).toNat) ∧ t.mem = s.mem ∧ t.bufs = s.bufs ∧ t.g.regs = s.g.regs ∧
    t.g.modes = s.g.modes ∧ t.g.queues = s.g.queues ∧ t.g.outq = s.g.outq ∧ t.g.inflight = s.g.inflight ∧ t.others = s.others

/-- A piece lies on no dark page (R195). -/
def isLit (s : State) : Loc → Prop
  | .region root va => s.darkPage root va = none
  | _ => True

/-- R227, R229, R230: an atomic: the element size, the address register, what it does, its operands, its order, its destination, and whether it
consumes a draw. -/
structure AtomicForm where
  size : Nat
  m : BitVec 7
  kind : Nat → EntryKind
  x : Nat → DWord
  y : Nat → DWord
  acq : Option (BitVec 3)
  rel : Option (BitVec 3)
  d : Nat
  draws : Bool
  /-- R237: the windows that take it. -/
  takes : Window → Bool

def atomicForm (s : State) : Instr → Option AtomicForm
  | .atom sc q t x m d =>
    let z := if x = 7#3 ∨ t.toNat < 2 then 4 else 8
    let draws := s.g.drawing s.port && decide (x = 7) && decide (t = 0)
    some { size := z, m := m, d := d.toNat, draws := draws, y := fun _ => 0
           kind := fun l => .atomic x t (s.g.fmode s.port) (if draws then BitVec.ofNat 32 (s.g.draw s.port l 0) else 0)
           x := fun l => if z = 8 then s.g.pairV d.toNat l else (lane (s.g.v d.toNat) l).zeroExtend 64
           acq := if q.toNat % 2 = 1 then some sc else none
           rel := if 2 ≤ q.toNat then some sc else none
           takes := fun w => w.takesAtom x t }
  | .cas sc q t m d =>
    let z := if t.toNat < 2 then 4 else 8
    some { size := z, m := m, d := d.toNat, draws := false
           kind := fun _ => .cas t
           x := fun l => if z = 8 then s.g.pairV d.toNat l else (lane (s.g.v d.toNat) l).zeroExtend 64
           y := fun l => if z = 8 then s.g.pairV (d.toNat + 2) l else (lane (s.g.v (d.toNat + 1)) l).zeroExtend 64
           acq := if q.toNat % 2 = 1 then some sc else none
           rel := if 2 ≤ q.toNat then some sc else none
           takes := fun _ => false }
  | _ => none

/-- R227: the address of lane `l` of an atomic. -/
def atomicAddress (s : State) (m : BitVec 7) (z l : Nat) : Int :=
  if m.toNat % 2 = 0 then (s.g.pairV m.toNat l).toNat
  else if m.toNat < 65 then (s.g.aBase (m.toNat / 2)).toNat + l * z
  else (s.g.aBase ((m.toNat - 65) / 2)).toNat

end Sys2Proof.Claims

/-- R78, R160, R378, R379: a CORDIC instruction issues: its result enters the latches and is on its way to the register, and its flags are raised;
CORDIC_RESULT of such a result writes the lanes and ends the flight. Of the values: `crcp` of +0 is +∞ with DZ, `csqrt` of +1 is +1, `cexp` of +0 is +1
and `clog` of +1 is +0, without flags, for every N from 8 to 40. -/
def Obligations.CordicResults : Prop :=
  (∀ (i : Instr) (s : State) (fn : CordicFn) (d : BitVec 7) (w : Bool) (a n : BitVec 8), Claims.cordicOf i = some (fn, d, w, a, n) →
    s.port ≠ .setter → Clear i s →
    let x := fun j => fn.eval n.toNat (s.g.fmode s.port) (s.g.source s.port a j).toNat
    ∃ t, exec i s = .next t ∧ OnlyGroup s t ∧ Claims.Started i s t ∧ t.g.outq = s.g.outq ∧
      t.g.modes = { s.g.modes with fflags := s.g.modes.fflags ||| laneFlags (s.g.maskAt s.port) (fun j => (x j).2) } ∧
      Latches s t (fun j => BitVec.ofNat 32 (x j).1) ∧
      ∃ r, Claims.Flies s t none (.cordic r) (if w then .none else .v d.toNat false)
          (s.g.maskAt s.port) false ∧
        ∀ j, j < 64 → lane r j = if (s.g.pathMask s.port).getLsbD j then BitVec.ofNat 32 (x j).1 else 0) ∧
  (∀ (s : State) (f : InFlight) (r : Wide) (n : Nat), s.group s.g.id.uid = some s.g → s.g.ended = false →
    s.g.inflight.find? (fun x => x.serial == f.serial && !x.done) = some f → f.kind = .cordic r → f.dest = .v n false → f.path = none →
    n < 128 → s.inHandler s.g = false → s.g.stopped = false → s.g.spilled = false →
    ∃ t, exec (.cordicResult s.g.id.uid f.serial) s = .next t ∧ t.mem = s.mem ∧ (∀ h ∈ s.others, h.id.uid ≠ s.g.id.uid → h ∈ t.others) ∧
      (∀ j, j < 64 → lane (t.g.v n) j = if f.lanes.getLsbD j then lane r j else lane (s.g.v n) j) ∧ (∀ k, k ≠ n → t.g.v k = s.g.v k) ∧
      t.g.modes = s.g.modes ∧ t.g.outq = s.g.outq ∧
      ∀ h ∈ t.g.inflight, h.serial = f.serial → h.done = true) ∧
  (∀ n, 8 ≤ n → n ≤ 40 → CordicFn.eval .rcp n 0 0 = (0x7F800000, flagDZ) ∧ CordicFn.eval .sqrt n 0 0x3F800000 = (0x3F800000, 0) ∧
    CordicFn.eval .exp n 0 0 = (0x3F800000, 0) ∧ CordicFn.eval .log n 0 0x3F800000 = (0, 0))

/-- R38, R172, R213, R251, R263, R265, R266, R268, R269, R342, R348, R406, R416, R417, R418, R419, R469, R470: A load whose lanes pass their
checks goes in flight, with an entry for every piece of every lane in the out-queue at its translated place, and an aligned element is one
piece. Memory, registers and modes stay. A load of which some lanes fail a check: the others go in flight as they do in a load that nothing
stops, the failing ones do nothing, and a lane-fault trap names each of them with its first cause. In the setter it is a refused trap. A
scratchpad access whose lanes lie in the window of the team and are aligned: a load goes in flight on no counter, a store on none at all;
each lane has an entry at its offset of its team, of two lanes that store to one byte the higher one. A scratchpad access of which some
lanes lie outside the window or are not aligned: the others go on, and a lane-fault trap names each failing lane with BAD_VA or MISALIGNED.
-/
def Obligations.LoadsIssue : Prop :=
  (∀ (i : Instr) (s : State) (x : Claims.LoadForm) (loc : Int → Loc), Claims.loadForm s i = some x → Clear i s →
    s.g.counter x.path < 255 → Claims.lanesAt s ≠ [] →
    (∀ l ∈ Claims.lanesAt s, 0 ≤ x.addr l ∧ x.addr l < 2 ^ 56 ∧ (x.aligned = true → x.addr l % (memSize x.ty : Int) = 0) ∧
      ∀ p ∈ piecesOf (x.addr l) (memSize x.ty) 0, Claims.passes s .read p (loc p.va)) →
    ∃ t, exec i s = .next t ∧ Claims.Started i s t ∧ t.g.modes = s.g.modes ∧
      (∃ tags, Claims.Flies s t (some x.path) (.load x.ty [] tags true) x.dest (lanesOf (fun j => (Claims.lanesAt s).contains j)) false) ∧
      ∃ new, t.g.outq = s.g.outq ++ new ∧
        new.map (fun e => (e.lane, e.byteOff, e.kind, e.loc, e.size, e.acq)) = (Claims.lanesAt s).flatMap (fun l =>
          (piecesOf (x.addr l) (memSize x.ty) 0).map (fun p => (l, p.off, .load, loc p.va, p.size, x.acq)))) ∧
  (∀ (i : Instr) (s : State) (x : Claims.LoadForm) (loc : Int → Loc), Claims.loadForm s i = some x → Clear i s → s.g.id.kind = .ordinary →
    s.g.counter x.path < 255 →
    let pieces := fun l => piecesOf (x.addr l) (memSize x.ty) 0
    let fail := fun l => Claims.lapse s .read (fun _ => true) true (if x.aligned then some (memSize x.ty) else none) (x.addr l) (pieces l)
    let bad := (Claims.lanesAt s).filter (fun l => (fail l).isSome)
    let good := (Claims.lanesAt s).filter (fun l => (fail l).isNone)
    (Claims.plainSlot s → bad ≠ [] →
      (∀ l ∈ good, ∀ p ∈ pieces l, ∃ y : Target, s.translate (some s.g.id.core) s.g.id.root p.va .read = .ok y ∧ y.loc = loc p.va) →
      ∃ t, exec i s = .next t ∧ Claims.LanesFail i s t (bad.map (fun l => Claims.failRecord l ((fail l).getD 0) (x.addr l))) ∧
        t.regions = s.regions ∧ t.g.modes = s.g.modes ∧
        (∃ tags, Claims.Flies s t (some x.path) (.load x.ty [] tags true) x.dest (lanesOf (fun j => good.contains j)) (good == [])) ∧
        ∃ new, t.g.outq = s.g.outq ++ new ∧
          new.map (fun e => (e.lane, e.byteOff, e.kind, e.loc, e.size, e.acq)) = good.flatMap (fun l =>
            (pieces l).map (fun p => (l, p.off, .load, loc p.va, p.size, x.acq)))) ∧
    (∀ c, s.port = .setter → fail 0 = some c → Claims.SetterFails i s c (x.addr 0))) ∧
  (∀ (i : Instr) (s : State) (d : BitVec 5) (ty : BitVec 3) (addr : Nat → Int) (order : Option (BitVec 3)) (isLoad : Bool),
    Claims.spadForm s i = some (d, ty, addr, order, isLoad) → s.port ≠ .setter → Clear i s → s.g.maskAt s.port ≠ 0 →
    (∀ l ∈ Claims.lanesAt s, 0 ≤ addr l ∧ addr l < (s.windowSize s.g : Int) ∧ addr l % (memSize ty : Int) = 0) →
    ∃ t, exec i s = .next t ∧ Claims.Started i s t ∧ t.g.modes = s.g.modes ∧
      ∃ new, t.g.outq = s.g.outq ++ new ∧
        (if isLoad then
          Claims.Flies s t none (.load ty [] false false) (.v d.toNat (decide (6 ≤ ty.toNat))) (s.g.maskAt s.port) false ∧
          new.map (fun e => (e.lane, e.byteOff, e.kind, e.loc, e.size, e.acq)) =
            (Claims.lanesAt s).map (fun l => (l, 0, .load, .spad s.g.id.team (addr l).toNat, memSize ty, order))
        else
          t.g.inflight = s.g.inflight ∧
          new.map (fun e => (e.lane, e.byteOff, e.kind, e.loc, e.size, e.data.toNat)) =
            (coalesce ((Claims.lanesAt s).map (fun l =>
              StoreUnit.mk l 0 (addr l) (.spad s.g.id.team (addr l).toNat) (memSize ty) (Claims.stored s ty d l)))).map (fun u =>
                (u.lane, u.off, .store, u.loc, u.size, u.data % 2 ^ 64)) ∧
          (order.isSome = true → ∀ e ∈ new, e.rel.isSome = true))) ∧
  (∀ (i : Instr) (s : State) (d : BitVec 5) (ty : BitVec 3) (addr : Nat → Int) (order : Option (BitVec 3)) (isLoad : Bool),
    Claims.spadForm s i = some (d, ty, addr, order, isLoad) → Claims.plainSlot s → Clear i s →
    let fail := fun l => Claims.spadLapse s (addr l) (memSize ty)
    let bad := (Claims.lanesAt s).filter (fun l => (fail l).isSome)
    let good := (Claims.lanesAt s).filter (fun l => (fail l).isNone)
    bad ≠ [] →
    ∃ t, exec i s = .next t ∧ Claims.LanesFail i s t (bad.map (fun l => Claims.failRecord l ((fail l).getD 0) (addr l))) ∧ t.regions = s.regions ∧
      t.g.modes = s.g.modes ∧ ∃ new, t.g.outq = s.g.outq ++ new ∧
        (if isLoad then
          (if good = [] then t.g.inflight = s.g.inflight
           else Claims.Flies s t none (.load ty [] false false) (.v d.toNat (decide (6 ≤ ty.toNat))) (lanesOf (fun j => good.contains j)) false) ∧
          new.map (fun e => (e.lane, e.byteOff, e.kind, e.loc, e.size, e.acq)) =
            good.map (fun l => (l, 0, .load, .spad s.g.id.team (addr l).toNat, memSize ty, order))
        else
          t.g.inflight = s.g.inflight ∧
          new.map (fun e => (e.lane, e.byteOff, e.kind, e.loc, e.size, e.data.toNat)) =
            (coalesce (good.map (fun l =>
              StoreUnit.mk l 0 (addr l) (.spad s.g.id.team (addr l).toNat) (memSize ty) (Claims.stored s ty d l)))).map (fun u =>
                (u.lane, u.off, .store, u.loc, u.size, u.data % 2 ^ 64))))

/-- R175, R196, R197, R201, R213, R214, R263, R265, R266, R268, R269, R456, R467, R468: Of the lanes of a store that write one byte, the
highest-numbered one's is written: no unit that the coalescer leaves shares a byte with a unit of a higher lane, and every byte that no
higher lane writes is still written with its value. A store whose lanes pass their checks, away from dark pages and from reduction windows,
is counted by counter 1 and has an entry for every unit that its coalescer leaves. Memory, registers and modes stay, and where no page waits
for a store of the group, the regions too. A store of which some lanes fail a check: they write no byte and are left out of what the
coalescer takes, the others have their entries, and a lane-fault trap names each failing lane with its first cause. In the setter it is a
refused trap. A store of one lane that would write other bytes than the shade on a dark page, where its pool has no free page and no page
that it could fade: SHADE_FULL, a lane fault, or a refused trap in the setter; no byte is written and no page lights. -/
def Obligations.StoresIssue : Prop :=
  (∀ (us : List StoreUnit), us.Pairwise (fun x y => x.lane ≤ y.lane) →
    (∀ v ∈ coalesce us, ∀ w ∈ us, v.lane < w.lane → overlap v.loc v.size w.loc w.size = false) ∧
    (∀ u ∈ us, ∀ k, k < u.size → (∀ w ∈ us, u.lane < w.lane → overlap (u.loc.add k) 1 w.loc w.size = false) →
      ∃ v ∈ coalesce us, ∃ j, v.lane = u.lane ∧ j < v.size ∧ v.loc.add j = u.loc.add k ∧ v.data / 256 ^ j % 256 = u.data / 256 ^ k % 256)) ∧
  (∀ (i : Instr) (s : State) (x : Claims.StoreForm) (loc : Int → Loc), Claims.storeForm s i = some x → Clear i s → s.g.counter 1 < 255 →
    (∀ l ∈ Claims.lanesAt s, x.pieces l ≠ [] → 0 ≤ x.addr l ∧ x.addr l < 2 ^ 56 ∧ (∀ n, x.size = some n → x.addr l % (n : Int) = 0) ∧
      ∀ p ∈ x.pieces l, Claims.passes s .write p (loc p.va) ∧ ∀ k, k < p.size → Claims.isLit s ((loc p.va).add k)) →
    ∃ t, exec i s = .next t ∧ Claims.Begun i s t ∧ t.g.modes = s.g.modes ∧ (Claims.NoneLighting s → t.regions = s.regions) ∧
      Claims.Flies s t (some 1) .store .none (lanesOf (fun j => (Claims.lanesAt s).any (fun l => l == j && !(x.pieces l).isEmpty))) true ∧
      ∃ new, t.g.outq = s.g.outq ++ new ∧
        new.map (fun e => (e.lane, e.byteOff, e.kind, e.loc, e.size, e.data.toNat, e.win)) =
          (coalesce ((Claims.lanesAt s).flatMap (fun l => (x.pieces l).map (fun p => StoreUnit.mk l p.off p.va (loc p.va) p.size p.data)))).map
            (fun u => (u.lane, u.off, .store, u.loc, u.size, u.data % 2 ^ 64, none)) ∧
        (x.rel.isSome = true → ∀ e ∈ new, e.rel.isSome = true)) ∧
  (∀ (i : Instr) (s : State) (x : Claims.StoreForm) (loc : Int → Loc), Claims.storeForm s i = some x → Clear i s → s.g.id.kind = .ordinary →
    s.g.counter 1 < 255 →
    let takes := fun w : Window => x.size.any (fun n => w.takesStore n)
    let fail := fun l => Claims.lapse s .write takes false x.size (x.addr l) (x.pieces l)
    let lanes := (Claims.lanesAt s).filter (fun l => !(x.pieces l).isEmpty)
    let bad := lanes.filter (fun l => (fail l).isSome)
    let good := lanes.filter (fun l => (fail l).isNone)
    (∀ l ∈ lanes, ∀ p ∈ x.pieces l, Claims.writable s p) →
    (Claims.plainSlot s → bad ≠ [] →
      (∀ l ∈ good, ∀ p ∈ x.pieces l, Claims.passes s .write p (loc p.va) ∧ ∀ k, k < p.size → Claims.isLit s ((loc p.va).add k)) →
      ∃ t, exec i s = .next t ∧ Claims.LanesFail i s t (bad.map (fun l => Claims.failRecord l ((fail l).getD 0) (x.addr l))) ∧
        (Claims.NoneLighting s → t.regions = s.regions) ∧ t.g.modes = s.g.modes ∧
        Claims.Flies s t (some 1) .store .none (lanesOf (fun j => good.contains j)) true ∧
        ∃ new, t.g.outq = s.g.outq ++ new ∧
          new.map (fun e => (e.lane, e.byteOff, e.kind, e.loc, e.size, e.data.toNat, e.win)) =
            (coalesce (good.flatMap (fun l => (x.pieces l).map (fun p => StoreUnit.mk l p.off p.va (loc p.va) p.size p.data)))).map
              (fun u => (u.lane, u.off, .store, u.loc, u.size, u.data % 2 ^ 64, none))) ∧
    (∀ c, s.port = .setter → lanes = [0] → fail 0 = some c → Claims.SetterFails i s c (x.addr 0))) ∧
  (∀ (i : Instr) (s : State) (x : Claims.StoreForm) (l va : Nat) (p : Piece) (r : Region) (y : Target) (pool : Pool),
    Claims.storeForm s i = some x → Clear i s → s.g.id.kind = .ordinary → s.g.counter 1 < 255 → Claims.lanesAt s = [l] → x.pieces l = [p] →
    Claims.lapse s .write (fun _ => false) false x.size (x.addr l) (x.pieces l) = none → Claims.writable s p → s.windowAt p.va.toNat = none →
    s.translate (some s.g.id.core) s.g.id.root p.va .write = .ok y → y.loc = .region r.root va → s.darkPage r.root va = some (r, r.pageOf va) →
    r.isShade va p.size p.data = false → s.pools.find? (fun q => decide (q.num = r.pool)) = some pool → pool.free = [] → s.candidates r.pool = [] →
    (Claims.plainSlot s →
      ∃ t, exec i s = .next t ∧ Claims.LanesFail i s t [Claims.failRecord l Cause.shadeFull (x.addr l)] ∧
        (Claims.NoneLighting s → t.regions = s.regions) ∧ t.pools = s.pools ∧ t.g.modes = s.g.modes ∧
        Claims.Flies s t (some 1) .store .none 0 true ∧ t.g.outq = s.g.outq) ∧
    (s.port = .setter → Claims.SetterFails i s Cause.shadeFull (x.addr l)))

/-- R226-R231, R263, R266, R268, R269: An atomic whose lanes pass their checks, away from dark pages and from reduction windows, is counted
by counter 0, captures its operands and its modes, and has one entry for each lane; `atom.add.f32` under SR consumes a draw (R99). An atomic
of which some lanes fail a check: they do nothing, the others have their entries, and a lane-fault trap names each failing lane with its
first cause. -/
def Obligations.AtomicsIssue : Prop :=
  (∀ (i : Instr) (s : State) (x : Claims.AtomicForm) (loc : Int → Loc), Claims.atomicForm s i = some x → s.port ≠ .setter → Clear i s →
    s.g.counter 0 < 255 → s.g.maskAt s.port ≠ 0 →
    (∀ l ∈ Claims.lanesAt s,
      let a := Claims.atomicAddress s x.m x.size l
      0 ≤ a ∧ a < 2 ^ 56 ∧ a % (x.size : Int) = 0 ∧ Claims.isLit s (loc a) ∧
      Claims.passes s .write { va := a, off := 0, size := x.size, data := 0 } (loc a) ∧
      ∀ k, k < x.size → s.poisoned ((loc a).add k) = false) →
    ∃ t, exec i s = .next t ∧ Claims.Started i s t ∧
      t.g.modes = { s.g.modes with
        rngctr := if x.draws && (s.g.slot s.port).replay.isNone then s.g.modes.rngctr + 1 else s.g.modes.rngctr } ∧
      (∃ f, t.g.inflight.getLast? = some f ∧ f.serial = s.g.serial ∧ f.path = some 0 ∧ f.kind = .atom (decide (x.size = 8)) [] 0 none ∧
        f.dest = .v x.d (decide (x.size = 8)) ∧ f.lanes = s.g.maskAt s.port ∧ f.done = false) ∧
      t.g.inflight.length = s.g.inflight.length + 1 ∧
      t.g.inflight.filter (fun f => f.serial != s.g.serial) = s.g.inflight.filter (fun f => f.serial != s.g.serial) ∧
      ∃ new, t.g.outq = s.g.outq ++ new ∧
        new.map (fun e => (e.lane, e.byteOff, e.kind, e.loc, e.size, e.data, e.data2, e.acq)) = (Claims.lanesAt s).map (fun l =>
          (l, 0, x.kind l, loc (Claims.atomicAddress s x.m x.size l), x.size, x.x l, x.y l, x.acq)) ∧
        (x.rel.isSome = true → ∀ e ∈ new, e.rel.isSome = true)) ∧
  (∀ (i : Instr) (s : State) (x : Claims.AtomicForm) (loc : Int → Loc), Claims.atomicForm s i = some x → Claims.plainSlot s → Clear i s →
    s.g.counter 0 < 255 →
    let addr := fun l => Claims.atomicAddress s x.m x.size l
    let piece := fun l => ({ va := addr l, off := 0, size := x.size, data := 0 } : Piece)
    let fail := fun l => Claims.lapse s .write x.takes true (some x.size) (addr l) [piece l]
    let bad := (Claims.lanesAt s).filter (fun l => (fail l).isSome)
    let good := (Claims.lanesAt s).filter (fun l => (fail l).isNone)
    (∀ l ∈ Claims.lanesAt s, Claims.writable s (piece l)) → bad ≠ [] →
    (∀ l ∈ good, Claims.isLit s (loc (addr l)) ∧ Claims.passes s .write (piece l) (loc (addr l))) →
    ∃ t, exec i s = .next t ∧ Claims.LanesFail i s t (bad.map (fun l => Claims.failRecord l ((fail l).getD 0) (addr l))) ∧ t.regions = s.regions ∧
      t.g.modes = { s.g.modes with
        rngctr := if x.draws && (s.g.slot s.port).replay.isNone then s.g.modes.rngctr + 1 else s.g.modes.rngctr } ∧
      Claims.Flies s t (some 0) (.atom (decide (x.size = 8)) [] 0 none) (.v x.d (decide (x.size = 8))) (lanesOf (fun j => good.contains j))
        (good == []) ∧
      ∃ new, t.g.outq = s.g.outq ++ new ∧
        new.map (fun e => (e.lane, e.byteOff, e.kind, e.loc, e.size, e.data, e.data2, e.acq)) = good.map (fun l =>
          (l, 0, x.kind l, loc (addr l), x.size, x.x l, x.y l, x.acq)))

namespace Sys2Proof.Claims

open Sys2Proof.Machine

/-- Memory after the `n` little-endian bytes of a number were written at an address: those bytes, and every other one as before. -/
def Writes (s t : State) (a n v : Nat) : Prop :=
  ∀ k, Memory.read t.mem k = if a ≤ k ∧ k < a + n then BitVec.ofNat 8 (v / 256 ^ (k - a)) else Memory.read s.mem k

/-- The groups that are not the one of a number stay. -/
def OthersStay (s t : State) (uid : Nat) : Prop := ∀ h ∈ s.others, h.id.uid ≠ uid → h ∈ t.others

/-- No debug launch records, no attention cache is tracked, no handler has the group's image: nothing else happens with an access. -/
def Unwatched (s : State) : Prop := s.recorders = [] ∧ s.tracked = [] ∧ s.inHandler s.g = false

/-- An entry of the group at the port may perform now (R213, R219). -/
structure Ready (s : State) (e : Entry) : Prop where
  here : s.g.id.present = true
  found : s.entryOf e.id = some (s.g, e)
  may : s.g.entryMay e = true

/-- The entry has left the out-queue, and no other has. -/
def Left (s t : State) (e : Entry) : Prop := t.g.outq.map (fun x => x.id) = (s.g.outq.map (fun x => x.id)).filter (fun i => i != e.id)

/-- The fences whose last read is the one of an entry (R219). -/
def lastReadOf (s : State) (e : Entry) : List Entry :=
  s.g.outq.filter (fun x => decide (x.kind = .fence) && x.id != e.id && !(s.g.outq.any (fun y => y.id != e.id && x.after.contains y.id)))

/-- A read has left the out-queue and with it, in the same step, every fence whose last read it was (R219); such a fence has set STICKY.SCOPE where a
read before it, the one that performed among them, returned a synchronising write that is mismatched with it (R218). No other entry has left. -/
def ReadLeft (s t : State) (e : Entry) : Prop :=
  t.g.outq.map (fun x => x.id) =
    (s.g.outq.map (fun x => x.id)).filter (fun i => i != e.id && !((lastReadOf s e).any (fun x => x.id == i))) ∧
  ∀ x ∈ lastReadOf s e, ∀ sc, x.acq = some sc →
    ((∃ r ∈ s.g.readTags, s.g.readBefore r x = true ∧ s.g.matched sc r.tag = false) ∨
      (e.serial < x.serial ∧ onPath e.setter e.mask x.setter x.mask = true ∧ ∃ y ∈ (s.readEntry s.g e).2, s.g.matched sc y = false)) →
    t.g.modes.sticky &&& stickySCOPE = stickySCOPE

/-- What a flight has gathered, for the lane and the bytes of an entry. -/
def Gathers (t : State) (e : Entry) (v : Nat) : Prop :=
  ∀ f ∈ t.g.inflight, f.serial = e.serial →
    (∀ ty got d a, f.kind = .load ty got d a → got.getLast? = some ⟨e.lane, e.byteOff, e.size, BitVec.ofNat 64 v⟩) ∧
    (∀ w got fl h, f.kind = .atom w got fl h → got.getLast? = some ⟨e.lane, e.byteOff, e.size, BitVec.ofNat 64 v⟩)

end Sys2Proof.Claims

/-- R215, R218, R219, R221: a fence: a release fence leaves its mark in the path order; an acquire fence that finds reads of its path in the
out-queue leaves an acquire point behind them, and otherwise sets STICKY.SCOPE for a mismatched write that the path has read. -/
def Obligations.FencesIssue : Prop :=
  ∀ (sc : BitVec 3) (k : BitVec 2) (s : State), Clear (.fence sc k) s →
    let reads := s.g.outq.filter (fun x => x.kind.reads && onPath x.setter x.mask (decide (s.port = .setter)) (s.g.maskAt s.port))
    ∃ t, exec (.fence sc k) s = .next t ∧ Claims.Started (.fence sc k) s t ∧ t.g.inflight = s.g.inflight ∧
      (2 ≤ k.toNat → ∃ m ∈ t.g.marks, m.kind = .relFence sc ∧ m.serial = s.g.serial ∧ m.mask = s.g.maskAt s.port ∧
        m.setter = decide (s.port = .setter)) ∧
      (k.toNat < 2 → t.g.marks = s.g.marks) ∧
      (k.toNat % 2 = 0 → t.g.outq = s.g.outq ∧ t.g.modes = s.g.modes) ∧
      (k.toNat % 2 = 1 → reads = [] → t.g.outq = s.g.outq ∧ t.g.modes = { s.g.modes with
        sticky := if s.g.readTags.any (fun x => onPath x.setter x.mask (decide (s.port = .setter)) (s.g.maskAt s.port) && !(s.g.matched sc x.tag))
          then s.g.modes.sticky ||| stickySCOPE else s.g.modes.sticky }) ∧
      (k.toNat % 2 = 1 → reads ≠ [] → t.g.modes = s.g.modes ∧
        ∃ e, t.g.outq = s.g.outq ++ [e] ∧ e.kind = .fence ∧ e.acq = some sc ∧ e.after = reads.map (fun x => x.id))

/-- R213, R214, R216, R217, R218, R219: PERFORM_LOAD of a load entry that is ordered after nothing in the out-queue, and alone with its
sector: the unit is read through the buffers of the group's path to its home (in a reduction window with a HOME of its own, R237, from
there), and the entry leaves, with every fence whose last read it was (R219); nothing is written. PERFORM_STORE of an entry that may
perform, in no window, puts the write into the leaf buffer of its group, with its tag where it is a release; memory stays. -/
def Obligations.LoadsAndStoresPerform : Prop :=
  (∀ (s : State) (e : Entry), Claims.Ready s e → Claims.Unwatched s → e.kind = .load →
    s.g.outq.filter (fun x => x.serial == e.serial && decide (x.kind = .load) && x.loc.sector == e.loc.sector) = [e] →
    s.g.mayRead e (s.readEntry s.g e).2 = true →
    ∃ t, exec (.performLoad e.id) s = .next t ∧ t.mem = s.mem ∧ t.bufs = s.bufs ∧ t.teams = s.teams ∧ Claims.OthersStay s t s.g.id.uid ∧
      t.g.regs = s.g.regs ∧ t.g.modes.fflags = s.g.modes.fflags ∧ Claims.ReadLeft s t e ∧ Claims.Gathers t e (s.readEntry s.g e).1 ∧
      (s.windowAt e.va = none → s.readEntry s.g e = s.unitVia s.g e.loc e.size)) ∧
  (∀ (s : State) (e : Entry), Claims.Ready s e → Claims.Unwatched s → e.kind = .store → e.win = none → s.releaseMay s.g e = true →
    ∃ t, exec (.performStore e.id) s = .next t ∧ t.mem = s.mem ∧ t.teams = s.teams ∧ Claims.OthersStay s t s.g.id.uid ∧
      t.g.regs = s.g.regs ∧ t.g.modes = s.g.modes ∧ Claims.Left s t e ∧
      ∃ b, t.bufs = s.bufs ++ [b] ∧ b.node = .grp s.g.id.uid ∧ b.loc = e.loc ∧ b.size = e.size ∧ b.data = e.data ∧ b.serial = e.serial ∧
        b.tag = e.rel.map (fun sc => s.g.tag sc))

/-- R149, R213, R216, R228-R230: PERFORM_ATOMIC of an entry that may perform, in no window, with no write to its bytes below their home: it
reads the home value (no page migrates, and its sector can be read), writes the new one (a `cas` only where the old one is equal), and
returns the old one. What each operation of an atomic makes of an old value and an operand, for its types of 32 and of 64 bits: sums wrap,
minima and maxima compare as the type, signed or unsigned, then the bitwise operations and the exchange, none of which raises a flag. With O
= 7, T is one of `add.f32`, rounded in the captured mode with its draw, `min.f32` and `max.f32`; they read both values under DAZ. -/
def Obligations.AtomicsPerform : Prop :=
  (∀ (s : State) (e : Entry) (k : Nat), Claims.Ready s e → Claims.Unwatched s → Memory.wf s.mem = true → e.win = none → e.loc = .mem k →
    s.releaseMay s.g e = true → s.g.mayRead e (s.readEntry s.g e).2 = true → s.inheritMay s.g e (s.readEntry s.g e).2 = true →
    s.pathClear s.g e.loc e.size = true → k / 32 ∉ s.poison → k / 32 ∉ s.failing → s.migs = [] →
    let old := Memory.readNat s.mem k e.size
    (∀ op ty fmode draw, e.kind = .atomic op ty fmode draw →
      ∃ t, exec (.performAtomic e.id) s = .next t ∧ Claims.Writes s t k e.size (atomicNew op ty fmode draw old e.data.toNat).1 ∧
        t.bufs = s.bufs ∧ t.teams = s.teams ∧ Claims.OthersStay s t s.g.id.uid ∧ t.g.regs = s.g.regs ∧ Claims.ReadLeft s t e ∧
        Claims.Gathers t e old) ∧
    (∀ ty, e.kind = .cas ty →
      ∃ t, exec (.performAtomic e.id) s = .next t ∧
        (if old = e.data.toNat then Claims.Writes s t k e.size e.data2.toNat else t.mem = s.mem) ∧
        t.bufs = s.bufs ∧ t.teams = s.teams ∧ Claims.OthersStay s t s.g.id.uid ∧ t.g.regs = s.g.regs ∧ Claims.ReadLeft s t e ∧
        Claims.Gathers t e old)) ∧
  ((∀ (ty : BitVec 2) (fm : DWord) (dr : Word) (x y : Nat),
    let n := if ty.toNat < 2 then 32 else 64
    let less := fun (a b : Nat) => if ty.toNat % 2 = 0 then (BitVec.ofNat n a).toInt < (BitVec.ofNat n b).toInt else a < b
    let op := fun (o : BitVec 3) => (atomicNew o ty fm dr x y).1
    x < 2 ^ n → y < 2 ^ n →
    op 0 = (x + y) % 2 ^ n ∧ (less y x → op 1 = y) ∧ (¬less y x → op 1 = x) ∧ (less x y → op 2 = y) ∧ (¬less x y → op 2 = x) ∧
    op 3 = Nat.land x y ∧ op 4 = Nat.lor x y ∧ op 5 = Nat.xor x y ∧ op 6 = y ∧ ∀ o : BitVec 3, o ≠ 7 → (atomicNew o ty fm dr x y).2 = 0) ∧
  ∀ (fm : DWord) (dr : Word) (x y : Nat), x < 2 ^ 32 → y < 2 ^ 32 →
    let a := Fmt.f32.read fm x
    let b := Fmt.f32.read fm y
    let sum := a.add (fmodeRM fm) b
    let rounded := Fmt.f32.round (Round.ofMode fm dr.toNat) sum.1
    atomicNew 7 0 fm dr x y = (rounded.1, sum.2 ||| rounded.2) ∧
    atomicNew 7 1 fm dr x y = (Fmt.f32.codeOf (Val.minmax false a b).1, (Val.minmax false a b).2) ∧
    atomicNew 7 2 fm dr x y = (Fmt.f32.codeOf (Val.minmax true a b).1, (Val.minmax true a b).2))

/-- R210, R213: PROPAGATE of the oldest write to its bytes in its node: it moves to the node above, or, at its home in device memory outside
poisoned sectors, while no page migrates, its bytes are written there and no others. -/
def Obligations.WritesPropagate : Prop :=
  ∀ (s : State) (b : BufWrite) (g : Group), s.bufs.find? (fun x => x.id == b.id) = some b → s.isOldest b = true → s.group b.grp = some g →
    (∀ n, s.nodeAbove g b.loc b.node = some n →
      ∃ t, exec (.propagate b.id) s = .next t ∧ t.mem = s.mem ∧ t.g = s.g ∧ t.others = s.others ∧ t.teams = s.teams ∧
        t.bufs = s.bufs.filter (fun x => x.id != b.id) ++ [{ b with node := n }]) ∧
    (∀ k, s.nodeAbove g b.loc b.node = none → b.loc = .mem k → Memory.wf s.mem = true → k / 32 ∉ s.poison → k / 32 ∉ s.failing → s.migs = [] → s.tracked = [] →
      ∃ t, exec (.propagate b.id) s = .next t ∧ Claims.Writes s t k b.size b.data.toNat ∧ t.g = s.g ∧ t.others = s.others ∧
        t.teams = s.teams ∧ t.bufs = s.bufs.filter (fun x => x.id != b.id))

/-- R63, R64, R67, R172, R174, R175, R348, R416, R417, R432: The setter's `mov` to a set queue that has room, and to which no load is on its
way, appends the value of its `a` register, with the place of the push; a full queue parks the setter. LOAD_DATA_RETURN of a load of the
group at the port whose accesses have all performed writes its elements, sign-extended or zero-extended by their type, to the lanes of a
register or of a pair, to an `a` register, or onto a set queue that has room; COUNTER_FALL ends the oldest complete instruction of a
counter, whose writes are all at home. -/
def Obligations.QueuesFill : Prop :=
  (∀ (n : BitVec 3) (a : BitVec 8) (s : State), s.port = .setter → Clear (.movPush n a) s →
    (((s.g.queues.getD n.toNat []).length < 16 ∧ ∀ f ∈ s.g.inflight, f.dest = .q n.toNat → f.done = true) →
      ∃ t, exec (.movPush n a) s = .next t ∧ OnlyGroup s t ∧ Steps (.movPush n a) s t ∧ t.g.regs = s.g.regs ∧ t.g.modes = s.g.modes ∧
        t.g.outq = s.g.outq ∧ t.g.inflight = s.g.inflight ∧
        t.g.queues.getD n.toNat [] = s.g.queues.getD n.toNat [] ++ [(s.g.a a.toNat, s.g.serial)] ∧
        ∀ k, k ≠ n.toNat → t.g.queues.getD k [] = s.g.queues.getD k []) ∧
    (16 ≤ (s.g.queues.getD n.toNat []).length →
      ∃ t, exec (.movPush n a) s = .next t ∧ OnlyGroup s t ∧ t.g.waitAt .setter = .other ∧ t.g.queues = s.g.queues ∧ t.g.regs = s.g.regs ∧
        t.g.setPc = s.g.setPc)) ∧
  ((∀ (s : State) (f : InFlight) (ty : BitVec 3) (got : List Got) (ab : Bool), s.g.id.present = true → s.g.ended = false →
    s.g.inflight.find? (fun x => x.serial == f.serial && !x.done) = some f → f.kind = .load ty got false ab →
    (∀ e ∈ s.g.outq, e.serial ≠ f.serial) → s.inHandler s.g = false → s.g.stopped = false → s.g.spilled = false →
    let val := fun l => memExtend ty (gotValue got l)
    (∀ n, f.dest = .v n false → n < 128 →
      ∃ t, exec (.loadDataReturn s.g.id.uid f.serial) s = .next t ∧ t.mem = s.mem ∧ Claims.OthersStay s t s.g.id.uid ∧
        (∀ j, j < 64 → lane (t.g.v n) j = if f.lanes.getLsbD j then (val j).setWidth 32 else lane (s.g.v n) j) ∧
        (∀ k, k ≠ n → t.g.v k = s.g.v k) ∧ t.g.regs.a = s.g.regs.a ∧ t.g.regs.s = s.g.regs.s ∧ t.g.queues = s.g.queues ∧
        t.g.modes = s.g.modes ∧ ∀ h ∈ t.g.inflight, h.serial = f.serial → h.done = true) ∧
    (∀ n, f.dest = .v n true → n + 1 < 128 →
      ∃ t, exec (.loadDataReturn s.g.id.uid f.serial) s = .next t ∧ t.mem = s.mem ∧ Claims.OthersStay s t s.g.id.uid ∧
        (∀ j, j < 64 → lane (t.g.v n) j = if f.lanes.getLsbD j then (val j).setWidth 32 else lane (s.g.v n) j) ∧
        (∀ j, j < 64 → lane (t.g.v (n + 1)) j = if f.lanes.getLsbD j then (val j).extractLsb' 32 32 else lane (s.g.v (n + 1)) j) ∧
        (∀ k, k ≠ n → k ≠ n + 1 → t.g.v k = s.g.v k) ∧ ∀ h ∈ t.g.inflight, h.serial = f.serial → h.done = true) ∧
    (∀ n, f.dest = .a n → n < 32 →
      ∃ t, exec (.loadDataReturn s.g.id.uid f.serial) s = .next t ∧ t.mem = s.mem ∧ Claims.OthersStay s t s.g.id.uid ∧ t.g.a n = val 0 ∧
        (∀ k, k ≠ n → t.g.a k = s.g.a k) ∧ t.g.regs.aLaunch = s.g.regs.aLaunch ∧ t.g.regs.v = s.g.regs.v ∧
        ∀ h ∈ t.g.inflight, h.serial = f.serial → h.done = true) ∧
    (∀ n, f.dest = .q n → n < 8 → (s.g.queues.getD n []).length < 16 →
      (∀ x ∈ s.g.inflight, x.dest = .q n → x.serial < f.serial → x.done = true) →
      ∃ t, exec (.loadDataReturn s.g.id.uid f.serial) s = .next t ∧ t.mem = s.mem ∧ Claims.OthersStay s t s.g.id.uid ∧
        t.g.queues.getD n [] = s.g.queues.getD n [] ++ [(val 0, f.serial)] ∧ t.g.regs = s.g.regs ∧
        ∀ h ∈ t.g.inflight, h.serial = f.serial → h.done = true)) ∧
  (∀ (s : State) (f : InFlight) (path : BitVec 3), s.g.id.present = true → s.g.inflight.find? (fun x => decide (x.path = some path)) = some f →
    f.done = true → (∀ e ∈ s.g.outq, e.serial ≠ f.serial) → (∀ b ∈ s.bufs, b.grp = s.g.id.uid → b.serial ≠ f.serial) →
    (∀ c ∈ s.contribs, c.grp = s.g.id.uid → c.serial ≠ f.serial) →
    ∃ t, exec (.counterFall s.g.id.uid path) s = .next t ∧ t.mem = s.mem ∧ Claims.OthersStay s t s.g.id.uid ∧ t.g.regs = s.g.regs ∧
      t.g.queues = s.g.queues ∧ t.g.outq = s.g.outq ∧ t.g.counter path < s.g.counter path ∧
      t.g.inflight = s.g.inflight.filter (fun x => x.serial != f.serial)))

namespace Sys2Proof.Claims

open Sys2Proof.Machine

/-- R178, R180: `cpy` and `cpyg`: the descriptor operand and the base operand. -/
def copyForm : Instr → Option (Bool × BitVec 8 × BitVec 8)
  | .cpy a b => some (false, a, b)
  | .cpyg a b => some (true, a, b)
  | _ => none

/-- R117, R118, R120, R140: an engine command as the rules give it: its own condition, its request, its destination, and whether it holds the
hitter issue (R119). -/
def engineForm (s : State) : Instr → Option (Prop × PmeCmd × Dest × Bool)
  | .acz d =>
    let h := handleOf (s.g.s d.toNat)
    some (h.reserved = false ∧ h.row0 % 64 = 0 ∧ h.col0 % 64 = 0, .acz h.row0 h.col0, .none, false)
  | .acrd d a =>
    let h := handleOf (s.g.s (a.toNat - 152))
    some (h.reserved = false ∧ h.row0 % 64 = 0, .acrd d.toNat h.row0 h.col0 (s.g.maskAt s.port), .v d.toNat false, false)
  | .acwr d a =>
    let h := handleOf (s.g.s d.toNat)
    some (h.reserved = false ∧ h.row0 % 64 = 0, .acwr h.row0 h.col0 (s.g.maskAt s.port) (wideOf (s.g.source s.port a)), .none, false)
  | .drain d =>
    let h := handleOf (s.g.s d.toNat)
    some (h.reserved = false ∧ h.row0 % 64 = 0 ∧ h.col0 % 64 = 0 ∧ h.spad % 256 = 0 ∧ h.spad + 16384 ≤ s.windowSize s.g ∧
      h.spad + 16384 ≤ 1536 * 1024, .drain h.row0 h.col0 h.spad false 0 (s.g.releaseAfter s.port), .none, false)
  | .drainT d =>
    let h := handleOf (s.g.s d.toNat)
    some (h.reserved = false ∧ h.row0 % 64 = 0 ∧ h.col0 % 64 = 0 ∧ h.spad % 256 = 0 ∧ h.spad + 16384 ≤ s.windowSize s.g ∧
      h.spad + 16384 ≤ 1536 * 1024, .drain h.row0 h.col0 h.spad true 0 (s.g.releaseAfter s.port), .none, false)
  | .pmul d a b =>
    let m := s.g.gmode s.port
    let p := BitVec.ofInt 4096 ((s.g.v a.toNat).toInt * (s.g.v b.toNat).toInt)
    let ovf := decide (gmodePitch m ≠ 0) && guardOverflow (gmodePitch m) (s.g.v a.toNat) (s.g.v b.toNat)
    some (True, .result [(d.toNat, p.setWidth 2048), (d.toNat + 1, p.extractLsb' 2048 2048)] 0 ovf (ovf && !gmodeGOVM m) true,
      .v d.toNat true, !gmodeGOVM m)
  | .pmulUns d a b =>
    let p := BitVec.ofNat 4096 ((s.g.v a.toNat).toNat * (s.g.v b.toNat).toNat)
    some (gmodePitch (s.g.gmode s.port) = 0, .result [(d.toNat, p.setWidth 2048), (d.toNat + 1, p.extractLsb' 2048 2048)] 0 false false true,
      .v d.toNat true, false)
  | .packS32 d a => packForm s d a true false
  | .packZ32 d a => packForm s d a false false
  | .packRevS32 d a => packForm s d a true true
  | .packRevZ32 d a => packForm s d a false true
  | .extrS32 d a b =>
    let w := gmodePitch (s.g.gmode s.port)
    let c := fun i => satS 32 ((digits 4096 w (s.g.v (a.toNat + 1) ++ s.g.v a.toNat).toInt).getD (s.g.operand32 s.port b + i) 0)
    some (w ≠ 0, .result [(d.toNat, wideOf (fun i => BitVec.ofInt 32 (c i).1))] (if allLanes.any (fun i => (c i).2) then flagSAT.setWidth 64 else 0)
      false false false, .v d.toNat false, false)
  | .extrS64 d a b =>
    let w := gmodePitch (s.g.gmode s.port)
    let c := fun i => satS 64 ((digits 4096 w (s.g.v (a.toNat + 1) ++ s.g.v a.toNat).toInt).getD (s.g.operand32 s.port b + i) 0)
    let x := fun i => BitVec.ofInt 64 (c i).1
    some (w ≠ 0, .result [(d.toNat, wideOf (fun i => (x i).setWidth 32)), (d.toNat + 1, wideOf (fun i => (x i).extractLsb' 32 32))]
      (if allLanes.any (fun i => (c i).2) then flagSAT.setWidth 64 else 0) false false false, .v d.toNat true, false)
  | _ => none
where
  /-- R117: the lanes of the path and the others alike give their digits, clamped to PITCH - GUARD bits. -/
  packForm (s : State) (d : BitVec 7) (a : BitVec 8) (signed rev : Bool) : Option (Prop × PmeCmd × Dest × Bool) :=
    let w := gmodePitch (s.g.gmode s.port)
    let e := w - gmodeGuard (s.g.gmode s.port)
    let n := slotCount w
    let c := fun i => if signed then satS e (s.g.source s.port a i).toInt else satZ e ((s.g.source s.port a i).toNat : Int)
    let x := sumInt ((List.range n).map (fun i => (c i).1 * ((2 ^ ((if rev then n - 1 - i else i) * w) : Nat) : Int)))
    some (w ≠ 0, .result [(d.toNat, BitVec.ofInt 2048 x)] (if (List.range n).any (fun i => (c i).2) then flagSAT.setWidth 64 else 0) false false false,
      .v d.toNat false, false)

/-- A gang-wide command: its operation, its handle register, and its operand registers with their counts. -/
def gangForm : Instr → Option (PassOp × BitVec 7 × BitVec 8 × BitVec 8 × Nat × Nat)
  | .mma d a b => some (.mma, d, a, b, 8, 8)
  | .mmaSp d a b => some (.mmaSp, d, a, b, 12, 16)
  | .mmd d a b => some (.mmd, d, a, b, 8, 8)
  | .mmdLd d => some (.mmdLd, d, 0, 0, 0, 0)
  | _ => none

/-- The format block that a gang-wide command reads at its handle's scratchpad offset; `mmd.ld` reads none. -/
def blockNumber (s : State) (op : PassOp) (h : Handle) : Nat := if op = .mmdLd then 0 else ofBytes (s.spadBytes s.g h.spad 64)

/-- R126-R129, R134-R139: nothing stops a gang-wide command: its handle, its format block, its indices, the reads it makes, the counter and the
table. -/
structure GangClear (s : State) (op : PassOp) (h : Handle) (regs : List Wide) : Prop where
  handle : h.passBad op s.g.tile (s.windowSize s.g) = false
  block : op ≠ .mmdLd → blockOk (blockNumber s op h) (blockOf (blockNumber s op h)) op (s.windowSize s.g) = true
  tiles : op = .mmd → h.tilesBad (((engineFormat (blockOf (blockNumber s op h)).pfmt.toNat).map (fun f => depthOf f.1 false)).getD 0) = false
  sparse : op = .mmaSp → sparseBad regs (s.g.maskAt s.port)
    (((engineFormat (blockOf (blockNumber s op h)).pfmt.toNat).map (fun f => depthOf f.1 false)).getD 0) = false
  reads : ∀ off n, s.g.pendingOn s.port (.spad s.g.id.team off) n = false
  counter : s.g.counter 4 < 255
  table : s.reserved (clusterOf s.g.id.core) < 16

/-- The requests with an id. -/
def request (s : State) (pme req : Nat) (r : PmeReq) (f : InFlight) : Prop :=
  s.pme.find? (fun x => x.id == req && x.pme == pme) = some r ∧ s.g.id.present = true ∧ r.grp = s.g.id.uid ∧
    s.g.inflight.find? (fun x => x.serial == r.serial) = some f ∧ s.turnOf [r] = true

/-- The request has left the table, and its instruction is complete. -/
def Finished (t : State) (req serial : Nat) : Prop :=
  (∀ x ∈ t.pme, x.id ≠ req) ∧ ∀ h ∈ t.g.inflight, h.serial = serial → h.done = true

end Sys2Proof.Claims

/-- R178-R181: `cpy` and `cpyg` read their descriptor in the team's scratchpad: one that is off its place or breaks a limit is COPY_DESC, a
refused trap; any other makes a copy command with the base operand, on counter 2, behind an entry of the out-queue. They run in either
stream (R351). The `n`-th byte of a copy: dimension 0 runs fastest with a stride of one byte, and each further dimension adds its stride. A
copy of `c0` bytes in each of `c1` rows reads row `j` from SRC + BASE + j · SSTRIDE and writes it from DST + BASE + j · DSTRIDE on. -/
def Obligations.CopiesIssue : Prop :=
  (∀ (i : Instr) (s : State) (gather : Bool) (a b : BitVec 8), Claims.copyForm i = some (gather, a, b) → Clear i s →
    let off := s.g.operandFull s.port a
    let x := ofBytes (s.spadBytes s.g off 256)
    let inside := off % 64 = 0 ∧ off + 256 ≤ s.windowSize s.g
    (inside → s.g.pendingOn s.port (.spad s.g.id.team off) 256 = false → copyDescOk x (copyDescOf x) gather (s.windowSize s.g) = true →
      s.g.counter 2 < 255 →
      ∃ t c e, exec i s = .next t ∧ Claims.Started i s t ∧ t.g.modes = s.g.modes ∧ t.copies = s.copies ++ [c] ∧ c.gather = gather ∧
        c.desc = copyDescOf x ∧ c.base = (s.g.operand64 s.port b).toNat ∧ c.root = s.g.id.root ∧ c.team = s.g.id.team ∧ c.pos = 0 ∧
        c.holding = none ∧ c.fault = none ∧ c.dispatched = false ∧ c.grp = s.g.id.uid ∧ c.serial = s.g.serial ∧
        Claims.Flies s t (some 2) (.copy c.id) .none 0 false ∧ t.g.outq = s.g.outq ++ [e] ∧ e.kind = .engine c.id ∧ e.rel = none) ∧
    (s.g.id.kind = .ordinary → (s.port = .setter ∨ (s.g.slot s.port).chain = none) →
      (¬inside ∨ s.g.pendingOn s.port (.spad s.g.id.team off) 256 = false ∧ copyDescOk x (copyDescOf x) gather (s.windowSize s.g) = false) →
      ∃ t, exec i s = .next t ∧ Trapped s t Cause.copyDesc 0 0 ∧ t.copies = s.copies ∧ t.g.regs = s.g.regs)) ∧
  (∀ (s : State) (c : CopyCmd) (c0 c1 : Nat) (ss ds : Int), c.gather = false → c.desc.dims = [(c0, 0, 0), (c1, ss, ds)] → c.desc.srcSp = false →
    c.desc.dstSp = false → ∀ i j, i < c0 → j < c1 →
      s.sourceOf c (j * c0 + i) = .ok (((c.desc.src.toNat + c.base) % 2 ^ 56 : Nat) + i + j * ss) ∧
      c.destOf (j * c0 + i) = ((c.desc.dst.toNat + c.base) % 2 ^ 56 : Nat) + i + j * ds)

/-- R178, R180, R182, R213, R222: DISPATCH of an engine command that is ordered after nothing in the out-queue hands it to its engine. The engine
reads a byte of a dispatched command and then writes it, one byte to each ENGINE_ACCESS, or records the fault of the access; at the end
COPY_COMPLETE ends the instruction and posts that fault. -/
def Obligations.CopiesMove : Prop :=
  (∀ (s : State) (e : Entry) (cmd : Nat), s.g.id.present = true → e ∈ s.g.outq → s.g.outq.find? (fun x => x.id == e.id) = some e →
    e.kind = .engine cmd → (∀ x ∈ s.g.outq, x.id ∉ e.after ∧ x.id ∉ e.weak) →
    ∃ t, exec (.dispatch e.id) s = .next t ∧ t.mem = s.mem ∧ t.g.regs = s.g.regs ∧ t.g.outq = s.g.outq.filter (fun x => x.id != e.id) ∧
      (∀ c ∈ t.copies, c.id = cmd → c.dispatched = true) ∧ t.copies.length = s.copies.length ∧
      (∀ r ∈ t.pme, r.id = cmd → r.dispatched = true) ∧ t.pme.length = s.pme.length) ∧
  (∀ (s : State) (c : CopyCmd), s.copies.find? (fun x => x.id == c.id) = some c → c.dispatched = true → c.fault = none →
    c.pos < tuples c.desc.dims → s.engineTurn c = true → s.recorders = [] →
    (∀ addr l mig, c.holding = none → s.sourceOf c c.pos = .ok addr → s.engineByte c c.desc.srcSp addr .read = .ok (l, mig) →
      ∃ t, exec (.engineAccess c.id) s = .next t ∧ t.mem = s.mem ∧ t.bufs = s.bufs ∧ t.g = s.g ∧ t.others = s.others ∧
        t.copies.find? (fun x => x.id == c.id) = some { c with holding := some (s.readFor c.grp addr.toNat l) }) ∧
    (∀ b l g, c.holding = some b → s.engineByte c c.desc.dstSp (c.destOf c.pos) .write = .ok (l, false) → s.group c.grp = some g →
      (c.desc.rel = true → (∀ e ∈ g.outq, e.id ∉ c.after) ∧ s.released g c.desc.scope.toNat = true) → Claims.isLit s l →
      ∃ t w, exec (.engineAccess c.id) s = .next t ∧ t.mem = s.mem ∧ t.g = s.g ∧ t.others = s.others ∧ t.bufs = s.bufs ++ [w] ∧
        w.node = .grp g.id.uid ∧ w.loc = l ∧ w.size = 1 ∧ w.data = b.zeroExtend 64 ∧ w.serial = c.serial ∧
        w.tag = (if c.desc.rel then some (g.tag c.desc.scope) else none) ∧
        t.copies.find? (fun x => x.id == c.id) = some { c with pos := c.pos + 1, holding := none }) ∧
    (∀ addr cause at_, c.holding = none → s.sourceOf c c.pos = .ok addr → s.engineByte c c.desc.srcSp addr .read = .error (cause, at_) →
      ∃ t, exec (.engineAccess c.id) s = .next t ∧ t.mem = s.mem ∧ t.bufs = s.bufs ∧
        t.copies.find? (fun x => x.id == c.id) = some { c with fault := some (cause, at_, c.pos) })) ∧
  (∀ (s : State) (c : CopyCmd), s.copies.find? (fun x => x.id == c.id) = some c → c.dispatched = true → c.over = true → s.g.id.uid = c.grp →
    ∃ t, exec (.copyComplete c.id) s = .next t ∧ t.mem = s.mem ∧ t.g.regs = s.g.regs ∧ t.copies = s.copies.filter (fun x => x.id != c.id) ∧
      (∀ f ∈ t.g.inflight, f.serial = c.serial → f.done = true) ∧
      t.faults.length = s.faults.length + (if c.fault.isSome then 1 else 0) ∧
      ∀ cause addr n, c.fault = some (cause, addr, n) → ∃ f ∈ t.faults, f.grp = c.grp ∧ f.serial = c.serial ∧ f.cause = cause ∧ f.addr = addr ∧
        f.ordinal = n)

/-- R113, R115, R117-R120, R140, R143: An engine command that meets its own condition, with room in counter 4 and in the reservation table,
posts its request, its sources read, and is in flight on counter 4; registers, modes and accumulators stay until it completes. The digits of
an integer at a pitch rebuild it, and all but the last lie in the signed range of the pitch. -/
def Obligations.EngineCommandsIssue : Prop :=
  (∀ (i : Instr) (s : State) (ok : Prop) (cmd : PmeCmd) (dest : Dest) (hold : Bool), Claims.engineForm s i = some (ok, cmd, dest, hold) →
    s.port ≠ .setter → Clear i s → ok → s.g.counter 4 < 255 → s.reserved (clusterOf s.g.id.core) < 16 →
    ∃ t r e, exec i s = .next t ∧ Claims.Started i s t ∧ t.g.modes = s.g.modes ∧ t.g.outq = s.g.outq ++ [e] ∧ e.kind = .engine r.id ∧ t.acc = s.acc ∧ t.resident = s.resident ∧
      t.pme = s.pme ++ [r] ∧ r.cmd = cmd ∧ r.grp = s.g.id.uid ∧ r.serial = s.g.serial ∧ r.pme = clusterOf s.g.id.core ∧ r.granted = false ∧ r.dispatched = false ∧
      r.level = s.g.modes.prioLevel ∧ Claims.Flies s t (some 4) (.engine r.id hold) dest (s.g.maskAt s.port) false) ∧
  (∀ (w n : Nat) (x : Int), 1 ≤ w → 1 ≤ n →
    let d := digits n w x
    d.length = (n + w - 1) / w ∧ sumInt ((List.range d.length).map (fun i => d.getD i 0 * 2 ^ (w * i))) = x ∧
      ∀ i, i + 1 < d.length → -(2 ^ (w - 1) : Int) ≤ d.getD i 0 ∧ d.getD i 0 < 2 ^ (w - 1))

/-- R115, R119, R124, R125, R131, R132, R140, R141, R142, R143: PME_GRANT grants the first unit in the order of its arbiter whose arrays are
free, and waits for one that has seen 32 grants: those that have seen 32 come first, then, below 32, the higher level, then the older one;
every request that still waits there has seen one more grant. PASS_COMPLETE of a granted pass of a gang of one: each word of an active row
of the tile becomes the sum of its old value and the contribution of the two columns, rounded once; every other accumulator word stays.
`mmd.ld` fills the resident buffer with the tile rounded to `bf16` (R138); `mmd` adds into its two tiles only (R139).
ENGINE_COMMAND_COMPLETE of a granted command of the group at the port: `acz` clears its block, `acwr` writes the active lanes' words to a
column, `acrd` reads them, and a whole-register result is written with its flags. A product that has overflowed its guard bits sets
STICKY.GOVF under GOVM 1, and is GUARD_OVF on the completed `pmul` under GOVM 0, in the slot that holds its lanes. ENGINE_ACCESS of a
granted `drain` or `drain.t` writes its next word to the scratchpad of the team, a release write at `.t` (R213, R222), and the command
completes when all 4096 are written. -/
def Obligations.EngineWorks : Prop :=
  ((∀ (s : State) (pme : Nat) (unit : List PmeReq), s.nextUnit pme = some unit → s.recorders = [] →
    ∃ t, exec (.pmeGrant pme) s = .next t ∧ t.mem = s.mem ∧ t.acc = s.acc ∧ t.g = s.g ∧ t.others = s.others ∧
      (∀ r ∈ unit, { r with granted := true } ∈ t.pme) ∧
      (∀ r ∈ s.pme, r.granted = false → r.pme = pme → (∀ x ∈ unit, x.id ≠ r.id) → { r with grants := r.grants + 1 } ∈ t.pme)) ∧
  (∀ (a b : PmeReq), a.grants < 32 → b.grants < 32 → b.level.toNat < a.level.toNat → unitBefore [a] [b] = true ∧ unitBefore [b] [a] = false) ∧
  (∀ (a b : PmeReq), 32 ≤ a.grants → b.grants < 32 → unitBefore [a] [b] = true ∧ unitBefore [b] [a] = false) ∧
  (∀ (a b : PmeReq), (32 ≤ a.grants ↔ 32 ≤ b.grants) → (a.grants < 32 → a.level = b.level) → a.order < b.order →
    unitBefore [a] [b] = true ∧ unitBefore [b] [a] = false) ∧
  (∀ (s : State) (pme : Nat) (unit : List PmeReq), s.nextUnit pme = some unit →
    s.grantable unit = true ∧ s.arraysFree unit = true ∧ ∀ r ∈ s.ungranted pme, s.grantable (s.unitOf r) = true →
      (s.arraysFree (s.unitOf r) = true ∨ 32 ≤ unitGrants (s.unitOf r)) → unitBefore unit (s.unitOf r) = true)) ∧
  (∀ (s : State) (r : PmeReq) (m : Member) (pme : Nat), s.pme.find? (fun x => x.id == r.id && x.pme == pme) = some r →
    r.member? = some m → s.unitOf r = [r] → s.turnOf [r] = true → m.pos = 0 → m.row0 + 64 ≤ 1024 → m.col0 + 64 ≤ 1024 →
    s.inHandler s.g = false → (∀ g ∈ s.others, s.inHandler g = false) →
    ∃ t, exec (.passComplete pme r.id) s = .next t ∧ t.mem = s.mem ∧ (∀ x ∈ t.pme, x.id ≠ r.id) ∧ t.g.regs = s.g.regs ∧
      (m.op = .mma ∨ m.op = .mmaSp → t.resident = s.resident ∧
        ∀ row col, row < 1024 → col < 1024 → t.accWord pme row col =
          if m.row0 ≤ row ∧ row < m.row0 + 64 ∧ m.col0 ≤ col ∧ col < m.col0 + 64 ∧ m.mask.getLsbD (row - m.row0) = true then
            (accumulate m.block m.fmode (passDraw [(r, m)] m.block (row - m.row0) (col - m.col0)) (s.accWord pme row col)
              (contribution (m.pColumn (row - m.row0)) (m.qColumn (col - m.col0)))).1
          else s.accWord pme row col) ∧
      (m.op = .mmdLd → t.acc = s.acc ∧ ∀ u v, u < 64 → v < 64 → sparseRead t.resident (residentKey pme u v) =
        BitVec.ofNat 16 (Fmt.bf16.round ⟨0, false, false, 0⟩ (Fmt.f32.decode (s.accWord pme (m.row0 + u) (m.col0 + v)).toNat)).1) ∧
      (m.op = .mmd → t.resident = s.resident ∧ ∀ row col, row < 1024 → col < 1024 →
        (let depth := formatDepth m.block.pfmt false
         ¬(m.row0 ≤ row ∧ row < m.row0 + depth ∧ m.col0 ≤ col ∧ col < m.col0 + 64) →
         ¬(m.drow ≤ row ∧ row < m.drow + depth ∧ m.col0 ≤ col ∧ col < m.col0 + 64) → t.accWord pme row col = s.accWord pme row col))) ∧
  (∀ (s : State) (r : PmeReq) (f : InFlight) (pme : Nat), Claims.request s pme r.id r f → r.pme = pme → s.g.ended = false →
    s.inHandler s.g = false → s.g.stopped = false → s.g.spilled = false →
    (∀ row col, r.cmd = .acz row col → row + 64 ≤ 1024 → col + 64 ≤ 1024 →
      ∃ t, exec (.engineCommandComplete pme r.id) s = .next t ∧ t.mem = s.mem ∧ t.g.regs = s.g.regs ∧ Claims.Finished t r.id r.serial ∧
        ∀ i j, i < 1024 → j < 1024 → t.accWord pme i j =
          if row ≤ i ∧ i < row + 64 ∧ col ≤ j ∧ j < col + 64 then 0 else s.accWord pme i j) ∧
    (∀ row col mask x, r.cmd = .acwr row col mask x → row + 64 ≤ 1024 → col < 1024 →
      ∃ t, exec (.engineCommandComplete pme r.id) s = .next t ∧ t.mem = s.mem ∧ t.g.regs = s.g.regs ∧ Claims.Finished t r.id r.serial ∧
        ∀ i j, i < 1024 → j < 1024 → t.accWord pme i j =
          if row ≤ i ∧ i < row + 64 ∧ j = col ∧ mask.getLsbD (i - row) = true then lane x (i - row) else s.accWord pme i j) ∧
    (∀ d row col mask, r.cmd = .acrd d row col mask → d < 128 →
      ∃ t, exec (.engineCommandComplete pme r.id) s = .next t ∧ t.mem = s.mem ∧ t.acc = s.acc ∧ Claims.Finished t r.id r.serial ∧
        (∀ l, l < 64 → lane (t.g.v d) l = if mask.getLsbD l then s.accWord pme (row + l) col else lane (s.g.v d) l) ∧
        ∀ k, k ≠ d → t.g.v k = s.g.v k) ∧
    (∀ row col spad turned i j after, r.cmd = .drain row col spad turned (64 * i + j) after → i < 64 → j < 64 →
      (∀ c ∈ s.copies, c.id ≠ r.id) → s.pme.find? (fun x => x.id == r.id) = some r → (∀ e ∈ s.g.outq, e.id ∉ after) →
      s.released s.g 1 = true →
      ∃ t b, exec (.engineAccess r.id) s = .next t ∧ t.mem = s.mem ∧ t.acc = s.acc ∧ t.g = s.g ∧ t.bufs = s.bufs ++ [b] ∧
        b.node = .grp s.g.id.uid ∧ b.size = 4 ∧ b.serial = r.serial ∧ b.tag = some (s.g.tag 1) ∧
        b.loc = .spad s.g.id.team (spad + if turned then 256 * j + 4 * i else 256 * i + 4 * j) ∧
        b.data = (s.accWord pme (row + i) (col + j)).zeroExtend 64 ∧
        t.pme.find? (fun x => x.id == r.id) = some { r with cmd := .drain row col spad turned (64 * i + j + 1) after }) ∧
    (∀ row col spad turned pos after, r.cmd = .drain row col spad turned pos after → 4096 ≤ pos →
      ∃ t, exec (.engineCommandComplete pme r.id) s = .next t ∧ t.mem = s.mem ∧ t.acc = s.acc ∧ t.g.regs = s.g.regs ∧ t.bufs = s.bufs ∧
        Claims.Finished t r.id r.serial) ∧
    (∀ d x fl mul, r.cmd = .result [(d, x)] fl false false mul → d < 128 →
      ∃ t, exec (.engineCommandComplete pme r.id) s = .next t ∧ t.mem = s.mem ∧ t.acc = s.acc ∧ Claims.Finished t r.id r.serial ∧
        t.g.v d = x ∧ (∀ k, k ≠ d → t.g.v k = s.g.v k) ∧ t.g.modes = { s.g.modes with fflags := s.g.modes.fflags ||| fl }) ∧
    (∀ d x y fl govf trap mul, r.cmd = .result [(d, x), (d + 1, y)] fl govf trap mul → d + 1 < 128 → s.g.id.kind = .ordinary →
      let p : Port := if s.g.slotMask .slot1 &&& f.lanes ≠ 0 ∧ s.g.slotMask .slot0 &&& f.lanes = 0 then .slot1 else .slot0
      ∃ t, exec (.engineCommandComplete pme r.id) s = .next t ∧ t.mem = s.mem ∧ t.acc = s.acc ∧ Claims.Finished t r.id r.serial ∧
        t.g.v d = x ∧ t.g.v (d + 1) = y ∧ (∀ k, k ≠ d → k ≠ d + 1 → t.g.v k = s.g.v k) ∧ t.g.regs.s = s.g.regs.s ∧ t.g.regs.p = s.g.regs.p ∧
        t.g.modes = { s.g.modes with
          fflags := s.g.modes.fflags ||| fl
          sticky := if govf && !trap then s.g.modes.sticky ||| stickyGOVF else s.g.modes.sticky } ∧
        (trap = false → t.g.slot0 = s.g.slot0 ∧ t.g.slot1 = s.g.slot1) ∧
        (trap = true → ∃ w, t.g.heldAt p = some w ∧ w.cause = Cause.guardOvf ∧ w.kind = 2 ∧ w.pc = f.pc ∧ w.mask = f.lanes ∧ w.next = s.g.pcAt p ∧
          t.g.waitAt p = .trapped)))

namespace Sys2Proof.Claims

open Sys2Proof.Machine

/-- R126: the group of another member of a gang of the group at the port, which is held at its gang-wide command with a request. -/
structure Partner (s : State) (r : PmeReq) (G : Group) (p : Port) : Prop where
  here : s.g.id.present = true
  own : ∀ h ∈ s.others, h.id.uid ≠ s.g.id.uid
  member : G ∈ s.others
  uid : G.id.uid = r.grp
  only : ∀ h ∈ s.others, h.id.uid = r.grp → h = G
  held : G.gangPort = some p
  kind : G.id.kind = .ordinary
  chain : (G.slot p).chain = none

/-- A request of a gang-wide command of the gang of a group. -/
def ofGang (g : Group) (x : PmeReq) : Bool :=
  match x.cmd with
  | .pass gang gidx _ _ => gang == g.id.gang && gidx == g.id.gidx.toNat
  | _ => false

/-- The partner has stopped on a refused trap at its command, and its request is gone. -/
def PartnerTraps (t : State) (r : PmeReq) (G : Group) (p : Port) (c : Cause) : Prop :=
  (∀ x ∈ t.pme, x.id ≠ r.id) ∧ ∃ H ∈ t.others, H.id = G.id ∧ H.regs = G.regs ∧ H.modes = G.modes ∧ H.waitAt p = .trapped ∧ H.pcAt p = G.pcAt p ∧
    ∃ w, H.heldAt p = some w ∧ w.cause = c ∧ w.kind = 0 ∧ w.pc = G.pcAt p

end Sys2Proof.Claims

/-- R123, R126, R132, R134, R135, R136, R137-R139, R428: A gang-wide command that nothing stops: the first member of a gang of several posts
its request and is held at the command; in a gang of one the request is checked at once and the instruction goes on. The request holds the
operand registers as they stand. Under stochastic rounding it consumes a draw. The last member of a gang of two to come to a gang-wide
command compares it with the one that its partner has posted: where the operations, the handles or the format blocks (but for the places of
the scales) differ, both stop with MMA_MISMATCH at their command and nothing is posted. Where a group of a gang ends while a partner is held
at a command, the partner stops with GANG_BROKEN. `mmc` writes the kept values of each active lane to eight registers and their indices to
the four after them; its sources are read first. A format code that is no engine code is Illegal Instruction, ahead of every other trap
(R358). -/
def Obligations.GangCommandsIssue : Prop :=
  (∀ (i : Instr) (s : State) (op : PassOp) (d : BitVec 7) (a b : BitVec 8) (np nq : Nat), Claims.gangForm i = some (op, d, a, b, np, nq) →
    s.port ≠ .setter → Clear i s →
    let h := handleOf (s.g.s d.toNat)
    let p := (List.range np).map (fun k => s.g.v (a.toNat + k))
    let q := (List.range nq).map (fun k => s.g.v (b.toNat + k))
    Claims.GangClear s op h p → (s.paired s.g.id.gang s.g.id.gidx.toNat (s.g.pairs + 1)).filter (fun r => r.grp != s.g.id.uid) = [] →
    (1 < s.g.id.gangSize.toNat → s.g.id.gangSize.toNat ≤ (s.gangGroups s.g.id.gang s.g.id.gidx).length) →
    ∃ t m, exec i s = .next t ∧ t.mem = s.mem ∧ t.acc = s.acc ∧ t.g.regs = s.g.regs ∧ t.g.pairs = s.g.pairs + 1 ∧
      (∃ r ∈ t.pme, r.cmd = .pass s.g.id.gang s.g.id.gidx.toNat (s.g.pairs + 1) m ∧ r.grp = s.g.id.uid ∧ r.serial = s.g.serial ∧
        r.checked = decide (s.g.id.gangSize.toNat ≤ 1)) ∧
      m.op = op ∧ m.row0 = h.row0 ∧ m.col0 = h.col0 ∧ m.drow = h.drow ∧ m.p = p ∧ m.q = q ∧ m.mask = s.g.maskAt s.port ∧
      (op ≠ .mmdLd → m.block = blockOf (Claims.blockNumber s op h)) ∧
      (1 < s.g.id.gangSize.toNat → t.g.waitAt s.port = .gang (s.g.pairs + 1) ∧ t.g.pcAt s.port = s.g.pcAt s.port) ∧
      (s.g.id.gangSize.toNat ≤ 1 → Steps i s t ∧
        t.g.modes.rngctr = if decide (m.block.rnd = 5) && decide (op ≠ .mmdLd) && (s.g.slot s.port).replay.isNone
          then s.g.modes.rngctr + 1 else s.g.modes.rngctr)) ∧
  ((∀ (i : Instr) (s : State) (op : PassOp) (d : BitVec 7) (a b : BitVec 8) (np nq : Nat) (r : PmeReq) (n : Member) (G : Group) (p : Port),
    Claims.gangForm i = some (op, d, a, b, np, nq) → s.port ≠ .setter → Clear i s → s.g.id.kind = .ordinary → (s.g.slot s.port).chain = none →
    let h := handleOf (s.g.s d.toNat)
    let blk := blockOf (Claims.blockNumber s op h)
    Claims.GangClear s op h ((List.range np).map (fun k => s.g.v (a.toNat + k))) → s.g.id.gangSize.toNat = 2 →
    (s.paired s.g.id.gang s.g.id.gidx.toNat (s.g.pairs + 1)).filter (fun x => x.grp != s.g.id.uid) = [r] → r.member? = some n →
    Claims.Partner s r G p →
    (n.op ≠ op ∨ n.row0 ≠ h.row0 ∨ n.col0 ≠ h.col0 ∨ n.drow ≠ h.drow ∨
      { n.block with pscale := 0, qscale := 0 } ≠ { blk with pscale := 0, qscale := 0 }) →
    ∃ t, exec i s = .next t ∧ Trapped s t Cause.mmaMismatch 0 0 ∧ Claims.PartnerTraps t r G p Cause.mmaMismatch ∧
      t.pme = s.pme.filter (fun x => x.id != r.id) ∧ t.mem = s.mem ∧ t.acc = s.acc ∧ t.g.regs = s.g.regs ∧ t.g.modes = s.g.modes ∧
      t.g.pairs = s.g.pairs) ∧
  (∀ (s : State) (r : PmeReq) (G : Group) (p : Port), s.port ≠ .setter → Clear .exit s → s.g.id.kind = .ordinary → Claims.Partner s r G p →
    s.pme.filter (fun x => Claims.ofGang s.g x && !x.checked && x.grp != s.g.id.uid) = [r] →
    (s.g.slot (otherSlot s.port)).path = none → s.g.stack = [] → (s.g.slot s.port).replay = none →
    ∃ t, exec .exit s = .next t ∧ t.g.ended = true ∧ t.mem = s.mem ∧ Claims.PartnerTraps t r G p Cause.gangBroken)) ∧
  ((∀ (d : BitVec 7) (a b : BitVec 8) (s : State), s.port ≠ .setter → s.held = false → (Instr.mmc d a b).legalIn (s.g.streamAt s.port) = true →
    s.mustWait (usesOf (s.g.streamAt s.port) (.mmc d a b)) = false → s.g.id.kind = .ordinary → (s.g.slot s.port).chain = none →
    engineFormat (s.g.operand32 s.port b) = none →
    ∃ t, exec (.mmc d a b) s = .next t ∧ Trapped s t Cause.illegal 0 0 ∧ t.mem = s.mem ∧ t.g.regs = s.g.regs ∧ t.g.modes = s.g.modes) ∧
  ∀ (d : BitVec 7) (a b : BitVec 8) (s : State) (w : Nat × Nat × Nat), s.port ≠ .setter → Clear (.mmc d a b) s →
    engineFormat (s.g.operand32 s.port b) = some w →
    ∃ t, exec (.mmc d a b) s = .next t ∧ OnlyGroup s t ∧ Steps (.mmc d a b) s t ∧ t.g.modes = s.g.modes ∧ t.g.regs.p = s.g.regs.p ∧
      t.g.regs.s = s.g.regs.s ∧ (∀ k, k < d.toNat ∨ d.toNat + 12 ≤ k → t.g.v k = s.g.v k) ∧
      ∀ r, r < 12 → ∀ l, l < 64 → lane (t.g.v (d.toNat + r)) l = if (s.g.maskAt s.port).getLsbD l
        then compressedWord (typeOf (BitVec.ofNat 6 (s.g.operand32 s.port b))) ((List.range 16).map (fun k => s.g.v (a.toNat + k))) w.1 l r
        else lane (s.g.v (d.toNat + r)) l)

namespace Sys2Proof.Claims

open Sys2Proof.Machine

/-- The scratchpad of a team after the `n` little-endian bytes of a number were written at an offset: those bytes, and every other one as
before. -/
def SpadWrites (s t : State) (team a n v : Nat) : Prop :=
  ∀ k, t.homeByte (.spad team k) = if a ≤ k ∧ k < a + n then BitVec.ofNat 8 (v / 256 ^ (k - a)) else s.homeByte (.spad team k)

/-- The team of the group at the port, with its scratchpad in its canonical form. -/
def TeamOf (s : State) (T : Team) : Prop := s.team s.g.id.team = some T ∧ Memory.wf T.spad = true

/-- R187, R194: the page range of one page at an address: a region of the group's address space and the index of the page. -/
structure OnePage (s : State) (va : Nat) (r : Region) : Prop where
  aligned : va % 65536 = 0
  found : s.regionAt s.g.id.root va = some r
  first : s.regions.find? (fun q => q.same r) = some r
  only : s.regionOf r.root (r.base + 65536 * r.pageOf va) = some r
  inside : va + 65536 ≤ r.base + r.size
  paged : r.base % 65536 = 0

/-- The page of an index as the regions hold it. -/
def pageNow (t : State) (r : Region) (i : Nat) : Option LitPage := (t.regions.find? (fun q => q.same r)).bind (fun q => q.litPage i)

/-- R204, R205: the stream takes its first page step, and what its stores wait for has performed. -/
def firstStep (s : State) (r : Region) (page : Nat) : Prop :=
  s.pagesWait = none ∧ s.mayWrite s.port (.region r.root (r.base + 65536 * page)) 65536 = true

/-- R234: what a `bar.wait` waits for: its operands, which one that is parked keeps as it read them at its issue. -/
def awaited (s : State) (a b : BitVec 8) : Nat × BitVec 16 :=
  match s.g.waitAt s.port with
  | .barrier off token => (off, token)
  | _ => (s.g.operandFull s.port a, BitVec.ofNat 16 (s.g.operand32 s.port b))

/-- R232, R235: a barrier word that traps: a nonzero reserved field, EXPECT of zero, or ARRIVED that is not below EXPECT. -/
def badBarrier (w : Nat) : Prop := 2 ^ 32 ≤ w % 2 ^ 64 ∨ w % 256 = 0 ∨ w % 256 ≤ w / 256 % 256

/-- R235: the group may use the barrier word at an offset. -/
def barrierClear (s : State) (off : Nat) : Prop :=
  (s.port = .setter ∨ s.g.diverged = false) ∧ off % 8 = 0 ∧ off + 8 ≤ s.windowSize s.g

end Sys2Proof.Claims

/-- R194, R195, R196, R197, R199-R204: `shlit` of one page holds it, and takes a free page of the pool for it where it is dark, whose bytes
then read as the shade zero; `shfade` of one page lets it go: dark again, its page free, where it is clean and no access to it is under way,
and lit where it is not clean. The fade step of an eager region's clean candidate does the same by itself. What stops `shlit` and `shfade`,
in either stream: SHADE_ARG for an address that is not page-aligned or a range that leaves its region, REGION_NONE for an address in no
region, and SHADE_FULL for a `shlit` of a dark page where the pool has no free page and no candidate that it could fade. No page changes. -/
def Obligations.PagesLightAndFade : Prop :=
  (∀ (a b : BitVec 8) (s : State) (r : Region),
    let va := (s.g.operand64 s.port a).toNat
    let page := r.pageOf va
    (Clear (.shlit a b) s → Claims.OnePage s va r → s.g.operandFull s.port b = 1 → Claims.firstStep s r page →
      (∀ p, r.litPage page = some p →
        ∃ t q, exec (.shlit a b) s = .next t ∧ t.mem = s.mem ∧ Steps (.shlit a b) s t ∧ t.pools = s.pools ∧ t.g.regs = s.g.regs ∧
          Claims.pageNow t r page = some q ∧ q.phys = p.phys ∧ q.held = true) ∧
      (∀ pool f rest, r.litPage page = none → s.pools.find? (fun p => decide (p.num = r.pool)) = some pool → pool.free = f :: rest →
        ∃ t q, exec (.shlit a b) s = .next t ∧ Steps (.shlit a b) s t ∧ t.g.regs = s.g.regs ∧
          Claims.pageNow t r page = some q ∧ q.phys = f ∧ q.held = true ∧
          (t.pools.find? (fun p => decide (p.num = r.pool))).map (fun p => p.free) = some rest ∧
          (r.shade = 0 → ∀ k, Memory.wf s.mem = true → Memory.read t.mem k = if inPage (s.poolCode r.pool) f k then 0 else Memory.read s.mem k))) ∧
    (∀ p, Clear (.shfade a b) s → Claims.OnePage s va r → s.g.operandFull s.port b = 1 → Claims.firstStep s r page → r.litPage page = some p →
      s.regions = [r] →
      (s.pageClean r { p with held := false, candidate := p.candidate } = true → s.pageBusy r page = false →
        ∃ t, exec (.shfade a b) s = .next t ∧ t.mem = s.mem ∧ Steps (.shfade a b) s t ∧ t.g.regs = s.g.regs ∧ Claims.pageNow t r page = none ∧
          ∀ pool, s.pools.find? (fun x => decide (x.num = r.pool)) = some pool →
            (t.pools.find? (fun x => decide (x.num = r.pool))).map (fun x => x.free) = some (pool.free ++ [p.phys])) ∧
      (s.pageClean r p = false →
        ∃ t q, exec (.shfade a b) s = .next t ∧ t.mem = s.mem ∧ Steps (.shfade a b) s t ∧ t.pools = s.pools ∧ t.g.regs = s.g.regs ∧
          Claims.pageNow t r page = some q ∧ q.phys = p.phys ∧ q.held = false)) ∧
    (∀ i p, s.regions = [r] → r.gone = false → r.litPage i = some p → r.fade = 0 → p.candidate = true → p.held = false → s.pageBusy r i = false →
      s.pageClean r p = true →
      ∃ t, exec (.fadeStep r.root r.base i) s = .next t ∧ t.mem = s.mem ∧ t.g = s.g ∧ Claims.pageNow t r i = none ∧
        ∀ pool, s.pools.find? (fun x => decide (x.num = r.pool)) = some pool →
          (t.pools.find? (fun x => decide (x.num = r.pool))).map (fun x => x.free) = some (pool.free ++ [p.phys]))) ∧
  (∀ (i : Instr) (a b : BitVec 8) (s : State), (i = .shlit a b ∨ i = .shfade a b) → Clear i s → s.g.id.kind = .ordinary →
    (s.port = .setter ∨ (s.g.slot s.port).chain = none) → s.pagesWait = none →
    let va := (s.g.operand64 s.port a).toNat
    let n := s.g.operandFull s.port b
    let stops := fun (c : Cause) => ∃ t, exec i s = .next t ∧ Trapped s t c 0 0 ∧ t.mem = s.mem ∧ t.regions = s.regions ∧ t.pools = s.pools ∧
      t.g.regs = s.g.regs ∧ t.g.modes = s.g.modes
    (va % 65536 ≠ 0 → stops Cause.shadeArg) ∧
    (va % 65536 = 0 → s.regionAt s.g.id.root va = none → stops Cause.regionNone) ∧
    (∀ r, va % 65536 = 0 → s.regionAt s.g.id.root va = some r → r.base + r.size < va + 65536 * n → stops Cause.shadeArg) ∧
    (∀ r pool, i = .shlit a b → Claims.OnePage s va r → n = 1 → Claims.firstStep s r (r.pageOf va) → r.litPage (r.pageOf va) = none →
      s.pools.find? (fun p => decide (p.num = r.pool)) = some pool → pool.free = [] → s.candidates r.pool = [] → stops Cause.shadeFull))

/-- R188, R191-R193, R203, R205, R213: `shmap` of a grid with the grant, in either stream: a descriptor off its place or outside the window,
or one that breaks the map or clashes is REGION_DESC, any other is added, once what the stream's stores wait for has performed (R205), with
every page dark, and the translations of its range leave every core; without the grant it is REGION_PRIV. `litscan`, in either stream: how
many pages of the region are lit from FIRST on, how many entries follow, and the entries that fit, in ascending order of the pages, HELD in
bit 31 and clean in bit 30, go behind its header as store entries of its stream, which waits until the last of them has performed, and then
goes on. An offset or a CAP that leaves the window is SHADE_ARG, an address in no region REGION_NONE. -/
def Obligations.RegionsMapAndScan : Prop :=
  (∀ (a : BitVec 8) (s : State), Clear (.shmap a) s →
    let off := s.g.operandFull s.port a
    let free := s.port = .setter ∨ (s.g.slot s.port).chain = none
    let r := regionOfDesc (ofBytes (s.spadBytes s.g off 64)) s.g.id.root (some s.g.ownTask)
    (∀ q, s.mayManage = true → off % 64 = 0 → off + 64 ≤ s.windowSize s.g → s.g.pendingOn s.port (.spad s.g.id.team off) 64 = false →
      r = some q → s.regionClash q = false → s.mayWrite s.port (.region q.root q.base) q.size = true →
      ∃ t, exec (.shmap a) s = .next t ∧ t.mem = s.mem ∧ t.g.regs = s.g.regs ∧ Steps (.shmap a) s t ∧ t.regions = s.regions ++ [q] ∧
        q.lit = [] ∧ q.gone = false ∧ ∀ e ∈ t.tlb, e.root = q.root → q.base + q.size ≤ e.base ∨ e.base + e.leaf.size ≤ q.base) ∧
    (s.g.id.kind = .ordinary → free → s.mayManage = false →
      ∃ t, exec (.shmap a) s = .next t ∧ Trapped s t Cause.regionPriv 0 0 ∧ t.regions = s.regions ∧ t.g.regs = s.g.regs) ∧
    (s.g.id.kind = .ordinary → free → s.mayManage = true → (off % 64 ≠ 0 ∨ s.windowSize s.g < off + 64) →
      ∃ t, exec (.shmap a) s = .next t ∧ Trapped s t Cause.regionDesc 0 0 ∧ t.regions = s.regions ∧ t.g.regs = s.g.regs) ∧
    (∀ q, s.g.id.kind = .ordinary → free → s.mayManage = true → off % 64 = 0 → off + 64 ≤ s.windowSize s.g →
      s.g.pendingOn s.port (.spad s.g.id.team off) 64 = false → (r = none ∨ r = some q ∧ s.regionClash q = true) →
      ∃ t, exec (.shmap a) s = .next t ∧ Trapped s t Cause.regionDesc 0 0 ∧ t.regions = s.regions ∧ t.g.regs = s.g.regs)) ∧
  ((∀ (a b : BitVec 8) (s : State), Clear (.litscan a b) s →
    let off := s.g.operandFull s.port b
    let h := ofBytes (s.spadBytes s.g off 16)
    let first := h / 2 ^ 32 % 2 ^ 32
    let cap := h % 2 ^ 32
    let va := (s.g.operand64 s.port a).toNat
    let read := off % 16 = 0 ∧ off + 16 ≤ s.windowSize s.g ∧ s.g.pendingOn s.port (.spad s.g.id.team off) 16 = false
    let stops := fun (c : Cause) => s.g.id.kind = .ordinary → (s.port = .setter ∨ (s.g.slot s.port).chain = none) →
      ∃ t, exec (.litscan a b) s = .next t ∧ Trapped s t c 0 0 ∧ t.teams = s.teams ∧ t.g.outq = s.g.outq ∧ t.g.regs = s.g.regs
    (∀ r, read → off + 16 + 4 * cap ≤ s.windowSize s.g → s.regionAt s.g.id.root va = some r →
      s.g.mayAccess s.port (.region r.root r.base) r.size .load = true →
      let lit := sortBy (fun a b => decide (a.index ≤ b.index)) (r.lit.filter (fun p => decide (first ≤ p.index)))
      let entries := (lit.take cap).map (fun p => (if p.held then 2 ^ 31 else 0) + (if s.pageClean r p then 2 ^ 30 else 0) + p.index)
      let words := [lit.length, min cap lit.length] ++ entries
      ∃ t new, exec (.litscan a b) s = .next t ∧ t.mem = s.mem ∧ t.bufs = s.bufs ∧ t.teams = s.teams ∧ t.others = s.others ∧
        t.regions = s.regions ∧ t.g.regs = s.g.regs ∧ t.g.modes = s.g.modes ∧ t.g.waitAt s.port = .scan s.g.serial ∧
        t.g.pcAt s.port = s.g.pcAt s.port ∧ t.g.outq = s.g.outq ++ new ∧ new.length = (words.length + 1) / 2 ∧
        ∀ k e, new[k]? = some e → e.kind = .store ∧ e.serial = s.g.serial ∧ e.loc = .spad s.g.id.team (off + 8 + 8 * k) ∧ e.win = none ∧
          e.size = (if 2 * k + 1 < words.length then 8 else 4) ∧
          e.data.toNat = words.getD (2 * k) 0 % 2 ^ 32 + words.getD (2 * k + 1) 0 % 2 ^ 32 * 2 ^ 32) ∧
    ((off % 16 ≠ 0 ∨ s.windowSize s.g < off + 16) → stops Cause.shadeArg) ∧
    (read → s.windowSize s.g < off + 16 + 4 * cap → stops Cause.shadeArg) ∧
    (read → off + 16 + 4 * cap ≤ s.windowSize s.g → s.regionAt s.g.id.root va = none → stops Cause.regionNone)) ∧
  (∀ (s : State) (e : Entry) (p : Port), Claims.Ready s e → Claims.Unwatched s → e.kind = .store → e.win = none → s.releaseMay s.g e = true →
    s.g.portWhere (fun w => decide (w = .scan e.serial)) = some p → (∀ x ∈ s.g.outq, x.serial = e.serial → x.id = e.id) →
    (p = .setter ∨ (s.g.slot p).path.isSome = true) →
    ∃ t, exec (.performStore e.id) s = .next t ∧ t.g.waitAt p = .running ∧ t.g.pcAt p = s.g.pcAt p + 4 ∧ t.g.regs = s.g.regs ∧ t.port = s.port))

/-- R111, R112, R272, R404, R478: `wrst` of a register of the ordinary encoding with a value that is not illegal, and, for FMODE, GMODE,
RNGSEED and RNGCTR, on one live path. That a write of PRIO compares all 64 bits of its value with PRIO.CAP is the model's choice (log 85).
The handler's write of RPLMASK keeps only the bits that the register held at the entry, and changes nothing else. `wrst` traps: Illegal
Instruction for a bad value, MODE_DIVERGED for FMODE, GMODE, RNGSEED or RNGCTR with more than one live path. `gset` sets PITCH and GUARD,
keeps GOVM, and changes nothing else; a bad pair is Illegal Instruction, and more than one live path MODE_DIVERGED. -/
def Obligations.StateRegisterWrites : Prop :=
  (∀ (d : BitVec 7) (a : BitVec 8) (s : State), s.port ≠ .setter → Clear (.wrst d a) s → d.toNat ≠ 21 →
    ¬Claims.badValue d.toNat (s.g.operand64 s.port a) →
    (d.toNat ∈ [8, 11, 12, 13] → s.g.diverged = false) →
    ∃ t, exec (.wrst d a) s = .next t ∧ Retires s t ∧ Steps (.wrst d a) s t ∧ t.g.regs = s.g.regs ∧
      t.g.modes = Claims.modesAfter d.toNat (s.g.operand64 s.port a) s.g.modes) ∧
  (∀ (a : BitVec 8) (s : State), s.port ≠ .setter → Clear (.wrst 21#7 a) s →
    ∃ t, exec (.wrst 21#7 a) s = .next t ∧ OnlyGroup s t ∧ Steps (.wrst 21#7 a) s t ∧ t.g.regs = s.g.regs ∧ t.g.modes = s.g.modes ∧
      t.g.trapRegs = { s.g.trapRegs with rplmask := s.g.operand64 s.port a &&& s.g.trapRegs.entry }) ∧
  (∀ (d : BitVec 7) (a : BitVec 8) (s : State), s.port ≠ .setter → Clear (.wrst d a) s → s.g.id.kind = .ordinary →
    s.g.isMember s.port (usesOf (s.g.streamAt s.port) (.wrst d a)) = false →
    (Claims.badValue d.toNat (s.g.operand64 s.port a) →
      ∃ t, exec (.wrst d a) s = .next t ∧ Trapped s t Cause.illegal 0 0 ∧ t.g.regs = s.g.regs ∧ t.g.modes = s.g.modes) ∧
    (¬Claims.badValue d.toNat (s.g.operand64 s.port a) → d.toNat ∈ [8, 11, 12, 13] → s.g.diverged = true →
      ∃ t, exec (.wrst d a) s = .next t ∧ Trapped s t Cause.modeDiverged 0 0 ∧ t.g.regs = s.g.regs ∧ t.g.modes = s.g.modes)) ∧
  (∀ (a b : BitVec 8) (s : State), s.port ≠ .setter → Clear (.gset a b) s →
    let w := s.g.operand32 s.port a
    let gd := s.g.operand32 s.port b
    let good := w = 0 ∧ gd = 0 ∨ 8 ≤ w ∧ w ≤ 64 ∧ 1 ≤ gd ∧ gd + 2 ≤ w ∧ w ≤ gd + 32
    (good → s.g.diverged = false →
      ∃ t, exec (.gset a b) s = .next t ∧ Retires s t ∧ Steps (.gset a b) s t ∧ t.g.regs = s.g.regs ∧
        t.g.modes = { s.g.modes with gmode := t.g.modes.gmode } ∧ t.g.modes.gmode.toNat % 128 = w ∧ t.g.modes.gmode.toNat / 256 % 64 = gd ∧
        t.g.modes.gmode.getLsbD 15 = s.g.modes.gmode.getLsbD 15) ∧
    (s.g.id.kind = .ordinary → (s.g.slot s.port).chain = none →
      (¬good → ∃ t, exec (.gset a b) s = .next t ∧ Trapped s t Cause.illegal 0 0 ∧ t.g.regs = s.g.regs ∧ t.g.modes = s.g.modes) ∧
      (good → s.g.diverged = true → ∃ t, exec (.gset a b) s = .next t ∧ Trapped s t Cause.modeDiverged 0 0 ∧ t.g.regs = s.g.regs ∧
        t.g.modes = s.g.modes)))

/-- R232-R235, R261, R391: Barriers. `bar.arv` that comes after what its path has to release counts an arrival in the word, or opens the
next phase with the last one, and returns the phase that it read. `bar.wait` goes on where the phase differs from its token, and else parks
its stream. `wait` above its threshold parks its stream (R177). What stops a barrier instruction: BAR_DIVERGED in a hitter with more than
one live path, and BAR_WORD for an offset that is not aligned or not in the window, and for a word with a nonzero reserved field, with
EXPECT of zero, or with ARRIVED that is not below EXPECT. A `bar.arv` reads the word once what comes before it has reached the team node,
and a `bar.wait` as it issues; a parked one has read it. -/
def Obligations.BarriersCount : Prop :=
  ((∀ (d : BitVec 7) (a : BitVec 8) (s : State) (T : Team), Clear (.barArv d a) s → Claims.TeamOf s T →
    let off := s.g.operandFull s.port a
    let w := Memory.readNat T.spad off 8
    Claims.barrierClear s off → s.mayRelease s.port ((s.g.writeScope s.port (some 1)).getD 1).toNat = true → w < 2 ^ 32 → 0 < w % 256 → w / 256 % 256 < w % 256 →
    ∃ t, exec (.barArv d a) s = .next t ∧ t.mem = s.mem ∧ t.others = s.others ∧ t.g.modes = s.g.modes ∧ Steps (.barArv d a) s t ∧
      (if w / 256 % 256 + 1 = w % 256 then Claims.SpadWrites s t s.g.id.team off 8 ((w / 2 ^ 16 + 1) % 2 ^ 16 * 2 ^ 16 + w % 256)
      else Claims.SpadWrites s t s.g.id.team off 8 (w + 256)) ∧
      (s.port = .setter → WritesA s t d.toNat (BitVec.ofNat 64 (w / 2 ^ 16))) ∧
      (s.port ≠ .setter → WritesS s t d.toNat (BitVec.ofNat 64 (w / 2 ^ 16))) ∧
      t.g.arrivals.head? = some (off, BitVec.ofNat 16 (w / 2 ^ 16))) ∧
  (∀ (a b : BitVec 8) (s : State) (T : Team), Clear (.barWait a b) s → Claims.TeamOf s T →
    let off := (Claims.awaited s a b).1
    let token := (Claims.awaited s a b).2
    let l : Loc := .spad s.g.id.team off
    let w := Memory.readNat T.spad off 8
    Claims.barrierClear s off → s.g.pendingOn s.port l 8 = false → (∀ x ∈ s.bufs, x.node ∈ s.g.below l → overlap x.loc x.size l 8 = false) →
    w < 2 ^ 32 → 0 < w % 256 → w / 256 % 256 < w % 256 →
    (w / 2 ^ 16 ≠ token.toNat → ∃ t, exec (.barWait a b) s = .next t ∧ OnlyGroup s t ∧ Steps (.barWait a b) s t ∧ t.g.regs = s.g.regs ∧
      t.g.modes = s.g.modes) ∧
    (w / 2 ^ 16 = token.toNat → ∃ t, exec (.barWait a b) s = .next t ∧ OnlyGroup s t ∧ t.g.waitAt s.port = .barrier off token ∧
      t.g.pcAt s.port = s.g.pcAt s.port ∧ t.g.regs = s.g.regs)) ∧
  (∀ (d : BitVec 7) (a : BitVec 8) (s : State), Clear (.wait d a) s →
    let thr := match s.g.waitAt s.port with
      | .counter _ x => x.toNat
      | _ => s.g.operand32 s.port a
    thr < s.g.counter (d.setWidth 3) →
    ∃ t, exec (.wait d a) s = .next t ∧ OnlyGroup s t ∧ t.g.waitAt s.port = .counter (d.setWidth 3) (BitVec.ofNat 32 thr) ∧
      t.g.pcAt s.port = s.g.pcAt s.port ∧ t.g.regs = s.g.regs)) ∧
  (∀ (i : Instr) (s : State) (a b : BitVec 8) (d : BitVec 7) (off : Nat),
    (i = .barArv d a ∧ off = s.g.operandFull s.port a ∨ i = .barWait a b ∧ off = (Claims.awaited s a b).1 ∨
      i = .echo d a ∧ off = (s.g.operand64 s.port a).toNat) → Clear i s →
    s.g.id.kind = .ordinary → (s.port = .setter ∨ (s.g.slot s.port).chain = none) →
    (s.port ≠ .setter → s.g.diverged = true → ∃ t, exec i s = .next t ∧ Trapped s t Cause.barDiverged 0 0 ∧ t.mem = s.mem ∧ t.teams = s.teams ∧
      t.g.regs = s.g.regs) ∧
    ((s.port = .setter ∨ s.g.diverged = false) → (off % 8 ≠ 0 ∨ s.windowSize s.g < off + 8) →
      ∃ t, exec i s = .next t ∧ Trapped s t Cause.barWord 0 0 ∧ t.mem = s.mem ∧ t.teams = s.teams ∧ t.g.regs = s.g.regs) ∧
    (∀ T, s.team s.g.id.team = some T → Claims.barrierClear s off → Claims.badBarrier (Memory.readNat T.spad off 8) →
      (i = .barArv d a → s.mayRelease s.port ((s.g.writeScope s.port (some 1)).getD 1).toNat = true) →
      (i = .barWait a b → s.inBarrier = none ∧ s.g.pendingOn s.port (.spad s.g.id.team off) 8 = false ∧
        ∀ x ∈ s.bufs, x.node ∈ s.g.below (.spad s.g.id.team off) → overlap x.loc x.size (.spad s.g.id.team off) 8 = false) →
      ∃ t, exec i s = .next t ∧ Trapped s t Cause.barWord 0 0 ∧ t.mem = s.mem ∧ t.teams = s.teams ∧ t.g.regs = s.g.regs))

/-- R262, R268, R391: `echo` on a good barrier word sends a probe along the wait-for edges of the groups that have not arrived: 0 where none comes
back to the group, WAIT_CYCLE where one does. The probe that a parked stream sends by itself raises the same trap at its instruction, and does nothing
where the phase that it waits for is over (R234). That `echo` leaves its own group out of the edges of the word is the model's choice (log 111). -/
def Obligations.ProbesFindCycles : Prop :=
  (∀ (d : BitVec 7) (a : BitVec 8) (s : State), s.port ≠ .setter → Clear (.echo d a) s →
    let off := (s.g.operand64 s.port a).toNat
    let found := s.probe s.g.id.uid 4096 (((s.barrierEdges s.g.id.team off).filter (fun u => u != s.g.id.uid)).map (fun u => (u, []))) []
    Claims.barrierClear s off → barWordBad (s.barWord s.g.id.team off) = false →
    (found = none → ∃ t, exec (.echo d a) s = .next t ∧ OnlyGroup s t ∧ Steps (.echo d a) s t ∧ t.g.modes = s.g.modes ∧
      WritesS s t d.toNat 0) ∧
    (∀ ms, found = some ms → s.g.id.kind = .ordinary → (s.g.slot s.port).chain = none →
      ∃ t, exec (.echo d a) s = .next t ∧ t.mem = s.mem ∧ Trapped s t Cause.waitCycle 0 0 ∧ t.g.regs = s.g.regs)) ∧
  (∀ (s : State) (p : Port) (off : Nat) (token : BitVec 16) (ms : List Nat), s.g.id.present = true → s.g.id.kind = .ordinary →
    s.g.waitAt p = .barrier off token → (s.g.slot p).chain = none → barPhase (s.barWord s.g.id.team off) = token.toNat →
    s.probe s.g.id.uid 4096 ((s.barrierEdges s.g.id.team off).map (fun u => (u, []))) [] = some ms →
    ∃ t w, exec (.echoTimeout s.g.id.uid p) s = .next t ∧ t.mem = s.mem ∧ t.port = s.port ∧ t.g.regs = s.g.regs ∧
      t.g.heldAt p = some w ∧ w.cause = Cause.waitCycle ∧ w.kind = 0 ∧ w.pc = s.g.pcAt p ∧ t.g.waitAt p = .trapped) ∧
  (∀ (s : State) (p : Port) (off : Nat) (token : BitVec 16), s.g.id.present = true → s.g.waitAt p = .barrier off token →
    barPhase (s.barWord s.g.id.team off) ≠ token.toNat → exec (.echoTimeout s.g.id.uid p) s = .next s)

namespace Sys2Proof.Claims

open Sys2Proof.Machine

/-- R270, R273: the handler slot of a core is free, and the core is neither halted nor in a machine check. -/
def slotFree (s : State) (core : BitVec 10) (c : CoreCtl) : Prop :=
  s.coreCtl core = some c ∧ c.halted = false ∧ c.mcheckCause = none ∧ s.runOn core .handler = none ∧ s.runOn core .mcheck = none

/-- R271: the state in which a trap of a group is entered: both slots of the group have switched, and its image is in memory. -/
def imaged (s : State) (g : Group) (p : Port) (w : TrapWord) : State :=
  let u := s.modGroup g.id.uid Group.switch
  match u.group g.id.uid with
  | some h => u.writeImage h (some (p, w))
  | none => u

/-- R270, R271: a run in the handler slot of a core as it starts: 64 lanes at the address of its kernel, with TRAPIMG and TRAPCS in `a0` and
`a1`. -/
def Runs (h : Group) (kind : GroupKind) (core : BitVec 10) (hit : DWord) : Prop :=
  h.id.kind = kind ∧ h.id.core = core ∧ h.id.present = true ∧ h.ended = false ∧ h.slot0.path = some ⟨hit, BitVec.allOnes 64, none, false⟩ ∧
    h.slot1.path = none ∧ h.stack = [] ∧ h.a 0 = h.trapRegs.trapimg ∧ h.a 1 = h.trapRegs.trapcs

/-- The run at the port is one in the handler slot, of a group that has not ended, whose image is sound; its accesses have performed, and no
gang-wide command of it waits for partners. -/
structure Leaving (s : State) (G : Group) (pa : Nat) (w : TrapWord) : Prop where
  kind : s.g.id.kind = .handler
  entry : s.g.trapRegs.notice = false
  group : s.group s.g.trapRegs.trapped = some G
  live : G.ended = false
  other : G.id.uid ≠ s.g.id.uid
  image : s.imagePa G = some pa
  sound : s.imagePoisoned pa = false ∧ imageOk (s.imageRead pa) = true
  performed : s.mayRelease s.port 6 = true
  checked : ∀ r ∈ s.pme, r.grp = s.g.id.uid → r.checked = true
  held : G.heldTraps.find? (fun t => decide (t.1 = s.g.trapRegs.port)) = some (s.g.trapRegs.port, w)
  hitter : s.g.trapRegs.port ≠ .setter
  whole : ∀ id ∈ G.id.laneTask, ∀ y ∈ s.tasks, y.id = id → y.stage ≠ .reclaiming ∧ y.stage ≠ .cancelled

/-- R275, R276: the group goes on from its image: its registers, its modes, and the path in the slot of the trap. -/
def FromImage (s : State) (G H : Group) (pa : Nat) : Prop :=
  let word := fun off => BitVec.ofNat 64 (Memory.readNat s.mem (pa + off) 8)
  (∀ k, k < 64 → H.s k = word (0x400 + 8 * k)) ∧ (∀ k, k < 32 → H.a k = word (0x600 + 8 * k)) ∧ (∀ k, k < 7 → H.p k = word (0x700 + 8 * k)) ∧
    (∀ k, k < 128 → k < G.regs.allot → H.v k = BitVec.ofNat 2048 (Memory.readNat s.mem (pa + 0x2800 + 256 * k) 256)) ∧
    H.setPc = word 0x88 ∧ H.modes.fflags = word 0xE8 &&& 0x3F#64 ∧ H.modes.rngctr = word 0x100

end Sys2Proof.Claims

/-- R270-R272: HANDLER_ENTRY of a free handler slot takes the first trap of the core, if no notice is older and no other stream of the group stands
in a latch chain: a run of the handler kernel starts, and its registers name the trap: TRAPPC the address where the group stopped, TRAPCS the
cause, the kind, the number of its records, whether it is a chain's, whether another port of the group holds a trap, the stream and the slot, TRAPIMG the image, TRAPGRP the slot and the task, and RPLMASK the lanes to replay of a lane fault. -/
def Obligations.HandlerIsEntered : Prop :=
  ∀ (s : State) (core : BitVec 10) (c : CoreCtl) (g : Group) (p : Port) (w : TrapWord) (k : KernelRec), Claims.slotFree s core c →
    s.firstTrap core = some (g, p, w) → c.notices = [] → (g.slot0.chain = none ∧ g.slot1.chain = none) → w.records.length ≤ 64 →
    (Claims.imaged s g p w).kernelAt [] c.root c.handler.toNat = some k →
    ∃ t h, exec (.handlerEntry core) s = .next t ∧ h ∈ t.others ∧ Claims.Runs h .handler core k.hit ∧
      h.trapRegs.trapped = g.id.uid ∧ h.trapRegs.port = p ∧ h.trapRegs.trappc = w.pc &&& 0x00FF_FFFF_FFFF_FFFF#64 ∧
      h.trapRegs.trapcs.toNat / 2 ^ 32 % 256 = w.cause.toNat ∧ h.trapRegs.trapcs.toNat % 4 = w.kind.toNat ∧
      h.trapRegs.trapcs.toNat / 2 ^ 16 % 256 = max 1 w.records.length ∧ h.trapRegs.trapcs.getLsbD 5 = w.chain ∧
      h.trapRegs.trapcs.getLsbD 2 = decide (∃ x ∈ g.heldTraps, x.1 ≠ p) ∧
      h.trapRegs.trapcs.getLsbD 4 = decide (p = .setter) ∧ h.trapRegs.trapcs.getLsbD 3 = decide (p = .slot1) ∧
      h.trapRegs.trapgrp = BitVec.ofNat 64 (g.id.gslot.toNat * 2 ^ 40 + g.id.task.toNat) ∧ h.trapRegs.trapimg = s.imageVa g ∧
      h.trapRegs.rplmask = (if w.kind = 1 then (g.slot p).rpl else 0) ∧ t.mem = (Claims.imaged s g p w).mem

/-- R271, R273, R281: HANDLER_ENTRY of a free handler slot without a trap takes the oldest notice: TRAPIMG is the address of its record,
TRAPCS names MEMERR_ASYNC with kind 3, and the notice is gone. MACHINE_CHECK of a core whose handler has faulted starts the machine-check
kernel with that cause (R273). A trap of a run in the handler slot makes a machine check due with its cause; in the machine-check kernel it
halts the core, and the host learns of it by an EVENT with status 7, on pair 0 by the model's choice (log 96). -/
def Obligations.NoticesAndMachineChecks : Prop :=
  ((∀ (s : State) (core : BitVec 10) (c : CoreCtl) (n : Nat × Nat) (k : KernelRec), Claims.slotFree s core c → s.firstTrap core = none →
    c.notices = [n] → s.kernelAt [] c.root c.handler.toNat = some k →
    ∃ t h, exec (.handlerEntry core) s = .next t ∧ h ∈ t.others ∧ Claims.Runs h .handler core k.hit ∧ h.trapRegs.notice = true ∧
      h.trapRegs.trapimg = BitVec.ofNat 64 n.2 ∧ h.trapRegs.trapcs = 0x6000010003#64 ∧ t.mem = s.mem ∧
      (t.coreCtl core).map (fun c => c.notices) = some []) ∧
  (∀ (s : State) (core : BitVec 10) (c : CoreCtl) (cause : BitVec 8) (k : KernelRec), s.coreCtl core = some c → c.halted = false →
    s.runOn core .mcheck = none → (∀ h, s.runOn core .handler = some h → h.slot0.chain = none ∧ h.slot1.chain = none) →
    c.mcheckCause = some cause → s.kernelAt [] c.root c.mcheck.toNat = some k →
    ∃ t h, exec (.machineCheck core cause) s = .next t ∧ h ∈ t.others ∧ Claims.Runs h .mcheck core k.hit ∧
      h.trapRegs.trapcs = BitVec.ofNat 64 (cause.toNat * 2 ^ 32 + 2 ^ 16) ∧ (t.coreCtl core).map (fun c => c.mcheckCause) = some none ∧
      t.mem = s.mem)) ∧
  (∀ (i : Instr) (s : State) (cause : Cause) (c : CoreCtl), i.isEncoded = true → s.port ≠ .setter → (s.g.slot s.port).chain = none →
    s.held = false → (∀ d a b, i = .mmc d a b → cause = Cause.illegal ∨ (engineFormat (s.g.operand32 s.port b)).isSome = true) →
    s.preTrap i (usesOf (s.g.streamAt s.port) i) = some cause → s.coreCtl s.g.id.core = some c →
    (s.g.id.kind = .handler → ∃ t, exec i s = .next t ∧ t.mem = s.mem ∧ t.g.regs = s.g.regs ∧ t.completions = s.completions ∧
      (t.coreCtl s.g.id.core).map (fun c => c.mcheckCause) = some (some cause) ∧ (t.g.heldAt s.port).map (fun w => w.cause) = some cause) ∧
    (s.g.id.kind = .mcheck → ∃ t, exec i s = .next t ∧ t.mem = s.mem ∧ (t.coreCtl s.g.id.core).map (fun c => c.halted) = some true ∧
      ∃ x, t.completions = s.completions ++ [x] ∧ x.pair = 0 ∧ x.op = 0xF0#8 ∧ x.status = 7#8 ∧ x.result = s.g.id.core.zeroExtend 48))

/-- R214, R263, R269, R271, R275, R393, R448: `eret` and `replay` from the handler: the run leaves the handler slot, and is gone where no
command of it has still to perform; and the trapped group goes on from its image with its trap gone. After `eret` of a lane fault whose pc
the handler has left, the path goes on behind the instruction; after `replay` its lanes of RPLMASK alone do it again, and the path has its
mask back behind it; any other trap goes on at the pc of the image. `exit` there is `eret` (R395). `eret.end` from the handler: the trapped
group ends, its grid will report CANCELLED, and the run leaves the handler slot. -/
def Obligations.HandlerReturns : Prop :=
  (∀ (s : State) (G : Group) (pa : Nat) (w : TrapWord), Claims.Leaving s G pa w → s.port ≠ .setter →
    let q := s.g.trapRegs.port
    let base := if q = .slot1 then 0x40 else 0
    let pc := BitVec.ofNat 64 (Memory.readNat s.mem (pa + base) 8)
    let mask := BitVec.ofNat 64 (Memory.readNat s.mem (pa + base + 8) 8)
    (∀ i, i = .eret ∨ i = .exit → Clear i s →
      ∃ t H, exec i s = .next t ∧ t.g.id.present = !(s.drained s.g.id.uid) ∧ t.g.ended = true ∧ t.mem = s.mem ∧ t.group s.g.trapRegs.trapped = some H ∧
        Claims.FromImage s G H pa ∧ H.heldAt q = none ∧ H.waitAt q = .running ∧
        (mask ≠ 0 → (G.slot q).replay = none →
          H.maskAt q = mask ∧ (H.slot q).replay = none ∧ H.pcAt q = if w.kind = 1 ∧ pc = w.pc then w.next else pc) ∧
        (∀ r o, (G.slot q).replay = some r → (G.slot q).path = some o → w.kind = 0 → o.pc = pc → mask &&& o.mask ≠ 0 →
          H.maskAt q = mask &&& o.mask ∧ H.pcAt q = pc ∧ (H.slot q).replay = some { r with full := mask })) ∧
    (Clear .replay s →
      ∃ t H, exec .replay s = .next t ∧ t.g.id.present = !(s.drained s.g.id.uid) ∧ t.g.ended = true ∧ t.mem = s.mem ∧ t.group s.g.trapRegs.trapped = some H ∧
        Claims.FromImage s G H pa ∧ H.heldAt q = none ∧ H.waitAt q = .running ∧
        (mask ≠ 0 → (G.slot q).replay = none → w.kind = 1 → mask &&& s.g.trapRegs.rplmask ≠ 0 → H.pcAt q = pc ∧ H.maskAt q = mask &&& s.g.trapRegs.rplmask ∧
          (H.slot q).replay = some { last := w.next, full := mask }))) ∧
  (∀ (s : State) (G : Group), s.port ≠ .setter → Clear .eretEnd s → s.g.id.kind = .handler → s.g.trapRegs.notice = false →
    s.mayRelease s.port 6 = true → s.group s.g.trapRegs.trapped = some G → G.ended = false → G.id.present = true →
    G.id.uid ≠ s.g.id.uid → s.pme = [] →
    ∃ t H, exec .eretEnd s = .next t ∧ t.g.id.present = !(s.drained s.g.id.uid) ∧ t.g.ended = true ∧ t.mem = s.mem ∧
      t.group s.g.trapRegs.trapped = some H ∧ H.ended = true ∧ H.slot0.path = none ∧ H.slot1.path = none ∧ H.setExited = true ∧
      (∀ k, H.queues.getD k [] = []) ∧ ∀ x ∈ t.tasks, x.id = G.id.task → x.endedByHandler = true)

namespace Sys2Proof.Claims

open Sys2Proof.Machine

/-- R247, R254: a launch record, with the kernel record that it names, that a group of a grid may launch. -/
structure Launchable (s : State) (off : Nat) (r : LaunchRec) (k : KernelRec) : Prop where
  place : off % 128 = 0 ∧ off + 128 ≤ s.windowSize s.g
  settled : s.mayRelease s.port 6 = true
  record : launchRecOf (ofBytes (s.spadBytes s.g off 128)) = some r
  kernel : s.kernelAt s.g.nodes s.g.id.root r.krec = some k
  agrees : r.root = 0 ∧ r.nteams % k.gfall = 0 ∧ (r.region = true → s.hasGrant s.g.ownTask = true)

/-- R247, R252, R254: the task that a launch makes, but for its id, which it gets as it enters its queue. -/
def Launched (s : State) (r : LaunchRec) (k : KernelRec) (x : Task) : Prop :=
  x.parent = some s.g.ownTask ∧ x.queue = r.queue ∧ x.krec = k ∧ x.nteams = r.nteams ∧
    x.placed = 0 ∧ x.prio.toNat = min r.prio.toNat s.g.modes.prioCap.toNat ∧ x.args = (if r.argv then r.args else k.args) ∧
    x.seed = r.seed ∧ x.done = r.done ∧ x.region = r.region ∧ x.raised = 0

/-- R250, R251, R279: the next gang of a grid can take its place on some cores now. -/
structure Admissible (s : State) (x : Task) (core : BitVec 10) (cores : List (BitVec 10)) (size : Nat) (image : List Byte) : Prop where
  task : s.task x.id = some x
  stage : x.stage = .queued ∧ x.preempted = false ∧ s.bootStage = 3
  first : s.mayTake x = true
  next : s.nextGang x = some size
  small : size ≤ 4
  places : cores = gangCores size (core.toNat / size) ∧ cores.head? = some core
  fits : s.gangFits x.krec cores = true
  image : s.readImage x.root x.krec.spimg.toNat x.krec.spsize = .ok image
  paused : s.pausedTeam x.id core = none

/-- R45, R46, R60, R76, R250: a group of a task as it starts. -/
def Starts (x : Task) (core : BitVec 10) (lanes : Lanes) (h : Group) : Prop :=
  h.id.task = x.id ∧ h.id.core = core ∧ h.id.kind = .ordinary ∧ h.id.present = true ∧ h.ended = false ∧
    h.slot0.path = some ⟨x.krec.hit, lanes, none, false⟩ ∧ h.slot1.path = none ∧ h.stack = [] ∧ h.exited = ~~~lanes ∧ h.setPc = x.krec.set ∧
    h.setExited = decide (x.krec.set = 0) ∧ h.regs.allot = 24 ∧ h.modes.rngseed = x.seed ∧ h.modes.prioCap = x.prio ∧
    h.modes.prioLevel = x.prio ∧ h.modes.fmode = 0 ∧ h.modes.gmode = 0 ∧ (∀ k, k < 8 → h.a k = x.args.getD k 0) ∧ (∀ k, 0 < k → h.v k = 0)

end Sys2Proof.Claims

/-- R246, R247, R252, R254, R255: `launch` of a good record appends a new task to its queue and returns the task id, or, where the queue is
full, parks the stream with the launch that is to be appended, which has no id yet and is in no tree; a record that is off its place or bad
is LAUNCH_DESC. `cancel` of a value that names no task of the tree returns 0; of a task that is not the group's own or below it, it is
CANCEL_DENIED; otherwise the subtree stops (its groups have ended, its tasks are being reclaimed, but for grids whose last group has exited
before (R249, R256), no bin holds a thread of it), and the stream waits for the reclamation with the number of groups that ended. -/
def Obligations.LaunchAndCancel : Prop :=
  (∀ (d : BitVec 7) (a : BitVec 8) (s : State), Clear (.launch d a) s →
    let off := (s.g.operand64 s.port a).toNat
    (∀ r k, Claims.Launchable s off r k → s.queueOpen r.queue = true →
      ∃ t x, exec (.launch d a) s = .next t ∧ t.mem = s.mem ∧ t.others = s.others ∧ Steps (.launch d a) s t ∧ t.g.modes = s.g.modes ∧
        t.tasks = s.tasks ++ [x] ∧ Claims.Launched s r k x ∧ x.id = r.queue ++ s.nextSeq ∧ x.stage = .queued ∧ t.nextSeq = s.nextSeq + 1 ∧
        (s.port = .setter → WritesA s t d.toNat (x.id.zeroExtend 64)) ∧ (s.port ≠ .setter → WritesS s t d.toNat (x.id.zeroExtend 64))) ∧
    (∀ r k, Claims.Launchable s off r k → s.queueOpen r.queue = false →
      ∃ t x, exec (.launch d a) s = .next t ∧ t.mem = s.mem ∧ t.others = s.others ∧ t.g.pcAt s.port = s.g.pcAt s.port ∧
        t.tasks = s.tasks ∧ t.nextSeq = s.nextSeq ∧ Claims.Launched s r k x ∧
        t.g.waitAt s.port = .launch x (if s.port = .setter then .a d.toNat else .s d.toNat)) ∧
    (s.g.id.kind = .ordinary → (s.port = .setter ∨ (s.g.slot s.port).chain = none) →
      (off % 128 ≠ 0 ∨ s.windowSize s.g < off + 128 ∨
        (s.mayRelease s.port 6 = true ∧ launchRecOf (ofBytes (s.spadBytes s.g off 128)) = none)) →
      ∃ t, exec (.launch d a) s = .next t ∧ Trapped s t Cause.launchDesc 0 0 ∧ t.tasks = s.tasks ∧ t.g.regs = s.g.regs)) ∧
  (∀ (d : BitVec 7) (a : BitVec 8) (s : State), Clear (.cancel d a) s →
    let x := s.g.operand64 s.port a
    let id : BitVec 40 := x.setWidth 40
    ((2 ^ 40 ≤ x.toNat ∨ s.inTree id = false) →
      ∃ t, exec (.cancel d a) s = .next t ∧ OnlyGroup s t ∧ Steps (.cancel d a) s t ∧ t.g.modes = s.g.modes ∧
        (s.port = .setter → WritesA s t d.toNat 0) ∧ (s.port ≠ .setter → WritesS s t d.toNat 0)) ∧
    (x.toNat < 2 ^ 40 → s.inTree id = true → s.under s.g.ownTask id = false → s.g.id.kind = .ordinary →
      (s.port = .setter ∨ (s.g.slot s.port).chain = none) →
      ∃ t, exec (.cancel d a) s = .next t ∧ Trapped s t Cause.cancelDenied 0 0 ∧ t.tasks = s.tasks ∧ t.others = s.others) ∧
    (x.toNat < 2 ^ 40 → s.inTree id = true → s.under s.g.ownTask id = true → s.pme = [] → (s.beginCancel id).1.g.ended = false →
      ∃ t, exec (.cancel d a) s = .next t ∧ t.mem = s.mem ∧
        t.g.waitAt s.port = .reclaim id (s.beginCancel id).2 (if s.port = .setter then .a d.toNat else .s d.toNat) ∧
        (∀ h ∈ t.others, h.id.kind = .ordinary → h.id.task ∈ s.subtree id → h.ended = true) ∧
        (∀ y ∈ t.tasks, y.id ∈ s.subtree id → y.stage.over = true ∨ y.stage = .reclaiming ∨
          ∃ z ∈ s.tasks, z.id = y.id ∧ s.lastEnded z = true) ∧
        ∀ b ∈ t.bins, ∀ y ∈ b.threads, y.parent ∉ s.subtree id))

/-- R45, R46, R58, R60, R82, R83, R247, R248, R250, R251, R254, R259, R464, R465: `spawn` of a kernel of one group puts one thread for each
active lane into the bin of its kernel on its die, with the lane's word, its parent and the spawner's BINTIME, and its release stands in the
out-queue; once that performs, a bin of fewer than 64 threads whose timer is not 0 launches nothing. A target that names no such kernel is
BAD_SPAWN; a record whose HIT is not the target is one too by the model's choice (log 38). What the distributor and the cores do by
themselves: QUEUE_APPEND queues the oldest launch that waits for a queue with room, where a stream's launch gets its id and enters the tree,
and a host's launch keeps the place and the id of its consumption (both the model's choice, log 95); PRIORITY_AGING raises a queued task of
which nothing is placed by one level, up to 7; STARVATION_BOUND brings the counts of a group that has a ready slot, or a ready setter, to
the 512 clocks that put its next issue ahead of priority (in one step, by the model's choice, log 6). TEAM_ADMISSION of the next gang of a
grid places one team on each of its cores, every one of its groups as the kernel record says: at its hitter and setter addresses, 64 lanes,
with the grid's arguments, seed and priority; the grid has as many more teams placed, and runs when that is all of them. BIN_TIMER_EXPIRY
starts one group for the threads of a bin, one lane to a thread, its word in `v0` (R83). -/
def Obligations.GridsAreAdmitted : Prop :=
  ((∀ (a : BitVec 6) (o : BitVec 18) (s : State), s.port ≠ .setter → Clear (.spawn a o) s →
    let key := s.g.pcAt s.port + BitVec.ofInt 64 (2 * o.toInt) - 128
    let die := (dieOf s.g.id.core).toNat
    let lanes := members (s.g.maskAt s.port)
    (∀ k, s.kernelAt s.g.nodes s.g.id.root key.toNat = some k → k.team = 1 → k.gpref = 1 → k.hit.toNat = key.toNat + 128 → lanes ≠ [] →
      ((s.binOf die key s.g.id.root).isSome = true ∨ (s.bins.filter (fun b => b.die == die)).length < 256) →
      ∃ t b, exec (.spawn a o) s = .next t ∧ t.mem = s.mem ∧ t.others = s.others ∧ Steps (.spawn a o) s t ∧ t.g.regs = s.g.regs ∧
        t.g.modes = s.g.modes ∧ (∃ e, t.g.outq = s.g.outq ++ [e] ∧ e.kind = .spawn key s.g.id.root) ∧ t.binOf die key s.g.id.root = some b ∧
        b.threads.map (fun x => (x.v0, x.parent, x.ticks)) =
          ((s.binOf die key s.g.id.root).map (fun b => b.threads.map (fun x => (x.v0, x.parent, x.ticks)))).getD [] ++
          lanes.map (fun l => (lane (s.g.v a.toNat) l, s.g.ownTask, s.g.modes.bintime.setWidth 32))) ∧
    (s.g.id.kind = .ordinary → (s.g.slot s.port).chain = none →
      (∀ k, s.kernelAt s.g.nodes s.g.id.root key.toNat = some k → k.team ≠ 1 ∨ k.gpref ≠ 1 ∨ k.hit.toNat ≠ key.toNat + 128) →
      ∃ t, exec (.spawn a o) s = .next t ∧ Trapped s t Cause.badSpawn 0 0 ∧ t.bins = s.bins ∧ t.g.regs = s.g.regs)) ∧
  (∀ (s : State) (e : Entry) (key : BitVec 64) (root : Nat), Claims.Ready s e → e.kind = .spawn key root → s.releaseMay s.g e = true →
    (∀ b, s.binOf (dieOf s.g.id.core).toNat key root = some b → b.threads.length < 64 ∧ b.ticks ≠ 0) →
    ∃ t, exec (.performStore e.id) s = .next t ∧ t.mem = s.mem ∧ t.bins = s.bins ∧ t.bufs = s.bufs ∧ Claims.OthersStay s t s.g.id.uid ∧
      t.g.regs = s.g.regs ∧ t.g.modes = s.g.modes ∧ Claims.Left s t e)) ∧
  ((∀ (s : State) (q : BitVec 6) (x : Task) (rest : List Waiting), s.queueWaiters q = .host x :: rest → (s.queueItems q).length < 1024 →
    ∃ t, exec (.queueAppend q) s = .next t ∧ t.mem = s.mem ∧ t.g = s.g ∧ t.others = s.others ∧
      t.tasks = s.tasks.map (fun y => if y.id = x.id then { y with stage := .queued, hostWait := none } else y) ∧
      t.completions.length = s.completions.length + (if x.hostWait.isSome then 1 else 0)) ∧
  (∀ (s : State) (q : BitVec 6) (uid : Nat) (p : Port) (x : Task) (d : Dest) (rest : List Waiting), s.queueWaiters q = .stream uid p x d :: rest →
    (s.queueItems q).length < 1024 → (∀ h ∈ s.groups, s.inHandler h = false) →
    ∃ t, exec (.queueAppend q) s = .next t ∧ t.mem = s.mem ∧ t.nextSeq = s.nextSeq + 1 ∧ t.completions = s.completions ∧
      t.tasks = s.tasks ++ [{ x with id := x.queue ++ s.nextSeq, order := s.nextUid, stage := .queued, code := s.mem, codeNvme := s.nvme }]) ∧
  (∀ (s : State) (id : BitVec 40) (x : Task), s.task id = some x → x.stage = .queued → x.placed = 0 → x.prio.toNat + x.raised < 7 →
    ∃ t, exec (.priorityAging id) s = .next t ∧ t.mem = s.mem ∧ t.g = s.g ∧ t.others = s.others ∧
      (t.task id).map (fun y => y.effective) = some (x.effective + 1)) ∧
  (∀ (s : State) (grp : Nat),
    let starved := fun g : Group => { g with
      ready := if 0 < g.ready then max 512 g.ready else g.ready
      readySet := if 0 < g.readySet then max 512 g.readySet else g.readySet }
    ∃ t, exec (.starvationBound grp) s = .next t ∧ t = { s with g := t.g, others := t.others } ∧
      t.g = (if s.g.id.uid = grp then starved s.g else s.g) ∧
      ∀ h ∈ s.others, (if h.id.uid = grp then starved h else h) ∈ t.others)) ∧
  ((∀ (s : State) (x : Task) (core : BitVec 10) (cores : List (BitVec 10)) (size : Nat) (image : List Byte),
    Claims.Admissible s x core cores size image → (∀ c ∈ cores, s.freeWindow c (windowBytes x.krec.spsize) ≠ none) →
    (∀ h ∈ s.groups, h.stopped = false) →
    ∃ t new, exec (.teamAdmission x.id cores) s = .next t ∧ t.mem = s.mem ∧ t.g = s.g ∧ t.others = s.others ++ new ∧
      new.length = size * x.krec.team ∧ (∀ h ∈ new, ∃ c ∈ cores, Claims.Starts x c (BitVec.allOnes 64) h ∧ h.v 0 = 0) ∧
      (t.task x.id).map (fun y => (y.placed, y.stage)) = some (x.placed + size, if x.nteams ≤ x.placed + size then .running else .queued)) ∧
  (∀ (s : State) (b : Bin) (core : BitVec 10) (x : Thread) (rest : List Thread) (image : List Byte),
    s.binOf b.die b.key b.root = some b → (∀ h ∈ s.groups, h.stopped = false) → b.die < 16 → dieOf core = BitVec.ofNat 4 b.die →
    b.threads = x :: rest → b.threads.length ≤ 64 → b.krec.team = 1 → s.gangFits b.krec [core] = true →
    s.freeWindow core (windowBytes b.krec.spsize) ≠ none → s.recorders = [] → s.readImage b.root b.krec.spimg.toNat b.krec.spsize = .ok image →
    (∀ y ∈ s.tasks, y.id ≠ x.parent.extractLsb' 34 6 ++ s.nextSeq) → (∀ y ∈ b.threads, ∀ g ∈ s.groups, ∀ e ∈ g.outq, e.id ≠ y.entry) →
    ∃ t h, exec (.binTimerExpiry (BitVec.ofNat 4 b.die) (b.key, b.root) core) s = .next t ∧ t.mem = s.mem ∧ t.g = s.g ∧ t.others = s.others ++ [h] ∧
      h.id.core = core ∧ (∃ p, h.slot0.path = some p ∧ p.pc = b.krec.hit ∧ p.mask = lanesOf (fun j => decide (j < b.threads.length))) ∧
      (∀ j, j < 64 → lane (h.v 0) j = ((b.threads[j]?).map (fun y => y.v0)).getD 0) ∧ h.id.laneTask = b.threads.map (fun y => y.parent) ∧
      b ∉ t.bins))

/-- R249, R255, R325: GRID_COMPLETE of a running grid whose groups have all ended and drained makes it complete, removes its groups, and writes 1 to
its completion word (2 where a handler ended a group of it). RECLAMATION_COMPLETE of a cancelled subtree that is drained cancels its tasks and
completes the host's command with the number of groups that ended. -/
def Obligations.TasksEnd : Prop :=
  (∀ (s : State) (id : BitVec 40) (x : Task), s.task id = some x → x.stage = .running → s.taskDrained id = true →
    s.doneWaits x (if x.endedByHandler then 2 else 1) = false → s.migs = [] → s.tracked = [] →
    ∃ t, exec (.gridComplete id) s = .next t ∧ (t.task id).map (fun y => y.stage) = some .complete ∧
      (∀ h ∈ t.others, h.id.kind = .ordinary → h.id.task ≠ id) ∧ (x.done = 0 → t.mem = s.mem) ∧
      (∀ pa l, x.done ≠ 0 → Memory.wf s.mem = true → s.translate none x.root x.done.toNat .write = .ok (.phys pa l) →
        storageKey l.code pa / 32 ∉ s.poison → storageKey l.code pa / 32 ∉ s.failing →
        Claims.Writes s t (storageKey l.code pa) 8 (if x.endedByHandler then 2 else 1))) ∧
  (∀ (s : State) (id : BitVec 40) (x : Task) (c : HostCancel), s.task id = some x → x.stage = .reclaiming → s.reclaimable (s.subtree id) = true →
    s.waiters (fun w => match w with
      | .reclaim _ _ _ => true
      | .launch _ _ => true
      | _ => false) = [] →
    s.kvDirs = [] → s.regions = [] → s.cancels = [c] → c.task = id → (∀ y ∈ s.tasks, y.done = 0 ∧ y.hostWait = none) →
    ∃ t, exec (.reclamationComplete id) s = .next t ∧ t.mem = s.mem ∧ t.cancels = [] ∧
      (∀ y ∈ t.tasks, y.id ∈ s.subtree id → y.stage ≠ .reclaiming) ∧ (∀ h ∈ t.others, h.id.kind = .ordinary → h.id.task ∉ s.subtree id) ∧
      ∃ z, t.completions = s.completions ++ [z] ∧ z.pair = c.pair ∧ z.result = BitVec.ofNat 48 c.count ∧ z.op = 2 ∧ z.status = 0 ∧ z.sseq = c.sseq)

namespace Sys2Proof.Claims

open Sys2Proof.Machine

/-- R308: the mailbox number and the message offset of a mailbox command are good. -/
def volleyGood (s : State) (num off : Nat) : Prop := num ≤ 255 ∧ off % 16 = 0 ∧ off + 4096 ≤ s.windowSize s.g

/-- The mailbox of a die after a step, and the groups and memory as before it. -/
def Boxed (s t : State) (die : BitVec 4) (mbox : BitVec 8) (m : Mailbox) : Prop :=
  t.mailbox die mbox = m ∧ t.mem = s.mem ∧ t.g = s.g ∧ t.others = s.others ∧ t.teams = s.teams ∧ t.bufs = s.bufs

/-- R309: the header that an action gives: LEN, STEP, GEN and STATUS. -/
structure Header where
  len : Nat
  step : Nat
  gen : Nat
  status : Nat

/-- R309: the header of the action at an offset of a group's scratchpad. -/
def headerAt (s : State) (g : Group) (off : Nat) : Header :=
  let w := fun k => ofBytes ((List.range 4).map (fun i => (s.spadBytes g off 4096).getD (4 * k + i) 0))
  ⟨w 0, w 1, w 2, w 3⟩

end Sys2Proof.Claims

/-- R224, R307-R311: `vserve` and `vcatch` of a good mailbox and offset append their command to the mailbox of their die and are in flight on
counter 5; `vserve` has an entry in the out-queue besides. `vpoll` reads the state of the mailbox: NEXT, the number of observations, and unbound,
ended, idle or open. A bad number or offset is VOLLEY_ARG. -/
def Obligations.VolleyCommandsIssue : Prop :=
  ∀ (d : BitVec 7) (a b : BitVec 8) (s : State),
    let num := s.g.operandFull s.port a
    let off := s.g.operandFull s.port b
    let die := dieOf s.g.id.core
    let m := s.mailbox die (BitVec.ofNat 8 num)
    (Clear (.vserve d a b) s → Claims.volleyGood s num off → s.g.counter 5 < 255 →
      ∃ t c e, exec (.vserve d a b) s = .next t ∧ Claims.Started (.vserve d a b) s t ∧ t.g.modes = s.g.modes ∧
        t.mailbox die (BitVec.ofNat 8 num) = { m with cmds := m.cmds ++ [c] } ∧ c.serve = true ∧ c.off = off ∧ c.grp = s.g.id.uid ∧
        c.serial = s.g.serial ∧ c.task = s.g.ownTask ∧ t.g.outq = s.g.outq ++ [e] ∧ e.id = c.entry ∧ e.kind = .mailbox ∧
        Claims.Flies s t (some 5) .mailbox (if s.port = .setter then .a d.toNat else .s d.toNat) 0 false) ∧
    (Clear (.vcatch a b) s → Claims.volleyGood s num off → s.g.counter 5 < 255 →
      ∃ t c, exec (.vcatch a b) s = .next t ∧ Claims.Started (.vcatch a b) s t ∧ t.g.modes = s.g.modes ∧
        t.mailbox die (BitVec.ofNat 8 num) = { m with cmds := m.cmds ++ [c] } ∧ c.serve = false ∧ c.off = off ∧ c.grp = s.g.id.uid ∧
        c.serial = s.g.serial ∧ t.g.outq = s.g.outq ∧ Claims.Flies s t (some 5) .mailbox .none 0 false) ∧
    (Clear (.vpoll d a) s → num ≤ 255 →
      let x := BitVec.ofNat 64 (m.next.toNat * 2 ^ 32 + m.obs.length * 2 ^ 8 +
        (if m.court.isNone then 0 else if m.ended then 1 else if m.opened.isNone then 2 else 3))
      ∃ t, exec (.vpoll d a) s = .next t ∧ OnlyGroup s t ∧ Steps (.vpoll d a) s t ∧ t.g.modes = s.g.modes ∧
        (s.port = .setter → WritesA s t d.toNat x) ∧ (s.port ≠ .setter → WritesS s t d.toNat x)) ∧
    (∀ i, (i = .vserve d a b ∨ i = .vcatch a b) → Clear i s → ¬Claims.volleyGood s num off → s.g.id.kind = .ordinary →
      (s.port = .setter ∨ (s.g.slot s.port).chain = none) →
      ∃ t, exec i s = .next t ∧ Trapped s t 0x58#8 0 0 ∧ t.mailboxes = s.mailboxes ∧ t.g.regs = s.g.regs)

/-- R306, R308-R310, R315, R474: How an action at a mailbox is judged, in this order: 8 with no court; 9 for a bad status or length; at an
ended episode a restart for step 0, else 7; 6 for another owner than its task; 1 and 2 for a step before and after NEXT; 3 for an older
generation; for a newer one the rule of the court (4; adopted; or the episode ends with 5); and else it is accepted, a step opens, and NEXT
goes on by one. VSERVE_PERFORM judges the first action that can perform and writes its status to the destination; VCATCH_PERFORM gives the
first observation to the first `vcatch` that can perform, through the leaf buffer of its group. Each command leaves its mailbox. -/
def Obligations.VolleysPerform : Prop :=
  (∀ (m : Mailbox) (c : Court) (task : BitVec 40) (len step gen status : Nat), m.court = some c →
    let r := m.judge task len step gen status
    ({ m with court := none }.judge task len step gen status).2 = 8 ∧
    (status ≠ 0 ∨ 4080 < len → r = (m, 9)) ∧
    (status = 0 → len ≤ 4080 →
      (m.ended = true → step ≠ 0 → r = (m, 7)) ∧
      (m.ended = true → step = 0 → r.2 = 0 ∧ r.1.ended = false ∧ r.1.owner = some task ∧ r.1.next = 1 ∧ r.1.gen = BitVec.ofNat 32 gen ∧
        r.1.opened.isSome = true) ∧
      (m.ended = false → m.owner ≠ some task → r = (m, 6)) ∧
      (m.ended = false → m.owner = some task →
        (step < m.next.toNat → r = (m, 1)) ∧ (m.next.toNat < step → r = (m, 2)) ∧
        (step = m.next.toNat →
          (gen < m.gen.toNat → r = (m, 3)) ∧
          (m.gen.toNat < gen → (c.rule = 0 → r = (m, 4)) ∧ (2 ≤ c.rule.toNat → r.2 = 5 ∧ r.1.ended = true) ∧
            (c.rule = 1 → r.2 = 0 ∧ r.1.gen = BitVec.ofNat 32 gen ∧ r.1.opened.isSome = true ∧ r.1.next = m.next + 1)) ∧
          (gen = m.gen.toNat → r.2 = 0 ∧ r.1.opened.isSome = true ∧ r.1.next = m.next + 1 ∧ r.1.gen = m.gen))))) ∧
  ((∀ (s : State) (die : BitVec 4) (mbox : BitVec 8) (c : MboxCmd) (rest : List MboxCmd),
    let m := s.mailbox die mbox
    let h := Claims.headerAt s s.g c.off
    m.opened = none → m.obs.length < 2 → m.cmds = c :: rest → c.serve = true → s.g.id.present = true → c.grp = s.g.id.uid → s.g.ended = false →
    s.mayServe c s.g = true → s.inHandler s.g = false → s.g.stopped = false → s.g.spilled = false →
    ∃ t, exec (.vservePerform die mbox) s = .next t ∧ t.mem = s.mem ∧
      (t.mailbox die mbox).cmds = rest ∧ (t.mailbox die mbox).opened = (m.judge c.task h.len h.step h.gen h.status).1.opened ∧
      (∀ n, c.dest = .s n → n < 64 → t.g.s n = BitVec.ofNat 64 (m.judge c.task h.len h.step h.gen h.status).2) ∧
      (∀ n, c.dest = .a n → n < 32 → t.g.a n = BitVec.ofNat 64 (m.judge c.task h.len h.step h.gen h.status).2) ∧
      ∀ f ∈ t.g.inflight, f.serial = c.serial → f.done = true) ∧
  (∀ (s : State) (die : BitVec 4) (mbox : BitVec 8) (c : MboxCmd) (rest : List MboxCmd) (x : Message) (obs : List Message),
    let m := s.mailbox die mbox
    m.cmds = c :: rest → c.serve = false → s.g.id.present = true → c.grp = s.g.id.uid → (∀ e ∈ s.g.outq, e.id ∉ c.after) →
    m.obs = x :: obs → m.owner = some c.task → s.recorders = [] →
    ∃ t new, exec (.vcatchPerform die mbox) s = .next t ∧ t.mem = s.mem ∧ t.g.regs = s.g.regs ∧
      (t.mailbox die mbox).cmds = rest ∧ (t.mailbox die mbox).obs = obs ∧ t.bufs = s.bufs ++ new ∧
      (∀ w ∈ new, w.node = .grp s.g.id.uid ∧ w.serial = c.serial ∧ w.tag = none) ∧
      ∀ f ∈ t.g.inflight, f.serial = c.serial → f.done = true))

/-- R301-R303, R312-R316: a court on a core: COURT_INSTRUCTION runs one instruction of it; VBRECV_READ gives the generation and the step of the open
step, or stalls and gives up the core; VBSEND_WRITE posts the observation and, with FIN, ends the episode; COURT_EXCEPTION ends it with a FAULT
observation; SHOT_CLOCK_EXPIRY ends it with a TIMEOUT observation when its cycles are used up; COURT_QUANTUM puts a court that waits on a free
core. -/
def Obligations.CourtsRun : Prop :=
  ∀ (s : State) (die : BitVec 4) (mbox : BitVec 8) (c : Court),
    let m := s.mailbox die mbox
    (∀ m' c', m.onCore = some c → m.courtStep c = .done m' c' → m'.die = die → m'.num = mbox →
      ∃ t, exec (.courtInstruction die mbox) s = .next t ∧
        Claims.Boxed s t die mbox { m' with court := some (if m.opened.isSome then { c' with used := c'.used + 1 } else c') }) ∧
    (∀ rd next o, m.onCore = some c → m.courtStep c = .recv rd next → m.opened = some o → 0 < rd → rd < 32 →
      ∃ t k, exec (.vbrecvRead die mbox) s = .next t ∧ Claims.Boxed s t die mbox { m with court := some k } ∧ k.pc = next ∧
        k.used = c.used + 1 ∧ k.x.getD rd 0 = BitVec.ofNat 64 (o.gen.toNat * 2 ^ 32 + o.step.toNat)) ∧
    (∀ rd next, m.onCore = some c → m.courtStep c = .recv rd next → m.opened = none →
      ∃ t, exec (.vbrecvRead die mbox) s = .next t ∧ Claims.Boxed s t die mbox { m with court := some { c with hart := none } }) ∧
    (∀ x c' o, m.onCore = some c → m.courtStep c = .send x c' → m.opened = some o → x % 4096 ≤ 4080 →
      ∃ t y, exec (.vbsendWrite die mbox) s = .next t ∧ t.mem = s.mem ∧ t.g = s.g ∧ t.others = s.others ∧
        (t.mailbox die mbox).obs = m.obs ++ [y] ∧ (t.mailbox die mbox).opened = none ∧ y.gen = o.gen ∧ y.step = o.step ∧
        y.status = (if x.testBit 16 then 3 else if o.adopted then 4 else 5) ∧ y.payload = Memory.readBytes m.obsBuf 16 (x % 4096) ∧
        (t.mailbox die mbox).ended = (m.ended || x.testBit 16)) ∧
    (m.onCore = some c → m.courtStep c = .except →
      ∃ t, exec (.courtException die mbox) s = .next t ∧ t.mem = s.mem ∧ t.g = s.g ∧ (t.mailbox die mbox).ended = true ∧
        (t.mailbox die mbox).opened = none ∧ (t.mailbox die mbox).obs.map (fun y => y.status) =
          m.obs.map (fun y => y.status) ++ (if m.opened.isSome then [0] else [])) ∧
    (∀ o, m.court = some c → m.opened = some o → c.cycles ≠ 0 → c.cycles ≤ c.used →
      ∃ t, exec (.shotClockExpiry die mbox) s = .next t ∧ t.mem = s.mem ∧ t.g = s.g ∧ (t.mailbox die mbox).ended = true ∧
        (t.mailbox die mbox).obs = m.obs ++ [{ status := 1, gen := o.gen, step := o.step, payload := [] }]) ∧
    (∀ hart, s.mailboxes = [m] → m.die = die → m.num = mbox → m.court = some c → c.running = true → m.opened = none → c.hart = none →
      m.stalled c = false →
      ∃ t, exec (.courtQuantum die hart) s = .next t ∧ Claims.Boxed s t die mbox { m with court := some { c with hart := some hart } })

namespace Sys2Proof.Claims

open Sys2Proof.Machine

/-- R322: the commands of the host link: the pair that a happening serves, and its OP. -/
def commandOf : Instr → Option (BitVec 4 × Nat)
  | .launchCommand n => some (n, 1)
  | .cancelCommand n => some (n, 2)
  | .preempt n => some (n, 3)
  | .resume n => some (n, 4)
  | .invalidate n => some (n, 5)
  | .poolAdd n => some (n, 6)
  | .regionDel n => some (n, 7)
  | .courtStart n => some (n, 8)
  | .windowOpen n => some (n, 9)
  | .collective n => some (n, 0xA)
  | .handlerSet n => some (n, 0xB)
  | .debugAttach n => some (n, 0xC)
  | .errRing n => some (n, 0xD)
  | .attest n => some (n, 0xE)
  | .windowClose n => some (n, 0xF)
  | .courtStop n => some (n, 0x10)
  | .ctxPool n => some (n, 0x11)
  | _ => none

/-- R323: the entry of an OP that the device takes next from a pair carries the SEQ that is due. -/
structure Submitted (s : State) (n : BitVec 4) (code : Nat) (e : Submission) : Prop where
  pair : ∃ p ∈ s.pairs, p.num = n.toNat
  head : s.submission n = some e
  op : e.op.toNat = code
  seq : e.seq = (s.pair n).sub
  clean : e.reserved = false

/-- R323, R325: an entry is consumed: SUB rises by 1, the next entry of the ring is due, and the other pairs stay. -/
structure Consumed (s t : State) (n : BitVec 4) : Prop where
  sub : (t.pair n).sub = (s.pair n).sub + 1
  take : (t.pair n).take = ((s.pair n).take + 1) % 2 ^ (s.pair n).sq.toNat
  rest : ∀ m, m ≠ n → t.pair m = s.pair m

/-- R325: the completion of an entry is the newest one. -/
def Completed (s t : State) (n : BitVec 4) (e : Submission) (status : BitVec 8) (result : BitVec 48) : Prop :=
  t.completions = s.completions ++ [{ pair := n.toNat, result := result, op := e.op, status := status, sseq := e.seq }]

/-- Only the rings, their registers and the completions that are due have changed. -/
def OnlyRings (s t : State) : Prop := t = { s with pairs := t.pairs, completions := t.completions }

/-- R322: a command that is refused has no effect, and its completion says REFUSED. -/
def Refuses (i : Instr) (s : State) (n : BitVec 4) (e : Submission) : Prop :=
  ∃ t, exec i s = .next t ∧ Consumed s t n ∧ Completed s t n e 3 0 ∧ OnlyRings s t

/-- R245, R322: a command whose descriptor is refused: its completion says REFUSED, and a record with STATE 3 goes to its STATUS, if that can be
used. -/
def Aborts (i : Instr) (s : State) (n : BitVec 4) (e : Submission) (space status : Nat) : Prop :=
  ∃ t, exec i s = .next t ∧ Consumed s t n ∧ Completed s t n e 3 0 ∧
    t = { s.abortRecord e.arg0 space status with pairs := t.pairs, completions := t.completions }

/-- A command completes OK: consumed, its completion newest, and what it does besides. -/
def Succeeds (i : Instr) (s : State) (n : BitVec 4) (e : Submission) (result : BitVec 48) (effect : State → Prop) : Prop :=
  ∃ t, exec i s = .next t ∧ Consumed s t n ∧ Completed s t n e 0 result ∧ effect t

end Sys2Proof.Claims

/-- R50, R247, R255, R278, R279, R322: LAUNCH of a good record makes a task of it and completes with its id where its queue takes it at once; the regions
of the objects that are loaded for its address space stand in the table from then on (at the first launch there, by the model's choice, log 88). CANCEL of
an id outside the tree completes with 0, and of one in the tree stops the subtree and completes later. PREEMPT stops the groups of a grid and writes
its status word, SAVED with the number of groups or NOTHING_RESIDENT; RESUME lets its teams be admitted again. Both complete as they are consumed
(the model's choice, log 27). An id that names no grid is refused, and a RESUME of one that is not pre-empted, or that has ended or is cancelled. -/
def Obligations.TaskCommandsRun : Prop :=
  ∀ (n : BitVec 4) (s : State) (e : Submission),
    (∀ r k, Claims.Submitted s n 1 e → e.arg0 % 128 = 0 → inMemory e.arg0 128 = true → e.arg1 = 0 →
      launchRecOf (s.physical e.arg0 128) = some r → s.kernelAt [] r.root r.krec = some k → r.root ≠ 0 → r.nteams % k.gfall = 0 →
      s.queueOpen r.queue = true →
      Claims.Succeeds (.launchCommand n) s n e ((r.queue ++ s.nextSeq).zeroExtend 48) (fun t => t.mem = s.mem ∧ t.g = s.g ∧ t.others = s.others ∧
        ∃ x, t.tasks = s.tasks ++ [x] ∧ x.id = r.queue ++ s.nextSeq ∧ x.stage = .queued ∧ x.krec = k ∧ x.root = r.root ∧ x.nteams = r.nteams ∧
          x.prio = r.prio ∧ x.seed = r.seed ∧ x.parent = none ∧ x.args = (if r.argv then r.args else k.args) ∧
          t.loadRegions = s.loadRegions.filter (fun q => q.root != r.root) ∧ (∀ q ∈ s.regions, q ∈ t.regions) ∧
          (∀ q ∈ t.regions, q ∈ s.regions ∨ q.root = r.root ∧ q.creator = none ∧ q.lit = []) ∧
          ∀ q, s.loadRegions = [q] → q.root = r.root → s.regionClash q = false →
            ∃ p ∈ t.regions, p.root = q.root ∧ p.base = q.base ∧ p.size = q.size ∧ p.pool = q.pool ∧ p.shade = q.shade)) ∧
    (Claims.Submitted s n 1 e → (e.arg0 % 128 ≠ 0 ∨ launchRecOf (s.physical e.arg0 128) = none) → Claims.Refuses (.launchCommand n) s n e) ∧
    (Claims.Submitted s n 2 e → e.arg1 = 0 → (2 ^ 40 ≤ e.arg0 ∨ s.inTree (BitVec.ofNat 40 e.arg0) = false) →
      Claims.Succeeds (.cancelCommand n) s n e 0 (Claims.OnlyRings s)) ∧
    (Claims.Submitted s n 2 e → e.arg1 = 0 → e.arg0 < 2 ^ 40 → s.inTree (BitVec.ofNat 40 e.arg0) = true → (∀ r ∈ s.pme, r.checked = true) →
      ∃ t, exec (.cancelCommand n) s = .next t ∧ Claims.Consumed s t n ∧ t.completions = s.completions ∧ t.mem = s.mem ∧
        (∀ x ∈ t.tasks, x.id ∈ s.subtree (BitVec.ofNat 40 e.arg0) → x.stage = .reclaiming ∨ x.stage.over = true ∨
          ∃ z ∈ s.tasks, z.id = x.id ∧ s.lastEnded z = true) ∧
        ∃ c, t.cancels = s.cancels ++ [c] ∧ c.task = BitVec.ofNat 40 e.arg0 ∧ c.pair = n.toNat ∧ c.sseq = e.seq) ∧
    (∀ x, Claims.Submitted s n 3 e → e.arg0 < 2 ^ 40 → s.task (BitVec.ofNat 40 e.arg0) = some x → s.isBinTask (BitVec.ofNat 40 e.arg0) = false →
      e.arg1 < 2 ^ 56 → (∀ w, s.deviceWaits x.root e.arg1 w = false) → s.poison = [] → s.failing = [] →
      let held := (s.groups.filter (fun g => decide (g.id.task = BitVec.ofNat 40 e.arg0) && decide (g.id.kind = .ordinary) && !g.ended)).length
      Claims.Succeeds (.preempt n) s n e 0 (fun t =>
        (∀ g ∈ t.g :: t.others, g.id.task = BitVec.ofNat 40 e.arg0 → g.id.kind = .ordinary → g.ended = false → g.id.present = true →
          g.stopped = true) ∧
        (t.task (BitVec.ofNat 40 e.arg0)).map (fun y => y.preempted) = some (!x.stage.stopping) ∧
        ∀ pa l, s.translate none x.root e.arg1 .write = .ok (.phys pa l) → Memory.wf s.mem = true → s.migs = [] → s.tracked = [] →
          Claims.Writes s t (storageKey l.code pa) 8 (if held = 0 then 2 else 1 + held % 2 ^ 32 * 2 ^ 8))) ∧
    (Claims.Submitted s n 3 e → (s.task (BitVec.ofNat 40 e.arg0) = none ∨ 2 ^ 40 ≤ e.arg0) → Claims.Refuses (.preempt n) s n e) ∧
    (∀ x, Claims.Submitted s n 4 e → e.arg0 < 2 ^ 40 → e.arg1 = 0 → s.task (BitVec.ofNat 40 e.arg0) = some x →
      (x.preempted = true → x.stage.stopping = false →
        Claims.Succeeds (.resume n) s n e 0 (fun t => t.mem = s.mem ∧ t.g = s.g ∧ t.others = s.others ∧
          (t.task (BitVec.ofNat 40 e.arg0)).map (fun y => y.preempted) = some false)) ∧
      ((x.preempted = false ∨ x.stage.stopping = true) → Claims.Refuses (.resume n) s n e)) ∧
    (Claims.Submitted s n 4 e → (s.task (BitVec.ofNat 40 e.arg0) = none ∨ 2 ^ 40 ≤ e.arg0) → Claims.Refuses (.resume n) s n e)

/-- R166, R190, R270, R330, R333, R483-R485: INVALIDATE takes the translations it names out of every core; POOL_ADD frees a page into a pool;
REGION_DEL of a region without an access under way takes it out of the table and returns its pages; HANDLER_SET sets the kernels of its cores;
CTX_POOL sets the context pool; ERR_RING sets the ring of a die and clears its header; ATTEST writes the quote. -/
def Obligations.MemoryCommandsRun : Prop :=
  ∀ (n : BitVec 4) (s : State) (e : Submission), Memory.wf s.mem = true →
    (Claims.Submitted s n 5 e → Claims.Succeeds (.invalidate n) s n e 0 (fun t =>
      t = { s with pairs := t.pairs, completions := t.completions, tlb := t.tlb } ∧
      ∀ x, x ∈ t.tlb ↔ x ∈ s.tlb ∧ ¬(x.root = e.arg0 ∧ (e.arg1 = 0 ∨ x.base ≤ e.arg1 ∧ e.arg1 < x.base + x.leaf.size)))) ∧
    (Claims.Submitted s n 6 e → e.arg0 < 2048 → e.arg1 % 65536 = 0 → inMemory e.arg1 65536 = true →
      (∀ p ∈ s.pools, p.num = BitVec.ofNat 8 e.arg0 → ∀ c, p.code = some c → c = BitVec.ofNat 3 (e.arg0 / 256)) →
      Claims.Succeeds (.poolAdd n) s n e 0 (fun t =>
        t = { s with pairs := t.pairs, completions := t.completions, pools := t.pools } ∧
        (t.pools.find? (fun p => decide (p.num = BitVec.ofNat 8 e.arg0))).map (fun p => p.free) =
          some (((s.pools.find? (fun p => decide (p.num = BitVec.ofNat 8 e.arg0))).map (fun p => p.free)).getD [] ++ [e.arg1]) ∧
        ∀ m, m ≠ BitVec.ofNat 8 e.arg0 →
          t.pools.find? (fun p => decide (p.num = m)) = s.pools.find? (fun p => decide (p.num = m)))) ∧
    (∀ r pool, Claims.Submitted s n 7 e → s.regions = [r] → r.root = e.arg0 → r.base = e.arg1 → r.gone = false → s.regionBusy r = false →
      s.pools.find? (fun p => decide (p.num = r.pool)) = some pool →
      Claims.Succeeds (.regionDel n) s n e 0 (fun t => t.mem = s.mem ∧ t.regions = [] ∧
        (t.pools.find? (fun p => decide (p.num = r.pool))).map (fun p => p.free) = some (pool.free ++ r.lit.map LitPage.phys) ∧
        ∀ x ∈ t.tlb, x.root = r.root → r.base + r.size ≤ x.base ∨ x.base + x.leaf.size ≤ r.base)) ∧
    (Claims.Submitted s n 7 e → s.regions = [] → Claims.Refuses (.regionDel n) s n e) ∧
    (Claims.Submitted s n 0xB e → inMemory e.arg0 32 = true → s.physical e.arg0 32 < 2 ^ 192 → (e.arg1 < 1024 ∨ e.arg1 = 0xFFFF) →
      Claims.Succeeds (.handlerSet n) s n e 0 (fun t => t.mem = s.mem ∧ t.g = s.g ∧ t.others = s.others ∧
        ∀ core : BitVec 10, (e.arg1 = 0xFFFF ∨ e.arg1 = core.toNat →
          ∃ c, t.coreCtl core = some c ∧ c.root = s.physical e.arg0 32 % 2 ^ 64 ∧
            c.handler = BitVec.ofNat 64 (s.physical e.arg0 32 / 2 ^ 64) ∧ c.mcheck = BitVec.ofNat 64 (s.physical e.arg0 32 / 2 ^ 128)) ∧
          (e.arg1 ≠ 0xFFFF → e.arg1 ≠ core.toNat → t.coreCtl core = s.coreCtl core))) ∧
    (let x := s.physical e.arg0 64
     Claims.Submitted s n 0x11 e → inMemory e.arg0 64 = true → e.arg1 = 0 → x < 2 ^ 224 → x / 2 ^ 128 % 2 ^ 32 = 0 → x / 2 ^ 160 % 2 ^ 32 ≠ 0 →
      x / 2 ^ 64 % 65536 = 0 → x % 65536 = 0 → (tierOf (x % 2 ^ 64) = some 0 ∨ tierOf (x % 2 ^ 64) = some 1) →
      (∀ g ∈ s.groups, g.id.kind = .ordinary → g.ended = true) →
      Claims.Succeeds (.ctxPool n) s n e 0 (fun t =>
        t = { s with pairs := t.pairs, completions := t.completions, ctxPool := t.ctxPool, images := [], saves := [] } ∧
        t.ctxPool = some { pbase := x % 2 ^ 64, vbase := BitVec.ofNat 64 (x / 2 ^ 64), nimg := x / 2 ^ 160 % 2 ^ 32, nsave := x / 2 ^ 192 })) ∧
    (Claims.Submitted s n 0xD e → e.arg0 < 16 → e.arg1 % 4096 = 0 → inMemory e.arg1 (64 + 32 * 1024) = true →
      Claims.Succeeds (.errRing n) s n e 0 (fun t => Claims.Writes s t e.arg1 64 0 ∧ t.g = s.g ∧ t.others = s.others ∧
        (t.dieCtl (BitVec.ofNat 4 e.arg0)).map (fun d => d.ring) = some (some e.arg1))) ∧
    (Claims.Submitted s n 0xD e → (16 ≤ e.arg0 ∨ e.arg1 % 4096 ≠ 0) → Claims.Refuses (.errRing n) s n e) ∧
    (Claims.Submitted s n 0xE e → inMemory e.arg1 (s.quote e.arg0).length = true →
      Claims.Succeeds (.attest n) s n e 0 (fun t => t.g = s.g ∧ t.others = s.others ∧ t.attestLog = s.attestLog ∧
        ∀ k, Memory.read t.mem k =
          if e.arg1 ≤ k ∧ k < e.arg1 + (s.quote e.arg0).length then (s.quote e.arg0).getD (k - e.arg1) 0 else Memory.read s.mem k))

/-- R236, R240, R241, R245, R284, R304, R305, R322: COURT_START of a good descriptor binds a court at its entry to its mailbox, ended; COURT_STOP unbinds
it; WINDOW_OPEN adds the window and COLLECTIVE the collective of their descriptors; WINDOW_CLOSE closes the window of a base, and its further
occurrence takes the window away, once every member has closed. DEBUG_ATTACH starts recording under a debug launch. By the model's choice a refused
WINDOW_OPEN or COLLECTIVE writes a record with STATE 3 (log 25), the commands complete as they are consumed and a further WINDOW_CLOSE without a
command is the last member's (log 28), the descriptor of a window or a collective names addresses of the space that Config.windowSpace gives (log 31),
and a second WINDOW_CLOSE of a window is refused (log 93). -/
def Obligations.UnitCommandsRun : Prop :=
  ∀ (n : BitVec 4) (s : State) (e : Submission),
    let x := s.physical e.arg0 64
    let space := fun (bit : Nat) => Config.windowSpace (x / 2 ^ bit % 2 ^ 64)
    (∀ o, let die := BitVec.ofNat 4 (x / 2 ^ 84)
      let mbox := BitVec.ofNat 8 (x / 2 ^ 72)
      let mem := x / 2 ^ 192 % 2 ^ 32
      Claims.Submitted s n 8 e → inMemory e.arg0 64 = true → e.arg1 = 0 → x < 2 ^ 256 → x / 2 ^ 64 % 2 ^ 8 = 0 → x / 2 ^ 80 % 2 ^ 4 = 0 →
      x / 2 ^ 90 % 2 ^ 38 = 0 → x / 2 ^ 88 % 4 ≠ 3 → s.courtObjs.find? (fun o => o.va.toNat == x % 2 ^ 64) = some o →
      (s.mailbox die mbox).court = none → mem ≠ 0 → mem % 65536 = 0 → mem ≤ 16 * 2 ^ 20 → o.extent ≤ mem →
      (∀ m ∈ s.mailboxes, m.die = die → m.court = none) →
      Claims.Succeeds (.courtStart n) s n e 0 (fun t => t = { s with pairs := t.pairs, completions := t.completions, mailboxes := t.mailboxes } ∧
        ∃ c, (t.mailbox die mbox).court = some c ∧ (t.mailbox die mbox).ended = true ∧ (t.mailbox die mbox).opened = none ∧ c.obj = o ∧
          c.rule = BitVec.ofNat 2 (x / 2 ^ 88) ∧ c.mem = mem ∧ c.cycles = x / 2 ^ 128 % 2 ^ 64 ∧ c.time = x / 2 ^ 224 % 2 ^ 32 ∧ c.used = 0 ∧
          c.running = false ∧ c.pc = BitVec.ofNat 64 courtBase)) ∧
    (∀ c, Claims.Submitted s n 0x10 e → e.arg0 < 16 → e.arg1 < 256 →
      (s.mailbox (BitVec.ofNat 4 e.arg0) (BitVec.ofNat 8 e.arg1)).court = some c →
      Claims.Succeeds (.courtStop n) s n e 0 (fun t => t = { s with pairs := t.pairs, completions := t.completions, mailboxes := t.mailboxes } ∧
        let m := t.mailbox (BitVec.ofNat 4 e.arg0) (BitVec.ofNat 8 e.arg1)
        m.court = none ∧ m.opened = none ∧ m.owner = none ∧ m.gen = 0 ∧ m.obs = [])) ∧
    (Claims.Submitted s n 0x10 e → (s.mailbox (BitVec.ofNat 4 e.arg0) (BitVec.ofNat 8 e.arg1)).court = none →
      Claims.Refuses (.courtStop n) s n e) ∧
    (∀ w, Claims.Submitted s n 9 e → inMemory e.arg0 64 = true → e.arg1 = 0 → windowOf x s.nextUid = some w → s.windows.length < 16 →
      (∀ v ∈ s.windows, v.overlaps w = false ∧ v.first = w.first ∧ v.nmem = w.nmem) → s.windowMapped (space 0) w.base w.size = true →
      s.putWaits (space 0) w.status.toNat (statusBytes 0 0 0) = false → s.poison = [] → s.failing = [] →
      Claims.Succeeds (.windowOpen n) s n e 0 (fun t => t.windows = s.windows ++ [w] ∧ t.g = s.g ∧ t.others = s.others ∧ w.closed = false ∧
        w.epochs = 0)) ∧
    (Claims.Submitted s n 9 e → (inMemory e.arg0 64 = false ∨ e.arg1 ≠ 0 ∨ ∀ w, windowOf x s.nextUid = some w → 16 ≤ s.windows.length ∨
      (∃ v ∈ s.windows, v.overlaps w = true ∨ v.first ≠ w.first ∨ v.nmem ≠ w.nmem) ∨ s.windowMapped (space 0) w.base w.size = false) →
      s.putWaits (space 0) (x / 2 ^ 192 % 2 ^ 64) (statusBytes 3 0 0) = false → s.poison = [] → s.failing = [] → Claims.Aborts (.windowOpen n) s n e (space 0) (x / 2 ^ 192 % 2 ^ 64)) ∧
    (∀ c, Claims.Submitted s n 0xA e → inMemory e.arg0 64 = true → e.arg1 = 0 → collectiveOf x s.nextUid = some c →
      Claims.Succeeds (.collective n) s n e 0 (fun t =>
        t = { s with pairs := t.pairs, completions := t.completions, nextUid := s.nextUid + 1,
                     colls := s.colls ++ [{ c with absent := c.differing s.module.toNat }] } ∧ c.written = [])) ∧
    (Claims.Submitted s n 0xA e → (inMemory e.arg0 64 = false ∨ e.arg1 ≠ 0 ∨ collectiveOf x s.nextUid = none) →
      s.putWaits (space 0) (x / 2 ^ 128 % 2 ^ 64) (statusBytes 3 0 0) = false → s.poison = [] → s.failing = [] →
      Claims.Aborts (.collective n) s n e (space 0) (x / 2 ^ 128 % 2 ^ 64)) ∧
    (∀ w, Claims.Submitted s n 0xF e → e.arg1 = 0 → s.windows = [w] → w.base = e.arg0 → w.closed = false →
      Claims.Succeeds (.windowClose n) s n e 0 (fun t =>
        t = { s with pairs := t.pairs, completions := t.completions, windows := [{ w with closed := true }] })) ∧
    (Claims.Submitted s n 0xF e → (∀ w ∈ s.windows, w.base = e.arg0 → w.closed = true) → Claims.Refuses (.windowClose n) s n e) ∧
    (∀ w, (∀ y, s.submission n = some y → y.op ≠ 0xF#8) →
      (s.windows.filter (fun v => v.closed))[n.toNat % (s.windows.filter (fun v => v.closed)).length]? = some w →
      s.windows.Pairwise (fun v u => v.id ≠ u.id) → (∀ c ∈ s.contribs, c.base ≠ w.base) →
      w.arrived = [] → (∀ bs, s.putWaits (Config.windowSpace w.base) w.status.toNat bs = false) →
      ∃ t, exec (.windowClose n) s = .next t ∧ t.windows = s.windows.filter (fun v => v.id != w.id) ∧ t.contribs = s.contribs ∧ t.g = s.g ∧
        t.others = s.others) ∧
    (∀ y d, Claims.Submitted s n 0xC e → e.arg0 < 2 ^ 40 → s.task (BitVec.ofNat 40 e.arg0) = some y → y.debug = true →
      inMemory e.arg1 64 = true → debugBlockOf (s.physical e.arg1 64) (BitVec.ofNat 40 e.arg0) = some d →
      Claims.Succeeds (.debugAttach n) s n e 0 (fun t =>
        t = { s with pairs := t.pairs, completions := t.completions, recorders := t.recorders } ∧
        t.recorders.find? (fun x => decide (x.task = BitVec.ofNat 40 e.arg0)) = some d ∧ d.recording = true))

/-- R321, R322, R323, R325: How the device takes an entry: one whose SEQ is not the one that is due sets STALL and completes BAD_SEQ, with
nothing consumed; of a command with SEQ as due, one with a reserved bit set completes REFUSED; and an OP outside the table completes BAD_OP.
Nothing else changes. The registers of a queue pair. In RUNNING, the doorbell gives TAIL; with RESYNC it clears STALL besides, and
consumption starts at that index, with SUB as it was. HQHEAD makes room for the entries that it passes, and the base and size registers take
what is written. A read-only register keeps its value. COMPLETION_WRITE writes the oldest completion of a pair, with CMP as its CSEQ, where
the ring has room, and raises CMP; without room it writes nothing. That an index outside the ring counts modulo 2^SQ, and that the base and
size registers take any value at any time, is the model's choice (log 33). -/
def Obligations.QueuePairsServe : Prop :=
  ((∀ (i : Instr) (s : State) (n : BitVec 4) (op : Nat) (e : Submission), Claims.commandOf i = some (n, op) → (∃ p ∈ s.pairs, p.num = n.toNat) →
    s.submission n = some e → e.op.toNat = op →
    (e.seq ≠ (s.pair n).sub → ∃ t, exec i s = .next t ∧ Claims.OnlyRings s t ∧ (t.pair n).stall = true ∧ (t.pair n).sub = (s.pair n).sub ∧
      (t.pair n).take = (s.pair n).take ∧ Claims.Completed s t n e 1 0) ∧
    (e.seq = (s.pair n).sub → e.reserved = true → Claims.Refuses i s n e)) ∧
  (∀ (s : State) (n : BitVec 4) (e : Submission), (∃ p ∈ s.pairs, p.num = n.toNat) → s.submission n = some e →
    (e.op.toNat = 0 ∨ 0x11 < e.op.toNat) → e.seq = (s.pair n).sub →
    ∃ t, exec (.badOp n) s = .next t ∧ Claims.OnlyRings s t ∧ Claims.Consumed s t n ∧ Claims.Completed s t n e 2 0)) ∧
  (∀ (n : BitVec 4) (v : BitVec 64) (s : State) (p : QueuePair), s.pairs.find? (fun q => q.num == n.toNat) = some p →
    let only := fun (t : State) (q : QueuePair) => t.pair n = q ∧ (∀ m, m ≠ n → t.pair m = s.pair m) ∧ t = { s with pairs := t.pairs }
    (s.bootStage = 3 → v.getLsbD 63 = false →
      ∃ t, exec (.hqtailDoorbell n v) s = .next t ∧ only t { p with tail := v.setWidth 12 }) ∧
    (s.bootStage = 3 → v.getLsbD 63 = true →
      ∃ t, exec (.hqtailResync n v) s = .next t ∧
        only t { p with tail := v.setWidth 12, stall := false, take := v.toNat % 2 ^ 12 % 2 ^ p.sq.toNat }) ∧
    (s.bootStage ≠ 3 → exec (.hqtailDoorbell n v) s = .next s ∧ exec (.hqtailResync n v) s = .next s) ∧
    (p.cq.toNat ≤ 12 → p.head.toNat ≤ v.toNat % 2 ^ 12 → v.toNat % 2 ^ 12 < p.head.toNat + 2 ^ p.cq.toNat → v.toNat % 2 ^ 12 - p.head.toNat ≤ p.held →
      ∃ t, exec (.hqheadWrite n v) s = .next t ∧
        only t { p with head := v.setWidth 12, held := p.held - (v.toNat % 2 ^ 12 - p.head.toNat) }) ∧
    (let reg := fun (off : Nat) => 0x8_0000_0000_0000 + 0x100 * n.toNat + off
     (∃ t, exec (.registerWrite (reg 0) v) s = .next t ∧ only t { p with sqb := v }) ∧
     (∃ t, exec (.registerWrite (reg 8) v) s = .next t ∧ only t { p with cqb := v }) ∧
     (∃ t, exec (.registerWrite (reg 0x10) v) s = .next t ∧ only t { p with sq := v.extractLsb' 0 4, cq := v.extractLsb' 4 4 }) ∧
     exec (.registerWrite (reg 0x28) v) s = .next s ∧ exec (.registerWrite (reg 0x30) v) s = .next s ∧
     exec (.registerWrite 0x8_0000_FFFF_0000 v) s = .next s) ∧
    (∀ c, s.completions.find? (fun c => c.pair == n.toNat) = some c → Memory.wf s.hostMem = true →
      (p.held < 2 ^ p.cq.toNat →
        ∃ t, exec (.completionWrite n) s = .next t ∧ t.mem = s.mem ∧ t.g = s.g ∧ t.others = s.others ∧ t.completions = s.completions.erase c ∧
          t.pair n = { p with cmp := p.cmp + 1, put := (p.put + 1) % 2 ^ p.cq.toNat, held := p.held + 1 } ∧
          let x := p.cmp.toNat + c.sseq.toNat * 2 ^ 32 + c.status.toNat * 2 ^ 64 + c.op.toNat * 2 ^ 72 + c.result.toNat * 2 ^ 80
          ∀ k, Memory.read t.hostMem k = if p.cqb.toNat + 16 * p.put ≤ k ∧ k < p.cqb.toNat + 16 * p.put + 16
            then BitVec.ofNat 8 (x / 256 ^ (k - (p.cqb.toNat + 16 * p.put))) else Memory.read s.hostMem k) ∧
      (2 ^ p.cq.toNat ≤ p.held → exec (.completionWrite n) s = .next s)))

namespace Sys2Proof.Claims

open Sys2Proof.Machine

/-- R331: the entry temperature of a throttle state, in quarter degrees: 95, 102 and 108 °C. -/
def entryTemp : Nat → Nat
  | 1 => 4 * 95
  | 2 => 4 * 102
  | 3 => 4 * 108
  | _ => 0

/-- The record of a die, as it stands or as at module reset. -/
def dieNow (s : State) (die : BitVec 4) : DieCtl := (s.dieCtl die).getD (DieCtl.reset die)

/-- Only the record of one die has changed. -/
def OnlyDie (s t : State) (die : BitVec 4) : Prop := t = { s with dies := t.dies } ∧ ∀ m, m ≠ die → t.dieCtl m = s.dieCtl m

/-- Bytes have entered memory at an address, and every other byte is as before. -/
def Entered (s t : State) (a : Nat) (bs : List Byte) : Prop :=
  t.g = s.g ∧ t.others = s.others ∧ t.teams = s.teams ∧
    ∀ k, Memory.read t.mem k = if a ≤ k ∧ k < a + bs.length then bs.getD (k - a) 0 else Memory.read s.mem k

end Sys2Proof.Claims

/-- R6, R13, R15, R16, R22, R327-R329, R331, R332: POWER_UP leaves the module without firmware, memory contents, groups or tasks, awaiting
an image, or, where a die has failed its self-test, failed; BOOTFAIL names the dies that failed. FIRMWARE_IMAGE begins the check of an
image, and its next occurrence ends it: an image whose two signatures, digest, version and format are good starts the module, with the
digest of every component in the attestation log; any other image leaves the module awaiting one, with a check that refuses it as the reason
in BOOTST. FABRIC_BRING_UP gives the module its number, and no group that has been launched another LOCID. A die whose temperature reaches
the entry temperatures of a throttle state is in it; package power takes every die one state higher; a die leaves the states whose entry
lies 5 °C above its temperature; whatever reports a temperature of 115 °C, the module stops with STAGE FAILED. A row counter over threshold
raises RDEVT by one, up to `0xFFFF`, and changes no data. -/
def Obligations.BootAndHealth : Prop :=
  (∀ (s : State),
    (∀ failed, ∃ t, exec (.powerUp failed) s = .next t ∧ t.bootStage = (if failed = 0 then 1 else 4) ∧ t.bootReason = 0 ∧ t.bootFail = failed ∧ t.mem = [] ∧ t.g = Group.launch ∧
      t.others = [] ∧ t.tasks = [] ∧ t.teams = [] ∧ t.completions = [] ∧ t.attestLog = [] ∧ t.pairs = (List.range 16).map QueuePair.reset ∧
      t.hostMem = s.hostMem ∧ t.nvme = s.nvme) ∧
    (∀ x : FirmwareImage, s.bootStage = 1 → s.bootImage = none →
      exec (.firmwareImage x) s = .next { s with bootStage := 2, bootImage := some x }) ∧
    (∀ x y : FirmwareImage, s.bootStage = 2 → s.bootImage = some x →
      let format := x.wellFormed && x.length == x.body.length
      let signed := Config.rsaVerify x.rsaKey x.digest x.rsaSig && Config.sha384 x.rsaKey == Config.fusedRsaHash &&
        Config.slhVerify x.slhKey x.digest x.slhSig && Config.sha384 x.slhKey == Config.fusedSlhHash
      let whole := Config.sha384 x.body == x.digest
      let recent := decide (Config.fusedMinVersion ≤ x.version.toNat)
      ∃ r : BitVec 8, exec (.firmwareImage y) s = .next (if format && signed && whole && recent then
          { s with bootStage := 3, bootImage := none, attestLog := x.components.map (fun c => (c.1, Config.sha384 c.2)) }
        else { s with bootStage := 1, bootImage := none, bootReason := r }) ∧
        ((format && signed && whole && recent) = false →
          r = 1 ∧ signed = false ∨ r = 2 ∧ whole = false ∨ r = 3 ∧ recent = false ∨ r = 4 ∧ format = false)) ∧
    (∀ x, s.bootStage ≠ 1 → s.bootStage ≠ 2 → exec (.firmwareImage x) s = .next s) ∧
    (∀ m, exec (.fabricBringUp m) s = .next { s with module := m })) ∧
  (∀ (s : State) (die : BitVec 4) (tmax : BitVec 12),
    let d := Claims.dieNow s die
    (tmax.toNat < 460 → ∃ t k x, exec (.throttleEntry die tmax false) s = .next t ∧ Claims.OnlyDie s t die ∧ t.dieCtl die = some x ∧
      x = { d with tmax := tmax, vmin := x.vmin, proc := x.proc, thr := BitVec.ofNat 2 (max d.thr.toNat k) } ∧ k ≤ 3 ∧ Claims.entryTemp k ≤ tmax.toNat ∧
      ∀ j, j ≤ 3 → Claims.entryTemp j ≤ tmax.toNat → j ≤ k) ∧
    (tmax.toNat < 460 → ∃ t, exec (.throttleEntry die tmax true) s = .next t ∧ t = { s with dies := t.dies } ∧
      ∀ m x, m ≠ die → s.dieCtl m = some x → t.dieCtl m = some { x with thr := BitVec.ofNat 2 (min 3 (x.thr.toNat + 1)) }) ∧
    (tmax.toNat < 460 → ∃ t x, exec (.throttleExit die tmax) s = .next t ∧ Claims.OnlyDie s t die ∧ t.dieCtl die = some x ∧
      let k := x.thr.toNat
      x = { d with tmax := tmax, vmin := x.vmin, proc := x.proc, thr := x.thr } ∧ (k ≤ d.thr.toNat ∨ Claims.entryTemp k ≤ tmax.toNat) ∧
        (k = 0 ∨ Claims.entryTemp k < tmax.toNat + 20) ∧ (∀ j, j ≤ 3 → Claims.entryTemp j ≤ tmax.toNat → j ≤ k) ∧ ∀ j, j ≤ d.thr.toNat → Claims.entryTemp j < tmax.toNat + 20 → j ≤ k) ∧
    (∀ i, (i = .thermalStop die tmax ∨ i = .throttleEntry die tmax false ∨ i = .throttleExit die tmax) →
      ∃ t, exec i s = .next t ∧ t.mem = s.mem ∧ t.g = s.g ∧ t.others = s.others ∧ (t.dieCtl die).map (fun d => d.tmax) = some tmax ∧
      (4 * 115 ≤ tmax.toNat → t.stopped = true ∧ t.bootStage = 4) ∧
      (tmax.toNat < 4 * 115 → t.stopped = s.stopped ∧ t.bootStage = s.bootStage)) ∧
    (∀ saturated bad, (saturated = true ∨ bad = true) →
      ∃ t, exec (.rowDisturb die saturated bad) s = .next t ∧ Claims.OnlyDie s t die ∧
        t.dieCtl die = some { d with rdevt := BitVec.ofNat 16 (min 0xFFFF (d.rdevt.toNat + 1)) }))

/-- R170, R281: HOST_MEMORY_WRITE and ETHERNET_RECEIVE of bytes within memory, with no sector poisoned, write those bytes and no others.
HOST_MEMORY_READ and ETHERNET_SEND carry the bytes of memory out and change none; at a sector whose halo does not match the transfer stops, with
status HALO_ERR. A page that goes out to NVMe is such a transfer: where a halo of it does not match, it stays in memory. -/
def Obligations.DataEntersAndLeaves : Prop :=
  (∀ (i : Instr) (s : State) (addr : Nat) (bytes : List Byte), (i = .hostMemoryWrite addr bytes ∨ ∃ port, i = .ethernetReceive port addr bytes) →
    Memory.wf s.mem = true → s.poison = [] → s.failing = [] → s.migs = [] → s.tracked = [] → s.recorders = [] →
    (∀ k, addr ≤ k → k < addr + bytes.length → (tierOf k).isSome = true) →
    ∃ t, exec i s = .next t ∧ Claims.Entered s t addr bytes) ∧
  (∀ (i : Instr) (s : State) (addr len : Nat) (eth : Bool),
    (eth = false ∧ i = .hostMemoryRead addr len ∨ eth = true ∧ ∃ port, i = .ethernetSend port addr len) →
    ((∀ k, s.haloBad k = true → 32 * k + 32 ≤ addr ∨ addr + len ≤ 32 * k) →
      ∃ t, exec i s = .next t ∧ t = { s with recorders := t.recorders, outward := s.outward ++
        [{ way := if eth then .ethernet else .host, addr := addr, bytes := Memory.readBytes s.mem addr len, haloErr := false }] }) ∧
    (∀ k, s.haloBad k = true → (∀ j, s.haloBad j = true → j = k) → addr ≤ 32 * k → 32 * k < addr + len →
      ∃ t, exec i s = .next t ∧ t.outward = s.outward ++
        [{ way := if eth then .ethernet else .host, addr := addr, bytes := Memory.readBytes s.mem addr (32 * k - addr), haloErr := true }])) ∧
  (∀ (s : State) (m : Migration), s.migs = [m] → m.cmd.block = none → m.cmd.newTier = 3 → s.fromNvme m = false → s.pageUnsettled m = false →
    ((∀ k, s.haloBad k = true → m.offsetOf (32 * k) = none) → s.poison = [] → s.failing = [] →
      ∃ t, exec (.migrationSwitchover m.id) s = .next t ∧ t.migs = [] ∧
        t.outward = s.outward ++ [{ way := .nvme, addr := m.oldPhys, bytes := [], haloErr := false }]) ∧
    (∀ k ∈ s.halos.map Prod.fst, s.haloBad k = true → (m.offsetOf (32 * k)).isSome = true →
      ∃ t, exec (.migrationSwitchover m.id) s = .next t ∧ t.migs = [] ∧ t.nvme = s.nvme ∧
        t.outward = s.outward ++ [{ way := .nvme, addr := m.oldPhys, bytes := [], haloErr := true }]))

/-- R238-R245: EPOCH_MERGE of an aligned address to which every member that is not absent has contributed writes the combination of the
contributions, in ascending module order, to the element at home, in this module's memory where it is HOME, and to no other byte, and counts the
epoch; integer sums wrap. MEMBER_ABSENT marks
a member in the windows and collectives it takes part in; a liveness flit changes nothing here. CHUNK_HOP at the end of a chunk's path writes the
chunk of this member's sums; a member before it passes its sums on to the next live one; a finished chunk that comes round is written (ALL_REDUCE),
and one that holds this member's contribution already is not taken again (REDUCE_SCATTER). A chunk that went to a member which is absent now is sent to
the next live one. The number behind the last chunk's tells that the collective has ended (log 28): with this member's part done for every chunk, its
record is written and the collective is gone. -/
def Obligations.WindowsMerge : Prop :=
  (∀ (s : State) (w : Window) (off : Nat) (c : Contribution) (remote : List (Nat × BitVec 32)) (x : Nat × Nat) (rest : List (Nat × Nat)),
    s.windows = [w] → w.base < 2 ^ 64 → s.contribs = [c] → c.base = w.base → c.off = off → off % w.element = 0 → off < w.size →
    let v := remote.foldl (Window.arrive s.module.toNat off) w
    (∀ m, w.first ≤ m → m < w.first + w.nmem → m ∈ v.absent ∨ ∃ y ∈ s.epochInputs v (some c) off, y.1 = m) →
    s.epochInputs v (some c) off = x :: rest →
    (∀ k (y : Target), w.home = s.module.toNat → s.translate none c.root ((w.base + off : Nat) : Int) .read = .ok y → y.loc = .mem k → y.mig = false → k / 32 ∉ s.poison → k / 32 ∉ s.failing → s.migs = [] →
      s.tracked = [] → Memory.wf s.mem = true →
      ∃ t, exec (.epochMerge (BitVec.ofNat 64 w.base) off remote) s = .next t ∧
        Claims.Writes s t k w.element (rest.foldl (fun a y => w.combine a y.2) (x.2 % 256 ^ w.element)) ∧ t.contribs = [] ∧ t.g = s.g ∧
        t.others = s.others ∧ t.windows.map (fun v => v.epochs) = [w.epochs + 1]) ∧
    (w.home ≠ s.module.toNat →
      ∃ t, exec (.epochMerge (BitVec.ofNat 64 w.base) off remote) s = .next t ∧ t.mem = s.mem ∧ t.contribs = [] ∧ t.g = s.g ∧
        t.others = s.others ∧ t.windows.map (fun v => v.epochs) = [w.epochs + 1])) ∧
  (∀ (w : Window) (a b : Nat), w.op = 2#4 → w.combine a b = (a + b) % 2 ^ 32) ∧
  (∀ (s : State) (m : Nat), m ≠ s.module.toNat →
    ∃ t, exec (.memberAbsent m) s = .next t ∧ t = { s with windows := t.windows, colls := t.colls } ∧
      t.windows.length = s.windows.length ∧ (∀ w ∈ t.windows, w.first ≤ m → m < w.first + w.nmem → m ∈ w.absent) ∧
      (∀ c ∈ t.colls, c.first ≤ m → m < c.first + c.nmem → m ∈ c.absent)) ∧
  (∀ (s : State) (l : Nat), exec (.livenessFlit l) s = .next s) ∧
  (∀ (s : State) (c : Collective) (chunk : Nat) (data : List (BitVec 16)) (by_ : List Nat), s.colls.find? (fun x => x.id == c.id) = some c →
    chunk < c.nmem → s.module.toNat ∈ c.route chunk → (∀ y ∈ c.written, y.1 ≠ chunk) →
    let me := s.module.toNat
    let out := (List.range c.chunk).map (fun e => s.hop c chunk e data[e]?)
    (s.stranded c chunk data by_ = none →
      (by_ ≠ [] ∧ data.length = c.chunk ∨ by_ = [] ∧ data = [] ∧ (c.route chunk).head? = some me) →
      ((∀ p ∈ s.passed, p.coll = c.id → p.chunk ≠ chunk) → (c.route chunk).getLast? = some me → me ∉ by_ →
        ∀ u, s.writeChunk c chunk out (by_ ++ [me]) = some u →
        ∃ t, exec (.chunkHop c.id chunk data by_) s = .next t ∧ t.mem = u.mem ∧ (c.kind ≠ 1#4 → t = u) ∧
          ∃ d, t.colls.find? (fun x => x.id == c.id) = some d ∧ d.written = c.written ++ [(chunk, by_ ++ [me])]) ∧
      (∀ m, (∀ p ∈ s.passed, p.coll = c.id → p.chunk ≠ chunk) → (c.route chunk).getLast? ≠ some me → me ∉ by_ → c.nextLive me = some m → m ≠ me →
        exec (.chunkHop c.id chunk data by_) s = .next { s with passed := s.passed ++
          [{ coll := c.id, chunk := chunk, next := m, data := out, contributed := by_ ++ [me] }] }) ∧
      (me ∈ by_ → c.kind = 1#4 → ∀ u, s.writeChunk c chunk data by_ = some u →
        ∃ t d, exec (.chunkHop c.id chunk data by_) s = .next t ∧ t.mem = u.mem ∧
        t.colls.find? (fun x => x.id == c.id) = some d ∧ d.written = c.written ++ [(chunk, by_)]) ∧
      (me ∈ by_ → c.kind ≠ 1#4 → exec (.chunkHop c.id chunk data by_) s = .next s)) ∧
    (∀ p m, s.stranded c chunk data by_ = some p → (c.route chunk).getLast? ≠ some me → c.nextLive me = some m → m ≠ me →
      exec (.chunkHop c.id chunk data by_) s = .next { s with passed := s.passed.filter (fun q => decide (q ≠ p)) ++
        [{ coll := c.id, chunk := chunk, next := m, data := p.data, contributed := p.contributed }] })) ∧
  (∀ (s : State) (c : Collective) (data : List (BitVec 16)) (by_ : List Nat), s.colls.find? (fun x => x.id == c.id) = some c →
    let me := s.module.toNat
    let space := Config.windowSpace c.src.toNat
    let state := if c.absent = [] then 1 else 2
    let wrote := fun k => ∃ y ∈ c.written, y.1 = k
    let part := fun k => me ∈ c.route k → wrote k ∨ ∃ p ∈ s.passed, p.coll = c.id ∧ p.chunk = k
    let own := fun k => c.kind = 1#4 ∨ (c.route k).getLast? = some me
    ((∀ k, k < c.nmem → part k ∧ (own k → wrote k)) → s.putWaits space c.status.toNat (statusBytes state c.absent.length 0) = false →
      exec (.chunkHop c.id c.nmem data by_) s = .next
        ({ s with colls := s.colls.filter (fun x => x.id != c.id) }.writeRecord space c.status.toNat state c.absent.length 0)) ∧
    (∀ k, k < c.nmem → (¬part k ∨ own k ∧ ¬wrote k) → exec (.chunkHop c.id c.nmem data by_) s = .next s))

/-- R184-R186: MIGRATION_COMMAND of a mapped page to a place that it fits takes the move up, and, where either tier is 2 or 3, sets MIG in the
page's entry and drops its translations. Any other move copies the page line by line, and takes further occurrences of MIGRATION_COMMAND for it, a
begin and an end for each line, by the model's reading (log 30); MIGRATION_SWITCHOVER waits until the bitmap marks every line. It moves the contents
to the new page, puts the new address into the entry with the old permissions and MIG clear, and drops the old translations. -/
def Obligations.PagesMigrate : Prop :=
  (∀ (s : State) (q : BitVec 5) (cmd : MigCommand) (pte : Nat) (l : Leaf), entryFrom s.mem cmd.va.toNat cmd.size walkLevels cmd.root = some pte →
    walk s.mem cmd.root cmd.va.toNat = .ok l → l.size = cmd.size → s.migs = [] → s.regions = [] → cmd.block = none →
    (cmd.size = 65536 ∨ cmd.size = 2 ^ 21 ∨ cmd.size = 2 ^ 30) → cmd.va.toNat % cmd.size = 0 → cmd.va.toNat < 2 ^ 56 →
    cmd.newPhys % cmd.size = 0 → tierOf cmd.newPhys = some cmd.newTier →
    ∃ t m, exec (.migrationCommand q cmd) s = .next t ∧ t.migs = [m] ∧ m.cmd = cmd ∧ m.pte = pte ∧ m.oldPhys = l.page ∧ m.oldCode = l.code ∧
      m.bitmap = 0 ∧ m.copying = none ∧ t.g = s.g ∧ t.others = s.others ∧
      (cmd.newTier.toNat < 2 → (∃ x, tierOf l.page = some x ∧ x.toNat < 2) → m.window = false ∧ t.mem = s.mem ∧ t.tlb = s.tlb) ∧
      (2 ≤ cmd.newTier.toNat ∨ (∃ x, tierOf l.page = some x ∧ 2 ≤ x.toNat) → m.window = true ∧ (∀ e ∈ t.tlb, e.root = cmd.root → e.leaf.pte ≠ pte) ∧
        (Memory.wf s.mem = true → Claims.Writes s t pte 8 (Nat.lor (Memory.readNat s.mem pte 8) 32)))) ∧
  (∀ (s : State) (m : Migration), s.migs = [m] → m.window = false → s.poison = [] → s.failing = [] →
    (∀ i, m.copying = none → (List.range m.lines).find? (fun j => !(m.bitmap.testBit j)) = some i →
      exec (.migrationCommand m.queue m.cmd) s = .next { s with migs := [{ m with copying := some i }] }) ∧
    (∀ i, m.copying = some i → ∃ t, exec (.migrationCommand m.queue m.cmd) s = .next t ∧ t.g = s.g ∧ t.others = s.others ∧ t.tlb = s.tlb ∧
      t.migs = [{ m with copying := none, bitmap := Nat.lor m.bitmap (2 ^ i) }]) ∧
    (m.cmd.block = none → s.nvmeAt = [] → m.cmd.newTier ≠ 3 → m.full = false → exec (.migrationSwitchover m.id) s = .next s)) ∧
  (∀ (s : State) (m : Migration) (old new : BitVec 2), s.migs = [m] → m.cmd.block = none → (m.window = true ∨ m.full = true) → s.nvmeAt = [] →
    s.poison = [] → s.failing = [] → Memory.wf s.mem = true →
    (m.cmd.size = 65536 ∨ m.cmd.size = 2 ^ 21 ∨ m.cmd.size = 2 ^ 30) → m.oldPhys % m.cmd.size = 0 → m.cmd.newPhys % m.cmd.size = 0 →
    tierOf m.oldPhys = some old → tierOf m.cmd.newPhys = some new → m.cmd.newTier = new →
    ∃ t, exec (.migrationSwitchover m.id) s = .next t ∧ t.migs = [] ∧ t.g.regs = s.g.regs ∧ t.g.modes = s.g.modes ∧
      Memory.readNat t.mem m.pte 8 = m.cmd.newCode.toNat * 2 ^ 61 + m.cmd.newPhys + Memory.readNat s.mem m.pte 8 / 2 % 16 * 2 + 1 ∧
      (∀ e ∈ t.tlb, e.root = m.cmd.root → e.leaf.pte ≠ m.pte) ∧
      ∀ off, off < m.cmd.size →
        let k := storageKey m.cmd.newCode (m.cmd.newPhys + off)
        (k < m.pte ∨ m.pte + 8 ≤ k) → Memory.read t.mem k = Memory.read s.mem (storageKey m.oldCode (m.oldPhys + off)))

namespace Sys2Proof.Claims

open Sys2Proof.Machine

/-- R285-R288, R292: a lane of `kvx` names a live slot and a valid entry, on tier 0 or 1, of its block table: the word of the slot, the entry, and
the address of the row. -/
def KvHit (s : State) (base : Nat) (h : KvHeader) (slot x w e va : Nat) : Prop :=
  let pos := x % 2 ^ 20
  slot < h.slots ∧ s.kvRead s.g.id.root (slotAt base slot) 8 = .ok w ∧ slotLive w = true ∧ x / 2 ^ 24 % 2 ^ 7 ≤ h.layers ∧
    x / 2 ^ 20 % 2 ^ 4 ≤ h.heads ∧ pos < 64 * h.blocks ∧
    (∃ table, s.kvRead s.g.id.root (slotAt base slot + 8) 8 = .ok table ∧
      s.kvRead s.g.id.root (base + table + 8 * h.index (x / 2 ^ 24 % 2 ^ 7) (x / 2 ^ 20 % 2 ^ 4) (x / 2 ^ 31 % 2) (pos / 64)) 8 = .ok e) ∧
    kvValid e = true ∧ kvTier e < 2 ∧ va = base + 256 * kvAddr e + 512 + pos % 64 * h.dim * kvBytes h.fmt

/-- R290: an attention-cache instruction on a directory whose header it reads acts now, counted by counter 6. No action is under way in its
address space (log 98), and no grid is recorded. -/
structure KvReady (s : State) (n : BitVec 3) (h : KvHeader) : Prop where
  hitter : s.port ≠ .setter
  counter : s.g.counter 6 < 255
  ordered : s.mayRelease s.port 6 = true
  header : s.kvHeader s.g.id.root (s.g.aBase n.toNat).toNat = .ok h
  unheld : s.g.kvHeld = false
  idle : s.kvBusy s.g.id.root = false
  unrecorded : s.recorders = []

/-- No sector is poisoned or fails, no page migrates and no grid is recorded: a write in memory changes its own bytes alone. -/
def Quiet (s : State) : Prop := s.poison = [] ∧ s.failing = [] ∧ s.migs = [] ∧ s.recorders = []

/-- The sequence slot and the word of a lane of an attention-cache instruction. -/
def slotIn (s : State) (a : BitVec 7) (l : Nat) : Nat := (lane (s.g.v a.toNat) l).toNat % 2 ^ 16
def wordIn (s : State) (b : BitVec 7) (l : Nat) : Nat := (lane (s.g.v b.toNat) l).toNat

end Sys2Proof.Claims

/-- R286-R293, R297: `kvx` of lanes that name blocks in tier 0 or 1 below the length of their sequence writes the addresses of their rows and
changes no memory. `kvx.w` of such a lane, where the block is not shared, raises LEN to hold the position, and tracks a K block. The actions of
held lanes complete with KV_ACTION_COMPLETE: the addresses are written, and the stream goes on behind its instruction. -/
def Obligations.CachesTranslate : Prop :=
  (∀ (n : BitVec 3) (b a d : BitVec 7) (s : State) (h : KvHeader) (va : Nat → Nat), Clear (.kvx n b a d) s → Claims.KvReady s n h →
    (∀ l ∈ members (s.g.maskAt s.port), ∃ w e, Claims.KvHit s (s.g.aBase n.toNat).toNat h (Claims.slotIn s a l) (Claims.wordIn s b l) w e (va l) ∧
      Claims.wordIn s b l % 2 ^ 20 < slotLen w) →
    ∃ t, exec (.kvx n b a d) s = .next t ∧ OnlyGroup s t ∧ Steps (.kvx n b a d) s t ∧ t.g.modes = s.g.modes ∧ t.g.queues = s.g.queues ∧
      t.g.outq = s.g.outq ∧ WritesPair s t d.toNat (fun l => BitVec.ofNat 64 (va l)) ∧
      ∃ f, t.g.inflight = s.g.inflight ++ [f] ∧ f.path = some 6 ∧ f.serial = s.g.serial ∧ f.done = true) ∧
  (∀ (n : BitVec 3) (b a d : BitVec 7) (s : State) (h : KvHeader) (l w e va pa : Nat) (lf : Leaf), Clear (.kvxW n b a d) s → Claims.KvReady s n h →
    let base := (s.g.aBase n.toNat).toNat
    let slot := Claims.slotIn s a l
    let x := Claims.wordIn s b l
    members (s.g.maskAt s.port) = [l] → Claims.KvHit s base h slot x w e va → kvShared e = false →
    s.translate none s.g.id.root (slotAt base slot : Nat) .write = .ok (.phys pa lf) → lf.mig = false → s.tracked = [] → Claims.Quiet s → Memory.wf s.mem = true →
    ∃ t, exec (.kvxW n b a d) s = .next t ∧ Steps (.kvxW n b a d) s t ∧ t.others = s.others ∧ t.teams = s.teams ∧ t.g.modes = s.g.modes ∧
      Claims.Writes s t (storageKey lf.code pa) 8 (w / 2 ^ 21 * 2 ^ 21 + max (slotLen w) (x % 2 ^ 20 + 1)) ∧
      WritesPair s t d.toNat (fun _ => BitVec.ofNat 64 va) ∧
      t.tracked = if x / 2 ^ 31 % 2 = 0 then [{ root := s.g.id.root, va := base + 256 * kvAddr e, nvme := false, fmt := h.fmt, dim := h.dim }] else []) ∧
  (∀ (s : State) (f : InFlight) (vals : List (Nat × BitVec 64)) (acts : List KvAct) (p : Port) (n : Nat), s.g.id.present = true →
    s.g.inflight.find? (fun x => x.serial == f.serial) = some f → f.kind = .kv vals acts [] → f.done = false → f.dest = .v n true → n + 1 < 128 →
    s.actsTurn acts = true → s.regions = [] → s.inHandler s.g = false → p ≠ .setter →
    s.g.portWhere (fun w => decide (w = .action f.serial)) = some p →
    (s.g.slot p).path.isSome = true →
    ∀ u, foldWaiting (fun (r : State) x => r.kvPerform (s.g.id.uid, f.pc.toNat) x) acts s = some u →
    ∃ t, exec (.kvActionComplete s.g.id.uid f.serial) s = .next t ∧ t.mem = u.mem ∧ t.completions = u.completions ∧ t.port = s.port ∧
      t.g.waitAt p = .running ∧ t.g.pcAt p = s.g.pcAt p + 4 ∧ (∀ x ∈ t.g.inflight, x.serial = f.serial → x.done = true) ∧
      (∀ l x, l < 64 → vals.find? (fun y => y.1 == l) = some (l, x) →
        lane (t.g.v n) l = x.setWidth 32 ∧ lane (t.g.v (n + 1)) l = x.extractLsb' 32 32) ∧
      (∀ l, l < 64 → (∀ y ∈ vals, y.1 ≠ l) → lane (t.g.v n) l = lane (s.g.v n) l ∧ lane (t.g.v (n + 1)) l = lane (s.g.v (n + 1)) l) ∧
      ∀ k, k ≠ n → k ≠ n + 1 → t.g.v k = s.g.v k)

/-- R295, R296, R299, R300: `kvfork` of one lane writes the number of the child's slot, which is the lowest free one of the directory;
`kvrel` of one lane writes the number of blocks that it frees, and where the table of the sequence has no valid entry it frees none, and the
slot alone becomes free. `kvskip` sets the bit of a lane whose block lies behind the end of the sequence or outside the window, clears that
of a block that is not there or lies on NVMe, and tests the bounds of any other; no memory changes. -/
def Obligations.SequencesAndBlocks : Prop :=
  ((∀ (n : BitVec 3) (b a d : BitVec 7) (s u : State) (h : KvHeader) (l c : Nat), Clear (.kvfork n b a d) s → Claims.KvReady s n h →
    let base := (s.g.aBase n.toNat).toNat
    members (s.g.maskAt s.port) = [l] → s.regions = [] →
    s.kvFork s.kvWho s.g.id.root base h s.g.ownTask (Claims.slotIn s a l) (Claims.wordIn s b l % 2 ^ 20) = .ok (u, c) →
    (∃ t, exec (.kvfork n b a d) s = .next t ∧ t.mem = u.mem ∧ t.nvme = u.nvme ∧ t.others = s.others ∧ t.g.modes = s.g.modes ∧
      Steps (.kvfork n b a d) s t ∧ WritesLanes s t d.toNat (fun _ => BitVec.ofNat 32 c) ∧ (s.g.id.root, base) ∈ t.kvDirs) ∧
    c < h.slots ∧ (∃ w, s.kvRead s.g.id.root (slotAt base c) 8 = .ok w ∧ bitsOf w 63 62 = 0) ∧
    ∀ j, j < c → ∃ w, s.kvRead s.g.id.root (slotAt base j) 8 = .ok w ∧ bitsOf w 63 62 ≠ 0) ∧
  (∀ (n : BitVec 3) (a d : BitVec 7) (s : State) (h : KvHeader) (l : Nat), Clear (.kvrel n a d) s → Claims.KvReady s n h →
    let base := (s.g.aBase n.toNat).toNat
    let slot := Claims.slotIn s a l
    members (s.g.maskAt s.port) = [l] → s.regions = [] →
    (∀ u k, s.kvRelease s.kvWho s.g.id.root base h slot = .ok (u, k) →
      ∃ t, exec (.kvrel n a d) s = .next t ∧ t.mem = u.mem ∧ t.completions = u.completions ∧ t.others = s.others ∧ t.g.modes = s.g.modes ∧
        Steps (.kvrel n a d) s t ∧ WritesLanes s t d.toNat (fun _ => BitVec.ofNat 32 k)) ∧
    (∀ w table free pa lf, s.kvSlot s.g.id.root base h slot = .ok w → s.kvRead s.g.id.root (slotAt base slot + 8) 8 = .ok table →
      s.kvEntries s.g.id.root (base + table) h.entries = .ok [] → s.kvRead s.g.id.root (base + 16) 4 = .ok free → free ≤ h.poolCap →
      s.translate none s.g.id.root (slotAt base slot : Nat) .write = .ok (.phys pa lf) → lf.mig = false → s.tracked = [] → Claims.Quiet s → Memory.wf s.mem = true →
      ∃ t, exec (.kvrel n a d) s = .next t ∧ Claims.Writes s t (storageKey lf.code pa) 8 (w / 2 ^ 21 % 2 ^ 41 * 2 ^ 21) ∧
        WritesLanes s t d.toNat (fun _ => 0)))) ∧
  ((∀ (n : BitVec 3) (b a d : BitVec 7) (s : State) (h : KvHeader) (x : SkipDesc) (w table : Nat) (f : Nat → Bool), Clear (.kvskip n b a d) s →
    s.port ≠ .setter → s.g.kvHeld = false → s.mayRelease s.port 6 = true → s.recorders = [] →
    let base := (s.g.aBase n.toNat).toNat
    s.kvHeader s.g.id.root base = .ok h → 32 * b.toNat + 32 ≤ s.windowSize s.g →
    (∀ off m, s.g.pendingOn s.port (.spad s.g.id.team off) m = false) →
    skipDescOf (ofBytes (s.spadBytes s.g (32 * b.toNat) 32)) = some x → x.layer ≤ h.layers → x.head ≤ h.heads →
    x.qoff + 4 * h.dim ≤ s.windowSize s.g → s.kvSlot s.g.id.root base h x.seq = .ok w → s.kvRead s.g.id.root (slotAt base x.seq + 8) 8 = .ok table →
    (∀ l ∈ members (s.g.maskAt s.port), s.kvSkipLane s.g.id.root base h x (slotLen w) table
      (fun c => ofBytes (s.spadBytes s.g (x.qoff + 4 * c) 4)) (lane (s.g.v a.toNat) l).toNat = .ok (f l)) →
    ∃ t, exec (.kvskip n b a d) s = .next t ∧ OnlyGroup s t ∧ Steps (.kvskip n b a d) s t ∧ t.g.modes = s.g.modes ∧ t.g.outq = s.g.outq ∧
      t.g.inflight = s.g.inflight ∧ WritesPred s t d.toNat f) ∧
  (∀ (s : State) (root base : Nat) (h : KvHeader) (x : SkipDesc) (len table : Nat) (q : Nat → Nat) (blk : Nat),
    let bit := s.kvSkipLane root base h x len table q blk
    (len ≤ 64 * blk → bit = .ok true) ∧ (64 * blk < len → 0 < x.w → 64 * blk + 63 + x.w < x.pos → bit = .ok true) ∧
    (∀ e, 64 * blk < len → (x.w = 0 ∨ x.pos ≤ 64 * blk + 63 + x.w) →
      s.kvRead root (base + table + 8 * h.index x.layer x.head 0 blk) 8 = .ok e → (kvValid e = false ∨ kvTier e = 3) → bit = .ok false)))

/-- R282, R284: CHECKPOINT makes a checkpoint of a recording debug grid due, and a further one takes it once the grid stands still (two steps by the
model's reading, log 32): it is written to its area, its number and its counts of groups, teams and PMEs first, and recording goes on with the next number. Where the area cannot hold it, recording
stops. -/
def Obligations.CheckpointsAreTaken : Prop :=
  ∀ (s : State) (d : DebugBlock), s.recorders = [d] → d.recording = true → Memory.wf s.mem = true →
    let gs := s.savedGroups d.task
    let teams := s.teams.filter (fun t => decide (t.task = d.task))
    let size := checkpointSize gs.length teams (pmesOf gs).length
    (d.due = false → exec (.checkpoint d.task) s = .next { s with recorders := [{ d with due := true }] }) ∧
    (d.due = true → s.gridStill d.task = false → exec (.checkpoint d.task) s = .next s) ∧
    (d.due = true → s.gridStill d.task = true → size ≤ d.cksz * 4096 →
      ∃ t, exec (.checkpoint d.task) s = .next t ∧ t.g = s.g ∧ t.others = s.others ∧ Memory.readNat t.mem d.ckpt 8 = d.number % 2 ^ 64 ∧
        Memory.readNat t.mem (d.ckpt + 8) 4 = gs.length % 2 ^ 32 ∧ Memory.readNat t.mem (d.ckpt + 12) 4 = teams.length % 2 ^ 32 ∧
        Memory.readNat t.mem (d.ckpt + 16) 4 = (pmesOf gs).length % 2 ^ 32 ∧
        ∃ e, t.recorders = [e] ∧ e.number = d.number + 1 ∧ e.due = false ∧ e.recording = true) ∧
    (d.due = true → s.gridStill d.task = true → d.cksz * 4096 < size →
      ∃ t, exec (.checkpoint d.task) s = .next t ∧ t.g = s.g ∧ t.others = s.others ∧
        ∃ e, t.recorders = [e] ∧ e.number = d.number ∧ e.due = false ∧ e.recording = false)

/-- R259, R284, R331, R334, R357: a step in which a port of a group has the turn, and none comes before it in the issue choice, or its instruction has
only to wait (log 6), runs the instruction that the port fetches and decodes, on the state with that group at the issue port, the turn taken, the
clock advanced, and a datapath of its core taken for it. Where a debug launch records the group's grid, and its checkpoint area might not hold what
the instruction leaves to be kept, it is put off and a checkpoint is due (log 99). A module that has stopped takes no turn but POWER_UP. -/
def Obligations.StepRunsDecoded : Prop :=
  (∀ (s : State) (uid : Nat) (p : Port) (rest : List Turn) (lo hi : BitVec 16) (i : Instr), s.agenda = .issue uid p :: rest →
    let u := ({ s.tick with agenda := rest }).select uid p
    u.g.id.uid = uid → u.mayIssue u.g p = true → (u.inOrder u.g p = true ∨ u.readyAt u.g p = false) → u.fetchNow = .ok (lo, hi) →
    decode (u.g.streamAt u.port) lo hi = some i →
    step s = u.reserve (exec i u.begun) ∧ u.begun = { u with tlb := u.begun.tlb, datapaths := u.begun.datapaths } ∧
      ((∀ d ∈ s.recorders, d.task = u.g.id.task → d.recording = false) → step s = exec i u.begun) ∧
      (∀ t, exec i u.begun = .next t → t.areaShort u.g.id.task = false → step s = .next t)) ∧
  (∀ (s : State) (x : Turn) (rest : List Turn), s.stopped = true → s.agenda = x :: rest → (∀ m, x ≠ .happen (.powerUp m)) →
    step s = .next { s.tick with agenda := rest })

/-- R152, R343, R344, R361, R404, R405, R438, R439, R442, R443, R475, R476: words that the reference pages write out decode to their
instructions. -/
def Obligations.WordsDecode : Prop :=
  decode .hitter 0x4152#16 0#16 = some (.xor16 9#5 5#6) ∧
    decode .hitter 0x0099#16 0x0000#16 = some .nop ∧ decode .setter 0x0099#16 0x0000#16 = some .nop ∧
    decode .hitter 0x0819#16 0x0809#16 = some (.or 8#7 false 9#8 8#8) ∧
    decode .hitter 0x00E5#16 0x00DD#16 = some (.prio 0xDD#8) ∧
    decode .hitter 0xCB53#16 0x1091#16 = some (.qnt 11#6 7#6 9#6 4#6) ∧
    decode .hitter 0x0197#16 0x0020#16 = some (.call 128#18) ∧
    decode .hitter 0x8297#16 0x0002#16 = some (.setrj 10#18) ∧ decode .setter 0x8297#16 0x0002#16 = none ∧
    decode .hitter 0x007F#16 0x2604#16 = some (.voteAll 1#7 3#3) ∧
    decode .hitter 0x00B1#16 0xF0F8#16 = some (.gset 0xF8#8 0xF0#8) ∧
    decode .hitter 0x01BF#16 0x009B#16 = some (.acrd 1#7 155#8) ∧
    decode .hitter 0x0093#16 0x0622#16 = some (.gth 0#3 0#2 4#3 8#7 3#7) ∧
    decode .hitter 0x013B#16 0xD808#16 = some (.cmpZ32P 1#3 0#3 8#8 0xD8#8) ∧
    decode .hitter 0x02C7#16 0x0086#16 = some (.wait 2#7 134#8)

/-- R334-R357: decoding the encoding of a well-formed instruction gives it back, with every operand at every value that its stream admits. -/
def Obligations.DecodingInvertsEncoding : Prop :=
  ∀ (st : Stream) (i : Instr), i.wf st = true → decode st i.encode.1 i.encode.2 = some i

namespace Sys2Proof.Claims

open Sys2Proof.Machine

/-- Device memory, host memory and the scratchpads are in their canonical form (log 2): addresses strictly rising, and no entry that an unlisted byte would read as. -/
def Canonical (s : State) : Prop := Memory.wf s.mem = true ∧ Memory.wf s.hostMem = true ∧ ∀ t ∈ s.teams, Memory.wf t.spad = true

end Sys2Proof.Claims

/-- Every step keeps device memory, host memory and the scratchpads in their canonical form (log 2), from every state in which they have it. -/
def Obligations.MemoryStaysCanonical : Prop :=
  ∀ (s t : State), Claims.Canonical s → step s = .next t → Claims.Canonical t

/-- R6, R74, R76, R84, R100, R101, R104, R111, R257, R321, R327, R329: What reset leaves: no firmware, no group, empty memory and rings, and
the queue registers at the Reset column of their map. The state registers and the register classes as a launch finds them. Memory has its
canonical form at reset (log 2). -/
def Obligations.ResetLeaves : Prop :=
  (State.reset.bootStage = 0 ∧ State.reset.bootReason = 0 ∧ State.reset.bootFail = 0 ∧ State.reset.g.id.present = false ∧ State.reset.others = [] ∧
    State.reset.tasks = [] ∧ State.reset.mem = [] ∧ State.reset.bufs = [] ∧ State.reset.completions = [] ∧
    ∀ n : BitVec 4, let p := State.reset.pair n
      p.sqb = 0 ∧ p.cqb = 0 ∧ p.cq = 4 ∧ p.sq = 4 ∧ p.tail = 0 ∧ p.head = 0 ∧ p.cmp = 0 ∧ p.sub = 0 ∧ p.stall = false ∧ p.take = 0 ∧
        p.held = 0) ∧
  (Modes.launch.fmode = 0 ∧ Modes.launch.gmode = 0 ∧ Modes.launch.fflags = 0 ∧ Modes.launch.sticky = 0 ∧ Modes.launch.rngctr = 0 ∧
    Modes.launch.bintime = 200 ∧ Group.launch.p 7 = BitVec.allOnes 64 ∧ (∀ k, k < 128 → Group.launch.v k = 0) ∧
    Group.launch.slot0.latches = Vector.replicate 4 none) ∧
  (Claims.Canonical State.reset)

/-- R115, R132, R143, R238, R239, R242, R309, R310, R321, R323, R325: each of these happenings completes, with its effect: `pmeGrant` of the only
request that waits at a PME; `passComplete` of a granted pass whose turn it is; `engineCommandComplete` of a granted command whose turn it is;
`vservePerform` of the only command at a mailbox with no open step; `vcatchPerform` of the only command at a mailbox with an observation;
`epochMerge` of an epoch to which every other member is absent; `memberAbsent` of another module; `chunkHop` of a chunk that starts at this member;
`livenessFlit`; and `hqtailDoorbell`, `hqtailResync`, `hqheadWrite` and `registerWrite` of a queue pair in RUNNING. -/
def Obligations.HappeningsComplete : Prop :=
  (∀ (s : State) (pme : Nat) (r : PmeReq), s.ungranted pme = [r] → s.unitOf r = [r] → r.checked = true → r.dispatched = true →
    (∀ x ∈ s.pme, x.grp = r.grp → x.granted = true ∨ r.order ≤ x.order) → s.arraysFree [r] = true →
    ∃ t, exec (.pmeGrant pme) s = .next t ∧ { r with granted := true } ∈ t.pme ∧ (∀ x ∈ s.pme, x.granted = true → x ∈ t.pme) ∧ t.acc = s.acc ∧
      t.g.regs = s.g.regs) ∧
  (∀ (s : State) (pme : Nat) (r : PmeReq), s.pme.find? (fun x => x.id == r.id && x.pme == pme) = some r → r.member?.isSome = true →
    s.turnOf (s.unitOf r) = true →
    ∃ t, exec (.passComplete pme r.id) s = .next t ∧ t.acc = (runPass pme (unitMembers (s.unitOf r)) s).1.acc ∧ t.g.regs = s.g.regs ∧
      ∀ x ∈ s.unitOf r, ∀ y ∈ t.pme, y.id ≠ x.id) ∧
  (∀ (s : State) (pme d : Nat) (x : Wide) (mul : Bool) (r : PmeReq) (f : InFlight), Claims.request s pme r.id r f → s.g.ended = false →
    r.cmd = .result [(d, x)] 0 false false mul → d < 128 →
    ∃ t, exec (.engineCommandComplete pme r.id) s = .next t ∧ t.g.v d = x ∧ (∀ k, k ≠ d → t.g.v k = s.g.v k) ∧
      Claims.Finished t r.id r.serial) ∧
  (∀ (s : State) (die : BitVec 4) (mbox : BitVec 8) (c : MboxCmd) (n : Nat),
    let m := s.mailbox die mbox
    let h := Claims.headerAt s s.g c.off
    m.cmds = [c] → c.serve = true → m.opened = none → m.obs = [] → s.g.id.present = true → c.grp = s.g.id.uid → s.g.ended = false →
    s.mayServe c s.g = true → c.dest = .s n → n < 64 →
    ∃ t, exec (.vservePerform die mbox) s = .next t ∧ (t.mailbox die mbox).cmds = [] ∧
      t.g.s n = BitVec.ofNat 64 (m.judge c.task h.len h.step h.gen h.status).2 ∧ ∀ k, k ≠ n → t.g.s k = s.g.s k) ∧
  (∀ (s : State) (die : BitVec 4) (mbox : BitVec 8) (c : MboxCmd) (x : Message) (obs : List Message),
    let m := s.mailbox die mbox
    m.cmds = [c] → c.serve = false → m.owner = some c.task → m.obs = x :: obs → s.g.id.present = true → c.grp = s.g.id.uid →
    (∀ e ∈ s.g.outq, e.id ∉ c.after) →
    ∃ t, exec (.vcatchPerform die mbox) s = .next t ∧ (t.mailbox die mbox).cmds = [] ∧ (t.mailbox die mbox).obs = obs ∧
      t.g.regs = s.g.regs ∧ ∀ f ∈ t.g.inflight, f.serial = c.serial → f.done = true) ∧
  (∀ (s : State) (w : Window) (c : Contribution) (k : Nat), s.windows = [w] → w.base < 2 ^ 64 → s.contribs = [c] → c.base = w.base →
    c.off < w.size → c.off % w.element = 0 → w.arrived = [] → w.home = s.module.toNat →
    (∀ m, w.first ≤ m → m < w.first + w.nmem → m ≠ s.module.toNat → m ∈ w.absent) →
    (∃ x : Target, s.translate none c.root ((w.base + c.off : Nat) : Int) .read = .ok x ∧ x.loc = .mem k ∧ x.mig = false) →
    k / 32 ∉ s.poison → k / 32 ∉ s.failing → s.migs = [] → s.tracked = [] → Memory.wf s.mem = true →
    ∃ t, exec (.epochMerge (BitVec.ofNat 64 w.base) c.off []) s = .next t ∧ Claims.Writes s t k w.element c.data.toNat ∧ t.contribs = [] ∧
      t.g = s.g ∧ t.others = s.others ∧ t.windows.map (fun v => v.epochs) = [w.epochs + 1]) ∧
  (∀ (s : State) (w : Window) (m : Nat), s.windows = [w] → s.colls = [] → m ≠ s.module.toNat → w.first ≤ m → m < w.first + w.nmem → m ∉ w.absent →
    exec (.memberAbsent m) s = .next { s with windows := [{ w with absent := w.absent ++ [m] }] }) ∧
  (∀ (s : State) (c : Collective) (chunk m : Nat), s.colls.find? (fun x => x.id == c.id) = some c → chunk < c.nmem →
    (c.route chunk).head? = some s.module.toNat → (c.route chunk).getLast? ≠ some s.module.toNat → (∀ y ∈ c.written, y.1 ≠ chunk) →
    (∀ p ∈ s.passed, p.coll = c.id → p.chunk ≠ chunk) → c.nextLive s.module.toNat = some m → m ≠ s.module.toNat →
    let out := (List.range c.chunk).map (fun e => s.hop c chunk e none)
    exec (.chunkHop c.id chunk [] []) s = .next { s with passed := s.passed ++
      [{ coll := c.id, chunk := chunk, next := m, data := out, contributed := [s.module.toNat] }] }) ∧
  (∀ (s : State) (l : Nat), exec (.livenessFlit l) s = .next s) ∧
  (∀ (s : State) (n : BitVec 4) (v : BitVec 64) (p : QueuePair), s.pairs.find? (fun q => q.num == n.toNat) = some p → s.bootStage = 3 →
    (v.getLsbD 63 = false → ∃ t, exec (.hqtailDoorbell n v) s = .next t ∧ t = { s with pairs := t.pairs } ∧
      t.pair n = { p with tail := v.setWidth 12 }) ∧
    (v.getLsbD 63 = true → ∃ t, exec (.hqtailResync n v) s = .next t ∧ t = { s with pairs := t.pairs } ∧ (t.pair n).stall = false ∧
      (t.pair n).tail = v.setWidth 12 ∧ (t.pair n).sub = p.sub) ∧
    (∃ t, exec (.hqheadWrite n v) s = .next t ∧ t = { s with pairs := t.pairs } ∧ (t.pair n).head = v.setWidth 12) ∧
    (∃ t, exec (.registerWrite (0x8_0000_0000_0000 + 0x100 * n.toNat) v) s = .next t ∧ t = { s with pairs := t.pairs } ∧
      t.pair n = { p with sqb := v }))
end

