-- ==== Sys2Proof/Laws/Bits.lean ====
section
/-! SUPPORT. Lanes of a register and lane sets: what is written is read. Steps one after another: what each of them keeps. -/

namespace Sys2Proof.Machine

theorem packLanes_lt (f : Nat → Word) (n : Nat) : packLanes f n < 2 ^ (32 * n) := by
  induction n with
  | zero => simp [packLanes]
  | succ n ih =>
    have h := (f n).isLt
    have e : 2 ^ (32 * (n + 1)) = 2 ^ 32 * 2 ^ (32 * n) := by rw [← Nat.pow_add]; congr 1; omega
    have : (f n).toNat * 2 ^ (32 * n) + 2 ^ (32 * n) ≤ 2 ^ 32 * 2 ^ (32 * n) := by
      rw [← Nat.succ_mul]; exact Nat.mul_le_mul_right _ h
    simp only [packLanes]; omega

theorem packLanes_lane (f : Nat → Word) (n j : Nat) (h : j < n) : packLanes f n / 2 ^ (32 * j) % 2 ^ 32 = (f j).toNat := by
  induction n with
  | zero => omega
  | succ n ih =>
    simp only [packLanes]
    rcases Nat.lt_or_ge j n with hj | hj
    · have e : (f n).toNat * 2 ^ (32 * n) = 2 ^ 32 * ((f n).toNat * 2 ^ (32 * (n - j - 1))) * 2 ^ (32 * j) := by
        have : 2 ^ (32 * n) = 2 ^ 32 * 2 ^ (32 * (n - j - 1)) * 2 ^ (32 * j) := by
          rw [← Nat.pow_add, ← Nat.pow_add]; congr 1; omega
        rw [this]; ring
      rw [e, Nat.add_mul_div_right _ _ (Nat.two_pow_pos _), Nat.add_mul_mod_self_left]
      exact ih hj
    · have : j = n := by omega
      subst this
      rw [Nat.add_mul_div_right _ _ (Nat.two_pow_pos _), Nat.div_eq_of_lt (packLanes_lt f j), Nat.zero_add]
      exact Nat.mod_eq_of_lt (f j).isLt

theorem packLanes_mod (f : Nat → Word) (w : Nat) (h : w = 32 * 64) : packLanes f 64 % 2 ^ w = packLanes f 64 := by
  subst h; exact Nat.mod_eq_of_lt (packLanes_lt f 64)

/-- R110: lane `j` of a register made of lanes. -/
@[simp] theorem lane_wideOf (f : Nat → Word) (j : Nat) (h : j < 64) : lane (wideOf f) j = f j := by
  apply BitVec.eq_of_toNat_eq
  rw [lane, wideOf, BitVec.extractLsb'_toNat, BitVec.toNat_ofNat, packLanes_mod f 2048 (by decide), Nat.shiftRight_eq_div_pow]
  exact packLanes_lane f 64 j h

/-- The lanes of `m` take `f`, the others keep the old value. -/
@[simp] theorem lane_laneWrite (m : Lanes) (f : Nat → Word) (x : Wide) (j : Nat) (h : j < 64) :
    lane (laneWrite m f x) j = if m.getLsbD j then f j else lane x j := by
  simp [laneWrite, h]

theorem packBits_lt (f : Nat → Bool) (n : Nat) : packBits f n < 2 ^ n := by
  induction n with
  | zero => simp [packBits]
  | succ n ih => simp only [packBits]; split <;> omega

theorem packBits_testBit (f : Nat → Bool) (n j : Nat) (h : j < n) : (packBits f n).testBit j = f j := by
  induction n with
  | zero => omega
  | succ n ih =>
    simp only [packBits]
    rcases Nat.lt_or_ge j n with hj | hj
    · split
      · rw [Nat.add_comm, Nat.testBit_two_pow_add_gt hj]; exact ih hj
      · simpa using ih hj
    · have : j = n := by omega
      subst this
      have h0 : (packBits f j).testBit j = false := Nat.testBit_lt_two_pow (packBits_lt f j)
      split
      · rw [Nat.add_comm, Nat.testBit_two_pow_add_eq]; simp [*]
      · simp [*]

/-- A lane set holds exactly its members. -/
@[simp] theorem getLsbD_lanesOf (f : Nat → Bool) (j : Nat) (h : j < 64) : (lanesOf f).getLsbD j = f j := by
  have h1 : packBits f 64 < 2 ^ 64 := packBits_lt f 64
  simp only [lanesOf, BitVec.getLsbD_ofNat, h, decide_true, Bool.true_and]
  exact packBits_testBit f 64 j h

/-- R144: the lanes of `m` take `f`, the others take 0. -/
@[simp] theorem getLsbD_predWrite (m : Lanes) (f : Nat → Bool) (j : Nat) (h : j < 64) :
    (predWrite m f).getLsbD j = (m.getLsbD j && f j) := by
  rw [predWrite, getLsbD_lanesOf _ _ h]

/-- Registers are equal when their lanes are. -/
theorem wide_ext {x y : Wide} (h : ∀ j, j < 64 → lane x j = lane y j) : x = y := by
  apply BitVec.eq_of_getLsbD_eq
  intro i hi
  have h1 := congrArg (fun z => BitVec.getLsbD z (i % 32)) (h (i / 32) (by omega))
  simp only [lane, BitVec.getLsbD_extractLsb', Nat.mod_lt i (by decide : 32 > 0), decide_true, Bool.true_and] at h1
  rwa [show 32 * (i / 32) + i % 32 = i by omega] at h1

theorem mem_members {m : Lanes} {j : Nat} : j ∈ members m ↔ j < 64 ∧ m.getLsbD j = true := by
  simp [members, allLanes, Config.gwidth]

/-! ### Steps that may have to wait -/

@[simp] theorem foldWaiting_nil {α β : Type} (f : α → β → Option α) (a : α) : foldWaiting f [] a = some a := rfl

theorem foldWaiting_cons {α β : Type} (f : α → β → Option α) (b : β) (l : List β) (a : α) :
    foldWaiting f (b :: l) a = (f a b).bind (foldWaiting f l) := by
  have h : ∀ l : List β, l.foldl (fun acc x => acc.bind (fun y => f y x)) none = none := fun l => by
    induction l with
    | nil => rfl
    | cons _ _ ih => exact ih
  cases e : f a b with
  | none => simp only [foldWaiting, List.foldl_cons, Option.bind_some, e, Option.bind_none, h]
  | some c => simp only [foldWaiting, List.foldl_cons, Option.bind_some, e]

/-- What every step keeps, all of them keep. -/
theorem foldWaiting_keeps {α β : Type} {f : α → β → Option α} {P : α → Prop} {l : List β} (h : ∀ a b c, b ∈ l → f a b = some c → P a → P c)
    {a c : α} (e : foldWaiting f l a = some c) (p : P a) : P c := by
  induction l generalizing a with
  | nil => rw [foldWaiting_nil] at e; exact Option.some.inj e ▸ p
  | cons b l ih =>
    rw [foldWaiting_cons] at e
    obtain ⟨d, hd, he⟩ := Option.bind_eq_some_iff.1 e
    exact ih (fun a x c hx => h a x c (List.mem_cons_of_mem _ hx)) he (h a b d List.mem_cons_self hd p)

/-- Steps that change nothing change nothing together. -/
theorem foldWaiting_same {α β : Type} {f : α → β → Option α} {l : List β} {a : α} (h : ∀ b ∈ l, f a b = some a) :
    foldWaiting f l a = some a := by
  induction l with
  | nil => rfl
  | cons b l ih =>
    rw [foldWaiting_cons, h b List.mem_cons_self]
    exact ih (fun x hx => h x (List.mem_cons_of_mem _ hx))

end Sys2Proof.Machine
end

