-- ==== Sys2Proof/Laws/Exec.lean ====
section
/-! SUPPORT. The arm of `exec` for every instruction, so that no proof unfolds the whole match. -/

namespace Sys2Proof.Machine

@[simp] theorem exec_abs (d : BitVec 7) (w : Bool) (a : BitVec 8) (s : State) : exec (.abs d w a) s = execAbs d w a s := rfl
@[simp] theorem exec_acquire (s : State) : exec .acquire s = execAcquire s := rfl
@[simp] theorem exec_acrd (d : BitVec 7) (a : BitVec 8) (s : State) : exec (.acrd d a) s = execAcrd d a s := rfl
@[simp] theorem exec_acwr (d : BitVec 7) (a : BitVec 8) (s : State) : exec (.acwr d a) s = execAcwr d a s := rfl
@[simp] theorem exec_acz (d : BitVec 7) (s : State) : exec (.acz d) s = execAcz d s := rfl
@[simp] theorem exec_add (d : BitVec 7) (w : Bool) (a : BitVec 8) (b : BitVec 8) (s : State) : exec (.add d w a b) s = execAdd d w a b s := rfl
@[simp] theorem exec_add16 (sc : BitVec 5) (d : BitVec 6) (s : State) : exec (.add16 sc d) s = execAdd16 sc d s := rfl
@[simp] theorem exec_addPair (d : BitVec 7) (a : BitVec 8) (b : BitVec 8) (s : State) : exec (.addPair d a b) s = execAddPair d a b s := rfl
@[simp] theorem exec_addWide (d : BitVec 7) (a : BitVec 8) (b : BitVec 8) (s : State) : exec (.addWide d a b) s = execAddWide d a b s := rfl
@[simp] theorem exec_and (d : BitVec 7) (w : Bool) (a : BitVec 8) (b : BitVec 8) (s : State) : exec (.and d w a b) s = execAnd d w a b s := rfl
@[simp] theorem exec_and16 (sc : BitVec 5) (d : BitVec 6) (s : State) : exec (.and16 sc d) s = execAnd16 sc d s := rfl
@[simp] theorem exec_atom (sc : BitVec 3) (q : BitVec 2) (t : BitVec 2) (x : BitVec 3) (m : BitVec 7) (d : BitVec 7) (s : State) : exec (.atom sc q t x m d) s = execAtom sc q t x m d s := rfl
@[simp] theorem exec_barArv (d : BitVec 7) (a : BitVec 8) (s : State) : exec (.barArv d a) s = execBarArv d a s := rfl
@[simp] theorem exec_barWait (a : BitVec 8) (b : BitVec 8) (s : State) : exec (.barWait a b) s = execBarWait a b s := rfl
@[simp] theorem exec_bcast (d : BitVec 7) (w : Bool) (a : BitVec 7) (b : BitVec 8) (s : State) : exec (.bcast d w a b) s = execBcast d w a b s := rfl
@[simp] theorem exec_bfxS32 (d : BitVec 7) (w : Bool) (a : BitVec 8) (b : BitVec 8) (s : State) : exec (.bfxS32 d w a b) s = execBfxS32 d w a b s := rfl
@[simp] theorem exec_bfxZ32 (d : BitVec 7) (w : Bool) (a : BitVec 8) (b : BitVec 8) (s : State) : exec (.bfxZ32 d w a b) s = execBfxZ32 d w a b s := rfl
@[simp] theorem exec_bfi (d : BitVec 7) (a : BitVec 8) (b : BitVec 8) (s : State) : exec (.bfi d a b) s = execBfi d a b s := rfl
@[simp] theorem exec_br (h : BitVec 2) (n : Bool) (p : BitVec 3) (o : BitVec 18) (s : State) : exec (.br h n p o) s = execBr h n p o s := rfl
@[simp] theorem exec_brev (d : BitVec 7) (w : Bool) (a : BitVec 8) (s : State) : exec (.brev d w a) s = execBrev d w a s := rfl
@[simp] theorem exec_call (o : BitVec 18) (s : State) : exec (.call o) s = execCall o s := rfl
@[simp] theorem exec_cancel (d : BitVec 7) (a : BitVec 8) (s : State) : exec (.cancel d a) s = execCancel d a s := rfl
@[simp] theorem exec_cas (sc : BitVec 3) (q : BitVec 2) (t : BitVec 2) (m : BitVec 7) (d : BitVec 7) (s : State) : exec (.cas sc q t m d) s = execCas sc q t m d s := rfl
@[simp] theorem exec_cexp (d : BitVec 7) (w : Bool) (a : BitVec 8) (n : BitVec 8) (s : State) : exec (.cexp d w a n) s = execCexp d w a n s := rfl
@[simp] theorem exec_clog (d : BitVec 7) (w : Bool) (a : BitVec 8) (n : BitVec 8) (s : State) : exec (.clog d w a n) s = execClog d w a n s := rfl
@[simp] theorem exec_csin (d : BitVec 7) (w : Bool) (a : BitVec 8) (n : BitVec 8) (s : State) : exec (.csin d w a n) s = execCsin d w a n s := rfl
@[simp] theorem exec_catan (d : BitVec 7) (w : Bool) (a : BitVec 8) (n : BitVec 8) (s : State) : exec (.catan d w a n) s = execCatan d w a n s := rfl
@[simp] theorem exec_csqrt (d : BitVec 7) (w : Bool) (a : BitVec 8) (n : BitVec 8) (s : State) : exec (.csqrt d w a n) s = execCsqrt d w a n s := rfl
@[simp] theorem exec_crsq (d : BitVec 7) (w : Bool) (a : BitVec 8) (n : BitVec 8) (s : State) : exec (.crsq d w a n) s = execCrsq d w a n s := rfl
@[simp] theorem exec_crcp (d : BitVec 7) (w : Bool) (a : BitVec 8) (n : BitVec 8) (s : State) : exec (.crcp d w a n) s = execCrcp d w a n s := rfl
@[simp] theorem exec_ctanh (d : BitVec 7) (w : Bool) (a : BitVec 8) (n : BitVec 8) (s : State) : exec (.ctanh d w a n) s = execCtanh d w a n s := rfl
@[simp] theorem exec_cordicResult (grp : Nat) (serial : Nat) (s : State) : exec (.cordicResult grp serial) s = execCordicResult grp serial s := rfl
@[simp] theorem exec_clz (d : BitVec 7) (w : Bool) (a : BitVec 8) (s : State) : exec (.clz d w a) s = execClz d w a s := rfl
@[simp] theorem exec_cmpS32P (d : BitVec 3) (c : BitVec 3) (a : BitVec 8) (b : BitVec 8) (s : State) : exec (.cmpS32P d c a b) s = execCmpS32P d c a b s := rfl
@[simp] theorem exec_cmpS32V (d : BitVec 4) (c : BitVec 3) (a : BitVec 8) (b : BitVec 8) (s : State) : exec (.cmpS32V d c a b) s = execCmpS32V d c a b s := rfl
@[simp] theorem exec_cmpZ32P (d : BitVec 3) (c : BitVec 3) (a : BitVec 8) (b : BitVec 8) (s : State) : exec (.cmpZ32P d c a b) s = execCmpZ32P d c a b s := rfl
@[simp] theorem exec_cmpZ32V (d : BitVec 4) (c : BitVec 3) (a : BitVec 8) (b : BitVec 8) (s : State) : exec (.cmpZ32V d c a b) s = execCmpZ32V d c a b s := rfl
@[simp] theorem exec_cpy (a : BitVec 8) (b : BitVec 8) (s : State) : exec (.cpy a b) s = execCpy a b s := rfl
@[simp] theorem exec_cpyg (a : BitVec 8) (b : BitVec 8) (s : State) : exec (.cpyg a b) s = execCpyg a b s := rfl
@[simp] theorem exec_copyComplete (cmd : Nat) (s : State) : exec (.copyComplete cmd) s = execCopyComplete cmd s := rfl
@[simp] theorem exec_cvt (d : BitVec 6) (a : BitVec 6) (g : BitVec 6) (f : BitVec 6) (s : State) : exec (.cvt d a g f) s = execCvt d a g f s := rfl
@[simp] theorem exec_dqnt (d : BitVec 6) (a : BitVec 6) (b : BitVec 6) (f : BitVec 6) (s : State) : exec (.dqnt d a b f) s = execDqnt d a b f s := rfl
@[simp] theorem exec_drain (d : BitVec 7) (s : State) : exec (.drain d) s = execDrain d s := rfl
@[simp] theorem exec_drainT (d : BitVec 7) (s : State) : exec (.drainT d) s = execDrainT d s := rfl
@[simp] theorem exec_echo (d : BitVec 7) (a : BitVec 8) (s : State) : exec (.echo d a) s = execEcho d a s := rfl
@[simp] theorem exec_elect (p : BitVec 3) (s : State) : exec (.elect p) s = execElect p s := rfl
@[simp] theorem exec_eret (s : State) : exec .eret s = execEret s := rfl
@[simp] theorem exec_eretEnd (s : State) : exec .eretEnd s = execEretEnd s := rfl
@[simp] theorem exec_exit (s : State) : exec .exit s = execExit s := rfl
@[simp] theorem exec_extrS32 (d : BitVec 7) (a : BitVec 8) (b : BitVec 8) (s : State) : exec (.extrS32 d a b) s = execExtrS32 d a b s := rfl
@[simp] theorem exec_extrS64 (d : BitVec 7) (a : BitVec 8) (b : BitVec 8) (s : State) : exec (.extrS64 d a b) s = execExtrS64 d a b s := rfl
@[simp] theorem exec_fadd (d : BitVec 7) (w : Bool) (a : BitVec 8) (b : BitVec 8) (s : State) : exec (.fadd d w a b) s = execFadd d w a b s := rfl
@[simp] theorem exec_fadd16 (sc : BitVec 5) (d : BitVec 6) (s : State) : exec (.fadd16 sc d) s = execFadd16 sc d s := rfl
@[simp] theorem exec_fsub (d : BitVec 7) (w : Bool) (a : BitVec 8) (b : BitVec 8) (s : State) : exec (.fsub d w a b) s = execFsub d w a b s := rfl
@[simp] theorem exec_fsub16 (sc : BitVec 5) (d : BitVec 6) (s : State) : exec (.fsub16 sc d) s = execFsub16 sc d s := rfl
@[simp] theorem exec_fmul (d : BitVec 7) (w : Bool) (a : BitVec 8) (b : BitVec 8) (s : State) : exec (.fmul d w a b) s = execFmul d w a b s := rfl
@[simp] theorem exec_fmul16 (sc : BitVec 5) (d : BitVec 6) (s : State) : exec (.fmul16 sc d) s = execFmul16 sc d s := rfl
@[simp] theorem exec_ffma (d : BitVec 7) (a : BitVec 8) (b : BitVec 8) (s : State) : exec (.ffma d a b) s = execFfma d a b s := rfl
@[simp] theorem exec_fmin (d : BitVec 7) (w : Bool) (a : BitVec 8) (b : BitVec 8) (s : State) : exec (.fmin d w a b) s = execFmin d w a b s := rfl
@[simp] theorem exec_fmin16 (sc : BitVec 5) (d : BitVec 6) (s : State) : exec (.fmin16 sc d) s = execFmin16 sc d s := rfl
@[simp] theorem exec_fmax (d : BitVec 7) (w : Bool) (a : BitVec 8) (b : BitVec 8) (s : State) : exec (.fmax d w a b) s = execFmax d w a b s := rfl
@[simp] theorem exec_fmax16 (sc : BitVec 5) (d : BitVec 6) (s : State) : exec (.fmax16 sc d) s = execFmax16 sc d s := rfl
@[simp] theorem exec_faddH (d : BitVec 6) (a : BitVec 6) (b : BitVec 6) (t : BitVec 3) (s : State) : exec (.faddH d a b t) s = execFaddH d a b t s := rfl
@[simp] theorem exec_fsubH (d : BitVec 6) (a : BitVec 6) (b : BitVec 6) (t : BitVec 3) (s : State) : exec (.fsubH d a b t) s = execFsubH d a b t s := rfl
@[simp] theorem exec_fmulH (d : BitVec 6) (a : BitVec 6) (b : BitVec 6) (t : BitVec 3) (s : State) : exec (.fmulH d a b t) s = execFmulH d a b t s := rfl
@[simp] theorem exec_ffmaH (d : BitVec 6) (a : BitVec 6) (b : BitVec 6) (t : BitVec 3) (s : State) : exec (.ffmaH d a b t) s = execFfmaH d a b t s := rfl
@[simp] theorem exec_fminH (d : BitVec 6) (a : BitVec 6) (b : BitVec 6) (t : BitVec 3) (s : State) : exec (.fminH d a b t) s = execFminH d a b t s := rfl
@[simp] theorem exec_fmaxH (d : BitVec 6) (a : BitVec 6) (b : BitVec 6) (t : BitVec 3) (s : State) : exec (.fmaxH d a b t) s = execFmaxH d a b t s := rfl
@[simp] theorem exec_fcmpF32P (d : BitVec 3) (c : BitVec 3) (a : BitVec 8) (b : BitVec 8) (s : State) : exec (.fcmpF32P d c a b) s = execFcmpF32P d c a b s := rfl
@[simp] theorem exec_fcmpF32V (d : BitVec 4) (c : BitVec 3) (a : BitVec 8) (b : BitVec 8) (s : State) : exec (.fcmpF32V d c a b) s = execFcmpF32V d c a b s := rfl
@[simp] theorem exec_fcmpF16P (d : BitVec 3) (c : BitVec 3) (a : BitVec 8) (b : BitVec 8) (s : State) : exec (.fcmpF16P d c a b) s = execFcmpF16P d c a b s := rfl
@[simp] theorem exec_fcmpF16V (d : BitVec 4) (c : BitVec 3) (a : BitVec 8) (b : BitVec 8) (s : State) : exec (.fcmpF16V d c a b) s = execFcmpF16V d c a b s := rfl
@[simp] theorem exec_fcmpBf16P (d : BitVec 3) (c : BitVec 3) (a : BitVec 8) (b : BitVec 8) (s : State) : exec (.fcmpBf16P d c a b) s = execFcmpBf16P d c a b s := rfl
@[simp] theorem exec_fcmpBf16V (d : BitVec 4) (c : BitVec 3) (a : BitVec 8) (b : BitVec 8) (s : State) : exec (.fcmpBf16V d c a b) s = execFcmpBf16V d c a b s := rfl
@[simp] theorem exec_fence (sc : BitVec 3) (k : BitVec 2) (s : State) : exec (.fence sc k) s = execFence sc k s := rfl
@[simp] theorem exec_fsh (d : BitVec 7) (w : Bool) (a : BitVec 8) (b : BitVec 8) (s : State) : exec (.fsh d w a b) s = execFsh d w a b s := rfl
@[simp] theorem exec_gset (a : BitVec 8) (b : BitVec 8) (s : State) : exec (.gset a b) s = execGset a b s := rfl
@[simp] theorem exec_gth (sc : BitVec 3) (q : BitVec 2) (t : BitVec 3) (a : BitVec 7) (d : BitVec 7) (s : State) : exec (.gth sc q t a d) s = execGth sc q t a d s := rfl
@[simp] theorem exec_jmp (o : BitVec 18) (s : State) : exec (.jmp o) s = execJmp o s := rfl
@[simp] theorem exec_join (s : State) : exec .join s = execJoin s := rfl
@[simp] theorem exec_kvx (n : BitVec 3) (b : BitVec 7) (a : BitVec 7) (d : BitVec 7) (s : State) : exec (.kvx n b a d) s = execKvx n b a d s := rfl
@[simp] theorem exec_kvxW (n : BitVec 3) (b : BitVec 7) (a : BitVec 7) (d : BitVec 7) (s : State) : exec (.kvxW n b a d) s = execKvxW n b a d s := rfl
@[simp] theorem exec_kvfork (n : BitVec 3) (b : BitVec 7) (a : BitVec 7) (d : BitVec 7) (s : State) : exec (.kvfork n b a d) s = execKvfork n b a d s := rfl
@[simp] theorem exec_kvskip (n : BitVec 3) (b : BitVec 7) (a : BitVec 7) (d : BitVec 7) (s : State) : exec (.kvskip n b a d) s = execKvskip n b a d s := rfl
@[simp] theorem exec_kvrel (n : BitVec 3) (a : BitVec 7) (d : BitVec 7) (s : State) : exec (.kvrel n a d) s = execKvrel n a d s := rfl
@[simp] theorem exec_kvActionComplete (grp : Nat) (serial : Nat) (s : State) : exec (.kvActionComplete grp serial) s = execKvActionComplete grp serial s := rfl
@[simp] theorem exec_launch (d : BitVec 7) (a : BitVec 8) (s : State) : exec (.launch d a) s = execLaunch d a s := rfl
@[simp] theorem exec_ld (d : BitVec 5) (t : BitVec 3) (n : BitVec 5) (e : BitVec 11) (s : State) : exec (.ld d t n e) s = execLd d t n e s := rfl
@[simp] theorem exec_ldAcq (d : BitVec 5) (t : BitVec 3) (n : BitVec 5) (sc : BitVec 3) (s : State) : exec (.ldAcq d t n sc) s = execLdAcq d t n sc s := rfl
@[simp] theorem exec_ldq (d : BitVec 5) (t : BitVec 3) (n : BitVec 5) (e : BitVec 11) (s : State) : exec (.ldq d t n e) s = execLdq d t n e s := rfl
@[simp] theorem exec_ldqAcq (d : BitVec 5) (t : BitVec 3) (n : BitVec 5) (sc : BitVec 3) (s : State) : exec (.ldqAcq d t n sc) s = execLdqAcq d t n sc s := rfl
@[simp] theorem exec_lds (d : BitVec 5) (t : BitVec 3) (n : BitVec 5) (e : BitVec 11) (s : State) : exec (.lds d t n e) s = execLds d t n e s := rfl
@[simp] theorem exec_ldsAcq (d : BitVec 5) (t : BitVec 3) (n : BitVec 5) (sc : BitVec 3) (s : State) : exec (.ldsAcq d t n sc) s = execLdsAcq d t n sc s := rfl
@[simp] theorem exec_litscan (a : BitVec 8) (b : BitVec 8) (s : State) : exec (.litscan a b) s = execLitscan a b s := rfl
@[simp] theorem exec_lred (d : BitVec 7) (a : BitVec 7) (p : BitVec 3) (f : BitVec 4) (s : State) : exec (.lred d a p f) s = execLred d a p f s := rfl
@[simp] theorem exec_madS32 (d : BitVec 7) (a : BitVec 8) (b : BitVec 8) (s : State) : exec (.madS32 d a b) s = execMadS32 d a b s := rfl
@[simp] theorem exec_madZ32 (d : BitVec 7) (a : BitVec 8) (b : BitVec 8) (s : State) : exec (.madZ32 d a b) s = execMadZ32 d a b s := rfl
@[simp] theorem exec_minS32 (d : BitVec 7) (w : Bool) (a : BitVec 8) (b : BitVec 8) (s : State) : exec (.minS32 d w a b) s = execMinS32 d w a b s := rfl
@[simp] theorem exec_minS3216 (sc : BitVec 5) (d : BitVec 6) (s : State) : exec (.minS3216 sc d) s = execMinS3216 sc d s := rfl
@[simp] theorem exec_minZ32 (d : BitVec 7) (w : Bool) (a : BitVec 8) (b : BitVec 8) (s : State) : exec (.minZ32 d w a b) s = execMinZ32 d w a b s := rfl
@[simp] theorem exec_maxS32 (d : BitVec 7) (w : Bool) (a : BitVec 8) (b : BitVec 8) (s : State) : exec (.maxS32 d w a b) s = execMaxS32 d w a b s := rfl
@[simp] theorem exec_maxS3216 (sc : BitVec 5) (d : BitVec 6) (s : State) : exec (.maxS3216 sc d) s = execMaxS3216 sc d s := rfl
@[simp] theorem exec_maxZ32 (d : BitVec 7) (w : Bool) (a : BitVec 8) (b : BitVec 8) (s : State) : exec (.maxZ32 d w a b) s = execMaxZ32 d w a b s := rfl
@[simp] theorem exec_mma (d : BitVec 7) (a : BitVec 8) (b : BitVec 8) (s : State) : exec (.mma d a b) s = execMma d a b s := rfl
@[simp] theorem exec_mmaSp (d : BitVec 7) (a : BitVec 8) (b : BitVec 8) (s : State) : exec (.mmaSp d a b) s = execMmaSp d a b s := rfl
@[simp] theorem exec_mmc (d : BitVec 7) (a : BitVec 8) (b : BitVec 8) (s : State) : exec (.mmc d a b) s = execMmc d a b s := rfl
@[simp] theorem exec_mmd (d : BitVec 7) (a : BitVec 8) (b : BitVec 8) (s : State) : exec (.mmd d a b) s = execMmd d a b s := rfl
@[simp] theorem exec_mmdLd (d : BitVec 7) (s : State) : exec (.mmdLd d) s = execMmdLd d s := rfl
@[simp] theorem exec_pmeGrant (pme : Nat) (s : State) : exec (.pmeGrant pme) s = execPmeGrant pme s := rfl
@[simp] theorem exec_passComplete (pme : Nat) (req : Nat) (s : State) : exec (.passComplete pme req) s = execPassComplete pme req s := rfl
@[simp] theorem exec_engineCommandComplete (pme : Nat) (req : Nat) (s : State) : exec (.engineCommandComplete pme req) s = execEngineCommandComplete pme req s := rfl
@[simp] theorem exec_mov (d : BitVec 7) (w : Bool) (a : BitVec 8) (s : State) : exec (.mov d w a) s = execMov d w a s := rfl
@[simp] theorem exec_mov16 (sc : BitVec 5) (d : BitVec 6) (s : State) : exec (.mov16 sc d) s = execMov16 sc d s := rfl
@[simp] theorem exec_movPush (n : BitVec 3) (a : BitVec 8) (s : State) : exec (.movPush n a) s = execMovPush n a s := rfl
@[simp] theorem exec_movS (d : BitVec 7) (a : BitVec 8) (s : State) : exec (.movS d a) s = execMovS d a s := rfl
@[simp] theorem exec_movHi (d : BitVec 7) (a : BitVec 8) (s : State) : exec (.movHi d a) s = execMovHi d a s := rfl
@[simp] theorem exec_movi (d : BitVec 7) (w : Bool) (i : BitVec 16) (s : State) : exec (.movi d w i) s = execMovi d w i s := rfl
@[simp] theorem exec_movh (d : BitVec 7) (i : BitVec 16) (s : State) : exec (.movh d i) s = execMovh d i s := rfl
@[simp] theorem exec_mul (d : BitVec 7) (w : Bool) (a : BitVec 8) (b : BitVec 8) (s : State) : exec (.mul d w a b) s = execMul d w a b s := rfl
@[simp] theorem exec_mul16 (sc : BitVec 5) (d : BitVec 6) (s : State) : exec (.mul16 sc d) s = execMul16 sc d s := rfl
@[simp] theorem exec_mulPair (d : BitVec 7) (a : BitVec 8) (b : BitVec 8) (s : State) : exec (.mulPair d a b) s = execMulPair d a b s := rfl
@[simp] theorem exec_mulhS32 (d : BitVec 7) (w : Bool) (a : BitVec 8) (b : BitVec 8) (s : State) : exec (.mulhS32 d w a b) s = execMulhS32 d w a b s := rfl
@[simp] theorem exec_mulhZ32 (d : BitVec 7) (w : Bool) (a : BitVec 8) (b : BitVec 8) (s : State) : exec (.mulhZ32 d w a b) s = execMulhZ32 d w a b s := rfl
@[simp] theorem exec_neg (d : BitVec 7) (w : Bool) (a : BitVec 8) (s : State) : exec (.neg d w a) s = execNeg d w a s := rfl
@[simp] theorem exec_not (d : BitVec 7) (w : Bool) (a : BitVec 8) (s : State) : exec (.not d w a) s = execNot d w a s := rfl
@[simp] theorem exec_popc (d : BitVec 7) (w : Bool) (a : BitVec 8) (s : State) : exec (.popc d w a) s = execPopc d w a s := rfl
@[simp] theorem exec_nop (s : State) : exec .nop s = execNop s := rfl
@[simp] theorem exec_or (d : BitVec 7) (w : Bool) (a : BitVec 8) (b : BitVec 8) (s : State) : exec (.or d w a b) s = execOr d w a b s := rfl
@[simp] theorem exec_or16 (sc : BitVec 5) (d : BitVec 6) (s : State) : exec (.or16 sc d) s = execOr16 sc d s := rfl
@[simp] theorem exec_packS32 (d : BitVec 7) (a : BitVec 8) (s : State) : exec (.packS32 d a) s = execPackS32 d a s := rfl
@[simp] theorem exec_packZ32 (d : BitVec 7) (a : BitVec 8) (s : State) : exec (.packZ32 d a) s = execPackZ32 d a s := rfl
@[simp] theorem exec_packRevS32 (d : BitVec 7) (a : BitVec 8) (s : State) : exec (.packRevS32 d a) s = execPackRevS32 d a s := rfl
@[simp] theorem exec_packRevZ32 (d : BitVec 7) (a : BitVec 8) (s : State) : exec (.packRevZ32 d a) s = execPackRevZ32 d a s := rfl
@[simp] theorem exec_pmul (d : BitVec 7) (a : BitVec 8) (b : BitVec 8) (s : State) : exec (.pmul d a b) s = execPmul d a b s := rfl
@[simp] theorem exec_pmulUns (d : BitVec 7) (a : BitVec 8) (b : BitVec 8) (s : State) : exec (.pmulUns d a b) s = execPmulUns d a b s := rfl
@[simp] theorem exec_prio (a : BitVec 8) (s : State) : exec (.prio a) s = execPrio a s := rfl
@[simp] theorem exec_qnt (d : BitVec 6) (a : BitVec 6) (b : BitVec 6) (f : BitVec 6) (s : State) : exec (.qnt d a b f) s = execQnt d a b f s := rfl
@[simp] theorem exec_rdst (d : BitVec 7) (a : BitVec 8) (b : BitVec 8) (s : State) : exec (.rdst d a b) s = execRdst d a b s := rfl
@[simp] theorem exec_release (s : State) : exec .release s = execRelease s := rfl
@[simp] theorem exec_replay (s : State) : exec .replay s = execReplay s := rfl
@[simp] theorem exec_ret (s : State) : exec .ret s = execRet s := rfl
@[simp] theorem exec_rng (d : BitVec 7) (w : Bool) (s : State) : exec (.rng d w) s = execRng d w s := rfl
@[simp] theorem exec_sar (d : BitVec 7) (w : Bool) (a : BitVec 8) (b : BitVec 8) (s : State) : exec (.sar d w a b) s = execSar d w a b s := rfl
@[simp] theorem exec_shl (d : BitVec 7) (w : Bool) (a : BitVec 8) (b : BitVec 8) (s : State) : exec (.shl d w a b) s = execShl d w a b s := rfl
@[simp] theorem exec_shl16 (sc : BitVec 5) (d : BitVec 6) (s : State) : exec (.shl16 sc d) s = execShl16 sc d s := rfl
@[simp] theorem exec_shr (d : BitVec 7) (w : Bool) (a : BitVec 8) (b : BitVec 8) (s : State) : exec (.shr d w a b) s = execShr d w a b s := rfl
@[simp] theorem exec_shr16 (sc : BitVec 5) (d : BitVec 6) (s : State) : exec (.shr16 sc d) s = execShr16 sc d s := rfl
@[simp] theorem exec_scan (x : Bool) (d : BitVec 7) (a : BitVec 7) (p : BitVec 3) (f : BitVec 4) (s : State) : exec (.scan x d a p f) s = execScan x d a p f s := rfl
@[simp] theorem exec_sct (sc : BitVec 3) (q : BitVec 2) (t : BitVec 3) (a : BitVec 7) (d : BitVec 7) (s : State) : exec (.sct sc q t a d) s = execSct sc q t a d s := rfl
@[simp] theorem exec_sel (d : BitVec 5) (p : BitVec 3) (a : BitVec 8) (b : BitVec 8) (s : State) : exec (.sel d p a b) s = execSel d p a b s := rfl
@[simp] theorem exec_setrj (o : BitVec 18) (s : State) : exec (.setrj o) s = execSetrj o s := rfl
@[simp] theorem exec_shmap (a : BitVec 8) (s : State) : exec (.shmap a) s = execShmap a s := rfl
@[simp] theorem exec_shlit (a : BitVec 8) (b : BitVec 8) (s : State) : exec (.shlit a b) s = execShlit a b s := rfl
@[simp] theorem exec_shfade (a : BitVec 8) (b : BitVec 8) (s : State) : exec (.shfade a b) s = execShfade a b s := rfl
@[simp] theorem exec_shflIdx (d : BitVec 7) (w : Bool) (a : BitVec 7) (b : BitVec 8) (s : State) : exec (.shflIdx d w a b) s = execShflIdx d w a b s := rfl
@[simp] theorem exec_shflUp (d : BitVec 7) (w : Bool) (a : BitVec 7) (r : Bool) (b : BitVec 8) (s : State) : exec (.shflUp d w a r b) s = execShflUp d w a r b s := rfl
@[simp] theorem exec_shflDn (d : BitVec 7) (w : Bool) (a : BitVec 7) (r : Bool) (b : BitVec 8) (s : State) : exec (.shflDn d w a r b) s = execShflDn d w a r b s := rfl
@[simp] theorem exec_shflXor (d : BitVec 7) (w : Bool) (a : BitVec 7) (r : Bool) (b : BitVec 8) (s : State) : exec (.shflXor d w a r b) s = execShflXor d w a r b s := rfl
@[simp] theorem exec_spawn (a : BitVec 6) (o : BitVec 18) (s : State) : exec (.spawn a o) s = execSpawn a o s := rfl
@[simp] theorem exec_st (d : BitVec 5) (t : BitVec 3) (n : BitVec 5) (e : BitVec 11) (s : State) : exec (.st d t n e) s = execSt d t n e s := rfl
@[simp] theorem exec_stRel (d : BitVec 5) (t : BitVec 3) (n : BitVec 5) (sc : BitVec 3) (s : State) : exec (.stRel d t n sc) s = execStRel d t n sc s := rfl
@[simp] theorem exec_stm (sc : BitVec 3) (q : BitVec 2) (a : BitVec 7) (d : BitVec 7) (s : State) : exec (.stm sc q a d) s = execStm sc q a d s := rfl
@[simp] theorem exec_sts (d : BitVec 5) (t : BitVec 3) (n : BitVec 5) (e : BitVec 11) (s : State) : exec (.sts d t n e) s = execSts d t n e s := rfl
@[simp] theorem exec_stsRel (d : BitVec 5) (t : BitVec 3) (n : BitVec 5) (sc : BitVec 3) (s : State) : exec (.stsRel d t n sc) s = execStsRel d t n sc s := rfl
@[simp] theorem exec_sub (d : BitVec 7) (w : Bool) (a : BitVec 8) (b : BitVec 8) (s : State) : exec (.sub d w a b) s = execSub d w a b s := rfl
@[simp] theorem exec_sub16 (sc : BitVec 5) (d : BitVec 6) (s : State) : exec (.sub16 sc d) s = execSub16 sc d s := rfl
@[simp] theorem exec_subPair (d : BitVec 7) (a : BitVec 8) (b : BitVec 8) (s : State) : exec (.subPair d a b) s = execSubPair d a b s := rfl
@[simp] theorem exec_subWide (d : BitVec 7) (a : BitVec 8) (b : BitVec 8) (s : State) : exec (.subWide d a b) s = execSubWide d a b s := rfl
@[simp] theorem exec_trap (a : BitVec 8) (s : State) : exec (.trap a) s = execTrap a s := rfl
@[simp] theorem exec_vserve (d : BitVec 7) (a : BitVec 8) (b : BitVec 8) (s : State) : exec (.vserve d a b) s = execVserve d a b s := rfl
@[simp] theorem exec_vcatch (a : BitVec 8) (b : BitVec 8) (s : State) : exec (.vcatch a b) s = execVcatch a b s := rfl
@[simp] theorem exec_vpoll (d : BitVec 7) (a : BitVec 8) (s : State) : exec (.vpoll d a) s = execVpoll d a s := rfl
@[simp] theorem exec_voteBall (a : BitVec 7) (p : BitVec 3) (s : State) : exec (.voteBall a p) s = execVoteBall a p s := rfl
@[simp] theorem exec_voteAny (a : BitVec 7) (p : BitVec 3) (s : State) : exec (.voteAny a p) s = execVoteAny a p s := rfl
@[simp] theorem exec_voteAll (a : BitVec 7) (p : BitVec 3) (s : State) : exec (.voteAll a p) s = execVoteAll a p s := rfl
@[simp] theorem exec_voteEq (a : BitVec 7) (p : BitVec 3) (s : State) : exec (.voteEq a p) s = execVoteEq a p s := rfl
@[simp] theorem exec_wait (d : BitVec 7) (a : BitVec 8) (s : State) : exec (.wait d a) s = execWait d a s := rfl
@[simp] theorem exec_wrst (d : BitVec 7) (a : BitVec 8) (s : State) : exec (.wrst d a) s = execWrst d a s := rfl
@[simp] theorem exec_xadd (d : BitVec 6) (a : BitVec 6) (b : BitVec 6) (f : BitVec 6) (s : State) : exec (.xadd d a b f) s = execXadd d a b f s := rfl
@[simp] theorem exec_xmul (d : BitVec 6) (a : BitVec 6) (b : BitVec 6) (f : BitVec 6) (s : State) : exec (.xmul d a b f) s = execXmul d a b f s := rfl
@[simp] theorem exec_xfma (d : BitVec 6) (a : BitVec 6) (b : BitVec 6) (f : BitVec 6) (s : State) : exec (.xfma d a b f) s = execXfma d a b f s := rfl
@[simp] theorem exec_xmax (d : BitVec 6) (a : BitVec 6) (b : BitVec 6) (f : BitVec 6) (s : State) : exec (.xmax d a b f) s = execXmax d a b f s := rfl
@[simp] theorem exec_xmin (d : BitVec 6) (a : BitVec 6) (b : BitVec 6) (f : BitVec 6) (s : State) : exec (.xmin d a b f) s = execXmin d a b f s := rfl
@[simp] theorem exec_xor (d : BitVec 7) (w : Bool) (a : BitVec 8) (b : BitVec 8) (s : State) : exec (.xor d w a b) s = execXor d w a b s := rfl
@[simp] theorem exec_xor16 (sc : BitVec 5) (d : BitVec 6) (s : State) : exec (.xor16 sc d) s = execXor16 sc d s := rfl
@[simp] theorem exec_yield (s : State) : exec .yield s = execYield s := rfl
@[simp] theorem exec_performLoad (entry : Nat) (s : State) : exec (.performLoad entry) s = execPerformLoad entry s := rfl
@[simp] theorem exec_performStore (entry : Nat) (s : State) : exec (.performStore entry) s = execPerformStore entry s := rfl
@[simp] theorem exec_performAtomic (entry : Nat) (s : State) : exec (.performAtomic entry) s = execPerformAtomic entry s := rfl
@[simp] theorem exec_propagate (wr : Nat) (s : State) : exec (.propagate wr) s = execPropagate wr s := rfl
@[simp] theorem exec_dispatch (entry : Nat) (s : State) : exec (.dispatch entry) s = execDispatch entry s := rfl
@[simp] theorem exec_engineAccess (cmd : Nat) (s : State) : exec (.engineAccess cmd) s = execEngineAccess cmd s := rfl
@[simp] theorem exec_loadDataReturn (grp : Nat) (serial : Nat) (s : State) : exec (.loadDataReturn grp serial) s = execLoadDataReturn grp serial s := rfl
@[simp] theorem exec_counterFall (grp : Nat) (path : BitVec 3) (s : State) : exec (.counterFall grp path) s = execCounterFall grp path s := rfl
@[simp] theorem exec_migrationCommand (queue : BitVec 5) (cmd : MigCommand) (s : State) : exec (.migrationCommand queue cmd) s = execMigrationCommand queue cmd s := rfl
@[simp] theorem exec_migrationSwitchover (mig : Nat) (s : State) : exec (.migrationSwitchover mig) s = execMigrationSwitchover mig s := rfl
@[simp] theorem exec_fadeStep (root : Nat) (base : Nat) (page : Nat) (s : State) : exec (.fadeStep root base page) s = execFadeStep root base page s := rfl
@[simp] theorem exec_teamAdmission (task : BitVec 40) (cores : List (BitVec 10)) (s : State) : exec (.teamAdmission task cores) s = execTeamAdmission task cores s := rfl
@[simp] theorem exec_queueAppend (queue : BitVec 6) (s : State) : exec (.queueAppend queue) s = execQueueAppend queue s := rfl
@[simp] theorem exec_priorityAging (task : BitVec 40) (s : State) : exec (.priorityAging task) s = execPriorityAging task s := rfl
@[simp] theorem exec_starvationBound (grp : Nat) (s : State) : exec (.starvationBound grp) s = execStarvationBound grp s := rfl
@[simp] theorem exec_acquireGrant (core : BitVec 10) (s : State) : exec (.acquireGrant core) s = execAcquireGrant core s := rfl
@[simp] theorem exec_binTimerExpiry (die : BitVec 4) (key : BitVec 64 × Nat) (core : BitVec 10) (s : State) : exec (.binTimerExpiry die key core) s = execBinTimerExpiry die key core s := rfl
@[simp] theorem exec_echoTimeout (grp : Nat) (stream : Port) (s : State) : exec (.echoTimeout grp stream) s = execEchoTimeout grp stream s := rfl
@[simp] theorem exec_gridComplete (task : BitVec 40) (s : State) : exec (.gridComplete task) s = execGridComplete task s := rfl
@[simp] theorem exec_reclamationComplete (task : BitVec 40) (s : State) : exec (.reclamationComplete task) s = execReclamationComplete task s := rfl
@[simp] theorem exec_handlerEntry (core : BitVec 10) (s : State) : exec (.handlerEntry core) s = execHandlerEntry core s := rfl
@[simp] theorem exec_machineCheck (core : BitVec 10) (cause : BitVec 8) (s : State) : exec (.machineCheck core cause) s = execMachineCheck core cause s := rfl
@[simp] theorem exec_checkpoint (task : BitVec 40) (s : State) : exec (.checkpoint task) s = execCheckpoint task s := rfl
@[simp] theorem exec_vservePerform (die : BitVec 4) (mbox : BitVec 8) (s : State) : exec (.vservePerform die mbox) s = execVservePerform die mbox s := rfl
@[simp] theorem exec_vcatchPerform (die : BitVec 4) (mbox : BitVec 8) (s : State) : exec (.vcatchPerform die mbox) s = execVcatchPerform die mbox s := rfl
@[simp] theorem exec_vbrecvRead (die : BitVec 4) (mbox : BitVec 8) (s : State) : exec (.vbrecvRead die mbox) s = execVbrecvRead die mbox s := rfl
@[simp] theorem exec_vbsendWrite (die : BitVec 4) (mbox : BitVec 8) (s : State) : exec (.vbsendWrite die mbox) s = execVbsendWrite die mbox s := rfl
@[simp] theorem exec_shotClockExpiry (die : BitVec 4) (mbox : BitVec 8) (s : State) : exec (.shotClockExpiry die mbox) s = execShotClockExpiry die mbox s := rfl
@[simp] theorem exec_courtQuantum (die : BitVec 4) (hart : BitVec 5) (s : State) : exec (.courtQuantum die hart) s = execCourtQuantum die hart s := rfl
@[simp] theorem exec_courtException (die : BitVec 4) (mbox : BitVec 8) (s : State) : exec (.courtException die mbox) s = execCourtException die mbox s := rfl
@[simp] theorem exec_launchCommand (pair : BitVec 4) (s : State) : exec (.launchCommand pair) s = execLaunchCommand pair s := rfl
@[simp] theorem exec_cancelCommand (pair : BitVec 4) (s : State) : exec (.cancelCommand pair) s = execCancelCommand pair s := rfl
@[simp] theorem exec_preempt (pair : BitVec 4) (s : State) : exec (.preempt pair) s = execPreempt pair s := rfl
@[simp] theorem exec_resume (pair : BitVec 4) (s : State) : exec (.resume pair) s = execResume pair s := rfl
@[simp] theorem exec_invalidate (pair : BitVec 4) (s : State) : exec (.invalidate pair) s = execInvalidate pair s := rfl
@[simp] theorem exec_poolAdd (pair : BitVec 4) (s : State) : exec (.poolAdd pair) s = execPoolAdd pair s := rfl
@[simp] theorem exec_regionDel (pair : BitVec 4) (s : State) : exec (.regionDel pair) s = execRegionDel pair s := rfl
@[simp] theorem exec_courtStart (pair : BitVec 4) (s : State) : exec (.courtStart pair) s = execCourtStart pair s := rfl
@[simp] theorem exec_windowOpen (pair : BitVec 4) (s : State) : exec (.windowOpen pair) s = execWindowOpen pair s := rfl
@[simp] theorem exec_collective (pair : BitVec 4) (s : State) : exec (.collective pair) s = execCollective pair s := rfl
@[simp] theorem exec_handlerSet (pair : BitVec 4) (s : State) : exec (.handlerSet pair) s = execHandlerSet pair s := rfl
@[simp] theorem exec_debugAttach (pair : BitVec 4) (s : State) : exec (.debugAttach pair) s = execDebugAttach pair s := rfl
@[simp] theorem exec_errRing (pair : BitVec 4) (s : State) : exec (.errRing pair) s = execErrRing pair s := rfl
@[simp] theorem exec_attest (pair : BitVec 4) (s : State) : exec (.attest pair) s = execAttest pair s := rfl
@[simp] theorem exec_windowClose (pair : BitVec 4) (s : State) : exec (.windowClose pair) s = execWindowClose pair s := rfl
@[simp] theorem exec_courtStop (pair : BitVec 4) (s : State) : exec (.courtStop pair) s = execCourtStop pair s := rfl
@[simp] theorem exec_ctxPool (pair : BitVec 4) (s : State) : exec (.ctxPool pair) s = execCtxPool pair s := rfl
@[simp] theorem exec_badOp (pair : BitVec 4) (s : State) : exec (.badOp pair) s = execBadOp pair s := rfl
@[simp] theorem exec_completionWrite (pair : BitVec 4) (s : State) : exec (.completionWrite pair) s = execCompletionWrite pair s := rfl
@[simp] theorem exec_illegalInstruction (s : State) : exec .illegalInstruction s = execIllegalInstruction s := rfl
@[simp] theorem exec_fetchFault (cause : BitVec 8) (s : State) : exec (.fetchFault cause) s = execFetchFault cause s := rfl
@[simp] theorem exec_courtInstruction (die : BitVec 4) (mbox : BitVec 8) (s : State) : exec (.courtInstruction die mbox) s = execCourtInstruction die mbox s := rfl
@[simp] theorem exec_epochMerge (base : BitVec 64) (off : Nat) (remote : List (Nat × BitVec 32)) (s : State) : exec (.epochMerge base off remote) s = execEpochMerge base off remote s := rfl
@[simp] theorem exec_livenessFlit (link : Nat) (s : State) : exec (.livenessFlit link) s = execLivenessFlit link s := rfl
@[simp] theorem exec_memberAbsent (member : Nat) (s : State) : exec (.memberAbsent member) s = execMemberAbsent member s := rfl
@[simp] theorem exec_chunkHop (coll : Nat) (chunk : Nat) (data : List (BitVec 16)) (contributed : List Nat) (s : State) : exec (.chunkHop coll chunk data contributed) s = execChunkHop coll chunk data contributed s := rfl
@[simp] theorem exec_hqtailDoorbell (pair : BitVec 4) (value : BitVec 64) (s : State) : exec (.hqtailDoorbell pair value) s = execHqtailDoorbell pair value s := rfl
@[simp] theorem exec_hqtailResync (pair : BitVec 4) (value : BitVec 64) (s : State) : exec (.hqtailResync pair value) s = execHqtailResync pair value s := rfl
@[simp] theorem exec_hqheadWrite (pair : BitVec 4) (value : BitVec 64) (s : State) : exec (.hqheadWrite pair value) s = execHqheadWrite pair value s := rfl
@[simp] theorem exec_registerWrite (addr : Nat) (value : BitVec 64) (s : State) : exec (.registerWrite addr value) s = execRegisterWrite addr value s := rfl
@[simp] theorem exec_powerUp (failed : BitVec 18) (s : State) : exec (.powerUp failed) s = execPowerUp failed s := rfl
@[simp] theorem exec_firmwareImage (image : FirmwareImage) (s : State) : exec (.firmwareImage image) s = execFirmwareImage image s := rfl
@[simp] theorem exec_throttleEntry (die : BitVec 4) (tmax : BitVec 12) (overPower : Bool) (s : State) : exec (.throttleEntry die tmax overPower) s = execThrottleEntry die tmax overPower s := rfl
@[simp] theorem exec_throttleExit (die : BitVec 4) (tmax : BitVec 12) (s : State) : exec (.throttleExit die tmax) s = execThrottleExit die tmax s := rfl
@[simp] theorem exec_thermalStop (die : BitVec 4) (tmax : BitVec 12) (s : State) : exec (.thermalStop die tmax) s = execThermalStop die tmax s := rfl
@[simp] theorem exec_rowDisturb (die : BitVec 4) (saturated : Bool) (parityBad : Bool) (s : State) : exec (.rowDisturb die saturated parityBad) s = execRowDisturb die saturated parityBad s := rfl
@[simp] theorem exec_hostMemoryWrite (addr : Nat) (bytes : List (BitVec 8)) (s : State) : exec (.hostMemoryWrite addr bytes) s = execHostMemoryWrite addr bytes s := rfl
@[simp] theorem exec_hostMemoryRead (addr : Nat) (len : Nat) (s : State) : exec (.hostMemoryRead addr len) s = execHostMemoryRead addr len s := rfl
@[simp] theorem exec_ethernetReceive (port : Bool) (addr : Nat) (bytes : List (BitVec 8)) (s : State) : exec (.ethernetReceive port addr bytes) s = execEthernetReceive port addr bytes s := rfl
@[simp] theorem exec_ethernetSend (port : Bool) (addr : Nat) (len : Nat) (s : State) : exec (.ethernetSend port addr len) s = execEthernetSend port addr len s := rfl
@[simp] theorem exec_fabricBringUp (module : BitVec 12) (s : State) : exec (.fabricBringUp module) s = execFabricBringUp module s := rfl

end Sys2Proof.Machine
end

