-- ==== Sys2Proof/Laws/State.lean ====
section
/-! SUPPORT. What each update of a group or of the state does to each field: a lemma for every pair, so that no proof unfolds an update. -/

namespace Sys2Proof.Machine

/-! ### The group at the issue port -/

@[simp] theorem State.onGroup_g (s : State) (f : Group → Group) : (s.onGroup f).g = f s.g := rfl
@[simp] theorem State.onGroup_port (s : State) (f : Group → Group) : (s.onGroup f).port = s.port := rfl
@[simp] theorem State.onGroup_others (s : State) (f : Group → Group) : (s.onGroup f).others = s.others := rfl
@[simp] theorem State.onGroup_agenda (s : State) (f : Group → Group) : (s.onGroup f).agenda = s.agenda := rfl
@[simp] theorem State.onGroup_clock (s : State) (f : Group → Group) : (s.onGroup f).clock = s.clock := rfl
@[simp] theorem State.onGroup_datapaths (s : State) (f : Group → Group) : (s.onGroup f).datapaths = s.datapaths := rfl
@[simp] theorem State.onGroup_nextUid (s : State) (f : Group → Group) : (s.onGroup f).nextUid = s.nextUid := rfl
@[simp] theorem State.onGroup_nextTrap (s : State) (f : Group → Group) : (s.onGroup f).nextTrap = s.nextTrap := rfl
@[simp] theorem State.onGroup_mem (s : State) (f : Group → Group) : (s.onGroup f).mem = s.mem := rfl
@[simp] theorem State.onGroup_poison (s : State) (f : Group → Group) : (s.onGroup f).poison = s.poison := rfl
@[simp] theorem State.onGroup_failing (s : State) (f : Group → Group) : (s.onGroup f).failing = s.failing := rfl
@[simp] theorem State.onGroup_halos (s : State) (f : Group → Group) : (s.onGroup f).halos = s.halos := rfl
@[simp] theorem State.onGroup_homeTags (s : State) (f : Group → Group) : (s.onGroup f).homeTags = s.homeTags := rfl
@[simp] theorem State.onGroup_bufs (s : State) (f : Group → Group) : (s.onGroup f).bufs = s.bufs := rfl
@[simp] theorem State.onGroup_tlb (s : State) (f : Group → Group) : (s.onGroup f).tlb = s.tlb := rfl
@[simp] theorem State.onGroup_hostMem (s : State) (f : Group → Group) : (s.onGroup f).hostMem = s.hostMem := rfl
@[simp] theorem State.onGroup_nvme (s : State) (f : Group → Group) : (s.onGroup f).nvme = s.nvme := rfl
@[simp] theorem State.onGroup_nvmeAt (s : State) (f : Group → Group) : (s.onGroup f).nvmeAt = s.nvmeAt := rfl
@[simp] theorem State.onGroup_teams (s : State) (f : Group → Group) : (s.onGroup f).teams = s.teams := rfl
@[simp] theorem State.onGroup_tasks (s : State) (f : Group → Group) : (s.onGroup f).tasks = s.tasks := rfl
@[simp] theorem State.onGroup_nextSeq (s : State) (f : Group → Group) : (s.onGroup f).nextSeq = s.nextSeq := rfl
@[simp] theorem State.onGroup_cancels (s : State) (f : Group → Group) : (s.onGroup f).cancels = s.cancels := rfl
@[simp] theorem State.onGroup_bins (s : State) (f : Group → Group) : (s.onGroup f).bins = s.bins := rfl
@[simp] theorem State.onGroup_regions (s : State) (f : Group → Group) : (s.onGroup f).regions = s.regions := rfl
@[simp] theorem State.onGroup_pools (s : State) (f : Group → Group) : (s.onGroup f).pools = s.pools := rfl
@[simp] theorem State.onGroup_copies (s : State) (f : Group → Group) : (s.onGroup f).copies = s.copies := rfl
@[simp] theorem State.onGroup_faults (s : State) (f : Group → Group) : (s.onGroup f).faults = s.faults := rfl
@[simp] theorem State.onGroup_migs (s : State) (f : Group → Group) : (s.onGroup f).migs = s.migs := rfl
@[simp] theorem State.onGroup_tracked (s : State) (f : Group → Group) : (s.onGroup f).tracked = s.tracked := rfl
@[simp] theorem State.onGroup_kvDirs (s : State) (f : Group → Group) : (s.onGroup f).kvDirs = s.kvDirs := rfl
@[simp] theorem State.onGroup_acc (s : State) (f : Group → Group) : (s.onGroup f).acc = s.acc := rfl
@[simp] theorem State.onGroup_resident (s : State) (f : Group → Group) : (s.onGroup f).resident = s.resident := rfl
@[simp] theorem State.onGroup_pme (s : State) (f : Group → Group) : (s.onGroup f).pme = s.pme := rfl
@[simp] theorem State.onGroup_courtObjs (s : State) (f : Group → Group) : (s.onGroup f).courtObjs = s.courtObjs := rfl
@[simp] theorem State.onGroup_loadRegions (s : State) (f : Group → Group) : (s.onGroup f).loadRegions = s.loadRegions := rfl
@[simp] theorem State.onGroup_mailboxes (s : State) (f : Group → Group) : (s.onGroup f).mailboxes = s.mailboxes := rfl
@[simp] theorem State.onGroup_windows (s : State) (f : Group → Group) : (s.onGroup f).windows = s.windows := rfl
@[simp] theorem State.onGroup_contribs (s : State) (f : Group → Group) : (s.onGroup f).contribs = s.contribs := rfl
@[simp] theorem State.onGroup_colls (s : State) (f : Group → Group) : (s.onGroup f).colls = s.colls := rfl
@[simp] theorem State.onGroup_passed (s : State) (f : Group → Group) : (s.onGroup f).passed = s.passed := rfl
@[simp] theorem State.onGroup_pairs (s : State) (f : Group → Group) : (s.onGroup f).pairs = s.pairs := rfl
@[simp] theorem State.onGroup_completions (s : State) (f : Group → Group) : (s.onGroup f).completions = s.completions := rfl
@[simp] theorem State.onGroup_cores (s : State) (f : Group → Group) : (s.onGroup f).cores = s.cores := rfl
@[simp] theorem State.onGroup_ctxPool (s : State) (f : Group → Group) : (s.onGroup f).ctxPool = s.ctxPool := rfl
@[simp] theorem State.onGroup_images (s : State) (f : Group → Group) : (s.onGroup f).images = s.images := rfl
@[simp] theorem State.onGroup_saves (s : State) (f : Group → Group) : (s.onGroup f).saves = s.saves := rfl
@[simp] theorem State.onGroup_recorders (s : State) (f : Group → Group) : (s.onGroup f).recorders = s.recorders := rfl
@[simp] theorem State.onGroup_dies (s : State) (f : Group → Group) : (s.onGroup f).dies = s.dies := rfl
@[simp] theorem State.onGroup_outward (s : State) (f : Group → Group) : (s.onGroup f).outward = s.outward := rfl
@[simp] theorem State.onGroup_bootStage (s : State) (f : Group → Group) : (s.onGroup f).bootStage = s.bootStage := rfl
@[simp] theorem State.onGroup_bootImage (s : State) (f : Group → Group) : (s.onGroup f).bootImage = s.bootImage := rfl
@[simp] theorem State.onGroup_bootReason (s : State) (f : Group → Group) : (s.onGroup f).bootReason = s.bootReason := rfl
@[simp] theorem State.onGroup_bootFail (s : State) (f : Group → Group) : (s.onGroup f).bootFail = s.bootFail := rfl
@[simp] theorem State.onGroup_attestLog (s : State) (f : Group → Group) : (s.onGroup f).attestLog = s.attestLog := rfl
@[simp] theorem State.onGroup_module (s : State) (f : Group → Group) : (s.onGroup f).module = s.module := rfl
@[simp] theorem State.onGroup_stopped (s : State) (f : Group → Group) : (s.onGroup f).stopped = s.stopped := rfl

/-! ### Changes of the groups of a uid -/

@[simp] theorem State.modGroup_port (s : State) (u : Nat) (f : Group → Group) : (s.modGroup u f).port = s.port := rfl
@[simp] theorem State.modGroup_agenda (s : State) (u : Nat) (f : Group → Group) : (s.modGroup u f).agenda = s.agenda := rfl
@[simp] theorem State.modGroup_clock (s : State) (u : Nat) (f : Group → Group) : (s.modGroup u f).clock = s.clock := rfl
@[simp] theorem State.modGroup_datapaths (s : State) (u : Nat) (f : Group → Group) : (s.modGroup u f).datapaths = s.datapaths := rfl
@[simp] theorem State.modGroup_nextUid (s : State) (u : Nat) (f : Group → Group) : (s.modGroup u f).nextUid = s.nextUid := rfl
@[simp] theorem State.modGroup_nextTrap (s : State) (u : Nat) (f : Group → Group) : (s.modGroup u f).nextTrap = s.nextTrap := rfl
@[simp] theorem State.modGroup_mem (s : State) (u : Nat) (f : Group → Group) : (s.modGroup u f).mem = s.mem := rfl
@[simp] theorem State.modGroup_poison (s : State) (u : Nat) (f : Group → Group) : (s.modGroup u f).poison = s.poison := rfl
@[simp] theorem State.modGroup_failing (s : State) (u : Nat) (f : Group → Group) : (s.modGroup u f).failing = s.failing := rfl
@[simp] theorem State.modGroup_halos (s : State) (u : Nat) (f : Group → Group) : (s.modGroup u f).halos = s.halos := rfl
@[simp] theorem State.modGroup_homeTags (s : State) (u : Nat) (f : Group → Group) : (s.modGroup u f).homeTags = s.homeTags := rfl
@[simp] theorem State.modGroup_bufs (s : State) (u : Nat) (f : Group → Group) : (s.modGroup u f).bufs = s.bufs := rfl
@[simp] theorem State.modGroup_tlb (s : State) (u : Nat) (f : Group → Group) : (s.modGroup u f).tlb = s.tlb := rfl
@[simp] theorem State.modGroup_hostMem (s : State) (u : Nat) (f : Group → Group) : (s.modGroup u f).hostMem = s.hostMem := rfl
@[simp] theorem State.modGroup_nvme (s : State) (u : Nat) (f : Group → Group) : (s.modGroup u f).nvme = s.nvme := rfl
@[simp] theorem State.modGroup_nvmeAt (s : State) (u : Nat) (f : Group → Group) : (s.modGroup u f).nvmeAt = s.nvmeAt := rfl
@[simp] theorem State.modGroup_teams (s : State) (u : Nat) (f : Group → Group) : (s.modGroup u f).teams = s.teams := rfl
@[simp] theorem State.modGroup_tasks (s : State) (u : Nat) (f : Group → Group) : (s.modGroup u f).tasks = s.tasks := rfl
@[simp] theorem State.modGroup_nextSeq (s : State) (u : Nat) (f : Group → Group) : (s.modGroup u f).nextSeq = s.nextSeq := rfl
@[simp] theorem State.modGroup_cancels (s : State) (u : Nat) (f : Group → Group) : (s.modGroup u f).cancels = s.cancels := rfl
@[simp] theorem State.modGroup_bins (s : State) (u : Nat) (f : Group → Group) : (s.modGroup u f).bins = s.bins := rfl
@[simp] theorem State.modGroup_regions (s : State) (u : Nat) (f : Group → Group) : (s.modGroup u f).regions = s.regions := rfl
@[simp] theorem State.modGroup_pools (s : State) (u : Nat) (f : Group → Group) : (s.modGroup u f).pools = s.pools := rfl
@[simp] theorem State.modGroup_copies (s : State) (u : Nat) (f : Group → Group) : (s.modGroup u f).copies = s.copies := rfl
@[simp] theorem State.modGroup_faults (s : State) (u : Nat) (f : Group → Group) : (s.modGroup u f).faults = s.faults := rfl
@[simp] theorem State.modGroup_migs (s : State) (u : Nat) (f : Group → Group) : (s.modGroup u f).migs = s.migs := rfl
@[simp] theorem State.modGroup_tracked (s : State) (u : Nat) (f : Group → Group) : (s.modGroup u f).tracked = s.tracked := rfl
@[simp] theorem State.modGroup_kvDirs (s : State) (u : Nat) (f : Group → Group) : (s.modGroup u f).kvDirs = s.kvDirs := rfl
@[simp] theorem State.modGroup_acc (s : State) (u : Nat) (f : Group → Group) : (s.modGroup u f).acc = s.acc := rfl
@[simp] theorem State.modGroup_resident (s : State) (u : Nat) (f : Group → Group) : (s.modGroup u f).resident = s.resident := rfl
@[simp] theorem State.modGroup_pme (s : State) (u : Nat) (f : Group → Group) : (s.modGroup u f).pme = s.pme := rfl
@[simp] theorem State.modGroup_courtObjs (s : State) (u : Nat) (f : Group → Group) : (s.modGroup u f).courtObjs = s.courtObjs := rfl
@[simp] theorem State.modGroup_loadRegions (s : State) (u : Nat) (f : Group → Group) : (s.modGroup u f).loadRegions = s.loadRegions := rfl
@[simp] theorem State.modGroup_mailboxes (s : State) (u : Nat) (f : Group → Group) : (s.modGroup u f).mailboxes = s.mailboxes := rfl
@[simp] theorem State.modGroup_windows (s : State) (u : Nat) (f : Group → Group) : (s.modGroup u f).windows = s.windows := rfl
@[simp] theorem State.modGroup_contribs (s : State) (u : Nat) (f : Group → Group) : (s.modGroup u f).contribs = s.contribs := rfl
@[simp] theorem State.modGroup_colls (s : State) (u : Nat) (f : Group → Group) : (s.modGroup u f).colls = s.colls := rfl
@[simp] theorem State.modGroup_passed (s : State) (u : Nat) (f : Group → Group) : (s.modGroup u f).passed = s.passed := rfl
@[simp] theorem State.modGroup_pairs (s : State) (u : Nat) (f : Group → Group) : (s.modGroup u f).pairs = s.pairs := rfl
@[simp] theorem State.modGroup_completions (s : State) (u : Nat) (f : Group → Group) : (s.modGroup u f).completions = s.completions := rfl
@[simp] theorem State.modGroup_cores (s : State) (u : Nat) (f : Group → Group) : (s.modGroup u f).cores = s.cores := rfl
@[simp] theorem State.modGroup_ctxPool (s : State) (u : Nat) (f : Group → Group) : (s.modGroup u f).ctxPool = s.ctxPool := rfl
@[simp] theorem State.modGroup_images (s : State) (u : Nat) (f : Group → Group) : (s.modGroup u f).images = s.images := rfl
@[simp] theorem State.modGroup_saves (s : State) (u : Nat) (f : Group → Group) : (s.modGroup u f).saves = s.saves := rfl
@[simp] theorem State.modGroup_recorders (s : State) (u : Nat) (f : Group → Group) : (s.modGroup u f).recorders = s.recorders := rfl
@[simp] theorem State.modGroup_dies (s : State) (u : Nat) (f : Group → Group) : (s.modGroup u f).dies = s.dies := rfl
@[simp] theorem State.modGroup_outward (s : State) (u : Nat) (f : Group → Group) : (s.modGroup u f).outward = s.outward := rfl
@[simp] theorem State.modGroup_bootStage (s : State) (u : Nat) (f : Group → Group) : (s.modGroup u f).bootStage = s.bootStage := rfl
@[simp] theorem State.modGroup_bootImage (s : State) (u : Nat) (f : Group → Group) : (s.modGroup u f).bootImage = s.bootImage := rfl
@[simp] theorem State.modGroup_bootReason (s : State) (u : Nat) (f : Group → Group) : (s.modGroup u f).bootReason = s.bootReason := rfl
@[simp] theorem State.modGroup_bootFail (s : State) (u : Nat) (f : Group → Group) : (s.modGroup u f).bootFail = s.bootFail := rfl
@[simp] theorem State.modGroup_attestLog (s : State) (u : Nat) (f : Group → Group) : (s.modGroup u f).attestLog = s.attestLog := rfl
@[simp] theorem State.modGroup_module (s : State) (u : Nat) (f : Group → Group) : (s.modGroup u f).module = s.module := rfl
@[simp] theorem State.modGroup_stopped (s : State) (u : Nat) (f : Group → Group) : (s.modGroup u f).stopped = s.stopped := rfl

/-! ### Registers -/

@[simp] theorem Group.setV_id (g : Group) (n : Nat) (x : Wide) : (g.setV n x).id = g.id := rfl
@[simp] theorem Group.setV_modes (g : Group) (n : Nat) (x : Wide) : (g.setV n x).modes = g.modes := rfl
@[simp] theorem Group.setV_slot0 (g : Group) (n : Nat) (x : Wide) : (g.setV n x).slot0 = g.slot0 := rfl
@[simp] theorem Group.setV_slot1 (g : Group) (n : Nat) (x : Wide) : (g.setV n x).slot1 = g.slot1 := rfl
@[simp] theorem Group.setV_stack (g : Group) (n : Nat) (x : Wide) : (g.setV n x).stack = g.stack := rfl
@[simp] theorem Group.setV_exited (g : Group) (n : Nat) (x : Wide) : (g.setV n x).exited = g.exited := rfl
@[simp] theorem Group.setV_setPc (g : Group) (n : Nat) (x : Wide) : (g.setV n x).setPc = g.setPc := rfl
@[simp] theorem Group.setV_setExited (g : Group) (n : Nat) (x : Wide) : (g.setV n x).setExited = g.setExited := rfl
@[simp] theorem Group.setV_setTrap (g : Group) (n : Nat) (x : Wide) : (g.setV n x).setTrap = g.setTrap := rfl
@[simp] theorem Group.setV_setWait (g : Group) (n : Nat) (x : Wide) : (g.setV n x).setWait = g.setWait := rfl
@[simp] theorem Group.setV_queues (g : Group) (n : Nat) (x : Wide) : (g.setV n x).queues = g.queues := rfl
@[simp] theorem Group.setV_qhead (g : Group) (n : Nat) (x : Wide) : (g.setV n x).qhead = g.qhead := rfl
@[simp] theorem Group.setV_trapRegs (g : Group) (n : Nat) (x : Wide) : (g.setV n x).trapRegs = g.trapRegs := rfl
@[simp] theorem Group.setV_age (g : Group) (n : Nat) (x : Wide) : (g.setV n x).age = g.age := rfl
@[simp] theorem Group.setV_serial (g : Group) (n : Nat) (x : Wide) : (g.setV n x).serial = g.serial := rfl
@[simp] theorem Group.setV_outq (g : Group) (n : Nat) (x : Wide) : (g.setV n x).outq = g.outq := rfl
@[simp] theorem Group.setV_marks (g : Group) (n : Nat) (x : Wide) : (g.setV n x).marks = g.marks := rfl
@[simp] theorem Group.setV_readTags (g : Group) (n : Nat) (x : Wide) : (g.setV n x).readTags = g.readTags := rfl
@[simp] theorem Group.setV_horizon (g : Group) (n : Nat) (x : Wide) : (g.setV n x).horizon = g.horizon := rfl
@[simp] theorem Group.setV_inflight (g : Group) (n : Nat) (x : Wide) : (g.setV n x).inflight = g.inflight := rfl
@[simp] theorem Group.setV_flagMarks (g : Group) (n : Nat) (x : Wide) : (g.setV n x).flagMarks = g.flagMarks := rfl
@[simp] theorem Group.setV_undo0 (g : Group) (n : Nat) (x : Wide) : (g.setV n x).undo0 = g.undo0 := rfl
@[simp] theorem Group.setV_undo1 (g : Group) (n : Nat) (x : Wide) : (g.setV n x).undo1 = g.undo1 := rfl
@[simp] theorem Group.setV_pairs (g : Group) (n : Nat) (x : Wide) : (g.setV n x).pairs = g.pairs := rfl
@[simp] theorem Group.setV_arrivals (g : Group) (n : Nat) (x : Wide) : (g.setV n x).arrivals = g.arrivals := rfl
@[simp] theorem Group.setV_ready (g : Group) (n : Nat) (x : Wide) : (g.setV n x).ready = g.ready := rfl
@[simp] theorem Group.setV_readySet (g : Group) (n : Nat) (x : Wide) : (g.setV n x).readySet = g.readySet := rfl
@[simp] theorem Group.setV_ended (g : Group) (n : Nat) (x : Wide) : (g.setV n x).ended = g.ended := rfl
@[simp] theorem Group.setV_stopped (g : Group) (n : Nat) (x : Wide) : (g.setV n x).stopped = g.stopped := rfl
@[simp] theorem Group.setV_spilled (g : Group) (n : Nat) (x : Wide) : (g.setV n x).spilled = g.spilled := rfl
@[simp] theorem Group.setLanes_id (g : Group) (n : Nat) (m : Lanes) (f : Nat → Word) : (g.setLanes n m f).id = g.id := rfl
@[simp] theorem Group.setLanes_modes (g : Group) (n : Nat) (m : Lanes) (f : Nat → Word) : (g.setLanes n m f).modes = g.modes := rfl
@[simp] theorem Group.setLanes_slot0 (g : Group) (n : Nat) (m : Lanes) (f : Nat → Word) : (g.setLanes n m f).slot0 = g.slot0 := rfl
@[simp] theorem Group.setLanes_slot1 (g : Group) (n : Nat) (m : Lanes) (f : Nat → Word) : (g.setLanes n m f).slot1 = g.slot1 := rfl
@[simp] theorem Group.setLanes_stack (g : Group) (n : Nat) (m : Lanes) (f : Nat → Word) : (g.setLanes n m f).stack = g.stack := rfl
@[simp] theorem Group.setLanes_exited (g : Group) (n : Nat) (m : Lanes) (f : Nat → Word) : (g.setLanes n m f).exited = g.exited := rfl
@[simp] theorem Group.setLanes_setPc (g : Group) (n : Nat) (m : Lanes) (f : Nat → Word) : (g.setLanes n m f).setPc = g.setPc := rfl
@[simp] theorem Group.setLanes_setExited (g : Group) (n : Nat) (m : Lanes) (f : Nat → Word) : (g.setLanes n m f).setExited = g.setExited := rfl
@[simp] theorem Group.setLanes_setTrap (g : Group) (n : Nat) (m : Lanes) (f : Nat → Word) : (g.setLanes n m f).setTrap = g.setTrap := rfl
@[simp] theorem Group.setLanes_setWait (g : Group) (n : Nat) (m : Lanes) (f : Nat → Word) : (g.setLanes n m f).setWait = g.setWait := rfl
@[simp] theorem Group.setLanes_queues (g : Group) (n : Nat) (m : Lanes) (f : Nat → Word) : (g.setLanes n m f).queues = g.queues := rfl
@[simp] theorem Group.setLanes_qhead (g : Group) (n : Nat) (m : Lanes) (f : Nat → Word) : (g.setLanes n m f).qhead = g.qhead := rfl
@[simp] theorem Group.setLanes_trapRegs (g : Group) (n : Nat) (m : Lanes) (f : Nat → Word) : (g.setLanes n m f).trapRegs = g.trapRegs := rfl
@[simp] theorem Group.setLanes_age (g : Group) (n : Nat) (m : Lanes) (f : Nat → Word) : (g.setLanes n m f).age = g.age := rfl
@[simp] theorem Group.setLanes_serial (g : Group) (n : Nat) (m : Lanes) (f : Nat → Word) : (g.setLanes n m f).serial = g.serial := rfl
@[simp] theorem Group.setLanes_outq (g : Group) (n : Nat) (m : Lanes) (f : Nat → Word) : (g.setLanes n m f).outq = g.outq := rfl
@[simp] theorem Group.setLanes_marks (g : Group) (n : Nat) (m : Lanes) (f : Nat → Word) : (g.setLanes n m f).marks = g.marks := rfl
@[simp] theorem Group.setLanes_readTags (g : Group) (n : Nat) (m : Lanes) (f : Nat → Word) : (g.setLanes n m f).readTags = g.readTags := rfl
@[simp] theorem Group.setLanes_horizon (g : Group) (n : Nat) (m : Lanes) (f : Nat → Word) : (g.setLanes n m f).horizon = g.horizon := rfl
@[simp] theorem Group.setLanes_inflight (g : Group) (n : Nat) (m : Lanes) (f : Nat → Word) : (g.setLanes n m f).inflight = g.inflight := rfl
@[simp] theorem Group.setLanes_flagMarks (g : Group) (n : Nat) (m : Lanes) (f : Nat → Word) : (g.setLanes n m f).flagMarks = g.flagMarks := rfl
@[simp] theorem Group.setLanes_undo0 (g : Group) (n : Nat) (m : Lanes) (f : Nat → Word) : (g.setLanes n m f).undo0 = g.undo0 := rfl
@[simp] theorem Group.setLanes_undo1 (g : Group) (n : Nat) (m : Lanes) (f : Nat → Word) : (g.setLanes n m f).undo1 = g.undo1 := rfl
@[simp] theorem Group.setLanes_pairs (g : Group) (n : Nat) (m : Lanes) (f : Nat → Word) : (g.setLanes n m f).pairs = g.pairs := rfl
@[simp] theorem Group.setLanes_arrivals (g : Group) (n : Nat) (m : Lanes) (f : Nat → Word) : (g.setLanes n m f).arrivals = g.arrivals := rfl
@[simp] theorem Group.setLanes_ready (g : Group) (n : Nat) (m : Lanes) (f : Nat → Word) : (g.setLanes n m f).ready = g.ready := rfl
@[simp] theorem Group.setLanes_readySet (g : Group) (n : Nat) (m : Lanes) (f : Nat → Word) : (g.setLanes n m f).readySet = g.readySet := rfl
@[simp] theorem Group.setLanes_ended (g : Group) (n : Nat) (m : Lanes) (f : Nat → Word) : (g.setLanes n m f).ended = g.ended := rfl
@[simp] theorem Group.setLanes_stopped (g : Group) (n : Nat) (m : Lanes) (f : Nat → Word) : (g.setLanes n m f).stopped = g.stopped := rfl
@[simp] theorem Group.setLanes_spilled (g : Group) (n : Nat) (m : Lanes) (f : Nat → Word) : (g.setLanes n m f).spilled = g.spilled := rfl
@[simp] theorem Group.setPair_id (g : Group) (n : Nat) (m : Lanes) (f : Nat → DWord) : (g.setPair n m f).id = g.id := rfl
@[simp] theorem Group.setPair_modes (g : Group) (n : Nat) (m : Lanes) (f : Nat → DWord) : (g.setPair n m f).modes = g.modes := rfl
@[simp] theorem Group.setPair_slot0 (g : Group) (n : Nat) (m : Lanes) (f : Nat → DWord) : (g.setPair n m f).slot0 = g.slot0 := rfl
@[simp] theorem Group.setPair_slot1 (g : Group) (n : Nat) (m : Lanes) (f : Nat → DWord) : (g.setPair n m f).slot1 = g.slot1 := rfl
@[simp] theorem Group.setPair_stack (g : Group) (n : Nat) (m : Lanes) (f : Nat → DWord) : (g.setPair n m f).stack = g.stack := rfl
@[simp] theorem Group.setPair_exited (g : Group) (n : Nat) (m : Lanes) (f : Nat → DWord) : (g.setPair n m f).exited = g.exited := rfl
@[simp] theorem Group.setPair_setPc (g : Group) (n : Nat) (m : Lanes) (f : Nat → DWord) : (g.setPair n m f).setPc = g.setPc := rfl
@[simp] theorem Group.setPair_setExited (g : Group) (n : Nat) (m : Lanes) (f : Nat → DWord) : (g.setPair n m f).setExited = g.setExited := rfl
@[simp] theorem Group.setPair_setTrap (g : Group) (n : Nat) (m : Lanes) (f : Nat → DWord) : (g.setPair n m f).setTrap = g.setTrap := rfl
@[simp] theorem Group.setPair_setWait (g : Group) (n : Nat) (m : Lanes) (f : Nat → DWord) : (g.setPair n m f).setWait = g.setWait := rfl
@[simp] theorem Group.setPair_queues (g : Group) (n : Nat) (m : Lanes) (f : Nat → DWord) : (g.setPair n m f).queues = g.queues := rfl
@[simp] theorem Group.setPair_qhead (g : Group) (n : Nat) (m : Lanes) (f : Nat → DWord) : (g.setPair n m f).qhead = g.qhead := rfl
@[simp] theorem Group.setPair_trapRegs (g : Group) (n : Nat) (m : Lanes) (f : Nat → DWord) : (g.setPair n m f).trapRegs = g.trapRegs := rfl
@[simp] theorem Group.setPair_age (g : Group) (n : Nat) (m : Lanes) (f : Nat → DWord) : (g.setPair n m f).age = g.age := rfl
@[simp] theorem Group.setPair_serial (g : Group) (n : Nat) (m : Lanes) (f : Nat → DWord) : (g.setPair n m f).serial = g.serial := rfl
@[simp] theorem Group.setPair_outq (g : Group) (n : Nat) (m : Lanes) (f : Nat → DWord) : (g.setPair n m f).outq = g.outq := rfl
@[simp] theorem Group.setPair_marks (g : Group) (n : Nat) (m : Lanes) (f : Nat → DWord) : (g.setPair n m f).marks = g.marks := rfl
@[simp] theorem Group.setPair_readTags (g : Group) (n : Nat) (m : Lanes) (f : Nat → DWord) : (g.setPair n m f).readTags = g.readTags := rfl
@[simp] theorem Group.setPair_horizon (g : Group) (n : Nat) (m : Lanes) (f : Nat → DWord) : (g.setPair n m f).horizon = g.horizon := rfl
@[simp] theorem Group.setPair_inflight (g : Group) (n : Nat) (m : Lanes) (f : Nat → DWord) : (g.setPair n m f).inflight = g.inflight := rfl
@[simp] theorem Group.setPair_flagMarks (g : Group) (n : Nat) (m : Lanes) (f : Nat → DWord) : (g.setPair n m f).flagMarks = g.flagMarks := rfl
@[simp] theorem Group.setPair_undo0 (g : Group) (n : Nat) (m : Lanes) (f : Nat → DWord) : (g.setPair n m f).undo0 = g.undo0 := rfl
@[simp] theorem Group.setPair_undo1 (g : Group) (n : Nat) (m : Lanes) (f : Nat → DWord) : (g.setPair n m f).undo1 = g.undo1 := rfl
@[simp] theorem Group.setPair_pairs (g : Group) (n : Nat) (m : Lanes) (f : Nat → DWord) : (g.setPair n m f).pairs = g.pairs := rfl
@[simp] theorem Group.setPair_arrivals (g : Group) (n : Nat) (m : Lanes) (f : Nat → DWord) : (g.setPair n m f).arrivals = g.arrivals := rfl
@[simp] theorem Group.setPair_ready (g : Group) (n : Nat) (m : Lanes) (f : Nat → DWord) : (g.setPair n m f).ready = g.ready := rfl
@[simp] theorem Group.setPair_readySet (g : Group) (n : Nat) (m : Lanes) (f : Nat → DWord) : (g.setPair n m f).readySet = g.readySet := rfl
@[simp] theorem Group.setPair_ended (g : Group) (n : Nat) (m : Lanes) (f : Nat → DWord) : (g.setPair n m f).ended = g.ended := rfl
@[simp] theorem Group.setPair_stopped (g : Group) (n : Nat) (m : Lanes) (f : Nat → DWord) : (g.setPair n m f).stopped = g.stopped := rfl
@[simp] theorem Group.setPair_spilled (g : Group) (n : Nat) (m : Lanes) (f : Nat → DWord) : (g.setPair n m f).spilled = g.spilled := rfl
@[simp] theorem Group.setS_id (g : Group) (n : Nat) (x : DWord) : (g.setS n x).id = g.id := rfl
@[simp] theorem Group.setS_modes (g : Group) (n : Nat) (x : DWord) : (g.setS n x).modes = g.modes := rfl
@[simp] theorem Group.setS_slot0 (g : Group) (n : Nat) (x : DWord) : (g.setS n x).slot0 = g.slot0 := rfl
@[simp] theorem Group.setS_slot1 (g : Group) (n : Nat) (x : DWord) : (g.setS n x).slot1 = g.slot1 := rfl
@[simp] theorem Group.setS_stack (g : Group) (n : Nat) (x : DWord) : (g.setS n x).stack = g.stack := rfl
@[simp] theorem Group.setS_exited (g : Group) (n : Nat) (x : DWord) : (g.setS n x).exited = g.exited := rfl
@[simp] theorem Group.setS_setPc (g : Group) (n : Nat) (x : DWord) : (g.setS n x).setPc = g.setPc := rfl
@[simp] theorem Group.setS_setExited (g : Group) (n : Nat) (x : DWord) : (g.setS n x).setExited = g.setExited := rfl
@[simp] theorem Group.setS_setTrap (g : Group) (n : Nat) (x : DWord) : (g.setS n x).setTrap = g.setTrap := rfl
@[simp] theorem Group.setS_setWait (g : Group) (n : Nat) (x : DWord) : (g.setS n x).setWait = g.setWait := rfl
@[simp] theorem Group.setS_queues (g : Group) (n : Nat) (x : DWord) : (g.setS n x).queues = g.queues := rfl
@[simp] theorem Group.setS_qhead (g : Group) (n : Nat) (x : DWord) : (g.setS n x).qhead = g.qhead := rfl
@[simp] theorem Group.setS_trapRegs (g : Group) (n : Nat) (x : DWord) : (g.setS n x).trapRegs = g.trapRegs := rfl
@[simp] theorem Group.setS_age (g : Group) (n : Nat) (x : DWord) : (g.setS n x).age = g.age := rfl
@[simp] theorem Group.setS_serial (g : Group) (n : Nat) (x : DWord) : (g.setS n x).serial = g.serial := rfl
@[simp] theorem Group.setS_outq (g : Group) (n : Nat) (x : DWord) : (g.setS n x).outq = g.outq := rfl
@[simp] theorem Group.setS_marks (g : Group) (n : Nat) (x : DWord) : (g.setS n x).marks = g.marks := rfl
@[simp] theorem Group.setS_readTags (g : Group) (n : Nat) (x : DWord) : (g.setS n x).readTags = g.readTags := rfl
@[simp] theorem Group.setS_horizon (g : Group) (n : Nat) (x : DWord) : (g.setS n x).horizon = g.horizon := rfl
@[simp] theorem Group.setS_inflight (g : Group) (n : Nat) (x : DWord) : (g.setS n x).inflight = g.inflight := rfl
@[simp] theorem Group.setS_flagMarks (g : Group) (n : Nat) (x : DWord) : (g.setS n x).flagMarks = g.flagMarks := rfl
@[simp] theorem Group.setS_undo0 (g : Group) (n : Nat) (x : DWord) : (g.setS n x).undo0 = g.undo0 := rfl
@[simp] theorem Group.setS_undo1 (g : Group) (n : Nat) (x : DWord) : (g.setS n x).undo1 = g.undo1 := rfl
@[simp] theorem Group.setS_pairs (g : Group) (n : Nat) (x : DWord) : (g.setS n x).pairs = g.pairs := rfl
@[simp] theorem Group.setS_arrivals (g : Group) (n : Nat) (x : DWord) : (g.setS n x).arrivals = g.arrivals := rfl
@[simp] theorem Group.setS_ready (g : Group) (n : Nat) (x : DWord) : (g.setS n x).ready = g.ready := rfl
@[simp] theorem Group.setS_readySet (g : Group) (n : Nat) (x : DWord) : (g.setS n x).readySet = g.readySet := rfl
@[simp] theorem Group.setS_ended (g : Group) (n : Nat) (x : DWord) : (g.setS n x).ended = g.ended := rfl
@[simp] theorem Group.setS_stopped (g : Group) (n : Nat) (x : DWord) : (g.setS n x).stopped = g.stopped := rfl
@[simp] theorem Group.setS_spilled (g : Group) (n : Nat) (x : DWord) : (g.setS n x).spilled = g.spilled := rfl
@[simp] theorem Group.setA_id (g : Group) (n : Nat) (x : DWord) : (g.setA n x).id = g.id := rfl
@[simp] theorem Group.setA_modes (g : Group) (n : Nat) (x : DWord) : (g.setA n x).modes = g.modes := rfl
@[simp] theorem Group.setA_slot0 (g : Group) (n : Nat) (x : DWord) : (g.setA n x).slot0 = g.slot0 := rfl
@[simp] theorem Group.setA_slot1 (g : Group) (n : Nat) (x : DWord) : (g.setA n x).slot1 = g.slot1 := rfl
@[simp] theorem Group.setA_stack (g : Group) (n : Nat) (x : DWord) : (g.setA n x).stack = g.stack := rfl
@[simp] theorem Group.setA_exited (g : Group) (n : Nat) (x : DWord) : (g.setA n x).exited = g.exited := rfl
@[simp] theorem Group.setA_setPc (g : Group) (n : Nat) (x : DWord) : (g.setA n x).setPc = g.setPc := rfl
@[simp] theorem Group.setA_setExited (g : Group) (n : Nat) (x : DWord) : (g.setA n x).setExited = g.setExited := rfl
@[simp] theorem Group.setA_setTrap (g : Group) (n : Nat) (x : DWord) : (g.setA n x).setTrap = g.setTrap := rfl
@[simp] theorem Group.setA_setWait (g : Group) (n : Nat) (x : DWord) : (g.setA n x).setWait = g.setWait := rfl
@[simp] theorem Group.setA_queues (g : Group) (n : Nat) (x : DWord) : (g.setA n x).queues = g.queues := rfl
@[simp] theorem Group.setA_qhead (g : Group) (n : Nat) (x : DWord) : (g.setA n x).qhead = g.qhead := rfl
@[simp] theorem Group.setA_trapRegs (g : Group) (n : Nat) (x : DWord) : (g.setA n x).trapRegs = g.trapRegs := rfl
@[simp] theorem Group.setA_age (g : Group) (n : Nat) (x : DWord) : (g.setA n x).age = g.age := rfl
@[simp] theorem Group.setA_serial (g : Group) (n : Nat) (x : DWord) : (g.setA n x).serial = g.serial := rfl
@[simp] theorem Group.setA_outq (g : Group) (n : Nat) (x : DWord) : (g.setA n x).outq = g.outq := rfl
@[simp] theorem Group.setA_marks (g : Group) (n : Nat) (x : DWord) : (g.setA n x).marks = g.marks := rfl
@[simp] theorem Group.setA_readTags (g : Group) (n : Nat) (x : DWord) : (g.setA n x).readTags = g.readTags := rfl
@[simp] theorem Group.setA_horizon (g : Group) (n : Nat) (x : DWord) : (g.setA n x).horizon = g.horizon := rfl
@[simp] theorem Group.setA_inflight (g : Group) (n : Nat) (x : DWord) : (g.setA n x).inflight = g.inflight := rfl
@[simp] theorem Group.setA_flagMarks (g : Group) (n : Nat) (x : DWord) : (g.setA n x).flagMarks = g.flagMarks := rfl
@[simp] theorem Group.setA_undo0 (g : Group) (n : Nat) (x : DWord) : (g.setA n x).undo0 = g.undo0 := rfl
@[simp] theorem Group.setA_undo1 (g : Group) (n : Nat) (x : DWord) : (g.setA n x).undo1 = g.undo1 := rfl
@[simp] theorem Group.setA_pairs (g : Group) (n : Nat) (x : DWord) : (g.setA n x).pairs = g.pairs := rfl
@[simp] theorem Group.setA_arrivals (g : Group) (n : Nat) (x : DWord) : (g.setA n x).arrivals = g.arrivals := rfl
@[simp] theorem Group.setA_ready (g : Group) (n : Nat) (x : DWord) : (g.setA n x).ready = g.ready := rfl
@[simp] theorem Group.setA_readySet (g : Group) (n : Nat) (x : DWord) : (g.setA n x).readySet = g.readySet := rfl
@[simp] theorem Group.setA_ended (g : Group) (n : Nat) (x : DWord) : (g.setA n x).ended = g.ended := rfl
@[simp] theorem Group.setA_stopped (g : Group) (n : Nat) (x : DWord) : (g.setA n x).stopped = g.stopped := rfl
@[simp] theorem Group.setA_spilled (g : Group) (n : Nat) (x : DWord) : (g.setA n x).spilled = g.spilled := rfl
@[simp] theorem Group.raiseFlags_id (g : Group) (x : DWord) : (g.raiseFlags x).id = g.id := rfl
@[simp] theorem Group.raiseFlags_regs (g : Group) (x : DWord) : (g.raiseFlags x).regs = g.regs := rfl
@[simp] theorem Group.raiseFlags_slot0 (g : Group) (x : DWord) : (g.raiseFlags x).slot0 = g.slot0 := rfl
@[simp] theorem Group.raiseFlags_slot1 (g : Group) (x : DWord) : (g.raiseFlags x).slot1 = g.slot1 := rfl
@[simp] theorem Group.raiseFlags_stack (g : Group) (x : DWord) : (g.raiseFlags x).stack = g.stack := rfl
@[simp] theorem Group.raiseFlags_exited (g : Group) (x : DWord) : (g.raiseFlags x).exited = g.exited := rfl
@[simp] theorem Group.raiseFlags_setPc (g : Group) (x : DWord) : (g.raiseFlags x).setPc = g.setPc := rfl
@[simp] theorem Group.raiseFlags_setExited (g : Group) (x : DWord) : (g.raiseFlags x).setExited = g.setExited := rfl
@[simp] theorem Group.raiseFlags_setTrap (g : Group) (x : DWord) : (g.raiseFlags x).setTrap = g.setTrap := rfl
@[simp] theorem Group.raiseFlags_setWait (g : Group) (x : DWord) : (g.raiseFlags x).setWait = g.setWait := rfl
@[simp] theorem Group.raiseFlags_queues (g : Group) (x : DWord) : (g.raiseFlags x).queues = g.queues := rfl
@[simp] theorem Group.raiseFlags_qhead (g : Group) (x : DWord) : (g.raiseFlags x).qhead = g.qhead := rfl
@[simp] theorem Group.raiseFlags_trapRegs (g : Group) (x : DWord) : (g.raiseFlags x).trapRegs = g.trapRegs := rfl
@[simp] theorem Group.raiseFlags_age (g : Group) (x : DWord) : (g.raiseFlags x).age = g.age := rfl
@[simp] theorem Group.raiseFlags_serial (g : Group) (x : DWord) : (g.raiseFlags x).serial = g.serial := rfl
@[simp] theorem Group.raiseFlags_outq (g : Group) (x : DWord) : (g.raiseFlags x).outq = g.outq := rfl
@[simp] theorem Group.raiseFlags_marks (g : Group) (x : DWord) : (g.raiseFlags x).marks = g.marks := rfl
@[simp] theorem Group.raiseFlags_readTags (g : Group) (x : DWord) : (g.raiseFlags x).readTags = g.readTags := rfl
@[simp] theorem Group.raiseFlags_horizon (g : Group) (x : DWord) : (g.raiseFlags x).horizon = g.horizon := rfl
@[simp] theorem Group.raiseFlags_inflight (g : Group) (x : DWord) : (g.raiseFlags x).inflight = g.inflight := rfl
@[simp] theorem Group.raiseFlags_flagMarks (g : Group) (x : DWord) : (g.raiseFlags x).flagMarks = g.flagMarks := rfl
@[simp] theorem Group.raiseFlags_undo0 (g : Group) (x : DWord) : (g.raiseFlags x).undo0 = g.undo0 := rfl
@[simp] theorem Group.raiseFlags_undo1 (g : Group) (x : DWord) : (g.raiseFlags x).undo1 = g.undo1 := rfl
@[simp] theorem Group.raiseFlags_pairs (g : Group) (x : DWord) : (g.raiseFlags x).pairs = g.pairs := rfl
@[simp] theorem Group.raiseFlags_arrivals (g : Group) (x : DWord) : (g.raiseFlags x).arrivals = g.arrivals := rfl
@[simp] theorem Group.raiseFlags_ready (g : Group) (x : DWord) : (g.raiseFlags x).ready = g.ready := rfl
@[simp] theorem Group.raiseFlags_readySet (g : Group) (x : DWord) : (g.raiseFlags x).readySet = g.readySet := rfl
@[simp] theorem Group.raiseFlags_ended (g : Group) (x : DWord) : (g.raiseFlags x).ended = g.ended := rfl
@[simp] theorem Group.raiseFlags_stopped (g : Group) (x : DWord) : (g.raiseFlags x).stopped = g.stopped := rfl
@[simp] theorem Group.raiseFlags_spilled (g : Group) (x : DWord) : (g.raiseFlags x).spilled = g.spilled := rfl
@[simp] theorem Group.raiseSticky_id (g : Group) (x : DWord) : (g.raiseSticky x).id = g.id := rfl
@[simp] theorem Group.raiseSticky_regs (g : Group) (x : DWord) : (g.raiseSticky x).regs = g.regs := rfl
@[simp] theorem Group.raiseSticky_slot0 (g : Group) (x : DWord) : (g.raiseSticky x).slot0 = g.slot0 := rfl
@[simp] theorem Group.raiseSticky_slot1 (g : Group) (x : DWord) : (g.raiseSticky x).slot1 = g.slot1 := rfl
@[simp] theorem Group.raiseSticky_stack (g : Group) (x : DWord) : (g.raiseSticky x).stack = g.stack := rfl
@[simp] theorem Group.raiseSticky_exited (g : Group) (x : DWord) : (g.raiseSticky x).exited = g.exited := rfl
@[simp] theorem Group.raiseSticky_setPc (g : Group) (x : DWord) : (g.raiseSticky x).setPc = g.setPc := rfl
@[simp] theorem Group.raiseSticky_setExited (g : Group) (x : DWord) : (g.raiseSticky x).setExited = g.setExited := rfl
@[simp] theorem Group.raiseSticky_setTrap (g : Group) (x : DWord) : (g.raiseSticky x).setTrap = g.setTrap := rfl
@[simp] theorem Group.raiseSticky_setWait (g : Group) (x : DWord) : (g.raiseSticky x).setWait = g.setWait := rfl
@[simp] theorem Group.raiseSticky_queues (g : Group) (x : DWord) : (g.raiseSticky x).queues = g.queues := rfl
@[simp] theorem Group.raiseSticky_qhead (g : Group) (x : DWord) : (g.raiseSticky x).qhead = g.qhead := rfl
@[simp] theorem Group.raiseSticky_trapRegs (g : Group) (x : DWord) : (g.raiseSticky x).trapRegs = g.trapRegs := rfl
@[simp] theorem Group.raiseSticky_age (g : Group) (x : DWord) : (g.raiseSticky x).age = g.age := rfl
@[simp] theorem Group.raiseSticky_serial (g : Group) (x : DWord) : (g.raiseSticky x).serial = g.serial := rfl
@[simp] theorem Group.raiseSticky_outq (g : Group) (x : DWord) : (g.raiseSticky x).outq = g.outq := rfl
@[simp] theorem Group.raiseSticky_marks (g : Group) (x : DWord) : (g.raiseSticky x).marks = g.marks := rfl
@[simp] theorem Group.raiseSticky_readTags (g : Group) (x : DWord) : (g.raiseSticky x).readTags = g.readTags := rfl
@[simp] theorem Group.raiseSticky_horizon (g : Group) (x : DWord) : (g.raiseSticky x).horizon = g.horizon := rfl
@[simp] theorem Group.raiseSticky_inflight (g : Group) (x : DWord) : (g.raiseSticky x).inflight = g.inflight := rfl
@[simp] theorem Group.raiseSticky_flagMarks (g : Group) (x : DWord) : (g.raiseSticky x).flagMarks = g.flagMarks := rfl
@[simp] theorem Group.raiseSticky_undo0 (g : Group) (x : DWord) : (g.raiseSticky x).undo0 = g.undo0 := rfl
@[simp] theorem Group.raiseSticky_undo1 (g : Group) (x : DWord) : (g.raiseSticky x).undo1 = g.undo1 := rfl
@[simp] theorem Group.raiseSticky_pairs (g : Group) (x : DWord) : (g.raiseSticky x).pairs = g.pairs := rfl
@[simp] theorem Group.raiseSticky_arrivals (g : Group) (x : DWord) : (g.raiseSticky x).arrivals = g.arrivals := rfl
@[simp] theorem Group.raiseSticky_ready (g : Group) (x : DWord) : (g.raiseSticky x).ready = g.ready := rfl
@[simp] theorem Group.raiseSticky_readySet (g : Group) (x : DWord) : (g.raiseSticky x).readySet = g.readySet := rfl
@[simp] theorem Group.raiseSticky_ended (g : Group) (x : DWord) : (g.raiseSticky x).ended = g.ended := rfl
@[simp] theorem Group.raiseSticky_stopped (g : Group) (x : DWord) : (g.raiseSticky x).stopped = g.stopped := rfl
@[simp] theorem Group.raiseSticky_spilled (g : Group) (x : DWord) : (g.raiseSticky x).spilled = g.spilled := rfl
@[simp] theorem Group.noteFlags_id (g : Group) (p : Port) (m : Lanes) (f : Nat → BitVec 6) : (g.noteFlags p m f).id = g.id := rfl
@[simp] theorem Group.noteFlags_regs (g : Group) (p : Port) (m : Lanes) (f : Nat → BitVec 6) : (g.noteFlags p m f).regs = g.regs := rfl
@[simp] theorem Group.noteFlags_modes (g : Group) (p : Port) (m : Lanes) (f : Nat → BitVec 6) : (g.noteFlags p m f).modes = g.modes := rfl
@[simp] theorem Group.noteFlags_slot0 (g : Group) (p : Port) (m : Lanes) (f : Nat → BitVec 6) : (g.noteFlags p m f).slot0 = g.slot0 := rfl
@[simp] theorem Group.noteFlags_slot1 (g : Group) (p : Port) (m : Lanes) (f : Nat → BitVec 6) : (g.noteFlags p m f).slot1 = g.slot1 := rfl
@[simp] theorem Group.noteFlags_stack (g : Group) (p : Port) (m : Lanes) (f : Nat → BitVec 6) : (g.noteFlags p m f).stack = g.stack := rfl
@[simp] theorem Group.noteFlags_exited (g : Group) (p : Port) (m : Lanes) (f : Nat → BitVec 6) : (g.noteFlags p m f).exited = g.exited := rfl
@[simp] theorem Group.noteFlags_setPc (g : Group) (p : Port) (m : Lanes) (f : Nat → BitVec 6) : (g.noteFlags p m f).setPc = g.setPc := rfl
@[simp] theorem Group.noteFlags_setExited (g : Group) (p : Port) (m : Lanes) (f : Nat → BitVec 6) : (g.noteFlags p m f).setExited = g.setExited := rfl
@[simp] theorem Group.noteFlags_setTrap (g : Group) (p : Port) (m : Lanes) (f : Nat → BitVec 6) : (g.noteFlags p m f).setTrap = g.setTrap := rfl
@[simp] theorem Group.noteFlags_setWait (g : Group) (p : Port) (m : Lanes) (f : Nat → BitVec 6) : (g.noteFlags p m f).setWait = g.setWait := rfl
@[simp] theorem Group.noteFlags_queues (g : Group) (p : Port) (m : Lanes) (f : Nat → BitVec 6) : (g.noteFlags p m f).queues = g.queues := rfl
@[simp] theorem Group.noteFlags_qhead (g : Group) (p : Port) (m : Lanes) (f : Nat → BitVec 6) : (g.noteFlags p m f).qhead = g.qhead := rfl
@[simp] theorem Group.noteFlags_trapRegs (g : Group) (p : Port) (m : Lanes) (f : Nat → BitVec 6) : (g.noteFlags p m f).trapRegs = g.trapRegs := rfl
@[simp] theorem Group.noteFlags_age (g : Group) (p : Port) (m : Lanes) (f : Nat → BitVec 6) : (g.noteFlags p m f).age = g.age := rfl
@[simp] theorem Group.noteFlags_serial (g : Group) (p : Port) (m : Lanes) (f : Nat → BitVec 6) : (g.noteFlags p m f).serial = g.serial := rfl
@[simp] theorem Group.noteFlags_outq (g : Group) (p : Port) (m : Lanes) (f : Nat → BitVec 6) : (g.noteFlags p m f).outq = g.outq := rfl
@[simp] theorem Group.noteFlags_marks (g : Group) (p : Port) (m : Lanes) (f : Nat → BitVec 6) : (g.noteFlags p m f).marks = g.marks := rfl
@[simp] theorem Group.noteFlags_readTags (g : Group) (p : Port) (m : Lanes) (f : Nat → BitVec 6) : (g.noteFlags p m f).readTags = g.readTags := rfl
@[simp] theorem Group.noteFlags_horizon (g : Group) (p : Port) (m : Lanes) (f : Nat → BitVec 6) : (g.noteFlags p m f).horizon = g.horizon := rfl
@[simp] theorem Group.noteFlags_inflight (g : Group) (p : Port) (m : Lanes) (f : Nat → BitVec 6) : (g.noteFlags p m f).inflight = g.inflight := rfl
@[simp] theorem Group.noteFlags_undo0 (g : Group) (p : Port) (m : Lanes) (f : Nat → BitVec 6) : (g.noteFlags p m f).undo0 = g.undo0 := rfl
@[simp] theorem Group.noteFlags_undo1 (g : Group) (p : Port) (m : Lanes) (f : Nat → BitVec 6) : (g.noteFlags p m f).undo1 = g.undo1 := rfl
@[simp] theorem Group.noteFlags_pairs (g : Group) (p : Port) (m : Lanes) (f : Nat → BitVec 6) : (g.noteFlags p m f).pairs = g.pairs := rfl
@[simp] theorem Group.noteFlags_arrivals (g : Group) (p : Port) (m : Lanes) (f : Nat → BitVec 6) : (g.noteFlags p m f).arrivals = g.arrivals := rfl
@[simp] theorem Group.noteFlags_ready (g : Group) (p : Port) (m : Lanes) (f : Nat → BitVec 6) : (g.noteFlags p m f).ready = g.ready := rfl
@[simp] theorem Group.noteFlags_readySet (g : Group) (p : Port) (m : Lanes) (f : Nat → BitVec 6) : (g.noteFlags p m f).readySet = g.readySet := rfl
@[simp] theorem Group.noteFlags_ended (g : Group) (p : Port) (m : Lanes) (f : Nat → BitVec 6) : (g.noteFlags p m f).ended = g.ended := rfl
@[simp] theorem Group.noteFlags_stopped (g : Group) (p : Port) (m : Lanes) (f : Nat → BitVec 6) : (g.noteFlags p m f).stopped = g.stopped := rfl
@[simp] theorem Group.noteFlags_spilled (g : Group) (p : Port) (m : Lanes) (f : Nat → BitVec 6) : (g.noteFlags p m f).spilled = g.spilled := rfl
@[simp] theorem Group.setP_id (g : Group) (n : Nat) (x : Lanes) : (g.setP n x).id = g.id := by unfold Group.setP; split <;> rfl
@[simp] theorem Group.setP_modes (g : Group) (n : Nat) (x : Lanes) : (g.setP n x).modes = g.modes := by unfold Group.setP; split <;> rfl
@[simp] theorem Group.setP_slot0 (g : Group) (n : Nat) (x : Lanes) : (g.setP n x).slot0 = g.slot0 := by unfold Group.setP; split <;> rfl
@[simp] theorem Group.setP_slot1 (g : Group) (n : Nat) (x : Lanes) : (g.setP n x).slot1 = g.slot1 := by unfold Group.setP; split <;> rfl
@[simp] theorem Group.setP_stack (g : Group) (n : Nat) (x : Lanes) : (g.setP n x).stack = g.stack := by unfold Group.setP; split <;> rfl
@[simp] theorem Group.setP_exited (g : Group) (n : Nat) (x : Lanes) : (g.setP n x).exited = g.exited := by unfold Group.setP; split <;> rfl
@[simp] theorem Group.setP_setPc (g : Group) (n : Nat) (x : Lanes) : (g.setP n x).setPc = g.setPc := by unfold Group.setP; split <;> rfl
@[simp] theorem Group.setP_setExited (g : Group) (n : Nat) (x : Lanes) : (g.setP n x).setExited = g.setExited := by unfold Group.setP; split <;> rfl
@[simp] theorem Group.setP_setTrap (g : Group) (n : Nat) (x : Lanes) : (g.setP n x).setTrap = g.setTrap := by unfold Group.setP; split <;> rfl
@[simp] theorem Group.setP_setWait (g : Group) (n : Nat) (x : Lanes) : (g.setP n x).setWait = g.setWait := by unfold Group.setP; split <;> rfl
@[simp] theorem Group.setP_queues (g : Group) (n : Nat) (x : Lanes) : (g.setP n x).queues = g.queues := by unfold Group.setP; split <;> rfl
@[simp] theorem Group.setP_qhead (g : Group) (n : Nat) (x : Lanes) : (g.setP n x).qhead = g.qhead := by unfold Group.setP; split <;> rfl
@[simp] theorem Group.setP_trapRegs (g : Group) (n : Nat) (x : Lanes) : (g.setP n x).trapRegs = g.trapRegs := by unfold Group.setP; split <;> rfl
@[simp] theorem Group.setP_age (g : Group) (n : Nat) (x : Lanes) : (g.setP n x).age = g.age := by unfold Group.setP; split <;> rfl
@[simp] theorem Group.setP_serial (g : Group) (n : Nat) (x : Lanes) : (g.setP n x).serial = g.serial := by unfold Group.setP; split <;> rfl
@[simp] theorem Group.setP_outq (g : Group) (n : Nat) (x : Lanes) : (g.setP n x).outq = g.outq := by unfold Group.setP; split <;> rfl
@[simp] theorem Group.setP_marks (g : Group) (n : Nat) (x : Lanes) : (g.setP n x).marks = g.marks := by unfold Group.setP; split <;> rfl
@[simp] theorem Group.setP_readTags (g : Group) (n : Nat) (x : Lanes) : (g.setP n x).readTags = g.readTags := by unfold Group.setP; split <;> rfl
@[simp] theorem Group.setP_horizon (g : Group) (n : Nat) (x : Lanes) : (g.setP n x).horizon = g.horizon := by unfold Group.setP; split <;> rfl
@[simp] theorem Group.setP_inflight (g : Group) (n : Nat) (x : Lanes) : (g.setP n x).inflight = g.inflight := by unfold Group.setP; split <;> rfl
@[simp] theorem Group.setP_flagMarks (g : Group) (n : Nat) (x : Lanes) : (g.setP n x).flagMarks = g.flagMarks := by unfold Group.setP; split <;> rfl
@[simp] theorem Group.setP_undo0 (g : Group) (n : Nat) (x : Lanes) : (g.setP n x).undo0 = g.undo0 := by unfold Group.setP; split <;> rfl
@[simp] theorem Group.setP_undo1 (g : Group) (n : Nat) (x : Lanes) : (g.setP n x).undo1 = g.undo1 := by unfold Group.setP; split <;> rfl
@[simp] theorem Group.setP_pairs (g : Group) (n : Nat) (x : Lanes) : (g.setP n x).pairs = g.pairs := by unfold Group.setP; split <;> rfl
@[simp] theorem Group.setP_arrivals (g : Group) (n : Nat) (x : Lanes) : (g.setP n x).arrivals = g.arrivals := by unfold Group.setP; split <;> rfl
@[simp] theorem Group.setP_ready (g : Group) (n : Nat) (x : Lanes) : (g.setP n x).ready = g.ready := by unfold Group.setP; split <;> rfl
@[simp] theorem Group.setP_readySet (g : Group) (n : Nat) (x : Lanes) : (g.setP n x).readySet = g.readySet := by unfold Group.setP; split <;> rfl
@[simp] theorem Group.setP_ended (g : Group) (n : Nat) (x : Lanes) : (g.setP n x).ended = g.ended := by unfold Group.setP; split <;> rfl
@[simp] theorem Group.setP_stopped (g : Group) (n : Nat) (x : Lanes) : (g.setP n x).stopped = g.stopped := by unfold Group.setP; split <;> rfl
@[simp] theorem Group.setP_spilled (g : Group) (n : Nat) (x : Lanes) : (g.setP n x).spilled = g.spilled := by unfold Group.setP; split <;> rfl
@[simp] theorem Group.writePred_id (g : Group) (p : Port) (n : Nat) (f : Nat → Bool) : (g.writePred p n f).id = g.id := Group.setP_id _ _ _
@[simp] theorem Group.writePred_modes (g : Group) (p : Port) (n : Nat) (f : Nat → Bool) : (g.writePred p n f).modes = g.modes := Group.setP_modes _ _ _
@[simp] theorem Group.writePred_slot0 (g : Group) (p : Port) (n : Nat) (f : Nat → Bool) : (g.writePred p n f).slot0 = g.slot0 := Group.setP_slot0 _ _ _
@[simp] theorem Group.writePred_slot1 (g : Group) (p : Port) (n : Nat) (f : Nat → Bool) : (g.writePred p n f).slot1 = g.slot1 := Group.setP_slot1 _ _ _
@[simp] theorem Group.writePred_stack (g : Group) (p : Port) (n : Nat) (f : Nat → Bool) : (g.writePred p n f).stack = g.stack := Group.setP_stack _ _ _
@[simp] theorem Group.writePred_exited (g : Group) (p : Port) (n : Nat) (f : Nat → Bool) : (g.writePred p n f).exited = g.exited := Group.setP_exited _ _ _
@[simp] theorem Group.writePred_setPc (g : Group) (p : Port) (n : Nat) (f : Nat → Bool) : (g.writePred p n f).setPc = g.setPc := Group.setP_setPc _ _ _
@[simp] theorem Group.writePred_setExited (g : Group) (p : Port) (n : Nat) (f : Nat → Bool) : (g.writePred p n f).setExited = g.setExited := Group.setP_setExited _ _ _
@[simp] theorem Group.writePred_setTrap (g : Group) (p : Port) (n : Nat) (f : Nat → Bool) : (g.writePred p n f).setTrap = g.setTrap := Group.setP_setTrap _ _ _
@[simp] theorem Group.writePred_setWait (g : Group) (p : Port) (n : Nat) (f : Nat → Bool) : (g.writePred p n f).setWait = g.setWait := Group.setP_setWait _ _ _
@[simp] theorem Group.writePred_queues (g : Group) (p : Port) (n : Nat) (f : Nat → Bool) : (g.writePred p n f).queues = g.queues := Group.setP_queues _ _ _
@[simp] theorem Group.writePred_qhead (g : Group) (p : Port) (n : Nat) (f : Nat → Bool) : (g.writePred p n f).qhead = g.qhead := Group.setP_qhead _ _ _
@[simp] theorem Group.writePred_trapRegs (g : Group) (p : Port) (n : Nat) (f : Nat → Bool) : (g.writePred p n f).trapRegs = g.trapRegs := Group.setP_trapRegs _ _ _
@[simp] theorem Group.writePred_age (g : Group) (p : Port) (n : Nat) (f : Nat → Bool) : (g.writePred p n f).age = g.age := Group.setP_age _ _ _
@[simp] theorem Group.writePred_serial (g : Group) (p : Port) (n : Nat) (f : Nat → Bool) : (g.writePred p n f).serial = g.serial := Group.setP_serial _ _ _
@[simp] theorem Group.writePred_outq (g : Group) (p : Port) (n : Nat) (f : Nat → Bool) : (g.writePred p n f).outq = g.outq := Group.setP_outq _ _ _
@[simp] theorem Group.writePred_marks (g : Group) (p : Port) (n : Nat) (f : Nat → Bool) : (g.writePred p n f).marks = g.marks := Group.setP_marks _ _ _
@[simp] theorem Group.writePred_readTags (g : Group) (p : Port) (n : Nat) (f : Nat → Bool) : (g.writePred p n f).readTags = g.readTags := Group.setP_readTags _ _ _
@[simp] theorem Group.writePred_horizon (g : Group) (p : Port) (n : Nat) (f : Nat → Bool) : (g.writePred p n f).horizon = g.horizon := Group.setP_horizon _ _ _
@[simp] theorem Group.writePred_inflight (g : Group) (p : Port) (n : Nat) (f : Nat → Bool) : (g.writePred p n f).inflight = g.inflight := Group.setP_inflight _ _ _
@[simp] theorem Group.writePred_flagMarks (g : Group) (p : Port) (n : Nat) (f : Nat → Bool) : (g.writePred p n f).flagMarks = g.flagMarks := Group.setP_flagMarks _ _ _
@[simp] theorem Group.writePred_undo0 (g : Group) (p : Port) (n : Nat) (f : Nat → Bool) : (g.writePred p n f).undo0 = g.undo0 := Group.setP_undo0 _ _ _
@[simp] theorem Group.writePred_undo1 (g : Group) (p : Port) (n : Nat) (f : Nat → Bool) : (g.writePred p n f).undo1 = g.undo1 := Group.setP_undo1 _ _ _
@[simp] theorem Group.writePred_pairs (g : Group) (p : Port) (n : Nat) (f : Nat → Bool) : (g.writePred p n f).pairs = g.pairs := Group.setP_pairs _ _ _
@[simp] theorem Group.writePred_arrivals (g : Group) (p : Port) (n : Nat) (f : Nat → Bool) : (g.writePred p n f).arrivals = g.arrivals := Group.setP_arrivals _ _ _
@[simp] theorem Group.writePred_ready (g : Group) (p : Port) (n : Nat) (f : Nat → Bool) : (g.writePred p n f).ready = g.ready := Group.setP_ready _ _ _
@[simp] theorem Group.writePred_readySet (g : Group) (p : Port) (n : Nat) (f : Nat → Bool) : (g.writePred p n f).readySet = g.readySet := Group.setP_readySet _ _ _
@[simp] theorem Group.writePred_ended (g : Group) (p : Port) (n : Nat) (f : Nat → Bool) : (g.writePred p n f).ended = g.ended := Group.setP_ended _ _ _
@[simp] theorem Group.writePred_stopped (g : Group) (p : Port) (n : Nat) (f : Nat → Bool) : (g.writePred p n f).stopped = g.stopped := Group.setP_stopped _ _ _
@[simp] theorem Group.writePred_spilled (g : Group) (p : Port) (n : Nat) (f : Nat → Bool) : (g.writePred p n f).spilled = g.spilled := Group.setP_spilled _ _ _
@[simp] theorem Group.unlatch_id (g : Group) (p : Port) : (g.unlatch p).id = g.id := by cases p <;> rfl
@[simp] theorem Group.unlatch_regs (g : Group) (p : Port) : (g.unlatch p).regs = g.regs := by cases p <;> rfl
@[simp] theorem Group.unlatch_modes (g : Group) (p : Port) : (g.unlatch p).modes = g.modes := by cases p <;> rfl
@[simp] theorem Group.unlatch_stack (g : Group) (p : Port) : (g.unlatch p).stack = g.stack := by cases p <;> rfl
@[simp] theorem Group.unlatch_exited (g : Group) (p : Port) : (g.unlatch p).exited = g.exited := by cases p <;> rfl
@[simp] theorem Group.unlatch_setPc (g : Group) (p : Port) : (g.unlatch p).setPc = g.setPc := by cases p <;> rfl
@[simp] theorem Group.unlatch_setExited (g : Group) (p : Port) : (g.unlatch p).setExited = g.setExited := by cases p <;> rfl
@[simp] theorem Group.unlatch_setTrap (g : Group) (p : Port) : (g.unlatch p).setTrap = g.setTrap := by cases p <;> rfl
@[simp] theorem Group.unlatch_setWait (g : Group) (p : Port) : (g.unlatch p).setWait = g.setWait := by cases p <;> rfl
@[simp] theorem Group.unlatch_queues (g : Group) (p : Port) : (g.unlatch p).queues = g.queues := by cases p <;> rfl
@[simp] theorem Group.unlatch_qhead (g : Group) (p : Port) : (g.unlatch p).qhead = g.qhead := by cases p <;> rfl
@[simp] theorem Group.unlatch_trapRegs (g : Group) (p : Port) : (g.unlatch p).trapRegs = g.trapRegs := by cases p <;> rfl
@[simp] theorem Group.unlatch_age (g : Group) (p : Port) : (g.unlatch p).age = g.age := by cases p <;> rfl
@[simp] theorem Group.unlatch_serial (g : Group) (p : Port) : (g.unlatch p).serial = g.serial := by cases p <;> rfl
@[simp] theorem Group.unlatch_outq (g : Group) (p : Port) : (g.unlatch p).outq = g.outq := by cases p <;> rfl
@[simp] theorem Group.unlatch_marks (g : Group) (p : Port) : (g.unlatch p).marks = g.marks := by cases p <;> rfl
@[simp] theorem Group.unlatch_readTags (g : Group) (p : Port) : (g.unlatch p).readTags = g.readTags := by cases p <;> rfl
@[simp] theorem Group.unlatch_horizon (g : Group) (p : Port) : (g.unlatch p).horizon = g.horizon := by cases p <;> rfl
@[simp] theorem Group.unlatch_inflight (g : Group) (p : Port) : (g.unlatch p).inflight = g.inflight := by cases p <;> rfl
@[simp] theorem Group.unlatch_flagMarks (g : Group) (p : Port) : (g.unlatch p).flagMarks = g.flagMarks := by cases p <;> rfl
@[simp] theorem Group.unlatch_undo0 (g : Group) (p : Port) : (g.unlatch p).undo0 = g.undo0 := by cases p <;> rfl
@[simp] theorem Group.unlatch_undo1 (g : Group) (p : Port) : (g.unlatch p).undo1 = g.undo1 := by cases p <;> rfl
@[simp] theorem Group.unlatch_pairs (g : Group) (p : Port) : (g.unlatch p).pairs = g.pairs := by cases p <;> rfl
@[simp] theorem Group.unlatch_arrivals (g : Group) (p : Port) : (g.unlatch p).arrivals = g.arrivals := by cases p <;> rfl
@[simp] theorem Group.unlatch_ready (g : Group) (p : Port) : (g.unlatch p).ready = g.ready := by cases p <;> rfl
@[simp] theorem Group.unlatch_readySet (g : Group) (p : Port) : (g.unlatch p).readySet = g.readySet := by cases p <;> rfl
@[simp] theorem Group.unlatch_ended (g : Group) (p : Port) : (g.unlatch p).ended = g.ended := by cases p <;> rfl
@[simp] theorem Group.unlatch_stopped (g : Group) (p : Port) : (g.unlatch p).stopped = g.stopped := by cases p <;> rfl
@[simp] theorem Group.unlatch_spilled (g : Group) (p : Port) : (g.unlatch p).spilled = g.spilled := by cases p <;> rfl
@[simp] theorem Group.countDraw_id (g : Group) (p : Port) : (g.countDraw p).id = g.id := by unfold Group.countDraw; split <;> rfl
@[simp] theorem Group.countDraw_regs (g : Group) (p : Port) : (g.countDraw p).regs = g.regs := by unfold Group.countDraw; split <;> rfl
@[simp] theorem Group.countDraw_slot0 (g : Group) (p : Port) : (g.countDraw p).slot0 = g.slot0 := by unfold Group.countDraw; split <;> rfl
@[simp] theorem Group.countDraw_slot1 (g : Group) (p : Port) : (g.countDraw p).slot1 = g.slot1 := by unfold Group.countDraw; split <;> rfl
@[simp] theorem Group.countDraw_stack (g : Group) (p : Port) : (g.countDraw p).stack = g.stack := by unfold Group.countDraw; split <;> rfl
@[simp] theorem Group.countDraw_exited (g : Group) (p : Port) : (g.countDraw p).exited = g.exited := by unfold Group.countDraw; split <;> rfl
@[simp] theorem Group.countDraw_setPc (g : Group) (p : Port) : (g.countDraw p).setPc = g.setPc := by unfold Group.countDraw; split <;> rfl
@[simp] theorem Group.countDraw_setExited (g : Group) (p : Port) : (g.countDraw p).setExited = g.setExited := by unfold Group.countDraw; split <;> rfl
@[simp] theorem Group.countDraw_setTrap (g : Group) (p : Port) : (g.countDraw p).setTrap = g.setTrap := by unfold Group.countDraw; split <;> rfl
@[simp] theorem Group.countDraw_setWait (g : Group) (p : Port) : (g.countDraw p).setWait = g.setWait := by unfold Group.countDraw; split <;> rfl
@[simp] theorem Group.countDraw_queues (g : Group) (p : Port) : (g.countDraw p).queues = g.queues := by unfold Group.countDraw; split <;> rfl
@[simp] theorem Group.countDraw_qhead (g : Group) (p : Port) : (g.countDraw p).qhead = g.qhead := by unfold Group.countDraw; split <;> rfl
@[simp] theorem Group.countDraw_trapRegs (g : Group) (p : Port) : (g.countDraw p).trapRegs = g.trapRegs := by unfold Group.countDraw; split <;> rfl
@[simp] theorem Group.countDraw_age (g : Group) (p : Port) : (g.countDraw p).age = g.age := by unfold Group.countDraw; split <;> rfl
@[simp] theorem Group.countDraw_serial (g : Group) (p : Port) : (g.countDraw p).serial = g.serial := by unfold Group.countDraw; split <;> rfl
@[simp] theorem Group.countDraw_outq (g : Group) (p : Port) : (g.countDraw p).outq = g.outq := by unfold Group.countDraw; split <;> rfl
@[simp] theorem Group.countDraw_marks (g : Group) (p : Port) : (g.countDraw p).marks = g.marks := by unfold Group.countDraw; split <;> rfl
@[simp] theorem Group.countDraw_readTags (g : Group) (p : Port) : (g.countDraw p).readTags = g.readTags := by unfold Group.countDraw; split <;> rfl
@[simp] theorem Group.countDraw_horizon (g : Group) (p : Port) : (g.countDraw p).horizon = g.horizon := by unfold Group.countDraw; split <;> rfl
@[simp] theorem Group.countDraw_inflight (g : Group) (p : Port) : (g.countDraw p).inflight = g.inflight := by unfold Group.countDraw; split <;> rfl
@[simp] theorem Group.countDraw_flagMarks (g : Group) (p : Port) : (g.countDraw p).flagMarks = g.flagMarks := by unfold Group.countDraw; split <;> rfl
@[simp] theorem Group.countDraw_undo0 (g : Group) (p : Port) : (g.countDraw p).undo0 = g.undo0 := by unfold Group.countDraw; split <;> rfl
@[simp] theorem Group.countDraw_undo1 (g : Group) (p : Port) : (g.countDraw p).undo1 = g.undo1 := by unfold Group.countDraw; split <;> rfl
@[simp] theorem Group.countDraw_pairs (g : Group) (p : Port) : (g.countDraw p).pairs = g.pairs := by unfold Group.countDraw; split <;> rfl
@[simp] theorem Group.countDraw_arrivals (g : Group) (p : Port) : (g.countDraw p).arrivals = g.arrivals := by unfold Group.countDraw; split <;> rfl
@[simp] theorem Group.countDraw_ready (g : Group) (p : Port) : (g.countDraw p).ready = g.ready := by unfold Group.countDraw; split <;> rfl
@[simp] theorem Group.countDraw_readySet (g : Group) (p : Port) : (g.countDraw p).readySet = g.readySet := by unfold Group.countDraw; split <;> rfl
@[simp] theorem Group.countDraw_ended (g : Group) (p : Port) : (g.countDraw p).ended = g.ended := by unfold Group.countDraw; split <;> rfl
@[simp] theorem Group.countDraw_stopped (g : Group) (p : Port) : (g.countDraw p).stopped = g.stopped := by unfold Group.countDraw; split <;> rfl
@[simp] theorem Group.countDraw_spilled (g : Group) (p : Port) : (g.countDraw p).spilled = g.spilled := by unfold Group.countDraw; split <;> rfl
@[simp] theorem Group.setV_regs_s (g : Group) (n : Nat) (x : Wide) : (g.setV n x).regs.s = g.regs.s := rfl
@[simp] theorem Group.setV_regs_a (g : Group) (n : Nat) (x : Wide) : (g.setV n x).regs.a = g.regs.a := rfl
@[simp] theorem Group.setV_regs_aLaunch (g : Group) (n : Nat) (x : Wide) : (g.setV n x).regs.aLaunch = g.regs.aLaunch := rfl
@[simp] theorem Group.setV_regs_p (g : Group) (n : Nat) (x : Wide) : (g.setV n x).regs.p = g.regs.p := rfl
@[simp] theorem Group.setV_regs_allot (g : Group) (n : Nat) (x : Wide) : (g.setV n x).regs.allot = g.regs.allot := rfl
@[simp] theorem Group.setLanes_regs_s (g : Group) (n : Nat) (m : Lanes) (f : Nat → Word) : (g.setLanes n m f).regs.s = g.regs.s := rfl
@[simp] theorem Group.setLanes_regs_a (g : Group) (n : Nat) (m : Lanes) (f : Nat → Word) : (g.setLanes n m f).regs.a = g.regs.a := rfl
@[simp] theorem Group.setLanes_regs_aLaunch (g : Group) (n : Nat) (m : Lanes) (f : Nat → Word) : (g.setLanes n m f).regs.aLaunch = g.regs.aLaunch := rfl
@[simp] theorem Group.setLanes_regs_p (g : Group) (n : Nat) (m : Lanes) (f : Nat → Word) : (g.setLanes n m f).regs.p = g.regs.p := rfl
@[simp] theorem Group.setLanes_regs_allot (g : Group) (n : Nat) (m : Lanes) (f : Nat → Word) : (g.setLanes n m f).regs.allot = g.regs.allot := rfl
@[simp] theorem Group.setPair_regs_s (g : Group) (n : Nat) (m : Lanes) (f : Nat → DWord) : (g.setPair n m f).regs.s = g.regs.s := rfl
@[simp] theorem Group.setPair_regs_a (g : Group) (n : Nat) (m : Lanes) (f : Nat → DWord) : (g.setPair n m f).regs.a = g.regs.a := rfl
@[simp] theorem Group.setPair_regs_aLaunch (g : Group) (n : Nat) (m : Lanes) (f : Nat → DWord) : (g.setPair n m f).regs.aLaunch = g.regs.aLaunch := rfl
@[simp] theorem Group.setPair_regs_p (g : Group) (n : Nat) (m : Lanes) (f : Nat → DWord) : (g.setPair n m f).regs.p = g.regs.p := rfl
@[simp] theorem Group.setPair_regs_allot (g : Group) (n : Nat) (m : Lanes) (f : Nat → DWord) : (g.setPair n m f).regs.allot = g.regs.allot := rfl
@[simp] theorem Group.setS_regs_v (g : Group) (n : Nat) (x : DWord) : (g.setS n x).regs.v = g.regs.v := rfl
@[simp] theorem Group.setS_regs_dark (g : Group) (n : Nat) (x : DWord) : (g.setS n x).regs.dark = g.regs.dark := rfl
@[simp] theorem Group.setS_regs_absorb (g : Group) (n : Nat) (x : DWord) : (g.setS n x).regs.absorb = g.regs.absorb := rfl
@[simp] theorem Group.setS_regs_a (g : Group) (n : Nat) (x : DWord) : (g.setS n x).regs.a = g.regs.a := rfl
@[simp] theorem Group.setS_regs_aLaunch (g : Group) (n : Nat) (x : DWord) : (g.setS n x).regs.aLaunch = g.regs.aLaunch := rfl
@[simp] theorem Group.setS_regs_p (g : Group) (n : Nat) (x : DWord) : (g.setS n x).regs.p = g.regs.p := rfl
@[simp] theorem Group.setS_regs_allot (g : Group) (n : Nat) (x : DWord) : (g.setS n x).regs.allot = g.regs.allot := rfl
@[simp] theorem Group.setA_regs_v (g : Group) (n : Nat) (x : DWord) : (g.setA n x).regs.v = g.regs.v := rfl
@[simp] theorem Group.setA_regs_dark (g : Group) (n : Nat) (x : DWord) : (g.setA n x).regs.dark = g.regs.dark := rfl
@[simp] theorem Group.setA_regs_absorb (g : Group) (n : Nat) (x : DWord) : (g.setA n x).regs.absorb = g.regs.absorb := rfl
@[simp] theorem Group.setA_regs_s (g : Group) (n : Nat) (x : DWord) : (g.setA n x).regs.s = g.regs.s := rfl
@[simp] theorem Group.setA_regs_aLaunch (g : Group) (n : Nat) (x : DWord) : (g.setA n x).regs.aLaunch = g.regs.aLaunch := rfl
@[simp] theorem Group.setA_regs_p (g : Group) (n : Nat) (x : DWord) : (g.setA n x).regs.p = g.regs.p := rfl
@[simp] theorem Group.setA_regs_allot (g : Group) (n : Nat) (x : DWord) : (g.setA n x).regs.allot = g.regs.allot := rfl
@[simp] theorem Group.setP_regs_v (g : Group) (n : Nat) (x : Lanes) : (g.setP n x).regs.v = g.regs.v := by unfold Group.setP; split <;> rfl
@[simp] theorem Group.setP_regs_dark (g : Group) (n : Nat) (x : Lanes) : (g.setP n x).regs.dark = g.regs.dark := by unfold Group.setP; split <;> rfl
@[simp] theorem Group.setP_regs_absorb (g : Group) (n : Nat) (x : Lanes) : (g.setP n x).regs.absorb = g.regs.absorb := by unfold Group.setP; split <;> rfl
@[simp] theorem Group.setP_regs_s (g : Group) (n : Nat) (x : Lanes) : (g.setP n x).regs.s = g.regs.s := by unfold Group.setP; split <;> rfl
@[simp] theorem Group.setP_regs_a (g : Group) (n : Nat) (x : Lanes) : (g.setP n x).regs.a = g.regs.a := by unfold Group.setP; split <;> rfl
@[simp] theorem Group.setP_regs_aLaunch (g : Group) (n : Nat) (x : Lanes) : (g.setP n x).regs.aLaunch = g.regs.aLaunch := by unfold Group.setP; split <;> rfl
@[simp] theorem Group.setP_regs_allot (g : Group) (n : Nat) (x : Lanes) : (g.setP n x).regs.allot = g.regs.allot := by unfold Group.setP; split <;> rfl
@[simp] theorem Group.writePred_regs_v (g : Group) (p : Port) (n : Nat) (f : Nat → Bool) : (g.writePred p n f).regs.v = g.regs.v := Group.setP_regs_v _ _ _
@[simp] theorem Group.writePred_regs_dark (g : Group) (p : Port) (n : Nat) (f : Nat → Bool) : (g.writePred p n f).regs.dark = g.regs.dark := Group.setP_regs_dark _ _ _
@[simp] theorem Group.writePred_regs_absorb (g : Group) (p : Port) (n : Nat) (f : Nat → Bool) : (g.writePred p n f).regs.absorb = g.regs.absorb := Group.setP_regs_absorb _ _ _
@[simp] theorem Group.writePred_regs_s (g : Group) (p : Port) (n : Nat) (f : Nat → Bool) : (g.writePred p n f).regs.s = g.regs.s := Group.setP_regs_s _ _ _
@[simp] theorem Group.writePred_regs_a (g : Group) (p : Port) (n : Nat) (f : Nat → Bool) : (g.writePred p n f).regs.a = g.regs.a := Group.setP_regs_a _ _ _
@[simp] theorem Group.writePred_regs_aLaunch (g : Group) (p : Port) (n : Nat) (f : Nat → Bool) : (g.writePred p n f).regs.aLaunch = g.regs.aLaunch := Group.setP_regs_aLaunch _ _ _
@[simp] theorem Group.writePred_regs_allot (g : Group) (p : Port) (n : Nat) (f : Nat → Bool) : (g.writePred p n f).regs.allot = g.regs.allot := Group.setP_regs_allot _ _ _
@[simp] theorem Group.raiseFlags_modes_fmode (g : Group) (x : DWord) : (g.raiseFlags x).modes.fmode = g.modes.fmode := rfl
@[simp] theorem Group.raiseSticky_modes_fmode (g : Group) (x : DWord) : (g.raiseSticky x).modes.fmode = g.modes.fmode := rfl
@[simp] theorem Group.countDraw_modes_fmode (g : Group) (p : Port) : (g.countDraw p).modes.fmode = g.modes.fmode := by unfold Group.countDraw; split <;> rfl
@[simp] theorem Group.raiseFlags_modes_gmode (g : Group) (x : DWord) : (g.raiseFlags x).modes.gmode = g.modes.gmode := rfl
@[simp] theorem Group.raiseSticky_modes_gmode (g : Group) (x : DWord) : (g.raiseSticky x).modes.gmode = g.modes.gmode := rfl
@[simp] theorem Group.countDraw_modes_gmode (g : Group) (p : Port) : (g.countDraw p).modes.gmode = g.modes.gmode := by unfold Group.countDraw; split <;> rfl
@[simp] theorem Group.raiseSticky_modes_fflags (g : Group) (x : DWord) : (g.raiseSticky x).modes.fflags = g.modes.fflags := rfl
@[simp] theorem Group.countDraw_modes_fflags (g : Group) (p : Port) : (g.countDraw p).modes.fflags = g.modes.fflags := by unfold Group.countDraw; split <;> rfl
@[simp] theorem Group.raiseFlags_modes_sticky (g : Group) (x : DWord) : (g.raiseFlags x).modes.sticky = g.modes.sticky := rfl
@[simp] theorem Group.countDraw_modes_sticky (g : Group) (p : Port) : (g.countDraw p).modes.sticky = g.modes.sticky := by unfold Group.countDraw; split <;> rfl
@[simp] theorem Group.raiseFlags_modes_rngseed (g : Group) (x : DWord) : (g.raiseFlags x).modes.rngseed = g.modes.rngseed := rfl
@[simp] theorem Group.raiseSticky_modes_rngseed (g : Group) (x : DWord) : (g.raiseSticky x).modes.rngseed = g.modes.rngseed := rfl
@[simp] theorem Group.countDraw_modes_rngseed (g : Group) (p : Port) : (g.countDraw p).modes.rngseed = g.modes.rngseed := by unfold Group.countDraw; split <;> rfl
@[simp] theorem Group.raiseFlags_modes_rngctr (g : Group) (x : DWord) : (g.raiseFlags x).modes.rngctr = g.modes.rngctr := rfl
@[simp] theorem Group.raiseSticky_modes_rngctr (g : Group) (x : DWord) : (g.raiseSticky x).modes.rngctr = g.modes.rngctr := rfl
@[simp] theorem Group.raiseFlags_modes_prioCap (g : Group) (x : DWord) : (g.raiseFlags x).modes.prioCap = g.modes.prioCap := rfl
@[simp] theorem Group.raiseSticky_modes_prioCap (g : Group) (x : DWord) : (g.raiseSticky x).modes.prioCap = g.modes.prioCap := rfl
@[simp] theorem Group.countDraw_modes_prioCap (g : Group) (p : Port) : (g.countDraw p).modes.prioCap = g.modes.prioCap := by unfold Group.countDraw; split <;> rfl
@[simp] theorem Group.raiseFlags_modes_prioLevel (g : Group) (x : DWord) : (g.raiseFlags x).modes.prioLevel = g.modes.prioLevel := rfl
@[simp] theorem Group.raiseSticky_modes_prioLevel (g : Group) (x : DWord) : (g.raiseSticky x).modes.prioLevel = g.modes.prioLevel := rfl
@[simp] theorem Group.countDraw_modes_prioLevel (g : Group) (p : Port) : (g.countDraw p).modes.prioLevel = g.modes.prioLevel := by unfold Group.countDraw; split <;> rfl
@[simp] theorem Group.raiseFlags_modes_bintime (g : Group) (x : DWord) : (g.raiseFlags x).modes.bintime = g.modes.bintime := rfl
@[simp] theorem Group.raiseSticky_modes_bintime (g : Group) (x : DWord) : (g.raiseSticky x).modes.bintime = g.modes.bintime := rfl
@[simp] theorem Group.countDraw_modes_bintime (g : Group) (p : Port) : (g.countDraw p).modes.bintime = g.modes.bintime := by unfold Group.countDraw; split <;> rfl
@[simp] theorem Group.raiseFlags_modes_fflags (g : Group) (x : DWord) : (g.raiseFlags x).modes.fflags = g.modes.fflags ||| x := rfl
@[simp] theorem Group.raiseSticky_modes_sticky (g : Group) (x : DWord) : (g.raiseSticky x).modes.sticky = g.modes.sticky ||| x := rfl

/-! ### Slots and program counters -/

@[simp] theorem Group.setSlot_id (g : Group) (p : Port) (x : Slot) : (g.setSlot p x).id = g.id := by cases p <;> rfl
@[simp] theorem Group.setSlot_regs (g : Group) (p : Port) (x : Slot) : (g.setSlot p x).regs = g.regs := by cases p <;> rfl
@[simp] theorem Group.setSlot_modes (g : Group) (p : Port) (x : Slot) : (g.setSlot p x).modes = g.modes := by cases p <;> rfl
@[simp] theorem Group.setSlot_stack (g : Group) (p : Port) (x : Slot) : (g.setSlot p x).stack = g.stack := by cases p <;> rfl
@[simp] theorem Group.setSlot_exited (g : Group) (p : Port) (x : Slot) : (g.setSlot p x).exited = g.exited := by cases p <;> rfl
@[simp] theorem Group.setSlot_setPc (g : Group) (p : Port) (x : Slot) : (g.setSlot p x).setPc = g.setPc := by cases p <;> rfl
@[simp] theorem Group.setSlot_setExited (g : Group) (p : Port) (x : Slot) : (g.setSlot p x).setExited = g.setExited := by cases p <;> rfl
@[simp] theorem Group.setSlot_setTrap (g : Group) (p : Port) (x : Slot) : (g.setSlot p x).setTrap = g.setTrap := by cases p <;> rfl
@[simp] theorem Group.setSlot_setWait (g : Group) (p : Port) (x : Slot) : (g.setSlot p x).setWait = g.setWait := by cases p <;> rfl
@[simp] theorem Group.setSlot_queues (g : Group) (p : Port) (x : Slot) : (g.setSlot p x).queues = g.queues := by cases p <;> rfl
@[simp] theorem Group.setSlot_qhead (g : Group) (p : Port) (x : Slot) : (g.setSlot p x).qhead = g.qhead := by cases p <;> rfl
@[simp] theorem Group.setSlot_trapRegs (g : Group) (p : Port) (x : Slot) : (g.setSlot p x).trapRegs = g.trapRegs := by cases p <;> rfl
@[simp] theorem Group.setSlot_age (g : Group) (p : Port) (x : Slot) : (g.setSlot p x).age = g.age := by cases p <;> rfl
@[simp] theorem Group.setSlot_serial (g : Group) (p : Port) (x : Slot) : (g.setSlot p x).serial = g.serial := by cases p <;> rfl
@[simp] theorem Group.setSlot_outq (g : Group) (p : Port) (x : Slot) : (g.setSlot p x).outq = g.outq := by cases p <;> rfl
@[simp] theorem Group.setSlot_marks (g : Group) (p : Port) (x : Slot) : (g.setSlot p x).marks = g.marks := by cases p <;> rfl
@[simp] theorem Group.setSlot_readTags (g : Group) (p : Port) (x : Slot) : (g.setSlot p x).readTags = g.readTags := by cases p <;> rfl
@[simp] theorem Group.setSlot_horizon (g : Group) (p : Port) (x : Slot) : (g.setSlot p x).horizon = g.horizon := by cases p <;> rfl
@[simp] theorem Group.setSlot_inflight (g : Group) (p : Port) (x : Slot) : (g.setSlot p x).inflight = g.inflight := by cases p <;> rfl
@[simp] theorem Group.setSlot_flagMarks (g : Group) (p : Port) (x : Slot) : (g.setSlot p x).flagMarks = g.flagMarks := by cases p <;> rfl
@[simp] theorem Group.setSlot_undo0 (g : Group) (p : Port) (x : Slot) : (g.setSlot p x).undo0 = g.undo0 := by cases p <;> rfl
@[simp] theorem Group.setSlot_undo1 (g : Group) (p : Port) (x : Slot) : (g.setSlot p x).undo1 = g.undo1 := by cases p <;> rfl
@[simp] theorem Group.setSlot_pairs (g : Group) (p : Port) (x : Slot) : (g.setSlot p x).pairs = g.pairs := by cases p <;> rfl
@[simp] theorem Group.setSlot_arrivals (g : Group) (p : Port) (x : Slot) : (g.setSlot p x).arrivals = g.arrivals := by cases p <;> rfl
@[simp] theorem Group.setSlot_ready (g : Group) (p : Port) (x : Slot) : (g.setSlot p x).ready = g.ready := by cases p <;> rfl
@[simp] theorem Group.setSlot_readySet (g : Group) (p : Port) (x : Slot) : (g.setSlot p x).readySet = g.readySet := by cases p <;> rfl
@[simp] theorem Group.setSlot_ended (g : Group) (p : Port) (x : Slot) : (g.setSlot p x).ended = g.ended := by cases p <;> rfl
@[simp] theorem Group.setSlot_stopped (g : Group) (p : Port) (x : Slot) : (g.setSlot p x).stopped = g.stopped := by cases p <;> rfl
@[simp] theorem Group.setSlot_spilled (g : Group) (p : Port) (x : Slot) : (g.setSlot p x).spilled = g.spilled := by cases p <;> rfl
@[simp] theorem Group.setPcAt_id (g : Group) (p : Port) (pc : DWord) : (g.setPcAt p pc).id = g.id := by cases p <;> rfl
@[simp] theorem Group.setPcAt_regs (g : Group) (p : Port) (pc : DWord) : (g.setPcAt p pc).regs = g.regs := by cases p <;> rfl
@[simp] theorem Group.setPcAt_modes (g : Group) (p : Port) (pc : DWord) : (g.setPcAt p pc).modes = g.modes := by cases p <;> rfl
@[simp] theorem Group.setPcAt_stack (g : Group) (p : Port) (pc : DWord) : (g.setPcAt p pc).stack = g.stack := by cases p <;> rfl
@[simp] theorem Group.setPcAt_exited (g : Group) (p : Port) (pc : DWord) : (g.setPcAt p pc).exited = g.exited := by cases p <;> rfl
@[simp] theorem Group.setPcAt_setExited (g : Group) (p : Port) (pc : DWord) : (g.setPcAt p pc).setExited = g.setExited := by cases p <;> rfl
@[simp] theorem Group.setPcAt_setTrap (g : Group) (p : Port) (pc : DWord) : (g.setPcAt p pc).setTrap = g.setTrap := by cases p <;> rfl
@[simp] theorem Group.setPcAt_setWait (g : Group) (p : Port) (pc : DWord) : (g.setPcAt p pc).setWait = g.setWait := by cases p <;> rfl
@[simp] theorem Group.setPcAt_queues (g : Group) (p : Port) (pc : DWord) : (g.setPcAt p pc).queues = g.queues := by cases p <;> rfl
@[simp] theorem Group.setPcAt_qhead (g : Group) (p : Port) (pc : DWord) : (g.setPcAt p pc).qhead = g.qhead := by cases p <;> rfl
@[simp] theorem Group.setPcAt_trapRegs (g : Group) (p : Port) (pc : DWord) : (g.setPcAt p pc).trapRegs = g.trapRegs := by cases p <;> rfl
@[simp] theorem Group.setPcAt_age (g : Group) (p : Port) (pc : DWord) : (g.setPcAt p pc).age = g.age := by cases p <;> rfl
@[simp] theorem Group.setPcAt_serial (g : Group) (p : Port) (pc : DWord) : (g.setPcAt p pc).serial = g.serial := by cases p <;> rfl
@[simp] theorem Group.setPcAt_outq (g : Group) (p : Port) (pc : DWord) : (g.setPcAt p pc).outq = g.outq := by cases p <;> rfl
@[simp] theorem Group.setPcAt_marks (g : Group) (p : Port) (pc : DWord) : (g.setPcAt p pc).marks = g.marks := by cases p <;> rfl
@[simp] theorem Group.setPcAt_readTags (g : Group) (p : Port) (pc : DWord) : (g.setPcAt p pc).readTags = g.readTags := by cases p <;> rfl
@[simp] theorem Group.setPcAt_horizon (g : Group) (p : Port) (pc : DWord) : (g.setPcAt p pc).horizon = g.horizon := by cases p <;> rfl
@[simp] theorem Group.setPcAt_inflight (g : Group) (p : Port) (pc : DWord) : (g.setPcAt p pc).inflight = g.inflight := by cases p <;> rfl
@[simp] theorem Group.setPcAt_flagMarks (g : Group) (p : Port) (pc : DWord) : (g.setPcAt p pc).flagMarks = g.flagMarks := by cases p <;> rfl
@[simp] theorem Group.setPcAt_undo0 (g : Group) (p : Port) (pc : DWord) : (g.setPcAt p pc).undo0 = g.undo0 := by cases p <;> rfl
@[simp] theorem Group.setPcAt_undo1 (g : Group) (p : Port) (pc : DWord) : (g.setPcAt p pc).undo1 = g.undo1 := by cases p <;> rfl
@[simp] theorem Group.setPcAt_pairs (g : Group) (p : Port) (pc : DWord) : (g.setPcAt p pc).pairs = g.pairs := by cases p <;> rfl
@[simp] theorem Group.setPcAt_arrivals (g : Group) (p : Port) (pc : DWord) : (g.setPcAt p pc).arrivals = g.arrivals := by cases p <;> rfl
@[simp] theorem Group.setPcAt_ready (g : Group) (p : Port) (pc : DWord) : (g.setPcAt p pc).ready = g.ready := by cases p <;> rfl
@[simp] theorem Group.setPcAt_readySet (g : Group) (p : Port) (pc : DWord) : (g.setPcAt p pc).readySet = g.readySet := by cases p <;> rfl
@[simp] theorem Group.setPcAt_ended (g : Group) (p : Port) (pc : DWord) : (g.setPcAt p pc).ended = g.ended := by cases p <;> rfl
@[simp] theorem Group.setPcAt_stopped (g : Group) (p : Port) (pc : DWord) : (g.setPcAt p pc).stopped = g.stopped := by cases p <;> rfl
@[simp] theorem Group.setPcAt_spilled (g : Group) (p : Port) (pc : DWord) : (g.setPcAt p pc).spilled = g.spilled := by cases p <;> rfl

/-! ### Pops -/

@[simp] theorem Group.popAll_id (g : Group) (p : Port) (ns : List Nat) : (g.popAll p ns).id = g.id := by
  unfold Group.popAll
  induction ns generalizing g with
  | nil => rfl
  | cons n ns ih => rw [List.foldl_cons, ih]; split <;> [rfl; (split <;> rfl)]
@[simp] theorem Group.popAll_regs (g : Group) (p : Port) (ns : List Nat) : (g.popAll p ns).regs = g.regs := by
  unfold Group.popAll
  induction ns generalizing g with
  | nil => rfl
  | cons n ns ih => rw [List.foldl_cons, ih]; split <;> [rfl; (split <;> rfl)]
@[simp] theorem Group.popAll_modes (g : Group) (p : Port) (ns : List Nat) : (g.popAll p ns).modes = g.modes := by
  unfold Group.popAll
  induction ns generalizing g with
  | nil => rfl
  | cons n ns ih => rw [List.foldl_cons, ih]; split <;> [rfl; (split <;> rfl)]
@[simp] theorem Group.popAll_slot0 (g : Group) (p : Port) (ns : List Nat) : (g.popAll p ns).slot0 = g.slot0 := by
  unfold Group.popAll
  induction ns generalizing g with
  | nil => rfl
  | cons n ns ih => rw [List.foldl_cons, ih]; split <;> [rfl; (split <;> rfl)]
@[simp] theorem Group.popAll_slot1 (g : Group) (p : Port) (ns : List Nat) : (g.popAll p ns).slot1 = g.slot1 := by
  unfold Group.popAll
  induction ns generalizing g with
  | nil => rfl
  | cons n ns ih => rw [List.foldl_cons, ih]; split <;> [rfl; (split <;> rfl)]
@[simp] theorem Group.popAll_stack (g : Group) (p : Port) (ns : List Nat) : (g.popAll p ns).stack = g.stack := by
  unfold Group.popAll
  induction ns generalizing g with
  | nil => rfl
  | cons n ns ih => rw [List.foldl_cons, ih]; split <;> [rfl; (split <;> rfl)]
@[simp] theorem Group.popAll_exited (g : Group) (p : Port) (ns : List Nat) : (g.popAll p ns).exited = g.exited := by
  unfold Group.popAll
  induction ns generalizing g with
  | nil => rfl
  | cons n ns ih => rw [List.foldl_cons, ih]; split <;> [rfl; (split <;> rfl)]
@[simp] theorem Group.popAll_setPc (g : Group) (p : Port) (ns : List Nat) : (g.popAll p ns).setPc = g.setPc := by
  unfold Group.popAll
  induction ns generalizing g with
  | nil => rfl
  | cons n ns ih => rw [List.foldl_cons, ih]; split <;> [rfl; (split <;> rfl)]
@[simp] theorem Group.popAll_setExited (g : Group) (p : Port) (ns : List Nat) : (g.popAll p ns).setExited = g.setExited := by
  unfold Group.popAll
  induction ns generalizing g with
  | nil => rfl
  | cons n ns ih => rw [List.foldl_cons, ih]; split <;> [rfl; (split <;> rfl)]
@[simp] theorem Group.popAll_setTrap (g : Group) (p : Port) (ns : List Nat) : (g.popAll p ns).setTrap = g.setTrap := by
  unfold Group.popAll
  induction ns generalizing g with
  | nil => rfl
  | cons n ns ih => rw [List.foldl_cons, ih]; split <;> [rfl; (split <;> rfl)]
@[simp] theorem Group.popAll_setWait (g : Group) (p : Port) (ns : List Nat) : (g.popAll p ns).setWait = g.setWait := by
  unfold Group.popAll
  induction ns generalizing g with
  | nil => rfl
  | cons n ns ih => rw [List.foldl_cons, ih]; split <;> [rfl; (split <;> rfl)]
@[simp] theorem Group.popAll_trapRegs (g : Group) (p : Port) (ns : List Nat) : (g.popAll p ns).trapRegs = g.trapRegs := by
  unfold Group.popAll
  induction ns generalizing g with
  | nil => rfl
  | cons n ns ih => rw [List.foldl_cons, ih]; split <;> [rfl; (split <;> rfl)]
@[simp] theorem Group.popAll_age (g : Group) (p : Port) (ns : List Nat) : (g.popAll p ns).age = g.age := by
  unfold Group.popAll
  induction ns generalizing g with
  | nil => rfl
  | cons n ns ih => rw [List.foldl_cons, ih]; split <;> [rfl; (split <;> rfl)]
@[simp] theorem Group.popAll_serial (g : Group) (p : Port) (ns : List Nat) : (g.popAll p ns).serial = g.serial := by
  unfold Group.popAll
  induction ns generalizing g with
  | nil => rfl
  | cons n ns ih => rw [List.foldl_cons, ih]; split <;> [rfl; (split <;> rfl)]
@[simp] theorem Group.popAll_outq (g : Group) (p : Port) (ns : List Nat) : (g.popAll p ns).outq = g.outq := by
  unfold Group.popAll
  induction ns generalizing g with
  | nil => rfl
  | cons n ns ih => rw [List.foldl_cons, ih]; split <;> [rfl; (split <;> rfl)]
@[simp] theorem Group.popAll_marks (g : Group) (p : Port) (ns : List Nat) : (g.popAll p ns).marks = g.marks := by
  unfold Group.popAll
  induction ns generalizing g with
  | nil => rfl
  | cons n ns ih => rw [List.foldl_cons, ih]; split <;> [rfl; (split <;> rfl)]
@[simp] theorem Group.popAll_readTags (g : Group) (p : Port) (ns : List Nat) : (g.popAll p ns).readTags = g.readTags := by
  unfold Group.popAll
  induction ns generalizing g with
  | nil => rfl
  | cons n ns ih => rw [List.foldl_cons, ih]; split <;> [rfl; (split <;> rfl)]
@[simp] theorem Group.popAll_inflight (g : Group) (p : Port) (ns : List Nat) : (g.popAll p ns).inflight = g.inflight := by
  unfold Group.popAll
  induction ns generalizing g with
  | nil => rfl
  | cons n ns ih => rw [List.foldl_cons, ih]; split <;> [rfl; (split <;> rfl)]
@[simp] theorem Group.popAll_flagMarks (g : Group) (p : Port) (ns : List Nat) : (g.popAll p ns).flagMarks = g.flagMarks := by
  unfold Group.popAll
  induction ns generalizing g with
  | nil => rfl
  | cons n ns ih => rw [List.foldl_cons, ih]; split <;> [rfl; (split <;> rfl)]
@[simp] theorem Group.popAll_undo0 (g : Group) (p : Port) (ns : List Nat) : (g.popAll p ns).undo0 = g.undo0 := by
  unfold Group.popAll
  induction ns generalizing g with
  | nil => rfl
  | cons n ns ih => rw [List.foldl_cons, ih]; split <;> [rfl; (split <;> rfl)]
@[simp] theorem Group.popAll_undo1 (g : Group) (p : Port) (ns : List Nat) : (g.popAll p ns).undo1 = g.undo1 := by
  unfold Group.popAll
  induction ns generalizing g with
  | nil => rfl
  | cons n ns ih => rw [List.foldl_cons, ih]; split <;> [rfl; (split <;> rfl)]
@[simp] theorem Group.popAll_pairs (g : Group) (p : Port) (ns : List Nat) : (g.popAll p ns).pairs = g.pairs := by
  unfold Group.popAll
  induction ns generalizing g with
  | nil => rfl
  | cons n ns ih => rw [List.foldl_cons, ih]; split <;> [rfl; (split <;> rfl)]
@[simp] theorem Group.popAll_arrivals (g : Group) (p : Port) (ns : List Nat) : (g.popAll p ns).arrivals = g.arrivals := by
  unfold Group.popAll
  induction ns generalizing g with
  | nil => rfl
  | cons n ns ih => rw [List.foldl_cons, ih]; split <;> [rfl; (split <;> rfl)]
@[simp] theorem Group.popAll_ready (g : Group) (p : Port) (ns : List Nat) : (g.popAll p ns).ready = g.ready := by
  unfold Group.popAll
  induction ns generalizing g with
  | nil => rfl
  | cons n ns ih => rw [List.foldl_cons, ih]; split <;> [rfl; (split <;> rfl)]
@[simp] theorem Group.popAll_readySet (g : Group) (p : Port) (ns : List Nat) : (g.popAll p ns).readySet = g.readySet := by
  unfold Group.popAll
  induction ns generalizing g with
  | nil => rfl
  | cons n ns ih => rw [List.foldl_cons, ih]; split <;> [rfl; (split <;> rfl)]
@[simp] theorem Group.popAll_ended (g : Group) (p : Port) (ns : List Nat) : (g.popAll p ns).ended = g.ended := by
  unfold Group.popAll
  induction ns generalizing g with
  | nil => rfl
  | cons n ns ih => rw [List.foldl_cons, ih]; split <;> [rfl; (split <;> rfl)]
@[simp] theorem Group.popAll_stopped (g : Group) (p : Port) (ns : List Nat) : (g.popAll p ns).stopped = g.stopped := by
  unfold Group.popAll
  induction ns generalizing g with
  | nil => rfl
  | cons n ns ih => rw [List.foldl_cons, ih]; split <;> [rfl; (split <;> rfl)]
@[simp] theorem Group.popAll_spilled (g : Group) (p : Port) (ns : List Nat) : (g.popAll p ns).spilled = g.spilled := by
  unfold Group.popAll
  induction ns generalizing g with
  | nil => rfl
  | cons n ns ih => rw [List.foldl_cons, ih]; split <;> [rfl; (split <;> rfl)]

/-! ### Retirement -/

@[simp] theorem Group.setUndo_id (g : Group) (p : Port) (x : Undo) : (g.setUndo p x).id = g.id := by cases p <;> rfl
@[simp] theorem Group.setUndo_regs (g : Group) (p : Port) (x : Undo) : (g.setUndo p x).regs = g.regs := by cases p <;> rfl
@[simp] theorem Group.setUndo_modes (g : Group) (p : Port) (x : Undo) : (g.setUndo p x).modes = g.modes := by cases p <;> rfl
@[simp] theorem Group.setUndo_slot0 (g : Group) (p : Port) (x : Undo) : (g.setUndo p x).slot0 = g.slot0 := by cases p <;> rfl
@[simp] theorem Group.setUndo_slot1 (g : Group) (p : Port) (x : Undo) : (g.setUndo p x).slot1 = g.slot1 := by cases p <;> rfl
@[simp] theorem Group.setUndo_stack (g : Group) (p : Port) (x : Undo) : (g.setUndo p x).stack = g.stack := by cases p <;> rfl
@[simp] theorem Group.setUndo_exited (g : Group) (p : Port) (x : Undo) : (g.setUndo p x).exited = g.exited := by cases p <;> rfl
@[simp] theorem Group.setUndo_setPc (g : Group) (p : Port) (x : Undo) : (g.setUndo p x).setPc = g.setPc := by cases p <;> rfl
@[simp] theorem Group.setUndo_setExited (g : Group) (p : Port) (x : Undo) : (g.setUndo p x).setExited = g.setExited := by cases p <;> rfl
@[simp] theorem Group.setUndo_setTrap (g : Group) (p : Port) (x : Undo) : (g.setUndo p x).setTrap = g.setTrap := by cases p <;> rfl
@[simp] theorem Group.setUndo_setWait (g : Group) (p : Port) (x : Undo) : (g.setUndo p x).setWait = g.setWait := by cases p <;> rfl
@[simp] theorem Group.setUndo_queues (g : Group) (p : Port) (x : Undo) : (g.setUndo p x).queues = g.queues := by cases p <;> rfl
@[simp] theorem Group.setUndo_qhead (g : Group) (p : Port) (x : Undo) : (g.setUndo p x).qhead = g.qhead := by cases p <;> rfl
@[simp] theorem Group.setUndo_trapRegs (g : Group) (p : Port) (x : Undo) : (g.setUndo p x).trapRegs = g.trapRegs := by cases p <;> rfl
@[simp] theorem Group.setUndo_age (g : Group) (p : Port) (x : Undo) : (g.setUndo p x).age = g.age := by cases p <;> rfl
@[simp] theorem Group.setUndo_serial (g : Group) (p : Port) (x : Undo) : (g.setUndo p x).serial = g.serial := by cases p <;> rfl
@[simp] theorem Group.setUndo_outq (g : Group) (p : Port) (x : Undo) : (g.setUndo p x).outq = g.outq := by cases p <;> rfl
@[simp] theorem Group.setUndo_marks (g : Group) (p : Port) (x : Undo) : (g.setUndo p x).marks = g.marks := by cases p <;> rfl
@[simp] theorem Group.setUndo_readTags (g : Group) (p : Port) (x : Undo) : (g.setUndo p x).readTags = g.readTags := by cases p <;> rfl
@[simp] theorem Group.setUndo_horizon (g : Group) (p : Port) (x : Undo) : (g.setUndo p x).horizon = g.horizon := by cases p <;> rfl
@[simp] theorem Group.setUndo_inflight (g : Group) (p : Port) (x : Undo) : (g.setUndo p x).inflight = g.inflight := by cases p <;> rfl
@[simp] theorem Group.setUndo_flagMarks (g : Group) (p : Port) (x : Undo) : (g.setUndo p x).flagMarks = g.flagMarks := by cases p <;> rfl
@[simp] theorem Group.setUndo_pairs (g : Group) (p : Port) (x : Undo) : (g.setUndo p x).pairs = g.pairs := by cases p <;> rfl
@[simp] theorem Group.setUndo_arrivals (g : Group) (p : Port) (x : Undo) : (g.setUndo p x).arrivals = g.arrivals := by cases p <;> rfl
@[simp] theorem Group.setUndo_ready (g : Group) (p : Port) (x : Undo) : (g.setUndo p x).ready = g.ready := by cases p <;> rfl
@[simp] theorem Group.setUndo_readySet (g : Group) (p : Port) (x : Undo) : (g.setUndo p x).readySet = g.readySet := by cases p <;> rfl
@[simp] theorem Group.setUndo_ended (g : Group) (p : Port) (x : Undo) : (g.setUndo p x).ended = g.ended := by cases p <;> rfl
@[simp] theorem Group.setUndo_stopped (g : Group) (p : Port) (x : Undo) : (g.setUndo p x).stopped = g.stopped := by cases p <;> rfl
@[simp] theorem Group.setUndo_spilled (g : Group) (p : Port) (x : Undo) : (g.setUndo p x).spilled = g.spilled := by cases p <;> rfl
@[simp] theorem Group.undosAfter_id (g0 g : Group) (p : Port) (u : Uses) (c : Option Chain) : (g0.undosAfter g p u c).id = g.id :=
  (Group.setUndo_id _ _ _).trans (Group.setUndo_id _ _ _)
@[simp] theorem Group.undosAfter_regs (g0 g : Group) (p : Port) (u : Uses) (c : Option Chain) : (g0.undosAfter g p u c).regs = g.regs :=
  (Group.setUndo_regs _ _ _).trans (Group.setUndo_regs _ _ _)
@[simp] theorem Group.undosAfter_modes (g0 g : Group) (p : Port) (u : Uses) (c : Option Chain) : (g0.undosAfter g p u c).modes = g.modes :=
  (Group.setUndo_modes _ _ _).trans (Group.setUndo_modes _ _ _)
@[simp] theorem Group.undosAfter_slot0 (g0 g : Group) (p : Port) (u : Uses) (c : Option Chain) : (g0.undosAfter g p u c).slot0 = g.slot0 :=
  (Group.setUndo_slot0 _ _ _).trans (Group.setUndo_slot0 _ _ _)
@[simp] theorem Group.undosAfter_slot1 (g0 g : Group) (p : Port) (u : Uses) (c : Option Chain) : (g0.undosAfter g p u c).slot1 = g.slot1 :=
  (Group.setUndo_slot1 _ _ _).trans (Group.setUndo_slot1 _ _ _)
@[simp] theorem Group.undosAfter_stack (g0 g : Group) (p : Port) (u : Uses) (c : Option Chain) : (g0.undosAfter g p u c).stack = g.stack :=
  (Group.setUndo_stack _ _ _).trans (Group.setUndo_stack _ _ _)
@[simp] theorem Group.undosAfter_exited (g0 g : Group) (p : Port) (u : Uses) (c : Option Chain) : (g0.undosAfter g p u c).exited = g.exited :=
  (Group.setUndo_exited _ _ _).trans (Group.setUndo_exited _ _ _)
@[simp] theorem Group.undosAfter_setPc (g0 g : Group) (p : Port) (u : Uses) (c : Option Chain) : (g0.undosAfter g p u c).setPc = g.setPc :=
  (Group.setUndo_setPc _ _ _).trans (Group.setUndo_setPc _ _ _)
@[simp] theorem Group.undosAfter_setExited (g0 g : Group) (p : Port) (u : Uses) (c : Option Chain) : (g0.undosAfter g p u c).setExited = g.setExited :=
  (Group.setUndo_setExited _ _ _).trans (Group.setUndo_setExited _ _ _)
@[simp] theorem Group.undosAfter_setTrap (g0 g : Group) (p : Port) (u : Uses) (c : Option Chain) : (g0.undosAfter g p u c).setTrap = g.setTrap :=
  (Group.setUndo_setTrap _ _ _).trans (Group.setUndo_setTrap _ _ _)
@[simp] theorem Group.undosAfter_setWait (g0 g : Group) (p : Port) (u : Uses) (c : Option Chain) : (g0.undosAfter g p u c).setWait = g.setWait :=
  (Group.setUndo_setWait _ _ _).trans (Group.setUndo_setWait _ _ _)
@[simp] theorem Group.undosAfter_queues (g0 g : Group) (p : Port) (u : Uses) (c : Option Chain) : (g0.undosAfter g p u c).queues = g.queues :=
  (Group.setUndo_queues _ _ _).trans (Group.setUndo_queues _ _ _)
@[simp] theorem Group.undosAfter_qhead (g0 g : Group) (p : Port) (u : Uses) (c : Option Chain) : (g0.undosAfter g p u c).qhead = g.qhead :=
  (Group.setUndo_qhead _ _ _).trans (Group.setUndo_qhead _ _ _)
@[simp] theorem Group.undosAfter_trapRegs (g0 g : Group) (p : Port) (u : Uses) (c : Option Chain) : (g0.undosAfter g p u c).trapRegs = g.trapRegs :=
  (Group.setUndo_trapRegs _ _ _).trans (Group.setUndo_trapRegs _ _ _)
@[simp] theorem Group.undosAfter_age (g0 g : Group) (p : Port) (u : Uses) (c : Option Chain) : (g0.undosAfter g p u c).age = g.age :=
  (Group.setUndo_age _ _ _).trans (Group.setUndo_age _ _ _)
@[simp] theorem Group.undosAfter_serial (g0 g : Group) (p : Port) (u : Uses) (c : Option Chain) : (g0.undosAfter g p u c).serial = g.serial :=
  (Group.setUndo_serial _ _ _).trans (Group.setUndo_serial _ _ _)
@[simp] theorem Group.undosAfter_outq (g0 g : Group) (p : Port) (u : Uses) (c : Option Chain) : (g0.undosAfter g p u c).outq = g.outq :=
  (Group.setUndo_outq _ _ _).trans (Group.setUndo_outq _ _ _)
@[simp] theorem Group.undosAfter_marks (g0 g : Group) (p : Port) (u : Uses) (c : Option Chain) : (g0.undosAfter g p u c).marks = g.marks :=
  (Group.setUndo_marks _ _ _).trans (Group.setUndo_marks _ _ _)
@[simp] theorem Group.undosAfter_readTags (g0 g : Group) (p : Port) (u : Uses) (c : Option Chain) : (g0.undosAfter g p u c).readTags = g.readTags :=
  (Group.setUndo_readTags _ _ _).trans (Group.setUndo_readTags _ _ _)
@[simp] theorem Group.undosAfter_horizon (g0 g : Group) (p : Port) (u : Uses) (c : Option Chain) : (g0.undosAfter g p u c).horizon = g.horizon :=
  (Group.setUndo_horizon _ _ _).trans (Group.setUndo_horizon _ _ _)
@[simp] theorem Group.undosAfter_inflight (g0 g : Group) (p : Port) (u : Uses) (c : Option Chain) : (g0.undosAfter g p u c).inflight = g.inflight :=
  (Group.setUndo_inflight _ _ _).trans (Group.setUndo_inflight _ _ _)
@[simp] theorem Group.undosAfter_flagMarks (g0 g : Group) (p : Port) (u : Uses) (c : Option Chain) : (g0.undosAfter g p u c).flagMarks = g.flagMarks :=
  (Group.setUndo_flagMarks _ _ _).trans (Group.setUndo_flagMarks _ _ _)
@[simp] theorem Group.undosAfter_pairs (g0 g : Group) (p : Port) (u : Uses) (c : Option Chain) : (g0.undosAfter g p u c).pairs = g.pairs :=
  (Group.setUndo_pairs _ _ _).trans (Group.setUndo_pairs _ _ _)
@[simp] theorem Group.undosAfter_arrivals (g0 g : Group) (p : Port) (u : Uses) (c : Option Chain) : (g0.undosAfter g p u c).arrivals = g.arrivals :=
  (Group.setUndo_arrivals _ _ _).trans (Group.setUndo_arrivals _ _ _)
@[simp] theorem Group.undosAfter_ready (g0 g : Group) (p : Port) (u : Uses) (c : Option Chain) : (g0.undosAfter g p u c).ready = g.ready :=
  (Group.setUndo_ready _ _ _).trans (Group.setUndo_ready _ _ _)
@[simp] theorem Group.undosAfter_readySet (g0 g : Group) (p : Port) (u : Uses) (c : Option Chain) : (g0.undosAfter g p u c).readySet = g.readySet :=
  (Group.setUndo_readySet _ _ _).trans (Group.setUndo_readySet _ _ _)
@[simp] theorem Group.undosAfter_ended (g0 g : Group) (p : Port) (u : Uses) (c : Option Chain) : (g0.undosAfter g p u c).ended = g.ended :=
  (Group.setUndo_ended _ _ _).trans (Group.setUndo_ended _ _ _)
@[simp] theorem Group.undosAfter_stopped (g0 g : Group) (p : Port) (u : Uses) (c : Option Chain) : (g0.undosAfter g p u c).stopped = g.stopped :=
  (Group.setUndo_stopped _ _ _).trans (Group.setUndo_stopped _ _ _)
@[simp] theorem Group.undosAfter_spilled (g0 g : Group) (p : Port) (u : Uses) (c : Option Chain) : (g0.undosAfter g p u c).spilled = g.spilled :=
  (Group.setUndo_spilled _ _ _).trans (Group.setUndo_spilled _ _ _)
@[simp] theorem Group.retire_id (g0 g : Group) (p : Port) (i : Instr) (u : Uses) (r : Option Wide) (j : Bool) :
    (g0.retire g p i u r j).id = g.id := by cases p <;> cases j <;> simp [Group.retire]
@[simp] theorem Group.retire_regs (g0 g : Group) (p : Port) (i : Instr) (u : Uses) (r : Option Wide) (j : Bool) :
    (g0.retire g p i u r j).regs = g.regs := by cases p <;> cases j <;> simp [Group.retire]
@[simp] theorem Group.retire_modes (g0 g : Group) (p : Port) (i : Instr) (u : Uses) (r : Option Wide) (j : Bool) :
    (g0.retire g p i u r j).modes = g.modes := by cases p <;> cases j <;> simp [Group.retire]
@[simp] theorem Group.retire_stack (g0 g : Group) (p : Port) (i : Instr) (u : Uses) (r : Option Wide) (j : Bool) :
    (g0.retire g p i u r j).stack = g.stack := by cases p <;> cases j <;> simp [Group.retire]
@[simp] theorem Group.retire_exited (g0 g : Group) (p : Port) (i : Instr) (u : Uses) (r : Option Wide) (j : Bool) :
    (g0.retire g p i u r j).exited = g.exited := by cases p <;> cases j <;> simp [Group.retire]
@[simp] theorem Group.retire_setExited (g0 g : Group) (p : Port) (i : Instr) (u : Uses) (r : Option Wide) (j : Bool) :
    (g0.retire g p i u r j).setExited = g.setExited := by cases p <;> cases j <;> simp [Group.retire]
@[simp] theorem Group.retire_setTrap (g0 g : Group) (p : Port) (i : Instr) (u : Uses) (r : Option Wide) (j : Bool) :
    (g0.retire g p i u r j).setTrap = g.setTrap := by cases p <;> cases j <;> simp [Group.retire]
@[simp] theorem Group.retire_trapRegs (g0 g : Group) (p : Port) (i : Instr) (u : Uses) (r : Option Wide) (j : Bool) :
    (g0.retire g p i u r j).trapRegs = g.trapRegs := by cases p <;> cases j <;> simp [Group.retire]
@[simp] theorem Group.retire_age (g0 g : Group) (p : Port) (i : Instr) (u : Uses) (r : Option Wide) (j : Bool) :
    (g0.retire g p i u r j).age = g.age := by cases p <;> cases j <;> simp [Group.retire]
@[simp] theorem Group.retire_outq (g0 g : Group) (p : Port) (i : Instr) (u : Uses) (r : Option Wide) (j : Bool) :
    (g0.retire g p i u r j).outq = g.outq := by cases p <;> cases j <;> simp [Group.retire]
@[simp] theorem Group.retire_marks (g0 g : Group) (p : Port) (i : Instr) (u : Uses) (r : Option Wide) (j : Bool) :
    (g0.retire g p i u r j).marks = g.marks := by cases p <;> cases j <;> simp [Group.retire]
@[simp] theorem Group.retire_readTags (g0 g : Group) (p : Port) (i : Instr) (u : Uses) (r : Option Wide) (j : Bool) :
    (g0.retire g p i u r j).readTags = g.readTags := by cases p <;> cases j <;> simp [Group.retire]
@[simp] theorem Group.retire_inflight (g0 g : Group) (p : Port) (i : Instr) (u : Uses) (r : Option Wide) (j : Bool) :
    (g0.retire g p i u r j).inflight = g.inflight := by cases p <;> cases j <;> simp [Group.retire]
@[simp] theorem Group.retire_pairs (g0 g : Group) (p : Port) (i : Instr) (u : Uses) (r : Option Wide) (j : Bool) :
    (g0.retire g p i u r j).pairs = g.pairs := by cases p <;> cases j <;> simp [Group.retire]
@[simp] theorem Group.retire_arrivals (g0 g : Group) (p : Port) (i : Instr) (u : Uses) (r : Option Wide) (j : Bool) :
    (g0.retire g p i u r j).arrivals = g.arrivals := by cases p <;> cases j <;> simp [Group.retire]
@[simp] theorem Group.retire_ended (g0 g : Group) (p : Port) (i : Instr) (u : Uses) (r : Option Wide) (j : Bool) :
    (g0.retire g p i u r j).ended = g.ended := by cases p <;> cases j <;> simp [Group.retire]
@[simp] theorem Group.retire_stopped (g0 g : Group) (p : Port) (i : Instr) (u : Uses) (r : Option Wide) (j : Bool) :
    (g0.retire g p i u r j).stopped = g.stopped := by cases p <;> cases j <;> simp [Group.retire]
@[simp] theorem Group.retire_spilled (g0 g : Group) (p : Port) (i : Instr) (u : Uses) (r : Option Wide) (j : Bool) :
    (g0.retire g p i u r j).spilled = g.spilled := by cases p <;> cases j <;> simp [Group.retire]

end Sys2Proof.Machine
end

