-- ==== Sys2Proof/Laws/Home.lean ====
section
/-! SUPPORT. Writes that reach the home values: what they leave alone, and when they wait for nothing. -/

namespace Sys2Proof.Machine

/-- Steps that each keep the tracked blocks keep them together. -/
theorem foldl_tracked {β : Type} (f : State → β → State) (h : ∀ s b, (f s b).tracked = s.tracked) (l : List β) (s : State) :
    (l.foldl f s).tracked = s.tracked := by
  induction l generalizing s with
  | nil => rfl
  | cons b l ih => rw [List.foldl_cons, ih, h]

@[simp] theorem State.setHomeByte_tracked (s : State) (l : Loc) (b : Byte) : (s.setHomeByte l b).tracked = s.tracked := by
  unfold State.setHomeByte
  repeat' split
  all_goals rfl

@[simp] theorem State.homeWrite_tracked (s : State) (l : Loc) (n v : Nat) : (s.homeWrite l n v).tracked = s.tracked :=
  foldl_tracked _ (fun _ _ => State.setHomeByte_tracked _ _ _) _ _

@[simp] theorem State.noteClean_tracked (s : State) (root va : Nat) (b : Bool) : (s.noteClean root va b).tracked = s.tracked := by
  unfold State.noteClean
  repeat' split
  all_goals first | rfl | (simp only; repeat' split) <;> rfl

@[simp] theorem State.renew_tracked (s : State) (a b : Nat → Bool) : (s.renew a b).tracked = s.tracked := rfl
@[simp] theorem State.writePhysical_tracked (s : State) (pa : Nat) (bs : List Byte) : (s.writePhysical pa bs).tracked = s.tracked := rfl
@[simp] theorem State.setTags_tracked (s : State) (l : Loc) (n : Nat) (t : Option Tag) : (s.setTags l n t).tracked = s.tracked := rfl
@[simp] theorem State.event_tracked (s : State) (st : BitVec 8) (r : BitVec 48) : (s.event st r).tracked = s.tracked := rfl

@[simp] theorem State.postRecord_tracked (s : State) (die : BitVec 4) (r : Nat) : (s.postRecord die r).1.tracked = s.tracked := by
  unfold State.postRecord
  generalize toBytes 32 r = bs
  split
  · rfl
  · split
    · rfl
    · simp only
      generalize (if 2 ^ 31 ≤ _ then 0 else _) = n
      split
      · rfl
      · rfl

@[simp] theorem State.mirrorBits_tracked (s : State) (u off : Nat) (x : DWord) : (s.mirrorBits u off x).tracked = s.tracked := by
  unfold State.mirrorBits
  repeat' split
  all_goals rfl

@[simp] theorem State.memoryError_tracked (s : State) (grp : Nat) (ty : BitVec 8) (va pa key : Nat) :
    (s.memoryError grp ty va pa key).tracked = s.tracked := by
  unfold State.memoryError
  split
  · exact State.postRecord_tracked _ _ _
  · simp only
    split
    · simp [State.stickyFor]
    · simp [State.stickyFor, State.modCore]

@[simp] theorem State.carrySector_tracked (s : State) (a b : Nat) : (s.carrySector a b).tracked = s.tracked := by
  simp only [State.carrySector]

@[simp] theorem State.sectorWritten_tracked (s : State) (grp : Nat) (l : Loc) (va k : Nat) (full : Bool) :
    (s.sectorWritten grp l va k full).tracked = s.tracked := by
  unfold State.sectorWritten
  simp only
  repeat' split
  all_goals simp [State.renew]

@[simp] theorem State.alsoNew_tracked (s : State) (k : Nat) : (s.alsoNew k).tracked = s.tracked :=
  foldl_tracked _ (fun _ _ => by repeat' split
                                 all_goals simp [State.carry]) _ _

@[simp] theorem State.arrive_tracked (s : State) (grp : Nat) (l : Loc) (va n v : Nat) (full : Bool) :
    (s.arrive grp l va n v full).tracked = s.tracked := by
  unfold State.arrive State.noting
  rw [foldl_tracked _ (fun _ _ => State.noteClean_tracked _ _ _ _)]
  simp only
  split <;> simp

/-- R297: where no block is tracked, a write raises nothing. -/
theorem State.homeRaise_untracked {s : State} (h : s.tracked = []) (grp : Nat) (l : Loc) (va n v : Nat) (full : Bool) :
    s.homeRaise grp l va n v full = (s.arrive grp l va n v full, false) := by
  simp [State.homeRaise, State.rowsAt, h]

/-- R185: without migrations no line is held. -/
theorem State.lineHeld_still {s : State} (h : s.migs = []) (l : Loc) : s.lineHeld l = false := by
  unfold State.lineHeld
  split <;> simp [h]

/-- R185, R297: without migrations and tracked blocks a write waits for nothing. -/
theorem State.writeHeld_still {s : State} (h : s.migs = []) (t : s.tracked = []) (l : Loc) (n v : Nat) : s.writeHeld l n v = false := by
  simp [State.writeHeld, State.lineHeld_still h, State.homeRaise_untracked t]

end Sys2Proof.Machine
end

