-- ==== Sys2Proof/Laws/Host.lean ====
section
/-! SUPPORT. What the shared operations of the host link do: changing a pair, consuming an entry, stopping a pair, and running a command. -/

namespace Sys2Proof.Machine

/-- Looking for what was changed finds the changed one. -/
theorem find?_updateWhere {α : Type} (l : List α) (p : α → Bool) (f : α → α) (hf : ∀ x, p x = true → p (f x) = true) :
    (updateWhere p f l).find? p = (l.find? p).map f := by
  induction l with
  | nil => rfl
  | cons a t ih =>
    simp only [updateWhere, List.map_cons, List.find?_cons] at *
    by_cases h : p a = true
    · simp [h, hf a h]
    · simpa [h] using ih

/-- Looking for something else finds what it found before. -/
theorem find?_updateWhere_other {α : Type} (l : List α) (p q : α → Bool) (f : α → α) (hf : ∀ x, p x = true → q x = false ∧ q (f x) = false) :
    (updateWhere p f l).find? q = l.find? q := by
  induction l with
  | nil => rfl
  | cons a t ih =>
    simp only [updateWhere, List.map_cons, List.find?_cons] at *
    by_cases h : p a = true
    · simpa [h, hf a h] using ih
    · simp [h, ih]

/-- A pair that was changed. -/
theorem State.pair_modPair (s : State) (n : BitVec 4) (f : QueuePair → QueuePair) (hf : ∀ p, (f p).num = p.num)
    (h : ∃ p ∈ s.pairs, p.num = n.toNat) : (s.modPair n f).pair n = f (s.pair n) := by
  unfold State.pair State.modPair
  simp only
  rw [find?_updateWhere]
  · obtain ⟨p, hp, e⟩ := h
    have hs : (s.pairs.find? (fun p => p.num == n.toNat)).isSome := by
      rw [List.find?_isSome]
      exact ⟨p, hp, by simp [e]⟩
    obtain ⟨q, hq⟩ := Option.isSome_iff_exists.1 hs
    simp [hq]
  · intro x hx
    simpa [hf] using hx

/-- The other pairs stay. -/
theorem State.pair_modPair_other (s : State) (n m : BitVec 4) (f : QueuePair → QueuePair) (hf : ∀ p, (f p).num = p.num) (h : m ≠ n) :
    (s.modPair n f).pair m = s.pair m := by
  unfold State.pair State.modPair
  simp only
  rw [find?_updateWhere_other]
  intro x hx
  simp only [beq_iff_eq, beq_eq_false_iff_ne, hf] at *
  have : m.toNat ≠ n.toNat := fun e => h (BitVec.eq_of_toNat_eq e)
  omega

/-- R323, R325: everything that a command can do with the entry that the device takes next. -/
theorem State.command_cases (s : State) (n : BitVec 4) (ops : BitVec 8 → Bool) (f : State → Submission → Ran) :
    (s.submission n = none ∧ s.command n ops f = s) ∨ ∃ e, s.submission n = some e ∧
      ((ops e.op = false ∧ s.command n ops f = s) ∨
       (ops e.op = true ∧ e.seq ≠ (s.pair n).sub ∧ s.command n ops f = s.stallPair n e) ∨
       (ops e.op = true ∧ e.seq = (s.pair n).sub ∧ (e.reserved = true ∨ f s e = .refused) ∧
          s.command n ops f = (s.consume n).complete { pair := n.toNat, result := 0, op := e.op, status := 3, sseq := e.seq }) ∨
       (ops e.op = true ∧ e.seq = (s.pair n).sub ∧ e.reserved = false ∧
          ((∃ t r, f s e = .done t r ∧
              s.command n ops f = (t.consume n).complete { pair := n.toNat, result := r, op := e.op, status := 0, sseq := e.seq }) ∨
           (∃ t, f s e = .refusedIn t ∧
              s.command n ops f = (t.consume n).complete { pair := n.toNat, result := 0, op := e.op, status := 3, sseq := e.seq }) ∨
           (∃ t, f s e = .later t ∧ s.command n ops f = t.consume n) ∨ (∃ t, f s e = .waits t ∧ s.command n ops f = t)))) := by
  unfold State.command
  cases h : s.submission n with
  | none => exact .inl ⟨rfl, rfl⟩
  | some e =>
    refine .inr ⟨e, rfl, ?_⟩
    cases h1 : ops e.op with
    | false => exact .inl ⟨rfl, by simp [h1]⟩
    | true =>
      by_cases h2 : e.seq = (s.pair n).sub
      · cases h3 : e.reserved with
        | true => exact .inr (.inr (.inl ⟨rfl, h2, .inl rfl, by simp [h1, h2, h3]⟩))
        | false =>
          cases h4 : f s e with
          | refused => exact .inr (.inr (.inl ⟨rfl, h2, .inr rfl, by simp [h1, h2, h3, h4]⟩))
          | done t r => exact .inr (.inr (.inr ⟨rfl, h2, rfl, .inl ⟨t, r, rfl, by simp [h1, h2, h3, h4]⟩⟩))
          | refusedIn t => exact .inr (.inr (.inr ⟨rfl, h2, rfl, .inr (.inl ⟨t, rfl, by simp [h1, h2, h3, h4]⟩)⟩))
          | later t => exact .inr (.inr (.inr ⟨rfl, h2, rfl, .inr (.inr (.inl ⟨t, rfl, by simp [h1, h2, h3, h4]⟩))⟩))
          | waits t => exact .inr (.inr (.inr ⟨rfl, h2, rfl, .inr (.inr (.inr ⟨t, rfl, by simp [h1, h2, h3, h4]⟩))⟩))
      · exact .inr (.inl ⟨rfl, h2, by simp [h1, h2]⟩)

/-- The length of a number's bytes. -/
theorem length_toBytes (n v : Nat) : (toBytes n v).length = n := by
  induction n generalizing v with
  | zero => rfl
  | succ n ih => simp [toBytes, ih]

/-- R330: the length of a quote: the nonce, 64 bytes for each component, and the two signatures. -/
theorem State.length_quote (s : State) (nonce : Nat) : (s.quote nonce).length = 8 + 64 * s.attestLog.length + 384 + 16224 := by
  have h : ∀ l : List (Nat × BitVec 32 × BitVec 384),
      (l.flatMap (fun x => toBytes 4 x.1 ++ toBytes 4 x.2.1.toNat ++ toBytes 8 0 ++ toBytes 48 x.2.2.toNat)).length = 64 * l.length := by
    intro l
    induction l with
    | nil => rfl
    | cons a t ih =>
      simp only [List.flatMap_cons, List.length_append, ih, length_toBytes, List.length_cons]
      omega
  simp only [State.quote, logBytes, List.length_append, length_toBytes, h, List.length_zip, List.length_range, Vector.length_toList, min_self]

end Sys2Proof.Machine
end

