-- ==== Sys2Proof/Laws/Issue.lean ====
section
/-! SUPPORT. What issuing an instruction can do: it traps, waits, is held, or its act settles; and what each way of retiring leaves. -/

namespace Sys2Proof.Machine

theorem held_iff (s : State) : s.held = true ↔ s.port ≠ .setter ∧ s.g.holdsIssue s.port = true := by
  simp [State.held]

/-- The five ways in which an attempt to issue ends (R358): its issue is held, or it traps, waits, takes a copy fault, or its act settles. -/
theorem issue_cases (i : Instr) (act : State → Act) (s : State) :
    (s.port ≠ .setter ∧ s.g.holdsIssue s.port = true ∧ s.issue i act = s) ∨
    (∃ c, s.preTrap i (usesOf (s.g.streamAt s.port) i) = some c ∧ s.issue i act = s.refuse (usesOf (s.g.streamAt s.port) i) c) ∨
    (s.mustWait (usesOf (s.g.streamAt s.port) i) = true ∧
      s.issue i act = s.onGroup (fun g => g.park s.port (usesOf (s.g.streamAt s.port) i) .other)) ∨
    (∃ f, s.copyTrap = some f ∧ s.issue i act = { s with faults := s.faults.erase f }.refuse (usesOf (s.g.streamAt s.port) i) Cause.copyFault
      (BitVec.ofInt 64 f.addr) f.out f.detail) ∨
    s.issue i act = s.settle i (usesOf (s.g.streamAt s.port) i) (act s) := by
  unfold State.issue
  cases h0 : s.held with
  | true => exact .inl ⟨((held_iff s).1 h0).1, ((held_iff s).1 h0).2, by simp⟩
  | false =>
    refine .inr ?_
    cases h1 : s.preTrap i (usesOf (s.g.streamAt s.port) i) with
    | some c => exact .inl ⟨c, rfl, by simp [h1]⟩
    | none =>
      cases h3 : s.mustWait (usesOf (s.g.streamAt s.port) i) with
      | true => exact .inr (.inl ⟨rfl, by simp [h1, h3, State.settle]⟩)
      | false =>
        cases h4 : s.copyTrap with
        | some f => exact .inr (.inr (.inl ⟨f, rfl, by simp [h1, h3]⟩))
        | none => exact .inr (.inr (.inr (by simp [h1, h3])))

theorem Clear.preTrap {i : Instr} {s : State} (h : Clear i s) : s.preTrap i (usesOf (s.g.streamAt s.port) i) = none := by
  unfold State.preTrap
  have h2 : (((usesOf (s.g.streamAt s.port) i).last || !(usesOf (s.g.streamAt s.port) i).pops.isEmpty) &&
      s.goesOn i (usesOf (s.g.streamAt s.port) i)) = false := by
    rcases h.chain with h | h
    · simp [h.1, h.2]
    · simp [h]
  have h3 : (usesOf (s.g.streamAt s.port) i).vs.any (fun n => decide (s.g.regs.allot ≤ n)) = false := by
    simpa using h.allotted
  have h4 : (usesOf (s.g.streamAt s.port) i).latches.any (fun n => ((s.g.slot s.port).latches.getD n none).isNone) = false := by
    rw [List.any_eq_false]
    intro n hn
    have := h.latched n hn
    cases hx : (s.g.slot s.port).latches.getD n none <;> simp_all
  have h6 : ((usesOf (s.g.streamAt s.port) i).queues.filter
      (fun n => !((s.g.slot s.port).held.any (fun x => x.1 == n)))).any (fun n => (s.g.queues.getD n []).isEmpty) = false := by
    rw [List.any_eq_false]
    intro n hn
    rw [List.mem_filter] at hn
    have hq := h.queued n hn.1
    unfold Group.queueEntry at hq
    cases hf : (s.g.slot s.port).held.find? (fun x => x.1 == n) with
    | some x =>
      have := List.find?_some hf
      have hm := List.mem_of_find?_eq_some hf
      have : (s.g.slot s.port).held.any (fun x => x.1 == n) = true := List.any_eq_true.mpr ⟨x, hm, this⟩
      simp [this] at hn
    | none =>
      rw [hf] at hq
      cases hl : s.g.queues.getD n [] with
      | nil => rw [hl] at hq; simp at hq
      | cons a b => simp
  have h7 : ((usesOf (s.g.streamAt s.port) i).queues.filter
      (fun n => !((s.g.slot s.port).held.any (fun x => x.1 == n)))).any (fun n => (s.g.queues.getD n []).isEmpty && !(s.g.owed n)) = false := by
    rw [List.any_eq_false] at h6 ⊢
    intro n hn hx
    exact h6 n hn (Bool.and_eq_true_iff.mp hx).1
  simp only [h.legal, h2, h3, h4, h7, Bool.false_and, Bool.false_eq_true, if_false, Bool.true_eq_false]
  rcases h.single with h5 | h5
  · simp [h5]
  · simp [h5]

theorem Clear.mustWait {i : Instr} {s : State} (h : Clear i s) : s.mustWait (usesOf (s.g.streamAt s.port) i) = false := by
  unfold State.mustWait
  rw [Bool.or_eq_false_iff, List.any_eq_false, List.any_eq_false]
  refine ⟨fun n hn => ?_, fun f hf => ?_⟩
  · have := h.queued n hn
    cases hx : s.g.queueEntry s.port n <;> simp_all
  · rcases h.free f hf with h1 | h1 <;> simp [h1]

/-- An instruction that is clear to issue takes its own act. -/
theorem issue_of_clear {i : Instr} {s : State} (h : Clear i s) (act : State → Act) :
    s.issue i act = s.settle i (usesOf (s.g.streamAt s.port) i) (act s) := by
  have h1 : s.held = false := by
    rcases h.unheld with h | h <;> simp [State.held, h]
  unfold State.issue
  simp only [h1, h.preTrap, h.mustWait, h.copies, Bool.false_eq_true, if_false]

/-! ### Refusals -/

/-- What returning popped entries leaves alone: any reading of the group that a PC slot, the queues and their heads do not change. -/
theorem Group.unpop_reads {α : Type} (f : Group → α) (p : Port)
    (h : ∀ (g : Group) (x : Slot) (q : Vector (List (DWord × Nat)) 8) (k : Vector (BitVec 4) 8),
      f { (g.setSlot p x) with queues := q, qhead := k } = f g) (g : Group) : f (g.unpop p) = f g := by
  unfold Group.unpop
  split
  · rfl
  · generalize (g.slot p).held = l
    induction l with
    | nil => rfl
    | cons e l ih =>
      rw [List.foldr_cons, Group.unpopOne]
      split
      · rw [h, ih]
      · exact ih

theorem Group.unpop_nothing (g : Group) (p : Port) (h : (g.slot p).held = []) : g.unpop p = g := by
  unfold Group.unpop
  split
  · rfl
  · rw [h]; rfl

@[simp] theorem Group.unpop_regs (g : Group) (p : Port) : (g.unpop p).regs = g.regs :=
  Group.unpop_reads (fun g => g.regs) p (fun _ _ _ _ => by cases p <;> rfl) g
@[simp] theorem Group.unpop_modes (g : Group) (p : Port) : (g.unpop p).modes = g.modes :=
  Group.unpop_reads (fun g => g.modes) p (fun _ _ _ _ => by cases p <;> rfl) g
@[simp] theorem Group.unpop_id (g : Group) (p : Port) : (g.unpop p).id = g.id :=
  Group.unpop_reads (fun g => g.id) p (fun _ _ _ _ => by cases p <;> rfl) g
@[simp] theorem Group.unpop_outq (g : Group) (p : Port) : (g.unpop p).outq = g.outq :=
  Group.unpop_reads (fun g => g.outq) p (fun _ _ _ _ => by cases p <;> rfl) g
@[simp] theorem Group.unpop_inflight (g : Group) (p : Port) : (g.unpop p).inflight = g.inflight :=
  Group.unpop_reads (fun g => g.inflight) p (fun _ _ _ _ => by cases p <;> rfl) g

/-! ### Slots -/

theorem Group.slot_setSlot_same (g : Group) (p : Port) (x : Slot) (h : p ≠ .setter) : (g.setSlot p x).slot p = x := by
  cases p <;> first | rfl | exact absurd rfl h

theorem Group.slot0_setSlot (g : Group) (p : Port) (x : Slot) (h : p ≠ .slot0) : (g.setSlot p x).slot0 = g.slot0 := by
  cases p <;> first | rfl | exact absurd rfl h

theorem Group.slot1_setSlot (g : Group) (p : Port) (x : Slot) (h : p ≠ .slot1) : (g.setSlot p x).slot1 = g.slot1 := by
  cases p <;> first | rfl | exact absurd rfl h

theorem Group.slot_eq {g h : Group} {p : Port} (h0 : g.slot0 = h.slot0) (h1 : g.slot1 = h.slot1) : g.slot p = h.slot p := by
  cases p <;> simp [Group.slot, h0, h1]

@[simp] theorem Slot.endReplay_latches (x : Slot) : x.endReplay.latches = x.latches := by
  unfold Slot.endReplay; repeat' split
  all_goals rfl

theorem Slot.endReplay_pc (x : Slot) : (x.endReplay.path.map (fun q => q.pc)) = x.path.map (fun q => q.pc) := by
  unfold Slot.endReplay
  split
  · split <;> simp_all
  · rfl

theorem Group.pcAt_hitter (g : Group) (p : Port) (h : p ≠ .setter) : g.pcAt p = ((g.slot p).path.map (fun q => q.pc)).getD 0 := by
  cases p with
  | setter => exact absurd rfl h
  | slot0 => simp only [Group.pcAt]; split <;> simp_all
  | slot1 => simp only [Group.pcAt]; split <;> simp_all

theorem Group.pcAt_setPcAt (g : Group) (p : Port) (pc : DWord) (h : p = .setter ∨ (g.slot p).path.isSome = true) :
    (g.setPcAt p pc).pcAt p = pc := by
  by_cases hp : p = .setter
  · subst hp; rfl
  · rw [Group.pcAt_hitter _ _ hp]
    have hs := h.resolve_left hp
    obtain ⟨q, hq⟩ := Option.isSome_iff_exists.mp hs
    cases p <;> simp_all [Group.setPcAt, Group.slot, Group.setSlot]

/-- The PC slot at which an instruction retires. -/
theorem Group.retire_slot (g0 g : Group) (p : Port) (i : Instr) (u : Uses) (r : Option Wide) (j : Bool) (h : p ≠ .setter) :
    (g0.retire g p i u r j).slot p =
      Slot.endReplay { (match r.map (g0.latched p) with
        | some y => ((if j then g else g.setPcAt p (g.pcAt p + BitVec.ofNat 64 i.len)).slot p).shift y
        | none => (if j then g else g.setPcAt p (g.pcAt p + BitVec.ofNat 64 i.len)).slot p) with
          chain := g0.chainAfter g p u (r.map (g0.latched p)), held := [], wait := .running } := by
  cases p with
  | setter => exact absurd rfl h
  | slot0 => cases j <;> cases r <;> simp [Group.retire, Group.slot, Group.setSlot, Group.setPcAt, Group.pcAt]
  | slot1 => cases j <;> cases r <;> simp [Group.retire, Group.slot, Group.setSlot, Group.setPcAt, Group.pcAt]

/-- Where the pc stands after an instruction retired. -/
theorem Group.retire_pcAt (g0 g : Group) (p : Port) (i : Instr) (u : Uses) (r : Option Wide) (j : Bool)
    (h : p = .setter ∨ (g.slot p).path.isSome = true) :
    (g0.retire g p i u r j).pcAt p = if j then g.pcAt p else g.pcAt p + BitVec.ofNat 64 i.len := by
  by_cases hp : p = .setter
  · subst hp; cases j <;> rfl
  · obtain ⟨q, hq⟩ := Option.isSome_iff_exists.mp (h.resolve_left hp)
    rw [Group.pcAt_hitter _ _ hp, Group.retire_slot _ _ _ _ _ _ _ hp, Slot.endReplay_pc]
    cases p <;> simp only [Group.slot] at hq <;> cases j <;> cases r <;>
      simp_all [Group.pcAt, Group.slot, Group.setPcAt, Group.setSlot, Slot.shift]

theorem Slot.endReplay_rejoin (x : Slot) :
    x.endReplay.path.map (fun q => (q.rejoin, q.waiting)) = x.path.map (fun q => (q.rejoin, q.waiting)) := by
  unfold Slot.endReplay
  split
  · split <;> simp_all
  · rfl

/-- A path keeps its pending rejoin. -/
theorem Group.retire_rejoin (g0 g : Group) (p : Port) (i : Instr) (u : Uses) (r : Option Wide) (j : Bool) :
    ((g0.retire g p i u r j).slot p).path.map (fun q => (q.rejoin, q.waiting)) = (g.slot p).path.map (fun q => (q.rejoin, q.waiting)) := by
  by_cases hp : p = .setter
  · subst hp; rfl
  · rw [Group.retire_slot _ _ _ _ _ _ _ hp, Slot.endReplay_rejoin]
    cases p <;> cases j <;> cases r <;> simp_all [Group.slot, Group.setPcAt, Group.setSlot, Slot.shift] <;> rfl

theorem Group.retire_slot0 (g0 g : Group) (p : Port) (i : Instr) (u : Uses) (r : Option Wide) (j : Bool) (h : p ≠ .slot0) :
    (g0.retire g p i u r j).slot0 = g.slot0 := by
  cases p <;> cases j <;> simp_all [Group.retire, Group.setSlot, Group.setPcAt]

theorem Group.retire_slot1 (g0 g : Group) (p : Port) (i : Instr) (u : Uses) (r : Option Wide) (j : Bool) (h : p ≠ .slot1) :
    (g0.retire g p i u r j).slot1 = g.slot1 := by
  cases p <;> cases j <;> simp_all [Group.retire, Group.setSlot, Group.setPcAt]

theorem Group.maskAt_hitter (g : Group) (p : Port) (h : p ≠ .setter) : g.maskAt p = ((g.slot p).path.map (fun q => q.mask)).getD 0 := by
  cases p with
  | setter => exact absurd rfl h
  | slot0 => simp only [Group.maskAt]; split <;> simp_all
  | slot1 => simp only [Group.maskAt]; split <;> simp_all

theorem Slot.endReplay_none (x : Slot) (h : x.replay = none) : x.endReplay = x := by
  unfold Slot.endReplay; rw [h]

/-- An instruction that is not replayed keeps the lanes of its path. -/
theorem Group.retire_maskAt (g0 g : Group) (p : Port) (i : Instr) (u : Uses) (r : Option Wide) (j : Bool)
    (h : (g.slot p).replay = none) : (g0.retire g p i u r j).maskAt p = g.maskAt p := by
  cases p with
  | setter => rfl
  | slot0 =>
    simp only [Group.slot] at h
    rw [Group.maskAt_hitter _ _ (by decide), Group.maskAt_hitter _ _ (by decide)]
    cases j <;> cases r <;> simp [Group.retire, Group.slot, Group.setSlot, Group.setPcAt, Slot.shift, Slot.endReplay_none, h] <;>
      cases g.slot0.path <;> rfl
  | slot1 =>
    simp only [Group.slot] at h
    rw [Group.maskAt_hitter _ _ (by decide), Group.maskAt_hitter _ _ (by decide)]
    cases j <;> cases r <;> simp [Group.retire, Group.slot, Group.setSlot, Group.setPcAt, Slot.shift, Slot.endReplay_none, h] <;>
      cases g.slot1.path <;> rfl

theorem Group.retire_setter (g0 g : Group) (p : Port) (i : Instr) (u : Uses) (r : Option Wide) (j : Bool) (h : p ≠ .setter) :
    (g0.retire g p i u r j).setPc = g.setPc ∧ (g0.retire g p i u r j).setWait = g.setWait := by
  cases p <;> cases j <;> simp_all [Group.retire, Group.setSlot, Group.setPcAt]

/-- Popping depends on the slots and the queues alone. -/
theorem Group.popAll_congr {g h : Group} (p : Port) (ns : List Nat) (h0 : g.slot p = h.slot p) (hq : g.queues = h.queues) :
    (g.popAll p ns).queues = (h.popAll p ns).queues := by
  unfold Group.popAll
  induction ns generalizing g h with
  | nil => simpa using hq
  | cons n ns ih =>
    rw [List.foldl_cons, List.foldl_cons]
    apply ih
    · rw [h0]; split
      · exact h0
      · rw [hq]
        cases p <;> simp only [Group.slot] at h0 ⊢ <;> split <;> simp_all
    · rw [h0]; split
      · exact hq
      · rw [hq]; split <;> simp_all

theorem Group.retire_queues (g0 g : Group) (p : Port) (i : Instr) (u : Uses) (r : Option Wide) (j : Bool) :
    (g0.retire g p i u r j).queues = if p = .setter then g.queues else (g.popAll p u.pops).queues := by
  cases p with
  | setter => cases j <;> simp [Group.retire]
  | slot0 => cases j <;> simp only [Group.retire, reduceCtorEq, if_false] <;> simp <;> exact Group.popAll_congr _ _ rfl rfl
  | slot1 => cases j <;> simp only [Group.retire, reduceCtorEq, if_false] <;> simp <;> exact Group.popAll_congr _ _ rfl rfl

theorem Group.retire_latches (g0 g : Group) (p : Port) (i : Instr) (u : Uses) (r : Wide) (j : Bool) (h : p ≠ .setter) :
    ((g0.retire g p i u (some r) j).slot p).latches = #v[some (g0.latched p r), (g.slot p).latches.getD 0 none,
      (g.slot p).latches.getD 1 none, (g.slot p).latches.getD 2 none] := by
  cases p <;> cases j <;> simp_all [Group.retire, Group.slot, Group.setSlot, Group.setPcAt, Slot.shift, Slot.endReplay_latches]

theorem Group.retire_residence (g0 g : Group) (p : Port) (i : Instr) (u : Uses) (r : Option Wide) (j : Bool) :
    (g0.retire g p i u r j).stopped = g.stopped ∧ (g0.retire g p i u r j).spilled = g.spilled := by
  cases p <;> cases j <;> simp [Group.retire, Group.setSlot, Group.setPcAt]

/-- What retiring leaves, for an act that changes only registers and modes. -/
theorem retires_of {i : Instr} {s : State} {g : Group} (r : Option Wide)
    (e : g = { s.g with regs := g.regs, modes := g.modes, flagMarks := g.flagMarks }) :
    Retires s (s.onGroup (fun _ => s.g.retire g s.port i (usesOf (s.g.streamAt s.port) i) r false)) ∧
    Pops i s (s.onGroup (fun _ => s.g.retire g s.port i (usesOf (s.g.streamAt s.port) i) r false)) := by
  have hm : (s.g.slot s.port).replay = none →
      (s.g.retire g s.port i (usesOf (s.g.streamAt s.port) i) r false).maskAt s.port = s.g.maskAt s.port := by
    intro h
    have hs : g.slot s.port = s.g.slot s.port := by rw [e]; cases s.port <;> rfl
    rw [Group.retire_maskAt _ _ _ _ _ _ _ (by rw [hs]; exact h), e]
    cases s.port <;> rfl
  refine ⟨⟨⟨rfl, ?_, ?_, ?_, ?_, ?_, ?_, ?_, ?_, ?_, ?_, ?_, ?_, ?_, ?_, ?_, ?_, ?_, ?_⟩, ?_, ?_⟩, ?_⟩
  all_goals try (simp only [State.onGroup_g, Group.retire_id, Group.retire_stack, Group.retire_exited, Group.retire_setExited,
    Group.retire_setTrap, Group.retire_trapRegs, Group.retire_inflight, Group.retire_outq, Group.retire_marks, Group.retire_readTags,
    Group.retire_arrivals, Group.retire_ended, Group.retire_age, Group.retire_pairs]; rw [e])
  · intro h; show _; rw [(Group.retire_setter _ _ _ _ _ _ _ h).1, (Group.retire_setter _ _ _ _ _ _ _ h).2, e]
    exact ⟨rfl, rfl⟩
  · first | exact hm | (rw [← e]; exact hm)
  · intro h; show _; rw [Group.retire_slot0 _ _ _ _ _ _ _ h, e]
  · intro h; show _; rw [Group.retire_slot1 _ _ _ _ _ _ _ h, e]
  · exact ⟨(Group.retire_residence _ _ _ _ _ _ _).1, (Group.retire_residence _ _ _ _ _ _ _).2⟩
  · show _; rw [Group.retire_rejoin, e]; cases s.port <;> rfl
  · simp only [Pops, State.onGroup_g, Group.retire_queues]
    split
    · rw [e]
    · exact Group.popAll_congr _ _ (by rw [e]; cases s.port <;> rfl) (by rw [e])

end Sys2Proof.Machine
end

