-- ==== Sys2Proof/Laws/Memory.lean ====
section
/-! SUPPORT. Bytes by address: reading what was written, and the canonical form, which every memory operation keeps. -/

namespace Sys2Proof.Machine

@[simp] theorem Memory.wf_nil : Memory.wf [] = true := rfl

theorem Memory.wfFrom_mono {m : Mem} {lo hi : Nat} (h : lo ≤ hi) (w : Memory.wfFrom hi m = true) : Memory.wfFrom lo m = true := by
  cases m with
  | nil => rfl
  | cons c m =>
    simp only [Memory.wfFrom, Bool.and_eq_true, decide_eq_true_eq] at w ⊢
    exact ⟨⟨by omega, w.1.2⟩, w.2⟩

theorem Memory.wfFrom_write {m : Mem} {lo a : Nat} {b : Byte} (h : lo ≤ a) (w : Memory.wfFrom lo m = true) :
    Memory.wfFrom lo (Memory.write m a b) = true := by
  induction m generalizing lo with
  | nil =>
    by_cases hb : b = 0#8
    · simp [Memory.write, hb, Memory.wfFrom]
    · simp [Memory.write, hb, Memory.wfFrom, h]
  | cons c m ih =>
    obtain ⟨k, c⟩ := c
    simp only [Memory.wfFrom, Bool.and_eq_true, decide_eq_true_eq] at w
    obtain ⟨⟨h1, h2⟩, h3⟩ := w
    have h2 : ¬ @Eq (BitVec 8) c 0#8 := h2
    by_cases hk : a < k
    · by_cases hb : b = 0#8
      · simp [Memory.write, hk, hb, Memory.wfFrom, h1, h2, h3]
      · simp [Memory.write, hk, hb, Memory.wfFrom, h, h2, h3]
    · by_cases he : a = k
      · by_cases hb : b = 0#8
        · simp only [Memory.write, he, hb, if_true, if_false, lt_irrefl]
          exact Memory.wfFrom_mono (by omega) h3
        · simp [Memory.write, he, hb, Memory.wfFrom, h1, h3]
      · have := ih (lo := k + 1) (by omega) h3
        simp [Memory.write, hk, he, Memory.wfFrom, h1, h2, this]

/-- A write keeps the canonical form. -/
theorem Memory.write_wf {m : Mem} (a : Nat) (b : Byte) (w : Memory.wf m = true) : Memory.wf (Memory.write m a b) = true :=
  Memory.wfFrom_write (Nat.zero_le a) w

theorem Memory.writeBytes_wf {m : Mem} (a : Nat) (bs : List Byte) (w : Memory.wf m = true) :
    Memory.wf (Memory.writeBytes m a bs) = true := by
  induction bs generalizing m a with
  | nil => exact w
  | cons b bs ih => exact ih _ (Memory.write_wf a b w)

theorem Memory.writeNat_wf {m : Mem} (a n v : Nat) (w : Memory.wf m = true) : Memory.wf (Memory.writeNat m a n v) = true :=
  Memory.writeBytes_wf a _ w

theorem Memory.read_below {m : Mem} {lo a : Nat} (w : Memory.wfFrom lo m = true) (h : a < lo) : Memory.read m a = 0 := by
  induction m generalizing lo with
  | nil => rfl
  | cons c m ih =>
    obtain ⟨k, c⟩ := c
    simp only [Memory.wfFrom, Bool.and_eq_true, decide_eq_true_eq] at w
    have hk : ¬ k = a := by omega
    simp only [Memory.read, hk, if_false]
    exact ih w.2 (by omega)

theorem Memory.read_write_from {m : Mem} {lo a : Nat} {b : Byte} (w : Memory.wfFrom lo m = true) (c : Nat) :
    Memory.read (Memory.write m a b) c = if a = c then b else Memory.read m c := by
  induction m generalizing lo with
  | nil =>
    by_cases hb : b = 0#8
    · subst hb; simp [Memory.write, Memory.read]
    · simp [Memory.write, hb, Memory.read]
  | cons e m ih =>
    obtain ⟨k, e⟩ := e
    simp only [Memory.wfFrom, Bool.and_eq_true, decide_eq_true_eq] at w
    obtain ⟨⟨h1, h2⟩, h3⟩ := w
    have h2 : ¬ @Eq (BitVec 8) e 0#8 := h2
    by_cases hk : a < k
    · by_cases hb : b = 0#8
      · simp only [Memory.write, hk, hb, if_true]
        by_cases hc : a = c
        · subst hc
          rw [if_pos rfl]
          exact Memory.read_below (lo := k) (by simp [Memory.wfFrom, h2, h3]) hk
        · simp [hc]
      · simp [Memory.write, hk, hb, Memory.read]
    · by_cases he : a = k
      · subst he
        by_cases hb : b = 0#8
        · simp only [Memory.write, hb, lt_irrefl, if_true, if_false, Memory.read]
          by_cases hc : a = c
          · subst hc
            rw [if_pos rfl]
            exact Memory.read_below h3 (by omega)
          · simp [hc]
        · by_cases hc : a = c <;> simp [Memory.write, hb, Memory.read, hc]
      · simp only [Memory.write, hk, he, if_false, Memory.read]
        by_cases hc : k = c
        · subst hc; simp [he]
        · simp only [hc, if_false]; exact ih h3

/-- A read after a write: the written byte at its address, the old one elsewhere. -/
theorem Memory.read_write {m : Mem} (w : Memory.wf m = true) (a c : Nat) (b : Byte) :
    Memory.read (Memory.write m a b) c = if a = c then b else Memory.read m c := Memory.read_write_from w c

theorem Memory.read_writeBytes {m : Mem} (w : Memory.wf m = true) (a c : Nat) (bs : List Byte) :
    Memory.read (Memory.writeBytes m a bs) c = if a ≤ c then bs.getD (c - a) (Memory.read m c) else Memory.read m c := by
  induction bs generalizing m a with
  | nil => simp [Memory.writeBytes]
  | cons b bs ih =>
    rw [Memory.writeBytes, ih (Memory.write_wf a b w), Memory.read_write w]
    by_cases h1 : a + 1 ≤ c
    · have h2 : a ≤ c := by omega
      have h3 : ¬ a = c := by omega
      have h4 : c - a = (c - (a + 1)) + 1 := by omega
      simp [h1, h2, h3, h4]
    · by_cases h2 : a = c
      · subst h2; simp
      · have h3 : ¬ a ≤ c := by omega
        simp [h1, h2, h3]

/-- Bytes outside a written range read as before. -/
theorem Memory.read_writeBytes_outside {m : Mem} (w : Memory.wf m = true) (a c : Nat) (bs : List Byte)
    (h : c < a ∨ a + bs.length ≤ c) : Memory.read (Memory.writeBytes m a bs) c = Memory.read m c := by
  rw [Memory.read_writeBytes w]
  by_cases h1 : a ≤ c
  · simp only [h1, if_true]
    rw [List.getD_eq_default]
    omega
  · simp [h1]

/-- Memory in canonical form is determined by what it reads as. -/
theorem Memory.head_of_reads {k : Nat} {b : Byte} {m n : Mem} {lo : Nat} (h1 : Memory.wfFrom lo ((k, b) :: m) = true)
    (h2 : Memory.wfFrom lo n = true) (h : ∀ a, Memory.read ((k, b) :: m) a = Memory.read n a) : ∃ c n', n = (k, c) :: n' := by
  have hk := h k
  simp only [Memory.wfFrom, Bool.and_eq_true, decide_eq_true_eq] at h1
  cases n with
  | nil => simp [Memory.read] at hk; exact absurd hk h1.1.2
  | cons e n =>
    obtain ⟨j, c⟩ := e
    simp only [Memory.wfFrom, Bool.and_eq_true, decide_eq_true_eq] at h2
    rcases Nat.lt_trichotomy j k with hj | hj | hj
    · have hj' := h j
      have : ¬ k = j := by omega
      simp only [Memory.read, this, if_true, if_false] at hj'
      rw [Memory.read_below h1.2 (by omega)] at hj'
      exact absurd hj'.symm h2.1.2
    · subst hj; exact ⟨c, n, rfl⟩
    · have : ¬ j = k := by omega
      simp only [Memory.read, this, if_true, if_false] at hk
      rw [Memory.read_below h2.2 (by omega)] at hk
      exact absurd hk h1.1.2

theorem Memory.ext {m n : Mem} (h1 : Memory.wf m = true) (h2 : Memory.wf n = true) (h : ∀ a, Memory.read m a = Memory.read n a) :
    m = n := by
  suffices ∀ lo, Memory.wfFrom lo m = true → Memory.wfFrom lo n = true → m = n from this 0 h1 h2
  clear h1 h2
  induction m generalizing n with
  | nil =>
    intro lo _ h2
    cases n with
    | nil => rfl
    | cons e n =>
      obtain ⟨j, c⟩ := e
      have := h j
      simp only [Memory.wfFrom, Bool.and_eq_true, decide_eq_true_eq] at h2
      simp [Memory.read] at this
      exact absurd this.symm h2.1.2
  | cons e m ih =>
    obtain ⟨k, b⟩ := e
    intro lo h1 h2
    obtain ⟨c, n', rfl⟩ := Memory.head_of_reads h1 h2 h
    simp only [Memory.wfFrom, Bool.and_eq_true, decide_eq_true_eq] at h1 h2
    have hb : b = c := by simpa [Memory.read] using h k
    subst hb
    congr 1
    refine ih (fun a => ?_) (k + 1) h1.2 h2.2
    by_cases ha : k = a
    · subst ha
      rw [Memory.read_below h1.2 (by omega), Memory.read_below h2.2 (by omega)]
    · simpa [Memory.read, ha] using h a

end Sys2Proof.Machine
end

