-- ==== Sys2Proof/Laws/Shapes.lean ====
section
/-! SUPPORT. What an instruction of each shape does when it is clear to issue: a change of its group alone, a lane result, a lane result with
flags, a predicate, a pair. -/

namespace Sys2Proof.Machine

theorem bit_clear (x : BitVec 128) (n k : Nat) (h : k < 128) : (x &&& ~~~(1#128 <<< n)).getLsbD k = (x.getLsbD k && decide (k ≠ n)) := by
  simp only [BitVec.getLsbD_and, BitVec.getLsbD_not, BitVec.getLsbD_shiftLeft, BitVec.getLsbD_one, h, decide_true, Bool.true_and]
  by_cases hk : k = n
  · subst hk; simp
  · by_cases h2 : k < n
    · simp [h2, hk]
    · have : k - n ≠ 0 := by omega
      simp [h2, hk, this]

theorem Group.v_setV (g : Group) (n k : Nat) (x : Wide) (h : n < 128) : (g.setV n x).v k = if k = n then x else g.v k := by
  simp only [Group.v, Group.setV]
  by_cases hk : k = n
  · subst hk; simp [Vector.getD, h]
  · simp only [hk, if_false, Vector.getD]
    by_cases h2 : k < 128
    · simp [h2, Ne.symm hk]
    · simp [h2]

/-- Writing lanes of a register, seen from any state that has those registers. -/
theorem writesLanes_setLanes {s t : State} {n : Nat} {f : Nat → Word} (h : n < 128)
    (e : t.g.regs = (s.g.setLanes n (s.g.maskAt s.port) f).regs) : WritesLanes s t n f := by
  have hv : ∀ k, t.g.v k = (s.g.setLanes n (s.g.maskAt s.port) f).v k := fun k => by unfold Group.v; rw [e]
  refine ⟨fun j hj => ?_, fun k hk => ?_, fun k hk => ?_, fun k hk => ?_, ?_, ?_, ?_⟩
  · rw [hv, Group.setLanes, Group.v_setV _ _ _ _ h, if_pos rfl, lane_laneWrite _ _ _ _ hj]
  · rw [hv, Group.setLanes, Group.v_setV _ _ _ _ h, if_neg hk]
  · rw [e]; exact bit_clear _ _ _ hk
  · rw [e]; exact bit_clear _ _ _ hk
  · rw [e]; exact ⟨rfl, rfl, rfl⟩
  · rw [e]; rfl
  · rw [e]; rfl

theorem Group.countDraw_shape (g : Group) (p : Port) : g.countDraw p = { g with modes := (g.countDraw p).modes } := by
  cases h : (g.slot p).replay.isSome <;> simp [Group.countDraw, h]

theorem Group.lane_setLanes (g : Group) (n k j : Nat) (m : Lanes) (f : Nat → Word) (h : n < 128) (hj : j < 64) :
    lane ((g.setLanes n m f).v k) j = if k = n ∧ m.getLsbD j = true then f j else lane (g.v k) j := by
  rw [Group.setLanes, Group.v_setV _ _ _ _ h]
  by_cases hk : k = n
  · subst hk; simp [lane_laneWrite _ _ _ _ hj]
  · simp [hk]

/-- Writing lanes of a pair, seen from any state that has those registers. -/
theorem writesPair_setPair {s t : State} {n : Nat} {f : Nat → DWord} (h : n + 1 < 128)
    (e : t.g.regs = (s.g.setPair n (s.g.maskAt s.port) f).regs) : WritesPair s t n f := by
  have hv : ∀ k, t.g.v k = (s.g.setPair n (s.g.maskAt s.port) f).v k := fun k => by unfold Group.v; rw [e]
  have hn : n < 128 := by omega
  refine ⟨fun j hj => ?_, fun j hj => ?_, fun k hk hk' => ?_, fun k hk => ?_, fun k hk => ?_, ?_, ?_, ?_⟩
  · rw [hv, Group.setPair, Group.lane_setLanes _ _ _ _ _ _ h hj, if_neg (by omega), Group.lane_setLanes _ _ _ _ _ _ hn hj]; simp
  · rw [hv, Group.setPair, Group.lane_setLanes _ _ _ _ _ _ h hj, Group.lane_setLanes _ _ _ _ _ _ hn hj]; simp
  · rw [hv]; simp only [Group.setPair, Group.setLanes]
    rw [Group.v_setV _ _ _ _ h, if_neg hk', Group.v_setV _ _ _ _ hn, if_neg hk]
  · rw [e, Group.setPair]; exact (bit_clear _ _ _ hk).trans (congrArg (· && _) (bit_clear _ _ _ hk))
  · rw [e, Group.setPair]; exact (bit_clear _ _ _ hk).trans (congrArg (· && _) (bit_clear _ _ _ hk))
  · rw [e]; simp
  · rw [e]; simp
  · rw [e]; simp

theorem Group.p_setP (g : Group) (n k : Nat) (x : Lanes) (h : n < 8) :
    (g.setP n x).p k = if k = n ∧ n ≠ 7 then x else g.p k := by
  unfold Group.setP
  by_cases hn : n = 7
  · simp [hn]
  · simp only [hn, if_false, Group.p]
    by_cases hk : k = n
    · subst hk; simp [hn, Vector.getD, h]
    · by_cases h7 : k = 7
      · simp [h7, Ne.symm hn]
      · simp only [h7, if_false, hk, false_and, Vector.getD]
        by_cases h2 : k < 8
        · simp [h2, Ne.symm hk]
        · simp [h2]

/-- Writing a predicate, seen from any state that has those registers. -/
theorem writesPred_writePred {s t : State} {n : Nat} {f : Nat → Bool} (h : n < 8)
    (e : t.g.regs = (s.g.writePred s.port n f).regs) : WritesPred s t n f := by
  have hp : ∀ k, t.g.p k = (s.g.writePred s.port n f).p k := fun k => by unfold Group.p; rw [e]
  unfold Group.writePred at hp e
  refine ⟨fun hn j hj => ?_, fun k hk => ?_, ?_, ?_, ?_, ?_⟩
  · rw [hp, Group.p_setP _ _ _ _ h, if_pos ⟨rfl, hn⟩, BitVec.getLsbD_or, getLsbD_predWrite _ _ _ hj]
    simp only [BitVec.getLsbD_and, BitVec.getLsbD_not, hj, decide_true, Bool.true_and]
    cases hm : (s.g.maskAt s.port).getLsbD j <;> simp
  · rw [hp, Group.p_setP _ _ _ _ h, if_neg (by tauto)]
  · rfl
  · rw [e]; simp
  · rw [e]; simp
  · rw [e]; simp

/-- Writing an `s` register, seen from any state that has those registers. -/
theorem writesS_setS {s t : State} {n : Nat} {x : DWord} (h : n < 64) (e : t.g.regs = (s.g.setS n x).regs) : WritesS s t n x := by
  refine ⟨?_, fun k hk => ?_, ?_, ?_, ?_, ?_⟩
  · simp [Group.s, e, Group.setS, Vector.getD, h]
  · simp only [Group.s, e, Group.setS, Vector.getD]
    by_cases h2 : k < 64
    · simp [h2, Ne.symm hk]
    · simp [h2]
  all_goals rw [e]; simp

/-- Writing an `a` register, seen from any state that has those registers. -/
theorem writesA_setA {s t : State} {n : Nat} {x : DWord} (h : n < 32) (e : t.g.regs = (s.g.setA n x).regs) : WritesA s t n x := by
  refine ⟨?_, fun k hk => ?_, ?_, ?_, ?_, ?_⟩
  · simp [Group.a, e, Group.setA, Vector.getD, h]
  · simp only [Group.a, e, Group.setA, Vector.getD]
    by_cases h2 : k < 32
    · simp [h2, Ne.symm hk]
    · simp [h2]
  all_goals rw [e]; simp

/-- A group that differs from another in registers, modes and the marks of flags alone. -/
def OnlyRegs (g h : Group) : Prop := ∃ r m k, h = { g with regs := r, modes := m, flagMarks := k }

theorem OnlyRegs.trans {g h k : Group} (a : OnlyRegs g h) (b : OnlyRegs h k) : OnlyRegs g k := by
  obtain ⟨r, m, k, rfl⟩ := a
  obtain ⟨r', m', k', rfl⟩ := b
  exact ⟨r', m', k', rfl⟩

theorem OnlyRegs.eq {g h : Group} (a : OnlyRegs g h) : h = { g with regs := h.regs, modes := h.modes, flagMarks := h.flagMarks } := by
  obtain ⟨r, m, k, rfl⟩ := a
  rfl

theorem onlyRegs_refl (g : Group) : OnlyRegs g g := ⟨g.regs, g.modes, g.flagMarks, rfl⟩
theorem onlyRegs_setV (g : Group) (n : Nat) (x : Wide) : OnlyRegs g (g.setV n x) := ⟨_, _, _, rfl⟩
theorem onlyRegs_setLanes (g : Group) (n : Nat) (m : Lanes) (f : Nat → Word) : OnlyRegs g (g.setLanes n m f) := onlyRegs_setV _ _ _
theorem onlyRegs_setPair (g : Group) (n : Nat) (m : Lanes) (f : Nat → DWord) : OnlyRegs g (g.setPair n m f) :=
  (onlyRegs_setLanes _ _ _ _).trans (onlyRegs_setLanes _ _ _ _)
theorem onlyRegs_setS (g : Group) (n : Nat) (x : DWord) : OnlyRegs g (g.setS n x) := ⟨_, _, _, rfl⟩
theorem onlyRegs_setA (g : Group) (n : Nat) (x : DWord) : OnlyRegs g (g.setA n x) := ⟨_, _, _, rfl⟩
theorem onlyRegs_raiseFlags (g : Group) (x : DWord) : OnlyRegs g (g.raiseFlags x) := ⟨_, _, _, rfl⟩
theorem onlyRegs_setP (g : Group) (n : Nat) (x : Lanes) : OnlyRegs g (g.setP n x) := by
  unfold Group.setP; split
  · exact onlyRegs_refl g
  · exact ⟨_, _, _, rfl⟩
theorem onlyRegs_writePred (g : Group) (p : Port) (n : Nat) (f : Nat → Bool) : OnlyRegs g (g.writePred p n f) := onlyRegs_setP _ _ _
theorem onlyRegs_noteFlags (g : Group) (p : Port) (m : Lanes) (f : Nat → BitVec 6) : OnlyRegs g (g.noteFlags p m f) := ⟨_, _, _, rfl⟩
theorem onlyRegs_countDraw (g : Group) (p : Port) : OnlyRegs g (g.countDraw p) := ⟨_, _, _, Group.countDraw_shape g p⟩

theorem settle_run_retires {i : Instr} {s : State} {g : Group} (h : Clear i s) (e : g = { s.g with regs := g.regs, modes := g.modes, flagMarks := g.flagMarks }) :
    Retires s (s.settle i (usesOf (s.g.streamAt s.port) i) (.run { s with g := g })) ∧
    Pops i s (s.settle i (usesOf (s.g.streamAt s.port) i) (.run { s with g := g })) ∧
    Steps i s (s.settle i (usesOf (s.g.streamAt s.port) i) (.run { s with g := g })) ∧
    (s.settle i (usesOf (s.g.streamAt s.port) i) (.run { s with g := g })).g.regs = g.regs ∧
    (s.settle i (usesOf (s.g.streamAt s.port) i) (.run { s with g := g })).g.modes = g.modes := by
  have hs : g.slot s.port = s.g.slot s.port := by rw [e]; cases s.port <;> rfl
  have hp : g.pcAt s.port = s.g.pcAt s.port := by rw [e]; cases s.port <;> rfl
  refine ⟨(retires_of none e).1, (retires_of none e).2, ?_, ?_, ?_⟩
  · show (s.g.retire g s.port i _ none false).pcAt s.port = _
    rw [Group.retire_pcAt _ _ _ _ _ _ _ (by rw [hs]; exact h.here), hp]; rfl
  · exact Group.retire_regs _ _ _ _ _ _ _
  · exact Group.retire_modes _ _ _ _ _ _ _

theorem settle_result_retires {i : Instr} {s : State} {g : Group} {x : Wide} (h : Clear i s) (hp : s.port ≠ .setter)
    (e : g = { s.g with regs := g.regs, modes := g.modes, flagMarks := g.flagMarks }) :
    Retires s (s.settle i (usesOf (s.g.streamAt s.port) i) (.result { s with g := g } x)) ∧
    Pops i s (s.settle i (usesOf (s.g.streamAt s.port) i) (.result { s with g := g } x)) ∧
    Steps i s (s.settle i (usesOf (s.g.streamAt s.port) i) (.result { s with g := g } x)) ∧
    ((s.settle i (usesOf (s.g.streamAt s.port) i) (.result { s with g := g } x)).g.slot s.port).latches =
      #v[some (s.g.latched s.port x), (s.g.slot s.port).latches.getD 0 none, (s.g.slot s.port).latches.getD 1 none,
        (s.g.slot s.port).latches.getD 2 none] ∧
    (s.settle i (usesOf (s.g.streamAt s.port) i) (.result { s with g := g } x)).g.regs = g.regs ∧
    (s.settle i (usesOf (s.g.streamAt s.port) i) (.result { s with g := g } x)).g.modes = g.modes := by
  have hs : g.slot s.port = s.g.slot s.port := by rw [e]; cases s.port <;> rfl
  have hc : g.pcAt s.port = s.g.pcAt s.port := by rw [e]; cases s.port <;> rfl
  refine ⟨(retires_of (some x) e).1, (retires_of (some x) e).2, ?_, ?_, ?_, ?_⟩
  · show (s.g.retire g s.port i _ (some x) false).pcAt s.port = _
    rw [Group.retire_pcAt _ _ _ _ _ _ _ (by rw [hs]; exact h.here), hc]; rfl
  · show ((s.g.retire g s.port i _ (some x) false).slot s.port).latches = _
    rw [Group.retire_latches _ _ _ _ _ _ _ hp, hs]
  · exact Group.retire_regs _ _ _ _ _ _ _
  · exact Group.retire_modes _ _ _ _ _ _ _

/-- An instruction that changes registers and modes of its group alone. -/
theorem plain_spec {i : Instr} {s : State} (f : Group → Port → Group) (h : Clear i s)
    (e : OnlyRegs s.g (f s.g s.port)) :
    Retires s (s.plain i f) ∧ Pops i s (s.plain i f) ∧ Steps i s (s.plain i f) ∧
    (s.plain i f).g.regs = (f s.g s.port).regs ∧ (s.plain i f).g.modes = (f s.g s.port).modes := by
  unfold State.plain
  rw [issue_of_clear h]
  exact settle_run_retires (g := f s.g s.port) h e.eq

/-- A lane result: the register, unless the write is suppressed, and the latches. -/
theorem laneOp_spec {i : Instr} {s : State} (d : BitVec 7) (nw : Bool) (f : Group → Port → Nat → Word) (h : Clear i s)
    (hp : s.port ≠ .setter) :
    Retires s (s.laneOp i d nw f) ∧ Pops i s (s.laneOp i d nw f) ∧ Steps i s (s.laneOp i d nw f) ∧
    Latches s (s.laneOp i d nw f) (f s.g s.port) ∧ (s.laneOp i d nw f).g.modes = s.g.modes ∧
    (nw = true → (s.laneOp i d nw f).g.regs = s.g.regs) ∧ (nw = false → WritesLanes s (s.laneOp i d nw f) d.toNat (f s.g s.port)) := by
  unfold State.laneOp
  rw [issue_of_clear h]
  have e : OnlyRegs s.g (if nw then s.g else s.g.setLanes d.toNat (s.g.maskAt s.port) (f s.g s.port)) := by
    cases nw
    · exact onlyRegs_setLanes _ _ _ _
    · exact onlyRegs_refl _
  obtain ⟨h1, h2, h3, h4, h5, h6⟩ := settle_result_retires (x := laneWrite (s.g.pathMask s.port) (f s.g s.port) 0) h hp e.eq
  refine ⟨h1, h2, h3, ⟨_, fun j hj => ?_, h4⟩, h6.trans (by cases nw <;> rfl), fun hw => h5.trans (by simp [hw]), fun hw => ?_⟩
  · rw [lane_laneWrite _ _ _ _ hj]; simp [lane]
  · exact writesLanes_setLanes d.isLt (h5.trans (by simp [hw]))

/-- The group after the effect of an instruction with a lane result and flags. -/
def Group.flagged (g : Group) (p : Port) (d : BitVec 7) (nw draws : Bool) (f : Nat → Word × BitVec 6) : Group :=
  let m := g.maskAt p
  let h := ((if nw then g else g.setLanes d.toNat m (fun j => (f j).1)).raiseFlags (laneFlags m (fun j => (f j).2))).noteFlags p m
    (fun j => (f j).2)
  if draws then h.countDraw p else h

theorem Group.flagged_regs (g : Group) (p : Port) (d : BitVec 7) (nw draws : Bool) (f : Nat → Word × BitVec 6) :
    (g.flagged p d nw draws f).regs = (if nw then g else g.setLanes d.toNat (g.maskAt p) (fun j => (f j).1)).regs := by
  cases draws <;> simp [Group.flagged]

theorem Group.flagged_modes (g : Group) (p : Port) (d : BitVec 7) (nw draws : Bool) (f : Nat → Word × BitVec 6) :
    (g.flagged p d nw draws f).modes = { g.modes with
      fflags := g.modes.fflags ||| laneFlags (g.maskAt p) (fun j => (f j).2)
      rngctr := if draws && (g.slot p).replay.isNone then g.modes.rngctr + 1 else g.modes.rngctr } := by
  have hm : (if nw then g else g.setLanes d.toNat (g.maskAt p) (fun j => (f j).1)).modes = g.modes := by cases nw <;> rfl
  have hs : ((((if nw then g else g.setLanes d.toNat (g.maskAt p) (fun j => (f j).1)).raiseFlags
      (laneFlags (g.maskAt p) (fun j => (f j).2))).noteFlags p (g.maskAt p) (fun j => (f j).2)).slot p) = g.slot p := by
    cases nw <;> cases p <;> rfl
  cases draws with
  | false => simp only [Group.flagged, Bool.false_eq_true, if_false, Bool.false_and, Group.noteFlags, Group.raiseFlags, hm]
  | true =>
    simp only [Group.flagged, if_true, Bool.true_and, Group.countDraw]
    rw [hs]
    cases hx : (g.slot p).replay <;> simp [Group.noteFlags, Group.raiseFlags, hm]

theorem Group.flagged_shape (g : Group) (p : Port) (d : BitVec 7) (nw draws : Bool) (f : Nat → Word × BitVec 6) :
    OnlyRegs g (g.flagged p d nw draws f) := by
  have e : OnlyRegs g (((if nw then g else g.setLanes d.toNat (g.maskAt p) (fun j => (f j).1)).raiseFlags
      (laneFlags (g.maskAt p) (fun j => (f j).2))).noteFlags p (g.maskAt p) (fun j => (f j).2)) := by
    refine (OnlyRegs.trans ?_ (onlyRegs_raiseFlags _ _)).trans (onlyRegs_noteFlags _ _ _ _)
    cases nw
    · exact onlyRegs_setLanes _ _ _ _
    · exact onlyRegs_refl _
  cases draws with
  | false => exact e
  | true => exact e.trans (onlyRegs_countDraw _ _)

/-- A lane result with flags, which may consume a draw. -/
theorem laneFlagOp_spec {i : Instr} {s : State} (d : BitVec 7) (nw draws : Bool) (f : Group → Port → Nat → Word × BitVec 6)
    (h : Clear i s) (hp : s.port ≠ .setter) :
    Retires s (s.laneFlagOp i d nw draws f) ∧ Pops i s (s.laneFlagOp i d nw draws f) ∧ Steps i s (s.laneFlagOp i d nw draws f) ∧
    Latches s (s.laneFlagOp i d nw draws f) (fun j => (f s.g s.port j).1) ∧
    (s.laneFlagOp i d nw draws f).g.modes = { s.g.modes with
      fflags := s.g.modes.fflags ||| laneFlags (s.g.maskAt s.port) (fun j => (f s.g s.port j).2)
      rngctr := if draws && (s.g.slot s.port).replay.isNone then s.g.modes.rngctr + 1 else s.g.modes.rngctr } ∧
    (nw = true → (s.laneFlagOp i d nw draws f).g.regs = s.g.regs) ∧
    (nw = false → WritesLanes s (s.laneFlagOp i d nw draws f) d.toNat (fun j => (f s.g s.port j).1)) := by
  have key : s.laneFlagOp i d nw draws f = s.settle i (usesOf (s.g.streamAt s.port) i)
      (.result { s with g := s.g.flagged s.port d nw draws (f s.g s.port) }
        (laneWrite (s.g.pathMask s.port) (fun j => (f s.g s.port j).1) 0)) := by
    unfold State.laneFlagOp
    rw [issue_of_clear h]
    rfl
  rw [key]
  obtain ⟨h1, h2, h3, h4, h5, h6⟩ := settle_result_retires
    (x := laneWrite (s.g.pathMask s.port) (fun j => (f s.g s.port j).1) 0) h hp (s.g.flagged_shape s.port d nw draws (f s.g s.port)).eq
  rw [Group.flagged_regs] at h5
  rw [Group.flagged_modes] at h6
  refine ⟨h1, h2, h3, ⟨_, fun j hj => ?_, h4⟩, h6, fun hw => ?_, fun hw => ?_⟩
  · rw [lane_laneWrite _ _ _ _ hj]; simp [lane]
  · rw [h5, hw]; rfl
  · subst hw; exact writesLanes_setLanes d.isLt h5

/-- The group after the effect of an instruction with a predicate and flags. -/
def Group.flaggedPred (g : Group) (p : Port) (d : Nat) (f : Nat → Bool × BitVec 6) : Group :=
  let m := g.maskAt p
  ((g.writePred p d (fun j => (f j).1)).raiseFlags (laneFlags m (fun j => (f j).2))).noteFlags p m (fun j => (f j).2)

theorem Group.flaggedPred_regs (g : Group) (p : Port) (d : Nat) (f : Nat → Bool × BitVec 6) :
    (g.flaggedPred p d f).regs = (g.writePred p d (fun j => (f j).1)).regs := rfl

theorem Group.flaggedPred_modes (g : Group) (p : Port) (d : Nat) (f : Nat → Bool × BitVec 6) :
    (g.flaggedPred p d f).modes = { g.modes with fflags := g.modes.fflags ||| laneFlags (g.maskAt p) (fun j => (f j).2) } := by
  simp [Group.flaggedPred, Group.raiseFlags, Group.noteFlags, Group.writePred]

theorem Group.flaggedPred_shape (g : Group) (p : Port) (d : Nat) (f : Nat → Bool × BitVec 6) : OnlyRegs g (g.flaggedPred p d f) :=
  ((onlyRegs_writePred _ _ _ _).trans (onlyRegs_raiseFlags _ _)).trans (onlyRegs_noteFlags _ _ _ _)

/-- A predicate with flags. -/
theorem predOp_spec {i : Instr} {s : State} (d : Nat) (f : Group → Port → Nat → Bool × BitVec 6) (h : Clear i s) :
    Retires s (s.predOp i d f) ∧ Pops i s (s.predOp i d f) ∧ Steps i s (s.predOp i d f) ∧
    (s.predOp i d f).g.regs = (s.g.writePred s.port d (fun j => (f s.g s.port j).1)).regs ∧
    (s.predOp i d f).g.modes = { s.g.modes with
      fflags := s.g.modes.fflags ||| laneFlags (s.g.maskAt s.port) (fun j => (f s.g s.port j).2) } := by
  have key : s.predOp i d f = s.settle i (usesOf (s.g.streamAt s.port) i)
      (.run { s with g := s.g.flaggedPred s.port d (f s.g s.port) }) := by
    unfold State.predOp
    rw [issue_of_clear h]
    rfl
  rw [key]
  obtain ⟨h1, h2, h3, h4, h5⟩ := settle_run_retires h (s.g.flaggedPred_shape s.port d (f s.g s.port)).eq
  rw [Group.flaggedPred_regs] at h4
  rw [Group.flaggedPred_modes] at h5
  exact ⟨h1, h2, h3, h4, h5⟩

/-- A pair in each active lane. -/
theorem pairOp_spec {i : Instr} {s : State} (d : BitVec 7) (f : Group → Port → Nat → DWord) (h : Clear i s) :
    Retires s (s.pairOp i d f) ∧ Pops i s (s.pairOp i d f) ∧ Steps i s (s.pairOp i d f) ∧
    (s.pairOp i d f).g.regs = (s.g.setPair d.toNat (s.g.maskAt s.port) (f s.g s.port)).regs ∧
    (s.pairOp i d f).g.modes = s.g.modes := by
  obtain ⟨h1, h2, h3, h4, h5⟩ := plain_spec (fun g p => g.setPair d.toNat (g.maskAt p) (f g p)) h
    (onlyRegs_setPair s.g d.toNat (s.g.maskAt s.port) (f s.g s.port))
  exact ⟨h1, h2, h3, h4, h5.trans (Group.setPair_modes _ _ _ _)⟩

end Sys2Proof.Machine
end

