-- ==== Sys2Proof/Laws/Step.lean ====
section
/-! SUPPORT. What a turn does: which states an instruction issues in, and when a debug block puts it off. -/

namespace Sys2Proof.Machine

@[simp] theorem State.select_stopped (s : State) (uid : Nat) (p : Port) : (s.select uid p).stopped = s.stopped := by
  unfold State.select
  repeat' split
  all_goals rfl
@[simp] theorem State.select_recorders (s : State) (uid : Nat) (p : Port) : (s.select uid p).recorders = s.recorders := by
  unfold State.select
  repeat' split
  all_goals rfl

@[simp] theorem State.tick_stopped (s : State) : s.tick.stopped = s.stopped := rfl
@[simp] theorem State.tick_agenda (s : State) : s.tick.agenda = s.agenda := rfl
@[simp] theorem State.tick_recorders (s : State) : s.tick.recorders = s.recorders := rfl

/-- A fetch leaves at most a translation. -/
theorem State.remember_eq (s : State) (core : BitVec 10) (root va : Nat) : s.remember core root va = { s with tlb := (s.remember core root va).tlb } := by
  obtain ⟨x, h⟩ : ∃ x, s.remember core root va = { s with tlb := x } := by
    unfold State.remember
    split
    · dsimp only
      split
      · exact ⟨s.tlb, rfl⟩
      · exact ⟨_, rfl⟩
    · exact ⟨s.tlb, rfl⟩
  rw [h]

/-- R26, R166: what the issue of an instruction leaves beside it. -/
theorem State.begun_eq (s : State) : s.begun = { s with tlb := s.begun.tlb, datapaths := s.begun.datapaths } := by
  show { s.fetched with datapaths := s.claim } = _
  rw [State.begun, State.fetched, State.remember_eq]

/-- R284: a group of a grid that no debug block records is never put off. -/
theorem State.reserve_unrecorded {s : State} (h : ∀ d ∈ s.recorders, d.task = s.g.id.task → d.recording = false)
    (o : Host.Outcome State Fault Refusal) : s.reserve o = o := by
  have : s.recorders.find? (fun d => decide (d.task = s.g.id.task) && d.recording) = none := by
    simpa [List.find?_eq_none] using h
  rw [State.reserve, this]

/-- R284: nor is one whose instruction leaves the area room enough. -/
theorem State.reserve_room {s t : State} (h : t.areaShort s.g.id.task = false) : s.reserve (.next t) = .next t := by
  unfold State.reserve
  split
  · rfl
  · next d hd =>
    have := List.find?_some hd
    simp only [Bool.and_eq_true, decide_eq_true_eq] at this
    simp [this.1, h]

/-- R259: a port that may issue, and that comes first or has only to wait, runs the instruction it fetches. -/
theorem State.issueTurn_runs {s : State} {uid : Nat} {p : Port} (hu : (s.select uid p).g.id.uid = uid)
    (hm : (s.select uid p).mayIssue (s.select uid p).g p = true)
    (ho : (s.select uid p).inOrder (s.select uid p).g p = true ∨ (s.select uid p).readyAt (s.select uid p).g p = false) :
    s.issueTurn uid p = (s.select uid p).reserve (exec (s.select uid p).nextInstr (s.select uid p).begun) := if_pos ⟨hu, hm, ho⟩

/-- R331: a module that has stopped takes no turn but POWER_UP. -/
theorem State.take_stopped {s : State} {x : Turn} (h : s.stopped = true) (hx : ∀ m, x ≠ .happen (.powerUp m)) : s.take x = .next s := by
  have : wakesStopped x = false := by
    unfold wakesStopped
    split
    · next m => exact absurd rfl (hx m)
    · rfl
  unfold State.take
  simp [this, h]
theorem State.take_issue {s : State} (h : s.stopped = false) (uid : Nat) (p : Port) : s.take (.issue uid p) = s.issueTurn uid p := by
  unfold State.take
  simp [h]

theorem step_turn {s : State} {x : Turn} {rest : List Turn} (h : s.agenda = x :: rest) :
    step s = ({ s.tick with agenda := rest } : State).take x := by
  rw [step]
  simp only [State.tick_agenda, h]

theorem State.mayIssue_running {s : State} {g : Group} {p : Port} (h : s.mayIssue g p = true) : s.stopped = false := by
  by_contra hs
  simp [State.mayIssue, eq_true_of_ne_false hs] at h

end Sys2Proof.Machine
end

