-- ==== Sys2Proof/Tests/Slice0.lean ====
section
/-! SUPPORT. Tests: words of the spec against the decoder, terms that the check refuses, and for every statement a state and operands that
meet its hypotheses together. -/

namespace Sys2Proof.Tests

set_option Elab.async false

open Sys2Proof.Machine

/-! ### Words written out in the reference pages -/

/-- The word, as the page prints it, decodes in the stream to the instruction, and the instruction encodes to it. -/
def reads (st : Stream) (w : BitVec 32) (i : Instr) : Bool :=
  decide (decode st (w.extractLsb' 0 16) (w.extractLsb' 16 16) = some i) && decide (i.word = w) && i.wf st

/-- R152: the 16-bit forms, from the pages of their instructions. -/
theorem test_words_16 : reads .hitter 0x4152#32 (.xor16 9 5) && reads .hitter 0x1152#32 (.sub16 9 5) && reads .hitter 0x3212#32 (.or16 9 8) &&
    reads .hitter 0x5152#32 (.shl16 9 5) && reads .hitter 0x7152#32 (.mov16 9 5) && reads .hitter 0x8152#32 (.minS3216 9 5) &&
    reads .hitter 0x9152#32 (.maxS3216 9 5) && reads .hitter 0xA152#32 (.mul16 9 5) = true := by decide

/-- R361, R364, R370, R391, R410, R428-R436, R448, R471: integer words. -/
theorem test_words_integer : reads .hitter 0x0509_0501#32 (.add 5 false 9 5) && reads .setter 0x0104_0401#32 (.add 4 false 4 1) &&
    reads .setter 0x0104_0403#32 (.sub 4 false 4 1) && reads .hitter 0x0201_0305#32 (.mul 3 false 1 2) &&
    reads .hitter 0x0604_022D#32 (.addPair 2 4 6) && reads .hitter 0x0402_0033#32 (.addWide 0 2 4) &&
    reads .hitter 0x0402_0035#32 (.subWide 0 2 4) && reads .hitter 0x0201_030B#32 (.madS32 3 1 2) &&
    reads .hitter 0x0201_030D#32 (.madZ32 3 1 2) && reads .hitter 0x0201_0411#32 (.minZ32 4 false 1 2) &&
    reads .hitter 0x0201_0415#32 (.maxZ32 4 false 1 2) && reads .hitter 0x0007_8083#32 (.movi 0 true 7) &&
    reads .hitter 0x3C80_1485#32 (.movh 20 0x3C80) && reads .hitter 0x0209_802B#32 (.abs 0 true 9) &&
    reads .hitter 0x0101_022B#32 (.neg 2 false 1) = true := by decide
theorem test_words_bits : reads .hitter 0xDB95_0817#32 (.and 8 false 0x95 0xDB) && reads .hitter 0x0302_021B#32 (.xor 2 false 2 3) &&
    reads .hitter 0xDC01_0321#32 (.sar 3 false 1 0xDC) && reads .hitter 0xDC95_091F#32 (.shr 9 false 0x95 0xDC) &&
    reads .setter 0x0504_041D#32 (.shl 4 false 4 5) && reads .hitter 0x0201_0325#32 (.bfxS32 3 false 1 2) &&
    reads .hitter 0x0201_0327#32 (.bfxZ32 3 false 1 2) && reads .hitter 0x0201_0429#32 (.bfi 4 1 2) &&
    reads .hitter 0x0601_022B#32 (.brev 2 false 1) && reads .hitter 0x0401_022B#32 (.clz 2 false 1) &&
    reads .hitter 0x0501_022B#32 (.popc 2 false 1) && reads .hitter 0x0301_022B#32 (.not 2 false 1) &&
    reads .hitter 0xE004_0323#32 (.fsh 3 false 4 0xE0) && reads .hitter 0x9410_3137#32 (.sel 17 1 16 0x94) &&
    reads .hitter 0xD808_013B#32 (.cmpZ32P 1 0 8 0xD8) && reads .hitter 0x0201_A339#32 (.cmpS32V 3 2 1 2) = true := by decide

/-- R379, R385, R387, R398-R402, R443, R450, R479, R480: float words. -/
theorem test_words_float : reads .hitter 0x0201_0343#32 (.fadd 3 false 1 2) && reads .hitter 0x0B0A_0C45#32 (.fsub 12 false 10 11) &&
    reads .hitter 0x0F0D_1047#32 (.fmul 16 false 13 15) && reads .hitter 0x0201_0449#32 (.ffma 4 1 2) &&
    reads .hitter 0x0420_434F#32 (.faddH 3 1 2 1) && reads .hitter 0x6020_444F#32 (.ffmaH 4 1 2 0) &&
    reads .hitter 0x0B0A_8C3D#32 (.fcmpF32V 12 0 10 11) && reads .hitter 0x0201_223D#32 (.fcmpF32P 2 2 1 2) &&
    reads .hitter 0x20B0_CA51#32 (.cvt 10 3 11 8) && reads .hitter 0x1091_CB53#32 (.qnt 11 7 9 4) &&
    reads .hitter 0x1010_8355#32 (.dqnt 3 2 1 4) && reads .hitter 0x1020_4357#32 (.xadd 3 1 2 4) &&
    reads .hitter 0x5020_435D#32 (.xmax 3 1 2 0x14) && reads .hitter 0x280C_0D61#32 (.cexp 13 false 12 0x28) &&
    reads .hitter 0x1801_026F#32 (.ctanh 2 false 1 0x18) && reads .hitter 0x0000_0581#32 (.rng 5 false) = true := by decide

/-- R367, R393, R424, R444, R453, R468: cross-lane words. -/
theorem test_words_lanes : reads .hitter 0x0201_0371#32 (.shflIdx 3 false 1 2) && reads .hitter 0xD905_0673#32 (.shflUp 6 false 5 false 0xD9) &&
    reads .hitter 0x9902_0475#32 (.shflDn 4 false 2 false 0x99) && reads .hitter 0xD981_0277#32 (.shflXor 2 false 1 true 0xD9) &&
    reads .hitter 0xD814_1579#32 (.bcast 21 false 20 0xD8) && reads .hitter 0x8228_587B#32 (.lred 11 10 1 8) &&
    reads .hitter 0x0E10_287D#32 (.scan false 5 4 7 0) && reads .hitter 0x1E10_297D#32 (.scan true 5 4 7 1) &&
    reads .hitter 0x2604_007F#32 (.voteAll 1 3) && reads .hitter 0x0C30_007F#32 (.voteBall 12 6) &&
    reads .hitter 0x4400_007F#32 (.elect 2) = true := by decide

/-- R365, R378, R405, R416-R420, R455, R462-R465, R403: memory words. -/
theorem test_words_memory : reads .hitter 0x0000_8187#32 (.ld 1 4 0 0) && reads .setter 0x0102_E487#32 (.ld 4 7 2 8) &&
    reads .hitter 0x8006_8291#32 (.ldAcq 2 4 6 4) && reads .setter 0x0083_818F#32 (.ldq 1 4 3 4) &&
    reads .hitter 0x0007_828B#32 (.lds 2 4 7 0) && reads .hitter 0x2807_8391#32 (.ldsAcq 3 4 7 1) &&
    reads .hitter 0x0802_2B89#32 (.st 11 1 2 64) && reads .hitter 0x2002_8589#32 (.st 5 4 2 0x100) &&
    reads .hitter 0x2404_B291#32 (.stRel 18 5 4 1) && reads .hitter 0x2E07_B18D#32 (.sts 17 5 7 368) &&
    reads .hitter 0x2C07_A191#32 (.stsRel 1 5 7 1) && reads .hitter 0x0622_8B93#32 (.gth 3 1 5 8 3) &&
    reads .hitter 0x0622_B393#32 (.sct 3 2 5 8 3) && reads .hitter 0x0820_5393#32 (.stm 3 2 8 4) = true := by decide
theorem test_words_atomics : reads .hitter 0x2824_20D7#32 (.atom 0 0 1 0 9 20) && reads .hitter 0x0617_C3D7#32 (.atom 3 0 2 7 5 3) &&
    reads .hitter 0x2C1C_3CD7#32 (.atom 4 3 1 0 7 22) && reads .hitter 0x082B_60D7#32 (.atom 0 0 3 6 10 4) &&
    reads .hitter 0x0814_60D9#32 (.cas 0 0 3 5 4) && reads .hitter 0x0000_0BD5#32 (.fence 3 1) && reads .setter 0x0000_1BD5#32 (.fence 3 3) &&
    reads .hitter 0x00D8_01DB#32 (.barArv 1 0xD8) && reads .hitter 0x99D8_00DD#32 (.barWait 0xD8 0x99) = true := by decide

/-- R362, R363, R391, R396, R400, R404, R426-R428, R437, R439: words of the matrix engine. -/
theorem test_words_matrix : reads .hitter 0x0504_06A9#32 (.pmul 6 4 5) && reads .hitter 0x8506_03AD#32 (.extrS32 3 6 0x85) &&
    reads .hitter 0x9A06_08AF#32 (.extrS64 8 6 0x9A) && reads .hitter 0x0002_05A1#32 (.packS32 5 2) &&
    reads .hitter 0x0080_04A7#32 (.packRevZ32 4 0x80) && reads .hitter 0xF0F8_00B1#32 (.gset 0xF8 0xF0) &&
    reads .hitter 0x1008_03B3#32 (.mma 3 8 16) && reads .hitter 0x4028_02B5#32 (.mmaSp 2 40 64) && reads .hitter 0x1008_01B7#32 (.mmd 1 8 16) &&
    reads .hitter 0x0000_01B9#32 (.mmdLd 1) && reads .hitter 0x0000_00BD#32 (.acz 0) && reads .hitter 0x009B_01BF#32 (.acrd 1 155) &&
    reads .hitter 0x0004_03C1#32 (.acwr 3 4) && reads .hitter 0x0000_03C3#32 (.drain 3) && reads .hitter 0x0000_00C5#32 (.drainT 0) = true := by
  decide

/-- R343, R358, R375, R407-R409, R432, R438, R441, R446, R459, R472, R477, R478, R482: words of control. -/
theorem test_words_control : reads .hitter 0x0020_0197#32 (.call 128) && reads .hitter 0x0020_0097#32 (.jmp 128) &&
    reads .hitter 0x0002_8297#32 (.setrj 10) && reads .hitter 0x0000_0199#32 .join && reads .setter 0x0000_0399#32 .exit &&
    reads .hitter 0x0000_0499#32 .acquire && reads .hitter 0x0000_0599#32 .release && reads .hitter 0x009A_089D#32 (.wrst 8 0x9A) &&
    reads .hitter 0x0001_019B#32 (.rdst 1 1 0) && reads .setter 0x0207_049B#32 (.rdst 4 7 2) && reads .hitter 0x0086_02C7#32 (.wait 2 0x86) &&
    reads .hitter 0x0000_00E3#32 .yield && reads .hitter 0x00DD_00E5#32 (.prio 0xDD) && reads .hitter 0x00DF_00E9#32 (.trap 0xDF) &&
    reads .handler 0x0000_00EB#32 .eret && reads .handler 0x0000_01EB#32 .eretEnd && reads .handler 0x0000_00ED#32 .replay = true := by decide
theorem test_words_moves : reads .hitter 0x0084_062B#32 (.mov 6 false 0x84) && reads .setter 0x0009_042B#32 (.mov 4 false 9) &&
    reads .setter 0x0004_202B#32 (.movPush 0 4) && reads .hitter 0x0784_032B#32 (.movS 3 0x84) && reads .hitter 0x0801_032B#32 (.movHi 3 1) = true :=
  by decide

/-- R374, R376, R377, R395, R411-R415, R456-R461, R473-R476: words of tasks, engines, caches and mailboxes. -/
theorem test_words_engines : reads .setter 0x0106_00C9#32 (.cpy 6 1) && reads .hitter 0x9CD8_00CB#32 (.cpyg 0xD8 0x9C) &&
    reads .hitter 0x00D8_00CD#32 (.shmap 0xD8) && reads .hitter 0x9D9C_00D1#32 (.shlit 0x9C 0x9D) && reads .hitter 0xDA9C_00D3#32 (.shfade 0x9C 0xDA) &&
    reads .hitter 0xD89C_00CF#32 (.litscan 0x9C 0xD8) && reads .hitter 0x00D8_04DF#32 (.launch 4 0xD8) && reads .hitter 0x00A1_02E1#32 (.cancel 2 0xA1) &&
    reads .hitter 0x00D8_03E7#32 (.echo 3 0xD8) && reads .hitter 0x1410_28EF#32 (.kvx 0 5 4 10) && reads .hitter 0x2C50_06F1#32 (.kvxW 6 0 20 22) &&
    reads .hitter 0x2854_9EF3#32 (.kvfork 6 19 21 20) && reads .hitter 0x0A4C_86F5#32 (.kvskip 6 16 19 5) &&
    reads .hitter 0x0450_06F7#32 (.kvrel 6 20 2) && reads .hitter 0x87D8_03F9#32 (.vserve 3 0xD8 0x87) &&
    reads .setter 0x0A09_00FB#32 (.vcatch 9 10) && reads .hitter 0x00D8_01FD#32 (.vpoll 1 0xD8) = true := by decide

/-! ### Ill-formed terms, one for each check -/

/-- R37: with `nw` set the destination field is zero. -/
theorem test_wf_nw : Instr.wf .hitter (.add 1 true 2 3) = false ∧ Instr.wf .hitter (.add 0 true 2 3) = true := by decide
/-- R352: pairs are even. -/
theorem test_wf_pairs : Instr.wf .hitter (.addPair 3 4 6) = false ∧ Instr.wf .hitter (.addPair 2 5 6) = false ∧
    Instr.wf .hitter (.addWide 0 2 0x84) = false ∧ Instr.wf .hitter (.cvt 3 2 0 13) = false ∧ Instr.wf .hitter (.cvt 2 3 14 0) = false ∧
    Instr.wf .hitter (.ld 1 6 0 0) = false ∧ Instr.wf .hitter (.gth 0 0 4 9 3) = false ∧ Instr.wf .hitter (.pmul 7 4 5) = false := by decide
/-- R114, R347, R352: operands that must be uniform, `v`, `a` or `s` registers. -/
theorem test_wf_operands : Instr.wf .hitter (.bcast 1 false 2 3) = false ∧ Instr.wf .hitter (.prio 0x95) = false ∧
    Instr.wf .hitter (.pmul 6 4 0x98) = false ∧ Instr.wf .setter (.add 32 false 1 2) = false ∧ Instr.wf .setter (.add 1 false 32 2) = false ∧
    Instr.wf .hitter (.movS 64 1) = false ∧ Instr.wf .hitter (.acrd 1 0x97) = false ∧ Instr.wf .hitter (.acwr 3 0x84) = false ∧
    Instr.wf .hitter (.mma 3 121 16) = false ∧ Instr.wf .hitter (.kvskip 0 0 0 8) = false := by decide
/-- R64: one queue popped twice. -/
theorem test_wf_pops : Instr.wf .hitter (.add 1 false 0x85 0x85) = false ∧ Instr.wf .hitter (.add 1 false 0x85 0x86) = true := by decide
/-- R348, R387, R479: type codes. -/
theorem test_wf_types : Instr.wf .hitter (.cvt 1 2 15 0) = false ∧ Instr.wf .hitter (.qnt 1 2 3 6) = false ∧
    Instr.wf .hitter (.xadd 1 2 3 2) = false ∧ Instr.wf .hitter (.faddH 1 2 3 2) = false ∧ Instr.wf .hitter (.lred 1 2 3 13) = false := by decide
/-- R339, R340, R405, R455: stores, alternate data and scopes. -/
theorem test_wf_memory : Instr.wf .hitter (.st 8 4 0 0) = false ∧ Instr.wf .hitter (.st 1 6 0 0) = false ∧ Instr.wf .hitter (.st 1 7 0 0) = false ∧
    Instr.wf .hitter (.ldAcq 1 4 0 7) = false ∧ Instr.wf .hitter (.gth 3 0 4 8 3) = false ∧ Instr.wf .hitter (.fence 3 0) = false ∧
    Instr.wf .hitter (.atom 7 0 1 0 2 3) = false ∧ Instr.wf .setter (.ldq 8 4 0 0) = false := by decide
/-- R367, R379, R380, R392, R446, R478: codes out of range. -/
theorem test_wf_codes : Instr.wf .hitter (.br 3 false 0 0) = false ∧ Instr.wf .hitter (.cexp 1 false 2 3) = false ∧
    Instr.wf .hitter (.cexp 1 false 2 41) = false ∧ Instr.wf .hitter (.cmpS32P 1 6 2 3) = false ∧ Instr.wf .hitter (.fcmpF32P 1 7 2 3) = false ∧
    Instr.wf .hitter (.rdst 1 22 0) = false ∧ Instr.wf .hitter (.wrst 7 0x98) = false ∧ Instr.wf .hitter (.wrst 16 0x98) = false := by decide
/-- R357: a stream that does not have the instruction, and a happening, which no word encodes. -/
theorem test_wf_streams : Instr.wf .setter .join = false ∧ Instr.wf .hitter .eret = false ∧ Instr.wf .handler .eret = true ∧
    Instr.wf .hitter (.movPush 0 4) = false ∧ Instr.wfSome (.launchCommand 0) = false ∧ Instr.wfSome .illegalInstruction = false := by decide

/-! ### Small states -/

/-- `Clear`, to be evaluated. -/
def clear (i : Instr) (s : State) : Bool :=
  let u := usesOf (s.g.streamAt s.port) i
  decide (s.port = .setter ∨ (s.g.slot s.port).path.isSome = true) && i.legalIn (s.g.streamAt s.port) &&
  decide (u.last = false ∧ u.pops = [] ∨ s.goesOn i u = false) && u.vs.all (fun n => decide (n < s.g.regs.allot)) &&
  u.latches.all (fun n => ((s.g.slot s.port).latches.getD n none).isSome) && u.queues.all (fun n => (s.g.queueEntry s.port n).isSome) &&
  decide (u.queues = [] ∨ s.g.diverged = false) && s.g.inflight.all (fun f => f.done || !f.dest.hits u) &&
  decide (s.port = .setter ∨ s.g.holdsIssue s.port = false) && s.copyTrap.isNone

theorem clear_spec {i : Instr} {s : State} (h : clear i s = true) : Clear i s := by
  simp only [clear, Bool.and_eq_true, decide_eq_true_eq, List.all_eq_true, Bool.or_eq_true, Bool.not_eq_true', Option.isNone_iff_eq_none] at h
  obtain ⟨⟨⟨⟨⟨⟨⟨⟨⟨h1, h2⟩, h3⟩, h4⟩, h5⟩, h6⟩, h7⟩, h8⟩, h9⟩, h10⟩ := h
  exact ⟨h1, h2, h3, h4, h5, h6, h7, h8, h9, h10⟩

/-- A path of all lanes with a pending rejoin. -/
def path0 : Path where
  pc := 0x4000_0000
  mask := BitVec.allOnes 64
  rejoin := some 0x4000_0100
  waiting := false

/-- A group of task 1 in team 1 on core 0 with an allotment of 64 registers, and its address space at 0. -/
def grp0 : Group := { Group.launch with
  id := { Ident.none with uid := 1, present := true, task := 1, team := 1, full := 64 }
  regs := { Regs.launch with allot := 64 }
  slot0 := { Slot.empty with path := some path0 }
  setPc := 0x4000_1000
  setExited := false }

/-- The module with that group at slot 0. -/
def st0 : State := { State.reset with bootStage := 3, nextUid := 2, g := grp0 }

/-- The same with the setter at the issue port. -/
def st0S : State := { st0 with port := .setter }

/-- The same with a change of the group. -/
def st0With (f : Group → Group) : State := { st0 with g := f grp0 }

/-! ### Hypotheses that meet: registers and control -/

theorem met_LaneResults : (Claims.laneValue (.add 1 false 2 3)).isSome = true ∧ st0.port ≠ .setter ∧ Clear (.add 1 false 2 3) st0 :=
  ⟨rfl, by decide, clear_spec (by decide +kernel)⟩
theorem met_FlaggedLaneResults : (Claims.flagValue (.fadd 63 false 2 3)).isSome = true ∧ st0.port ≠ .setter ∧ Clear (.fadd 63 false 2 3) st0 :=
  ⟨rfl, by decide, clear_spec (by decide +kernel)⟩
theorem met_PredicateResults : (Claims.predValue (.cmpS32P 7 5 2 3)).isSome = true ∧ st0.port ≠ .setter ∧ Clear (.cmpS32P 7 5 2 3) st0 :=
  ⟨rfl, by decide, clear_spec (by decide +kernel)⟩
theorem met_PairResults : ((Claims.pairValue (.addPair 62 4 6)).isSome = true ∧ Clear (.addPair 62 4 6) st0) ∧
    (is64Type 13 = true ∧ Clear (.cvt 2 4 0 13) st0) ∧ st0.port ≠ .setter :=
  ⟨⟨rfl, clear_spec (by decide +kernel)⟩, ⟨by decide, clear_spec (by decide +kernel)⟩, by decide⟩
theorem met_WideResults : st0.port ≠ .setter ∧ Clear (.addWide 62 2 4) st0 ∧ Clear (.subWide 0 62 4) st0 :=
  ⟨by decide, clear_spec (by decide +kernel), clear_spec (by decide +kernel)⟩
theorem met_SetterResults : (Claims.setterValue (.add 31 false 0 31)).isSome = true ∧ st0S.port = .setter ∧ Clear (.add 31 false 0 31) st0S :=
  ⟨rfl, rfl, clear_spec (by decide +kernel)⟩
theorem met_UniformResults : (Claims.uniformValue (.movS 63 2)).isSome = true ∧ st0.port ≠ .setter ∧ Clear (.movS 63 2) st0 ∧
    Clear (.rdst 1 21 0) st0 :=
  ⟨rfl, by decide, clear_spec (by decide +kernel), clear_spec (by decide +kernel)⟩
/-- The same group as a run in the handler slot. -/
def asRun (g : Group) : Group := { g with id := { g.id with kind := .handler } }
theorem met_YieldSwitches : (st0.port ≠ .setter ∧ Clear .yield st0 ∧ st0.g.id.kind = .ordinary) ∧
    (Clear .yield (st0With asRun) ∧ (st0With asRun).g.id.kind ≠ .ordinary) ∧ st0S.port = .setter ∧ st0S.g.id.kind = .ordinary :=
  ⟨⟨by decide, clear_spec (by decide +kernel), rfl⟩, ⟨clear_spec (by decide +kernel), by decide⟩, rfl, rfl⟩
theorem met_PriorityAndQuiet : Clear (.prio 0xDD) st0 ∧ (Clear .nop st0S ∧ Claims.quiet .nop st0S) ∧
    (Clear .acquire st0 ∧ Claims.quiet .acquire st0) ∧ (Clear .join st0 ∧ Claims.quiet .join st0) ∧
    (Clear (.wait 0 0xD8) st0 ∧ Claims.quiet (.wait 0 0xD8) st0) :=
  ⟨clear_spec (by decide +kernel), ⟨clear_spec (by decide +kernel), Or.inl rfl⟩,
    ⟨clear_spec (by decide +kernel), Or.inr (Or.inr (Or.inl ⟨rfl, by decide⟩))⟩,
    ⟨clear_spec (by decide +kernel), Or.inr (Or.inr (Or.inr (Or.inl ⟨rfl, fun _ _ _ h => by cases h⟩)))⟩,
    ⟨clear_spec (by decide +kernel), Or.inr (Or.inr (Or.inr (Or.inr ⟨0, 0xD8, rfl, by decide +kernel⟩)))⟩⟩

/-- The group after a `release`, and parked on `acquire`. -/
def released (g : Group) : Group := { g with regs := { g.regs with allot := 24 } }
def acquiring (g : Group) : Group := { released g with slot0 := { (released g).slot0 with wait := .acquire } }

theorem met_AllotmentChanges : (st0.port ≠ .setter ∧ Clear .release st0 ∧ st0.g.diverged = false ∧ st0.g.id.kind = .ordinary ∧
      24 < st0.g.regs.allot ∧ st0.g.pendingUpper = false) ∧
    (let s := st0With released; Clear .acquire s ∧ s.g.diverged = false ∧ s.g.regs.allot < s.g.id.full) ∧
    (let s := st0With acquiring; s.g.id.present = true ∧ (∀ h ∈ s.others, h.id.uid ≠ s.g.id.uid) ∧ s.g.spilled = false ∧ s.g.residentOn 0 = true ∧ s.g.portWhere (fun w => decide (w = .acquire)) = some s.port ∧
      (s.g.slot s.port).path.isSome = true ∧ (∀ h ∈ s.residents 0, h.acquiring = true → h = s.g ∨ s.g.age < h.age) ∧
      (s.residents 0).foldl (fun n h => n + h.regs.allot) 0 + (s.g.id.full - s.g.regs.allot) ≤ 3072 ∧ s.inHandler s.g = false ∧
      (∀ h ∈ s.groups, h.stopped = false) ∧ (s.residents 0).all Group.acquiring = true) :=
  ⟨⟨by decide, clear_spec (by decide +kernel), by decide +kernel, rfl, by decide, by decide +kernel⟩,
    ⟨clear_spec (by decide +kernel), by decide +kernel, by decide⟩,
    ⟨rfl, by decide +kernel, rfl, by decide +kernel, by decide +kernel, by decide, by decide +kernel, by decide +kernel⟩⟩

/-- Lanes that do not agree on `p1`. -/
def halfP1 (g : Group) : Group := { g with regs := { g.regs with p := g.regs.p.set 1 0xFFFF_FFFF#64 } }
def noRejoin (g : Group) : Group := { halfP1 g with slot0 := { (halfP1 g).slot0 with path := some { path0 with rejoin := none } } }
/-- A stack with room for no record. -/
def fullStack (g : Group) : Group := { halfP1 g with stack := List.replicate 128 (.record 0x4000_0200 0 0) }

theorem met_Branches : (Clear (.br 0 false 1 5) st0 ∧ (st0.g.slot st0.port).path = some path0 ∧ (st0.g.slot st0.port).replay = none ∧
      path0.mask &&& st0.g.p 1 = 0) ∧
    (let s := st0With halfP1; Clear (.br 0 false 1 5) s ∧ Clear (.br 2 false 1 5) s ∧ path0.mask &&& ~~~(s.g.p 1) ≠ 0 ∧ path0.mask &&& s.g.p 1 ≠ 0 ∧
      (s.g.slot s.port).path = some path0 ∧ (s.g.slot s.port).replay = none ∧ (s.g.slot s.port).chain = none ∧ path0.rejoin.isSome = true ∧
      s.g.stack.length + (if (s.g.slot (otherSlot s.port)).path.isNone then 1 else 2) ≤ 128) ∧
    (let s := st0With noRejoin; Clear (.br 0 false 1 5) s ∧ ∃ q, (s.g.slot s.port).path = some q ∧ q.rejoin = none ∧ q.mask &&& ~~~(s.g.p 1) ≠ 0 ∧
      q.mask &&& s.g.p 1 ≠ 0) ∧
    (let s := st0With fullStack; Clear (.br 0 false 1 5) s ∧
      128 < s.g.stack.length + (if (s.g.slot (otherSlot s.port)).path.isNone then 1 else 2)) :=
  ⟨⟨clear_spec (by decide +kernel), rfl, rfl, by decide +kernel⟩,
    ⟨clear_spec (by decide +kernel), clear_spec (by decide +kernel), by decide +kernel, by decide +kernel, rfl, rfl, rfl, rfl, by decide +kernel⟩,
    ⟨clear_spec (by decide +kernel), _, rfl, rfl, by decide +kernel, by decide +kernel⟩,
    ⟨clear_spec (by decide +kernel), by decide +kernel⟩⟩
theorem met_JumpsAndRejoins : Clear (.jmp 5) st0 ∧ Clear (.jmp 5) st0S ∧ Clear (.call 5) st0 ∧ Clear (.call 5) st0S ∧ Clear .ret st0 ∧ Clear .ret st0S ∧
    Clear (.setrj 5) st0 ∧ (st0.g.slot st0.port).path = some path0 ∧ (st0.g.slot st0.port).replay = none :=
  ⟨clear_spec (by decide +kernel), clear_spec (by decide +kernel), clear_spec (by decide +kernel), clear_spec (by decide +kernel),
    clear_spec (by decide +kernel), clear_spec (by decide +kernel), clear_spec (by decide +kernel), rfl, rfl⟩

/-- Two paths that are to meet at the first one's address. -/
def low : Path := { path0 with mask := 0xFFFF_FFFF#64 }
def high : Path where
  pc := 0x4000_0080
  mask := 0xFFFF_FFFF_0000_0000#64
  rejoin := none
  waiting := false
def meeting (g : Group) : Group := { g with
  slot0 := { g.slot0 with path := some low }
  slot1 := { g.slot1 with path := some high }
  stack := [.record 0x4000_0000 (BitVec.allOnes 64) 0] }

theorem met_JoinsAndExits : (let s := st0With meeting; Clear .join s ∧ (s.g.slot s.port).path = some low ∧ (s.g.slot s.port).replay = none ∧
      low.mask ≠ 0 ∧ recordFor low.mask s.g.stack = some (low.pc, BitVec.allOnes 64, 0) ∧
      BitVec.allOnes 64 &&& ~~~((0 : Lanes) ||| low.mask ||| s.g.exited) ≠ 0 ∧ s.g.slotMask (otherSlot s.port) &&& BitVec.allOnes 64 ≠ 0 ∧
      dueRecord s.g.exited s.g.stack = none ∧ s.g.givesUp (otherSlot s.port) = false ∧
      dueRecord s.g.exited (withRecord low.mask (fun _ => [.record low.pc (BitVec.allOnes 64) ((0 : Lanes) ||| low.mask)]) s.g.stack) = none) ∧
    (st0S.port = .setter ∧ Clear .exit st0S ∧ st0S.g.id.kind = .ordinary) ∧
    (Clear .exit st0 ∧ st0.g.id.kind = .ordinary ∧ st0.g.id.present = true ∧ (∀ r ∈ st0.pme, r.checked = true) ∧ st0.g.stack = [] ∧
      (st0.g.slot (otherSlot st0.port)).path = none) :=
  ⟨⟨clear_spec (by decide +kernel), rfl, rfl, by decide +kernel, by decide +kernel, by decide +kernel, by decide +kernel, by decide +kernel,
    by decide +kernel, by decide +kernel⟩, ⟨rfl, clear_spec (by decide +kernel), rfl⟩,
    clear_spec (by decide +kernel), rfl, rfl, by decide, rfl, rfl⟩

theorem met_ModesMustAgree : ∀ i ∈ [(.acquire : Instr), .release], let s := st0With meeting; Clear i s ∧ s.g.diverged = true ∧ s.g.id.kind = .ordinary ∧
    (s.g.slot s.port).chain = none := by
  intro i hi
  fin_cases hi <;> exact ⟨clear_spec (by decide +kernel), by decide +kernel⟩

/-- A record of all lanes of which none has arrived, and a path of the last lanes. -/
def outer : StackEntry := .record 0x4000_0200 (BitVec.allOnes 64) 0
def last : Path := { high with mask := 0xFFFF_0000_0000_0000#64 }
/-- The second path has arrived, and the stack holds its record. -/
def arrived (top : List StackEntry) (g : Group) : Group := { g with
  slot0 := { g.slot0 with path := some low }
  slot1 := { g.slot1 with path := some { high with pc := 0x4000_0000, waiting := true } }
  stack := top ++ [.record 0x4000_0000 (BitVec.allOnes 64) 0xFFFF_FFFF_0000_0000] }
/-- A path of the outer record waits on the stack, under the record of the two. -/
def waiting0 (g : Group) : Group := { arrived [] g with
  slot0 := { g.slot0 with path := some { low with mask := 0xFFFF } }
  slot1 := { g.slot1 with path := some { high with pc := 0x4000_0000, mask := 0xFFFF_0000, waiting := true } }
  stack := [.record 0x4000_0000 0xFFFF_FFFF 0xFFFF_0000, .path high, outer] }
/-- The other slot holds a path of other lanes. -/
def apart (g : Group) : Group := { waiting0 g with
  slot1 := { g.slot1 with path := some high }
  stack := [.record 0x4000_0000 0xFFFF_FFFF 0xFFFF_0000, outer] }

/-- What every merge asks, of the path at the port, its record, and the stack that is left. -/
def merges (s : State) (q : Path) (u a : Lanes) : Prop :=
  let arr := withRecord q.mask (fun _ => [.record q.pc u (a ||| q.mask)]) s.g.stack
  (s.g.slot s.port).path = some q ∧ (s.g.slot s.port).replay = none ∧ recordFor q.mask s.g.stack = some (q.pc, u, a) ∧ q.mask &&& u ≠ 0 ∧
    u &&& ~~~(a ||| q.mask ||| s.g.exited) = 0 ∧ u &&& ~~~s.g.exited ≠ 0 ∧ dueRecord s.g.exited arr = some (q.pc, u) ∧
    dueRecord s.g.exited (dropRecord u arr) = none

theorem met_JoinMerges : (let s := st0With (arrived []); Clear .join s ∧ merges s low (BitVec.allOnes 64) 0xFFFF_FFFF_0000_0000 ∧
      ∃ o, s.g.slot1.path = some o ∧ o.waiting = true ∧ o.mask &&& BitVec.allOnes 64 ≠ 0 ∧ popPath (dropRecord (BitVec.allOnes 64) s.g.stack) = none) ∧
    (let s := st0With waiting0; Clear .join s ∧ merges s { low with mask := 0xFFFF } 0xFFFF_FFFF 0xFFFF_0000 ∧
      (∃ o, s.g.slot1.path = some o ∧ o.waiting = true ∧ o.mask &&& 0xFFFF_FFFF ≠ 0) ∧
      popPath (dropRecord 0xFFFF_FFFF s.g.stack) = some (high, [outer]) ∧ high.mask &&& ~~~s.g.exited ≠ 0 ∧ high.waiting = false ∧
      dueRecord s.g.exited [outer] = none) ∧
    (let s := st0With apart; Clear .join s ∧ merges s { low with mask := 0xFFFF } 0xFFFF_FFFF 0xFFFF_0000 ∧ s.g.slot1.path = some high ∧
      high.waiting = false) := by
  unfold merges
  exact ⟨⟨clear_spec (by decide +kernel), by decide +kernel, _, rfl, by decide +kernel⟩,
    ⟨clear_spec (by decide +kernel), by decide +kernel, ⟨_, rfl, by decide +kernel⟩, by decide +kernel⟩,
    clear_spec (by decide +kernel), by decide +kernel⟩

/-- The path at the port is about to exit: the other one goes on, another one waits on the stack, or the other one has arrived at its rejoin. -/
def leaving (w : Bool) (stack : List StackEntry) (g : Group) : Group := { g with
  slot0 := { g.slot0 with path := some low }
  slot1 := { g.slot1 with path := some { high with mask := 0xFFFF_0000_0000, pc := 0x4000_0000, waiting := w } }
  stack := stack }
/-- What every `exit` beside another path asks. -/
def exits (s : State) (o : Path) (w : Bool) : Prop :=
  s.g.id.kind = .ordinary ∧ (s.g.slot s.port).replay = none ∧ s.g.slot1.path = some o ∧ s.g.slot1.replay = none ∧
    o.mask &&& ~~~(s.g.exited ||| s.g.maskAt s.port) ≠ 0 ∧ o.waiting = w

theorem met_ExitGoesOn : (let s := st0With (leaving false [outer]); let e := s.g.exited ||| s.g.maskAt s.port
      Clear .exit s ∧ (∃ o, exits s o false) ∧ dueRecord e s.g.stack = none ∧ popPath s.g.stack = none) ∧
    (let s := st0With (leaving false [.path last, outer]); let e := s.g.exited ||| s.g.maskAt s.port
      Clear .exit s ∧ (∃ o, exits s o false) ∧ dueRecord e s.g.stack = none ∧ popPath s.g.stack = some (last, [outer]) ∧
        last.mask &&& ~~~e ≠ 0 ∧ last.waiting = false ∧ dueRecord e [outer] = none) ∧
    (let s := st0With (leaving true [.record 0x4000_0000 0xFFFF_FFFF_FFFF 0xFFFF_0000_0000]); let e := s.g.exited ||| s.g.maskAt s.port
      Clear .exit s ∧ (∃ o, exits s o true ∧ o.mask &&& ~~~e &&& 0xFFFF_FFFF_FFFF ≠ 0) ∧
        dueRecord e s.g.stack = some (0x4000_0000, 0xFFFF_FFFF_FFFF) ∧ dropRecord 0xFFFF_FFFF_FFFF s.g.stack = []) := by
  unfold exits
  exact ⟨⟨clear_spec (by decide +kernel), ⟨_, rfl, rfl, rfl, rfl, by decide +kernel, rfl⟩, by decide +kernel⟩,
    ⟨clear_spec (by decide +kernel), ⟨_, rfl, rfl, rfl, rfl, by decide +kernel, rfl⟩, by decide +kernel⟩,
    clear_spec (by decide +kernel), ⟨_, ⟨rfl, rfl, rfl, rfl, by decide +kernel, rfl⟩, by decide +kernel⟩, by decide +kernel⟩

/-- A load into `v5` in flight. -/
def pendingV5 (g : Group) : Group := { g with
  inflight := [{ serial := 0, path := some 0, kind := .store, dest := .v 5 false, lanes := BitVec.allOnes 64, pc := 0, done := false }] }

theorem met_ChecksBeforeIssue : (∀ x ∈ [((.eret : Instr), Cause.illegal), (.add 64 false 2 3, Cause.regUnallotted),
      (.add 1 false 128 3, Cause.latchInvalid), (.mmc 60 0 0xDC, Cause.regUnallotted)],
      x.1.isEncoded = true ∧ st0.preTrap x.1 (usesOf (st0.g.streamAt st0.port) x.1) = some x.2) ∧ st0.g.id.kind = .ordinary ∧
      (st0.g.slot st0.port).chain = none ∧ st0.g.holdsIssue st0.port = false ∧ (engineFormat (st0.g.operand32 st0.port 0xDC)).isSome = true ∧
    (let s := st0With (fun g => { g with setExited := true });
      s.preTrap (.add 1 false 132 3) (usesOf (s.g.streamAt s.port) (.add 1 false 132 3)) = some Cause.queueEmpty) ∧
    (let s := st0With meeting; s.preTrap (.add 1 false 132 3) (usesOf (s.g.streamAt s.port) (.add 1 false 132 3)) = some Cause.queueDiverged) ∧
    (let s := st0With pendingV5; let i : Instr := .add 1 false 5 3; i.isEncoded = true ∧
      s.preTrap i (usesOf (s.g.streamAt s.port) i) = none ∧ s.g.holdsIssue s.port = false ∧ s.mustWait (usesOf (s.g.streamAt s.port) i) = true) :=
  ⟨by decide +kernel, rfl, rfl, by decide +kernel, by decide +kernel, by decide +kernel, by decide +kernel, by decide +kernel⟩

/-! ### Hypotheses that meet: memory -/

/-- Two tables at 0x10_0000 that map the gigabyte from 0x4000_0000 onto the first of device memory, with every permission. -/
def tables : Mem := Memory.writeNat (Memory.writeNat [] 0x10_0000 8 0x11_0001) 0x11_0008 8 0x1F

/-- The same group on lanes 0 and 63, with its address space at those tables, and a team with a scratchpad window of 65,536 bytes; its base
register `a1` and the pair `v8:v9` name the mapped address 0x4000_0040. -/
def grp1 : Group := { grp0 with
  id := { grp0.id with root := 0x10_0000 }
  slot0 := { grp0.slot0 with path := some { path0 with mask := 0x8000_0000_0000_0001#64 } }
  regs := { grp0.regs with
    v := grp0.regs.v.set 8 (BitVec.ofNat 2048 (0x4000_0040 + 0x4000_0080 * 2 ^ 2016))
    a := grp0.regs.a.set 1 0x4000_0040
    aLaunch := grp0.regs.aLaunch.set 1 0x4000_0040 } }
def team1 : Team where
  uid := 1
  task := 1
  teamId := 0
  core := 0
  base := 0
  size := 65536
  spad := []
  saved := none
def st1 : State := { st0 with g := grp1, mem := tables, teams := [team1] }
def st1With (f : Group → Group) : State := { st1 with g := f grp1 }

/-- What `Claims.passes` asks, to be evaluated, and the place it gives. -/
def passesB (s : State) (acc : Access) (p : Piece) : Bool :=
  match s.translate (some s.g.id.core) s.g.id.root p.va acc with
  | .ok t => (decide (acc ≠ .read) || (List.range p.size).all (fun k => !s.poisoned (t.loc.add k))) &&
      (decide (acc ≠ .write) || (!t.mig && (List.range p.size).all (fun k => (s.windowAt (p.va.toNat + k)).isNone)))
  | .error _ => false
def placeOf (s : State) (acc : Access) (va : Int) : Loc :=
  match s.translate (some s.g.id.core) s.g.id.root va acc with
  | .ok t => t.loc
  | .error _ => .mem 0

theorem passes_spec {s : State} {acc : Access} {p : Piece} (h : passesB s acc p = true) : Claims.passes s acc p (placeOf s acc p.va) := by
  unfold passesB at h
  unfold placeOf
  split at h
  · next t ht =>
    simp only [Bool.and_eq_true, Bool.or_eq_true, decide_eq_true_eq, List.all_eq_true, List.mem_range, Bool.not_eq_true',
      Option.isNone_iff_eq_none] at h
    refine ⟨t, ht, rfl, fun hr k hk => ?_, fun hw => ?_⟩
    · exact (h.1.resolve_left (by simp [hr])) k hk
    · exact h.2.resolve_left (by simp [hw])
  · cases h

/-- The hypotheses of a load, of a store and of an atomic, to be evaluated. -/
def loadReady (s : State) (x : Claims.LoadForm) : Bool :=
  decide (s.g.counter x.path < 255) && decide (Claims.lanesAt s ≠ []) && (Claims.lanesAt s).all (fun l => decide (0 ≤ x.addr l) &&
    decide (x.addr l < 2 ^ 56) && (!x.aligned || decide (x.addr l % (memSize x.ty : Int) = 0)) &&
    (piecesOf (x.addr l) (memSize x.ty) 0).all (passesB s .read))
def litB (s : State) : Loc → Bool
  | .region root va => (s.darkPage root va).isNone
  | _ => true
def storeReady (s : State) (x : Claims.StoreForm) : Bool :=
  decide (s.g.counter 1 < 255) && (Claims.lanesAt s).all (fun l => (x.pieces l).isEmpty || decide (0 ≤ x.addr l) &&
    decide (x.addr l < 2 ^ 56) && x.size.all (fun n => decide (x.addr l % (n : Int) = 0)) &&
    (x.pieces l).all (fun p => passesB s .write p && (List.range p.size).all (fun k => litB s ((placeOf s .write p.va).add k))))
def atomicReady (s : State) (x : Claims.AtomicForm) : Bool :=
  decide (s.g.counter 0 < 255) && decide (s.g.maskAt s.port ≠ 0) && (Claims.lanesAt s).all (fun l =>
    let a := Claims.atomicAddress s x.m x.size l
    decide (0 ≤ a) && decide (a < 2 ^ 56) && decide (a % (x.size : Int) = 0) && litB s (placeOf s .write a) &&
    passesB s .write { va := a, off := 0, size := x.size, data := 0 } &&
    (List.range x.size).all (fun k => !s.poisoned ((placeOf s .write a).add k)))

theorem isLit_spec {s : State} {l : Loc} (h : litB s l = true) : Claims.isLit s l := by
  cases l <;> simp_all [litB, Claims.isLit]

theorem loadReady_spec {s : State} {x : Claims.LoadForm} (h : loadReady s x = true) : s.g.counter x.path < 255 ∧ Claims.lanesAt s ≠ [] ∧
    ∀ l ∈ Claims.lanesAt s, 0 ≤ x.addr l ∧ x.addr l < 2 ^ 56 ∧ (x.aligned = true → x.addr l % (memSize x.ty : Int) = 0) ∧
      ∀ p ∈ piecesOf (x.addr l) (memSize x.ty) 0, Claims.passes s .read p (placeOf s .read p.va) := by
  simp only [loadReady, Bool.and_eq_true, decide_eq_true_eq, List.all_eq_true, Bool.or_eq_true, Bool.not_eq_true'] at h
  refine ⟨h.1.1, h.1.2, fun l hl => ?_⟩
  obtain ⟨⟨⟨h1, h2⟩, h3⟩, h4⟩ := h.2 l hl
  exact ⟨h1, h2, fun ha => h3.resolve_left (by simp [ha]), fun p hp => passes_spec (h4 p hp)⟩

theorem storeReady_spec {s : State} {x : Claims.StoreForm} (h : storeReady s x = true) : s.g.counter 1 < 255 ∧
    ∀ l ∈ Claims.lanesAt s, x.pieces l ≠ [] → 0 ≤ x.addr l ∧ x.addr l < 2 ^ 56 ∧ (∀ n, x.size = some n → x.addr l % (n : Int) = 0) ∧
      ∀ p ∈ x.pieces l, Claims.passes s .write p (placeOf s .write p.va) ∧
        ∀ k, k < p.size → Claims.isLit s ((placeOf s .write p.va).add k) := by
  simp only [storeReady, Bool.and_eq_true, decide_eq_true_eq, List.all_eq_true, Bool.or_eq_true, List.mem_range, List.isEmpty_iff] at h
  refine ⟨h.1, fun l hl hne => ?_⟩
  obtain ⟨⟨⟨h1, h2⟩, h3⟩, h4⟩ := (h.2 l hl).resolve_left hne
  exact ⟨h1, h2, fun n hn => by simpa [hn] using h3, fun p hp => ⟨passes_spec (h4 p hp).1, fun k hk => isLit_spec ((h4 p hp).2 k hk)⟩⟩

theorem atomicReady_spec {s : State} {x : Claims.AtomicForm} (h : atomicReady s x = true) : s.g.counter 0 < 255 ∧ s.g.maskAt s.port ≠ 0 ∧
    ∀ l ∈ Claims.lanesAt s,
      let a := Claims.atomicAddress s x.m x.size l
      0 ≤ a ∧ a < 2 ^ 56 ∧ a % (x.size : Int) = 0 ∧ Claims.isLit s (placeOf s .write a) ∧
      Claims.passes s .write { va := a, off := 0, size := x.size, data := 0 } (placeOf s .write a) ∧
      ∀ k, k < x.size → s.poisoned ((placeOf s .write a).add k) = false := by
  simp only [atomicReady, Bool.and_eq_true, decide_eq_true_eq, List.all_eq_true, List.mem_range, Bool.not_eq_true'] at h
  refine ⟨h.1.1, h.1.2, fun l hl => ?_⟩
  obtain ⟨⟨⟨⟨⟨h1, h2⟩, h3⟩, h4⟩, h5⟩, h6⟩ := h.2 l hl
  exact ⟨h1, h2, h3, isLit_spec h4, passes_spec h5, h6⟩

/-- The base register `a2` of a scratchpad access. -/
def spadBase (g : Group) : Group := { g with regs := { g.regs with aLaunch := g.regs.aLaunch.set 2 4 } }
/-- Lane 63 of the pair `v8:v9` names an address that is not mapped. -/
def offMap (g : Group) : Group := { g with regs := { g.regs with v := g.regs.v.set 8 (BitVec.ofNat 2048 (0x4000_0040 + 0x9000_0000 * 2 ^ 2016)) } }
/-- The lanes of an instruction that fail a check, and those that do not. -/
def badLanes (s : State) (fail : Nat → Option Cause) : List Nat := (Claims.lanesAt s).filter (fun l => (fail l).isSome)
def goodLanes (s : State) (fail : Nat → Option Cause) : List Nat := (Claims.lanesAt s).filter (fun l => (fail l).isNone)
/-- A write that meets `Claims.writable`, to be evaluated. -/
def writableB (s : State) (p : Piece) : Bool :=
  (match s.translate (some s.g.id.core) s.g.id.root p.va .write with
    | .ok t => !t.mig
    | .error _ => true) && (s.windowAt p.va.toNat).isNone
theorem writable_spec {s : State} {p : Piece} (h : writableB s p = true) : Claims.writable s p := by
  simp only [writableB, Bool.and_eq_true, Option.isNone_iff_eq_none] at h
  exact ⟨fun t ht => by simpa [ht] using h.1, fun w hw => by simp [h.2] at hw⟩
theorem placed_spec {s : State} {acc : Access} {p : Piece} (h : passesB s acc p = true) :
    ∃ y : Target, s.translate (some s.g.id.core) s.g.id.root p.va acc = .ok y ∧ y.loc = placeOf s acc p.va := by
  obtain ⟨t, h1, h2, _⟩ := passes_spec h
  exact ⟨t, h1, h2⟩

theorem met_LoadLanesFail : (let s := st1With offMap; let i : Instr := .gth 0 0 5 8 3; Clear i s ∧ s.g.id.kind = .ordinary ∧ Claims.plainSlot s ∧
      ∃ x, Claims.loadForm s i = some x ∧ s.g.counter x.path < 255 ∧
      (let pieces := fun l => piecesOf (x.addr l) (memSize x.ty) 0
       let fail := fun l => Claims.lapse s .read (fun _ => true) true (if x.aligned then some (memSize x.ty) else none) (x.addr l) (pieces l)
       badLanes s fail = [63] ∧ ∀ l ∈ goodLanes s fail, ∀ p ∈ pieces l, ∃ y : Target,
        s.translate (some s.g.id.core) s.g.id.root p.va .read = .ok y ∧ y.loc = placeOf s .read p.va)) ∧
    (let s := { st1 with port := .setter }; let i : Instr := .ld 4 5 2 8; Clear i s ∧ ∃ x, Claims.loadForm s i = some x ∧ s.g.counter x.path < 255 ∧
      Claims.lapse s .read (fun _ => true) true (if x.aligned then some (memSize x.ty) else none) (x.addr 0) (piecesOf (x.addr 0) (memSize x.ty) 0) =
        some Cause.notMapped) := by
  refine ⟨⟨clear_spec (by decide +kernel), rfl, ⟨by decide, rfl, rfl⟩, _, rfl, by decide +kernel, by decide +kernel, fun l hl p hp => placed_spec ?_⟩,
    clear_spec (by decide +kernel), _, rfl, by decide +kernel, by decide +kernel⟩
  exact (by decide +kernel : ∀ l ∈ goodLanes (st1With offMap) (fun l => Claims.lapse (st1With offMap) .read (fun _ => true) true none
    (((st1With offMap).g.pairV 8 l).toNat : Int) (piecesOf (((st1With offMap).g.pairV 8 l).toNat : Int) 4 0)), ∀ p ∈
      piecesOf (((st1With offMap).g.pairV 8 l).toNat : Int) 4 0, passesB (st1With offMap) .read p = true) l hl p hp

theorem met_ScratchpadLanesFail : ∀ i ∈ [(.lds 3 5 2 (-8) : Instr), .sts 3 5 2 (-8)], let s := st1With spadBase; Clear i s ∧ Claims.plainSlot s ∧
    ∃ x, Claims.spadForm s i = some x ∧ badLanes s (fun l => Claims.spadLapse s (x.2.2.1 l) (memSize x.2.1)) = [0] := by
  intro i hi
  fin_cases hi <;> exact ⟨clear_spec (by decide +kernel), ⟨by decide, rfl, rfl⟩, _, rfl, by decide +kernel⟩

/-- What a store asks of which some lanes fail, to be evaluated. -/
def storeFails (s : State) (x : Claims.StoreForm) (bad : List Nat) : Bool :=
  let fail := fun l => Claims.lapse s .write (fun w => x.size.any (fun n => w.takesStore n)) false x.size (x.addr l) (x.pieces l)
  decide (s.g.counter 1 < 255) && decide ((Claims.lanesAt s).all (fun l => !(x.pieces l).isEmpty)) && decide (badLanes s fail = bad) &&
  (Claims.lanesAt s).all (fun l => (x.pieces l).all (writableB s)) &&
  (goodLanes s fail).all (fun l => (x.pieces l).all (fun p => passesB s .write p &&
    (List.range p.size).all (fun k => litB s ((placeOf s .write p.va).add k))))

theorem met_StoreLanesFail : (let s := st1With offMap; let i : Instr := .sct 0 0 5 8 3; Clear i s ∧ Claims.plainSlot s ∧
      ∃ x, Claims.storeForm s i = some x ∧ storeFails s x [63] = true) ∧
    (let s := { st1 with port := .setter }; let i : Instr := .st 4 5 2 8; Clear i s ∧ s.g.id.kind = .ordinary ∧ ∃ x, Claims.storeForm s i = some x ∧
      storeFails s x [0] = true ∧
      Claims.lapse s .write (fun w => x.size.any (fun n => w.takesStore n)) false x.size (x.addr 0) (x.pieces 0) = some Cause.notMapped) :=
  ⟨⟨clear_spec (by decide +kernel), ⟨by decide, rfl, rfl⟩, _, rfl, by decide +kernel⟩, clear_spec (by decide +kernel), rfl, _, rfl, by decide +kernel,
    by decide +kernel⟩

theorem met_AtomicLanesFail : ∀ i ∈ [(.atom 0 0 1 0 8 20 : Instr), .cas 6 3 1 8 20], let s := st1With offMap; Clear i s ∧ Claims.plainSlot s ∧
    s.g.counter 0 < 255 ∧ ∃ x, Claims.atomicForm s i = some x ∧
    (let addr := fun l => Claims.atomicAddress s x.m x.size l
     let piece := fun l => ({ va := addr l, off := 0, size := x.size, data := 0 } : Piece)
     let fail := fun l => Claims.lapse s .write x.takes true (some x.size) (addr l) [piece l]
     badLanes s fail = [63] ∧ (Claims.lanesAt s).all (fun l => writableB s (piece l)) = true ∧
      (goodLanes s fail).all (fun l => litB s (placeOf s .write (addr l)) && passesB s .write (piece l)) = true) := by
  intro i hi
  fin_cases hi <;> exact ⟨clear_spec (by decide +kernel), ⟨by decide, rfl, rfl⟩, by decide +kernel, _, rfl, by decide +kernel⟩

/-- A result of `csqrt` on its way to `v5`. -/
def flight (path : Option (BitVec 3)) (kind : FlightKind) (dest : Dest) (done : Bool) : InFlight where
  serial := 0
  path := path
  kind := kind
  dest := dest
  lanes := 1
  pc := 0x4000_0000
  done := done
def flying (f : InFlight) (g : Group) : Group := { g with inflight := [f] }

theorem met_CordicResults : ((Claims.cordicOf (.crcp 63 false 2 40)).isSome = true ∧ st0.port ≠ .setter ∧ Clear (.crcp 63 false 2 40) st0) ∧
    (let f := flight none (.cordic 7) (.v 5 false) false; let s := st0With (flying f); s.group s.g.id.uid = some s.g ∧ s.g.ended = false ∧ s.inHandler s.g = false ∧
      s.g.inflight.find? (fun x => x.serial == f.serial && !x.done) = some f ∧ f.kind = .cordic 7 ∧ f.dest = .v 5 false ∧ f.path = none ∧ s.g.stopped = false ∧ s.g.spilled = false) :=
  ⟨⟨rfl, by decide, clear_spec (by decide +kernel)⟩, by decide +kernel, rfl, by decide +kernel, by decide +kernel, rfl, rfl, rfl, rfl, rfl⟩


theorem met_LoadsIssue : (Clear (.ld 3 5 1 8) st1 ∧ ∃ x, Claims.loadForm st1 (.ld 3 5 1 8) = some x ∧ st1.g.counter x.path < 255 ∧
      Claims.lanesAt st1 ≠ [] ∧ ∀ l ∈ Claims.lanesAt st1, 0 ≤ x.addr l ∧ x.addr l < 2 ^ 56 ∧ (x.aligned = true → x.addr l % (memSize x.ty : Int) = 0) ∧
        ∀ p ∈ piecesOf (x.addr l) (memSize x.ty) 0, Claims.passes st1 .read p (placeOf st1 .read p.va)) ∧
    (Clear (.gth 0 0 5 8 3) st1 ∧ ∃ x, Claims.loadForm st1 (.gth 0 0 5 8 3) = some x ∧ st1.g.counter x.path < 255 ∧ Claims.lanesAt st1 ≠ [] ∧
      ∀ l ∈ Claims.lanesAt st1, 0 ≤ x.addr l ∧ x.addr l < 2 ^ 56 ∧ (x.aligned = true → x.addr l % (memSize x.ty : Int) = 0) ∧
        ∀ p ∈ piecesOf (x.addr l) (memSize x.ty) 0, Claims.passes st1 .read p (placeOf st1 .read p.va)) ∧
    (let s := st1With spadBase; Clear (.lds 3 5 2 (-4)) s ∧ Clear (.sts 3 5 2 (-4)) s ∧ s.g.maskAt s.port ≠ 0 ∧ s.port ≠ .setter ∧
      ∀ i ∈ [(.lds 3 5 2 (-4) : Instr), .sts 3 5 2 (-4)], ∃ x, Claims.spadForm s i = some x ∧
        ∀ l ∈ Claims.lanesAt s, 0 ≤ x.2.2.1 l ∧ x.2.2.1 l < (s.windowSize s.g : Int) ∧ x.2.2.1 l % (memSize x.2.1 : Int) = 0) :=
  ⟨⟨clear_spec (by decide +kernel), _, rfl, loadReady_spec (by decide +kernel)⟩,
    ⟨clear_spec (by decide +kernel), _, rfl, loadReady_spec (by decide +kernel)⟩,
    clear_spec (by decide +kernel), clear_spec (by decide +kernel), by decide +kernel, by decide +kernel, by
      intro i hi
      fin_cases hi <;> exact ⟨_, rfl, by decide +kernel⟩⟩

/-- The stores of two lanes to overlapping bytes. -/
def twoStores : List StoreUnit := [⟨0, 0, 64, .mem 64, 4, 1⟩, ⟨1, 0, 66, .mem 66, 4, 2⟩]

theorem met_StoresIssue : twoStores.Pairwise (fun x y => x.lane ≤ y.lane) ∧
    ∀ i ∈ [(.st 3 5 1 8 : Instr), .sct 0 0 5 8 3, .stm 0 0 8 4, .stRel 3 5 1 3], Clear i st1 ∧ ∃ x, Claims.storeForm st1 i = some x ∧
      st1.g.counter 1 < 255 ∧
      ∀ l ∈ Claims.lanesAt st1, x.pieces l ≠ [] → 0 ≤ x.addr l ∧ x.addr l < 2 ^ 56 ∧ (∀ n, x.size = some n → x.addr l % (n : Int) = 0) ∧
        ∀ p ∈ x.pieces l, Claims.passes st1 .write p (placeOf st1 .write p.va) ∧
          ∀ k, k < p.size → Claims.isLit st1 ((placeOf st1 .write p.va).add k) := by
  refine ⟨by decide, fun i hi => ?_⟩
  fin_cases hi <;> exact ⟨clear_spec (by decide +kernel), _, rfl, storeReady_spec (by decide +kernel)⟩

theorem met_AtomicsIssue : st1.port ≠ .setter ∧ ∀ i ∈ [(.atom 0 0 1 0 3 20 : Instr), .cas 6 3 1 8 20], Clear i st1 ∧
    ∃ x, Claims.atomicForm st1 i = some x ∧ st1.g.counter 0 < 255 ∧ st1.g.maskAt st1.port ≠ 0 ∧ ∀ l ∈ Claims.lanesAt st1,
      let a := Claims.atomicAddress st1 x.m x.size l
      0 ≤ a ∧ a < 2 ^ 56 ∧ a % (x.size : Int) = 0 ∧ Claims.isLit st1 (placeOf st1 .write a) ∧
      Claims.passes st1 .write { va := a, off := 0, size := x.size, data := 0 } (placeOf st1 .write a) ∧
      ∀ k, k < x.size → st1.poisoned ((placeOf st1 .write a).add k) = false := by
  refine ⟨by decide, fun i hi => ?_⟩
  fin_cases hi <;> exact ⟨clear_spec (by decide +kernel), _, rfl, atomicReady_spec (by decide +kernel)⟩

/-- An out-queue entry of lane 0 at device address 64. -/
def entry (kind : EntryKind) (data data2 : BitVec 64) : Entry where
  id := 1
  serial := 0
  setter := false
  mask := 1
  lane := 0
  byteOff := 0
  kind := kind
  loc := .mem 64
  size := 4
  va := 0x4000_0040
  win := none
  data := data
  data2 := data2
  acq := none
  rel := none
  after := []
  weak := []
  overtaken := false
  reads := []
  full := false

/-- The group with that entry, and its flight where it has one. -/
def holding (e : Entry) (g : Group) : Group := { g with outq := [e] }

theorem met_FencesIssue : ∀ k ∈ [(1 : BitVec 2), 2, 3], Clear (.fence 3 k) (st1With (holding (entry .load 0 0))) := by
  intro k hk
  fin_cases hk <;> exact clear_spec (by decide +kernel)

theorem ready_spec {s : State} {e : Entry} (h : (s.g.id.present && decide (s.entryOf e.id = some (s.g, e)) && s.g.entryMay e) = true) :
    Claims.Ready s e := by
  simp only [Bool.and_eq_true, decide_eq_true_eq] at h
  exact ⟨h.1.1, h.1.2, h.2⟩

theorem unwatched_spec {s : State} (h : (decide (s.recorders = []) && decide (s.tracked = []) && !s.inHandler s.g) = true) : Claims.Unwatched s := by
  simp only [Bool.and_eq_true, decide_eq_true_eq, Bool.not_eq_true'] at h
  exact ⟨h.1.1, h.1.2, h.2⟩

theorem met_LoadsAndStoresPerform : (let e := entry .load 0 0; let s := st1With (holding e); Claims.Ready s e ∧ Claims.Unwatched s ∧
      s.g.outq.filter (fun x => x.serial == e.serial && decide (x.kind = .load) && x.loc.sector == e.loc.sector) = [e] ∧
      s.g.mayRead e (s.readEntry s.g e).2 = true ∧ s.windowAt e.va = none) ∧
    (let e := entry .store 5 0; let s := st1With (holding e); Claims.Ready s e ∧ Claims.Unwatched s ∧ e.win = none ∧ s.releaseMay s.g e = true) :=
  ⟨⟨ready_spec (by decide +kernel), unwatched_spec (by decide +kernel), by decide +kernel, by decide +kernel, by decide +kernel⟩,
    ready_spec (by decide +kernel), unwatched_spec (by decide +kernel), rfl, by decide +kernel⟩

def fence1 : Entry := { entry .fence 0 0 with id := 2, serial := 1, acq := some 5, after := [1] }
def narrow : Tag := ⟨2, 2, 0, false, 0⟩
/-- A load, an acquire fence behind it, and a write of a group of another team with a scope too narrow for the two, which the load reads. -/
def fenced : State :=
  let s := st1With (fun g => { g with outq := [entry .load 0 0, fence1] })
  { s with bufs := [⟨1, .module, .mem 64, 4, 0x4000_0040, 5, false, some narrow, 2, 0⟩] }

theorem met_FencesLeaveWithTheirReads : (let e := entry .load 0 0; let s := fenced; Claims.Ready s e ∧ Claims.Unwatched s ∧
      s.g.outq.filter (fun x => x.serial == e.serial && decide (x.kind = .load) && x.loc.sector == e.loc.sector) = [e] ∧
      s.g.mayRead e (s.readEntry s.g e).2 = true ∧ ∃ x ∈ Claims.lastReadOf s e, x.acq = some 5 ∧ e.serial < x.serial ∧
        onPath e.setter e.mask x.setter x.mask = true ∧ ∃ y ∈ (s.readEntry s.g e).2, s.g.matched 5 y = false) :=
  ⟨ready_spec (by decide +kernel), unwatched_spec (by decide +kernel), by decide +kernel, by decide +kernel,
    fence1, by unfold Claims.lastReadOf; decide +kernel, rfl, by decide, by decide +kernel,
    narrow, by decide +kernel, by decide +kernel⟩

/-- R219: the fence performs in the step in which its last read does. -/
theorem test_fence_with_its_last_read : (match exec (.performLoad 1) fenced with
    | .next t => decide (t.g.outq = []) && decide (t.g.modes.sticky &&& stickySCOPE = stickySCOPE)
    | _ => false) = true := by decide +kernel

theorem met_AtomicsPerform : ∀ kind ∈ [EntryKind.atomic 0 1 0 0, EntryKind.cas 1], let e := entry kind 0 7; let s := st1With (holding e);
    Claims.Ready s e ∧ Claims.Unwatched s ∧ Memory.wf s.mem = true ∧ e.win = none ∧ e.loc = .mem 64 ∧ s.releaseMay s.g e = true ∧
    s.g.mayRead e (s.readEntry s.g e).2 = true ∧ s.pathClear s.g e.loc e.size = true ∧ 64 / 32 ∉ s.poison ∧
    64 / 32 ∉ s.failing ∧ s.migs = [] ∧ s.inheritMay s.g e (s.readEntry s.g e).2 = true := by
  intro kind hk
  fin_cases hk <;> exact ⟨ready_spec (by decide +kernel), unwatched_spec (by decide +kernel), by decide +kernel, rfl, rfl, by decide +kernel,
    by decide +kernel, by decide +kernel, by decide +kernel, by decide +kernel, rfl, by decide +kernel⟩

/-- A write of the group in a buffer. -/
def write1 (n : Node) : BufWrite where
  id := 1
  node := n
  loc := .mem 64
  size := 4
  va := 0x4000_0040
  data := 5
  full := false
  tag := none
  grp := 1
  serial := 0

def buffered (b : BufWrite) : State := { st1 with bufs := [b] }

theorem met_WritesPropagate : (let b := write1 (.grp 1); let s := buffered b; s.bufs.find? (fun x => x.id == b.id) = some b ∧
      s.isOldest b = true ∧ s.group b.grp = some grp1 ∧ s.nodeAbove grp1 b.loc b.node = some (.team 1)) ∧
    (let b := write1 .module; let s := buffered b; s.bufs.find? (fun x => x.id == b.id) = some b ∧ s.isOldest b = true ∧
      s.group b.grp = some grp1 ∧ s.nodeAbove grp1 b.loc b.node = none ∧ Memory.wf s.mem = true ∧ 64 / 32 ∉ s.poison ∧ 64 / 32 ∉ s.failing ∧
      s.migs = [] ∧ s.tracked = []) := by
  decide +kernel

/-- The group's setter with a queue that is full. -/
def fullQueue (g : Group) : Group := { g with queues := g.queues.set 0 (List.replicate 16 (0, 0)) }
theorem met_QueuesFill : (Clear (.movPush 0 4) st0S ∧ (st0S.g.queues.getD 0 []).length < 16 ∧ ∀ f ∈ st0S.g.inflight, f.dest = .q 0 → f.done = true) ∧
    (let s := { st0S with g := fullQueue grp0 }; Clear (.movPush 0 4) s ∧ 16 ≤ (s.g.queues.getD 0 []).length) ∧
    (∀ d ∈ [Dest.v 127 false, .v 126 true, .a 31, .q 7], let f := flight (some 0) (.load 5 [⟨0, 0, 4, 0xFFFF_FFFF⟩] false true) d false
      let s := st1With (flying f)
      s.g.id.present = true ∧ s.g.ended = false ∧ s.g.inflight.find? (fun x => x.serial == f.serial && !x.done) = some f ∧
        (∀ e ∈ s.g.outq, e.serial ≠ f.serial) ∧ s.inHandler s.g = false ∧ s.g.stopped = false ∧ s.g.spilled = false ∧ (s.g.queues.getD 7 []).length < 16 ∧
        ∀ x ∈ s.g.inflight, x.dest = .q 7 → x.serial < f.serial → x.done = true) ∧
    (let f := flight (some 1) .store .none true; let s := st1With (flying f)
      s.g.inflight.find? (fun x => decide (x.path = some 1)) = some f ∧ f.done = true ∧ s.g.id.present = true ∧
      (∀ e ∈ s.g.outq, e.serial ≠ f.serial) ∧ (∀ b ∈ s.bufs, b.grp = s.g.id.uid → b.serial ≠ f.serial) ∧
      (∀ c ∈ s.contribs, c.grp = s.g.id.uid → c.serial ≠ f.serial)) :=
  ⟨⟨clear_spec (by decide +kernel), by decide +kernel, by decide +kernel⟩, ⟨clear_spec (by decide +kernel), by decide +kernel⟩, by decide +kernel,
    by decide +kernel⟩

/-! ### Hypotheses that meet: engines, regions, state registers, barriers -/

/-- A copy descriptor: 4 bytes in each of 2 rows. -/
def desc1 : Nat := 0x4000_0040 + 0x4000_0080 * 2 ^ 64 + 2 * 2 ^ 220 + 4 * 2 ^ 256 + 2 * 2 ^ 384 + 64 * 2 ^ 416 + 128 * 2 ^ 464
/-- A format block: `e4m3` on both sides, blocks of 16, no scales, rounding to nearest. -/
def block1 : Nat := 4 + 4 * 2 ^ 8 + 16 * 2 ^ 16 + 16 * 2 ^ 24 + 4 * 2 ^ 32 + 4 * 2 ^ 40
/-- The group with the handle `s1` of that block, rising indices in `v28` and `v29`, a pitch of 32 and a guard of 8. -/
def grp2 : Group := { grp1 with
  regs := { grp1.regs with
    s := grp1.regs.s.set 1 0x1000_0000_0000_1000
    v := (grp1.regs.v.set 28 (wideOf (fun _ => 0x4444_4444))).set 29 (wideOf (fun _ => 0x4444_4444)) }
  modes := { grp1.modes with gmode := 0x820 } }
/-- The module with that group, the descriptor at offset 0 of its scratchpad and the block at 0x1000. -/
def st2 : State := { st1 with
  g := grp2, teams := [{ team1 with spad := Memory.writeNat (Memory.writeNat [] 0 96 desc1) 0x1000 64 block1 }] }
def st2With (f : Group → Group) : State := { st2 with g := f grp2 }

theorem met_CopiesIssue : (Clear (.cpy 0xD8 0xD8) st2 ∧ Claims.copyForm (.cpy 0xD8 0xD8) = some (false, 0xD8, 0xD8) ∧ st2.port ≠ .setter ∧
      let off := st2.g.operand32 st2.port 0xD8; let x := ofBytes (st2.spadBytes st2.g off 256)
      off % 64 = 0 ∧ off + 256 ≤ st2.windowSize st2.g ∧ st2.g.pendingOn st2.port (.spad st2.g.id.team off) 256 = false ∧
        copyDescOk x (copyDescOf x) false (st2.windowSize st2.g) = true ∧ st2.g.counter 2 < 255) ∧
    (Clear (.cpy 0xD9 0xD8) st2 ∧ st2.g.id.kind = .ordinary ∧ (st2.g.slot st2.port).chain = none ∧ ¬st2.g.operand32 st2.port 0xD9 % 64 = 0) ∧
    (let s := { st2 with port := .setter }; Clear (.cpy 6 6) s ∧ s.g.operandFull s.port 6 = 0 ∧ s.g.counter 2 < 255 ∧
      s.g.pendingOn s.port (.spad s.g.id.team 0) 256 = false ∧ copyDescOk desc1 (copyDescOf desc1) false (s.windowSize s.g) = true ∧
      ofBytes (s.spadBytes s.g 0 256) % 2 ^ 768 = desc1) ∧
    (copyDescOf desc1).dims = [(4, 0, 0), (2, 64, 128)] ∧ (copyDescOf desc1).srcSp = false ∧ (copyDescOf desc1).dstSp = false :=
  ⟨⟨clear_spec (by decide +kernel), rfl, by decide, by decide +kernel⟩, ⟨clear_spec (by decide +kernel), rfl, rfl, by decide +kernel⟩,
    ⟨clear_spec (by decide +kernel), by decide +kernel⟩, by decide +kernel⟩

/-- A copy command of the group at a visit, with what it holds. -/
def copy1 (pos : Nat) (holding : Option Byte) : CopyCmd where
  id := 7
  grp := 1
  team := 1
  serial := 0
  engine := 0
  gather := false
  root := 0x10_0000
  desc := copyDescOf desc1
  after := []
  base := 0
  pos := pos
  holding := holding
  fault := none
  dispatched := true
def copying (c : CopyCmd) : State := { st2 with copies := [c] }

theorem met_CopiesMove : (let e := entry (.engine 7) 0 0; let s := st1With (holding e); s.g.id.present = true ∧ e ∈ s.g.outq ∧
      s.g.outq.find? (fun x => x.id == e.id) = some e ∧ e.kind = .engine 7 ∧ ∀ x ∈ s.g.outq, x.id ∉ e.after ∧ x.id ∉ e.weak) ∧
    (let c := copy1 0 none; let s := copying c; s.copies.find? (fun x => x.id == c.id) = some c ∧ c.dispatched = true ∧ c.fault = none ∧
      c.pos < tuples c.desc.dims ∧ s.engineTurn c = true ∧ s.recorders = [] ∧ s.sourceOf c c.pos = .ok 0x4000_0040 ∧
      s.engineByte c c.desc.srcSp 0x4000_0040 .read = .ok (.mem 64, false)) ∧
    (let c := copy1 7 (some 5); let s := copying c; c.pos < tuples c.desc.dims ∧ c.holding = some 5 ∧
      s.engineTurn c = true ∧ s.recorders = [] ∧
      s.engineByte c c.desc.dstSp (c.destOf c.pos) .write = .ok (.mem 259, false) ∧ s.group c.grp = some s.g ∧ c.desc.rel = false) ∧
    (let c := { copy1 0 none with root := 0x20_0000 }; let s := copying c; s.engineTurn c = true ∧ s.sourceOf c c.pos = .ok 0x4000_0040 ∧
      s.engineByte c c.desc.srcSp 0x4000_0040 .read = .error (Cause.notMapped, 0x4000_0040)) ∧
    (let c := copy1 8 none; let s := copying c; s.copies.find? (fun x => x.id == c.id) = some c ∧ c.over = true ∧ s.g.id.uid = c.grp) := by
  decide +kernel

theorem met_EngineCommandsIssue : (∀ i ∈ [(.acz 0 : Instr), .acrd 1 152, .acwr 0 4, .drain 1, .drainT 1, .pmul 6 4 5, .packS32 5 2, .packZ32 5 2,
      .packRevS32 5 2, .packRevZ32 5 2, .extrS32 3 6 0xD8, .extrS64 8 6 0xD8], Clear i st2 ∧ ∃ x, Claims.engineForm st2 i = some x ∧ x.1) ∧
    (let s := st2With (fun g => { g with modes := Modes.launch });
      Clear (.pmulUns 6 4 5) s ∧ ∃ x, Claims.engineForm s (.pmulUns 6 4 5) = some x ∧ x.1) ∧
    st2.port ≠ .setter ∧ st2.g.counter 4 < 255 ∧ st2.reserved (clusterOf st2.g.id.core) < 16 := by
  refine ⟨fun i hi => ?_, ⟨clear_spec (by decide +kernel), _, rfl, by decide +kernel⟩, by decide, by decide +kernel, by decide +kernel⟩
  fin_cases hi <;> exact ⟨clear_spec (by decide +kernel), _, rfl, by first | exact trivial | (simp only; decide +kernel)⟩

/-- The group as one of a gang of two, with the other one. -/
def ganged (u : Nat) (g : Group) : Group := { g with id := { g.id with uid := u, gang := 9, gangSize := 2, gangPos := BitVec.ofNat 2 (u - 1) } }

theorem met_GangCommandsIssue : (∀ i ∈ [(.mma 1 8 16 : Instr), .mmaSp 1 20 32, .mmd 1 8 16, .mmdLd 1], Clear i st2 ∧ ∃ op d a b np nq,
      Claims.gangForm i = some (op, d, a, b, np, nq) ∧ Claims.GangClear st2 op (handleOf (st2.g.s d.toNat)) ((List.range np).map (fun k =>
        st2.g.v (a.toNat + k)))) ∧
    (st2.paired st2.g.id.gang st2.g.id.gidx.toNat (st2.g.pairs + 1)).filter (fun r => r.grp != st2.g.id.uid) = [] ∧ st2.g.id.gangSize.toNat = 1 ∧
    (let s := { st2With (ganged 1) with others := [ganged 2 grp2] }; Clear (.mma 1 8 16) s ∧
      Claims.GangClear s .mma (handleOf (s.g.s 1)) ((List.range 8).map (fun k => s.g.v (8 + k))) ∧ 1 < s.g.id.gangSize.toNat ∧
      s.g.id.gangSize.toNat ≤ (s.gangGroups s.g.id.gang s.g.id.gidx).length ∧
      (s.paired s.g.id.gang s.g.id.gidx.toNat (s.g.pairs + 1)).filter (fun r => r.grp != s.g.id.uid) = []) ∧
    Clear (.mmc 0 16 0xDC) st2 ∧ (engineFormat (st2.g.operand32 st2.port 0xDC)).isSome = true ∧
    st2.held = false ∧ (Instr.mmc 0 16 0xE8).legalIn (st2.g.streamAt st2.port) = true ∧
    st2.mustWait (usesOf (st2.g.streamAt st2.port) (.mmc 0 16 0xE8)) = false ∧ engineFormat (st2.g.operand32 st2.port 0xE8) = none := by
  refine ⟨fun i hi => ?_, by decide +kernel, rfl, ⟨clear_spec (by decide +kernel), ⟨by decide +kernel, fun _ => by decide +kernel, by decide, by decide,
    fun _ _ => rfl, by decide +kernel, by decide +kernel⟩, by decide, by decide +kernel, by decide +kernel⟩, clear_spec (by decide +kernel),
    by decide +kernel⟩
  fin_cases hi <;> exact ⟨clear_spec (by decide +kernel), _, _, _, _, _, _, rfl, by decide +kernel, by decide +kernel, by decide +kernel, by decide +kernel,
    fun _ _ => rfl, by decide +kernel, by decide +kernel⟩

/-- A request of the group in the table of PME 0, with its flight. -/
def request1 (cmd : PmeCmd) : PmeReq where
  id := 7
  pme := 0
  grp := 1
  team := 1
  serial := 0
  core := 0
  level := 0
  order := 1
  grants := 0
  granted := true
  checked := true
  dispatched := true
  cmd := cmd
def requesting (cmd : PmeCmd) : State := { st2With (flying (flight (some 4) (.engine 7 false) .none false)) with pme := [request1 cmd] }
/-- What the group brings to a gang-wide command. -/
def member1 (op : PassOp) : Member := st2.member op (handleOf (st2.g.s 1)) (blockOf block1) ((List.range 8).map (fun k => st2.g.v (8 + k)))
  ((List.range 8).map (fun k => st2.g.v (16 + k))) (List.replicate 8 false) (List.replicate 8 false)

theorem met_EngineWorks : (let r := { request1 (.acz 0 0) with granted := false }; let s := { requesting (.acz 0 0) with pme := [r] }
      s.nextUnit 0 = some [r] ∧ s.recorders = []) ∧
    (let a := { request1 (.acz 0 0) with grants := 31, level := 1 }; let b := { request1 (.acz 0 0) with grants := 31 }
      a.grants < 32 ∧ b.grants < 32 ∧ b.level.toNat < a.level.toNat ∧ 32 ≤ ({ b with grants := 32 } : PmeReq).grants) ∧
    (∀ op ∈ [PassOp.mma, .mmaSp, .mmd, .mmdLd], let m := member1 op; let r := request1 (.pass 0 0 1 m); let s := requesting r.cmd
      s.pme.find? (fun x => x.id == r.id && x.pme == 0) = some r ∧ r.member? = some m ∧ s.unitOf r = [r] ∧ s.turnOf [r] = true ∧ m.op = op ∧
        m.pos = 0 ∧ m.row0 + 64 ≤ 1024 ∧ m.col0 + 64 ≤ 1024 ∧ s.inHandler s.g = false ∧ ∀ g ∈ s.others, s.inHandler g = false) ∧
    (∀ cmd ∈ [PmeCmd.acz 960 960, .acwr 960 1023 1 0, .acrd 127 960 1023 1, .result [(127, 0)] 0 false false true],
      let r := request1 cmd; let f := flight (some 4) (.engine 7 false) .none false; let s := requesting cmd
      s.pme.find? (fun x => x.id == r.id && x.pme == 0) = some r ∧ s.g.id.present = true ∧ r.grp = s.g.id.uid ∧
        s.g.inflight.find? (fun x => x.serial == r.serial) = some f ∧ s.turnOf [r] = true ∧ r.pme = 0 ∧ s.g.ended = false ∧
        s.inHandler s.g = false ∧ s.g.stopped = false ∧ s.g.spilled = false) ∧
    (let r := request1 (.drain 960 960 0x2000 true (64 * 63 + 63) []); let s := requesting r.cmd
      s.turnOf [r] = true ∧ (∀ c ∈ s.copies, c.id ≠ r.id) ∧ s.pme.find? (fun x => x.id == r.id) = some r ∧ s.released s.g 1 = true) ∧
    (let r := request1 (.drain 0 0 0x2000 false 4096 []); (requesting r.cmd).turnOf [r] = true) := by
  decide +kernel

theorem met_EngineWorks_ties : (∀ n ∈ [31, 32], let a := { request1 (.acz 0 0) with grants := n }; let b := { a with order := 2 }
      (32 ≤ a.grants ↔ 32 ≤ b.grants) ∧ a.level = b.level ∧ a.order < b.order) ∧
    (∀ b ∈ [true, false], let r := request1 (.result [(126, 0), (127, 1)] 0 true b true); let s := requesting r.cmd
      let f := flight (some 4) (.engine 7 false) .none false
      s.pme.find? (fun x => x.id == r.id && x.pme == 0) = some r ∧ s.g.id.present = true ∧ r.grp = s.g.id.uid ∧
        s.g.inflight.find? (fun x => x.serial == r.serial) = some f ∧ s.turnOf [r] = true ∧ s.g.ended = false ∧ s.inHandler s.g = false ∧
        s.g.stopped = false ∧ s.g.spilled = false ∧ s.g.id.kind = .ordinary) := by
  decide +kernel

/-- The second member of the gang, held at its command, with its request. -/
def partner1 : Group := { ganged 2 grp2 with slot0 := { grp2.slot0 with wait := .gang 1 } }
def posted1 (op : PassOp) : PmeReq := { request1 (.pass 9 0 1 (member1 op)) with grp := 2, granted := false, checked := false }
def together (op : PassOp) : State := { st2With (ganged 1) with others := [partner1], pme := [posted1 op] }

theorem partner_spec {s : State} {r : PmeReq} {G : Group} {p : Port} (h : (s.g.id.present && decide (s.others = [G]) &&
    decide (G.id.uid ≠ s.g.id.uid) && decide (G.id.uid = r.grp) && decide (G.gangPort = some p) && decide (G.id.kind = .ordinary) &&
    decide ((G.slot p).chain = none)) = true) : Claims.Partner s r G p := by
  simp only [Bool.and_eq_true, decide_eq_true_eq] at h
  obtain ⟨⟨⟨⟨⟨⟨h1, h2⟩, h3⟩, h4⟩, h5⟩, h6⟩, h7⟩ := h
  refine ⟨h1, fun x hx => ?_, by simp [h2], h4, fun x hx _ => by simpa [h2] using hx, h5, h6, h7⟩
  rw [h2, List.mem_singleton] at hx
  exact hx ▸ h3

theorem met_GangCommandsTrap : (let s := together .mmaSp; Clear (.mma 1 8 16) s ∧ s.g.id.kind = .ordinary ∧ (s.g.slot s.port).chain = none ∧
      Claims.GangClear s .mma (handleOf (s.g.s 1)) ((List.range 8).map (fun k => s.g.v (8 + k))) ∧ s.g.id.gangSize.toNat = 2 ∧
      (s.paired s.g.id.gang s.g.id.gidx.toNat (s.g.pairs + 1)).filter (fun x => x.grp != s.g.id.uid) = [posted1 .mmaSp] ∧
      (posted1 .mmaSp).member? = some (member1 .mmaSp) ∧ Claims.Partner s (posted1 .mmaSp) partner1 .slot0 ∧ (member1 .mmaSp).op ≠ .mma) ∧
    (let s := together .mma; Clear .exit s ∧ Claims.Partner s (posted1 .mma) partner1 .slot0 ∧
      s.pme.filter (fun x => Claims.ofGang s.g x && !x.checked && x.grp != s.g.id.uid) = [posted1 .mma] ∧
      (s.g.slot (otherSlot s.port)).path = none ∧ s.g.stack = [] ∧ (s.g.slot s.port).replay = none) :=
  ⟨⟨clear_spec (by decide +kernel), rfl, rfl, ⟨by decide +kernel, fun _ => by decide +kernel, by decide, by decide, fun _ _ => rfl, by decide +kernel,
      by decide +kernel⟩, by decide +kernel, by decide +kernel, by decide +kernel, partner_spec (by decide +kernel), by decide +kernel⟩,
    clear_spec (by decide +kernel), partner_spec (by decide +kernel), by decide +kernel, by decide +kernel, rfl, rfl⟩

/-- A region of two pages at 0x5000_0000, with pages lit as they are given, and a pool with one free page. -/
def region1 (lit : List LitPage) : Region where
  root := 0x10_0000
  base := 0x5000_0000
  size := 0x2_0000
  esz := 1
  shade := 0
  absorb := false
  pool := 1
  fade := 0
  creator := none
  lit := lit
  gone := false
  deleter := none
def page1 (held candidate : Bool) : LitPage where
  index := 1
  phys := 0x30_0000
  held := held
  candidate := candidate
  lighter := none
/-- The module with that region, memory, and the second page's address in `s2`. -/
def shaded (r : Region) (m : Mem) : State := { st2With (fun g => { g with regs := { g.regs with s := g.regs.s.set 2 0x5001_0000 } }) with
  regions := [r], pools := [⟨1, some 0, [0x20_0000]⟩], mem := m }

theorem onePage_spec {s : State} {va : Nat} {r : Region} (h : (decide (va % 65536 = 0) && decide (s.regionAt s.g.id.root va = some r) &&
    decide (s.regions.find? (fun q => q.same r) = some r) && decide (s.regionOf r.root (r.base + 65536 * r.pageOf va) = some r) &&
    decide (va + 65536 ≤ r.base + r.size) && decide (r.base % 65536 = 0)) = true) : Claims.OnePage s va r := by
  simp only [Bool.and_eq_true, decide_eq_true_eq] at h
  obtain ⟨⟨⟨⟨⟨h1, h2⟩, h3⟩, h4⟩, h5⟩, h6⟩ := h
  exact ⟨h1, h2, h3, h4, h5, h6⟩

/-- A group whose store at `s2`'s page, or at `a1`, finds no page. -/
def pageless (p : Port) : State :=
  let s := { shaded (region1 []) tables with pools := [⟨1, some 0, []⟩], port := p }
  { s with g := { s.g with
    slot0 := { s.g.slot0 with path := some { path0 with mask := 1 } }
    regs := { s.g.regs with
      v := s.g.regs.v.set 3 7
      a := (s.g.regs.a.set 1 0x5000_0000).set 3 7
      aLaunch := s.g.regs.aLaunch.set 1 0x5000_0000 } } }

theorem met_StoreFindsNoPage : ∀ p ∈ [Port.slot0, .setter], let s := pageless p; Clear (.st 3 5 1 0) s ∧ s.g.id.kind = .ordinary ∧
    s.g.counter 1 < 255 ∧ Claims.lanesAt s = [0] ∧ (p = .slot0 → Claims.plainSlot s) ∧ ∃ x q, Claims.storeForm s (.st 3 5 1 0) = some x ∧
      x.pieces 0 = [q] ∧ Claims.lapse s .write (fun _ => false) false x.size (x.addr 0) (x.pieces 0) = none ∧ Claims.writable s q ∧
      s.windowAt q.va.toNat = none ∧ s.translate (some s.g.id.core) s.g.id.root q.va .write = .ok (.region 0x10_0000 0x5000_0000) ∧
      s.darkPage 0x10_0000 0x5000_0000 = some (region1 [], (region1 []).pageOf 0x5000_0000) ∧
      (region1 []).isShade 0x5000_0000 q.size q.data = false ∧
      s.pools.find? (fun q => decide (q.num = (region1 []).pool)) = some ⟨1, some 0, []⟩ ∧ s.candidates (region1 []).pool = [] := by
  intro p hp
  fin_cases hp <;> exact ⟨clear_spec (by decide +kernel), rfl, by decide +kernel, by decide +kernel, fun h => ⟨by first | exact absurd h (by decide) | decide, rfl, rfl⟩, _,
    ⟨0x5000_0000, 0, 4, 7⟩, rfl, by decide +kernel, by decide +kernel, writable_spec (by decide +kernel), by decide +kernel, by decide +kernel,
    by decide +kernel, by decide +kernel, by decide +kernel, by decide +kernel⟩

theorem met_PagesLightAndFade : (∀ lit ∈ [[], [page1 false false]], let r := region1 lit; let s := shaded r tables
      Clear (.shlit 154 0xD9) s ∧ Claims.OnePage s (s.g.operand64 s.port 154).toNat r ∧ s.g.operand32 s.port 0xD9 = 1 ∧
        Claims.firstStep s r (r.pageOf (s.g.operand64 s.port 154).toNat)) ∧
    (let r := region1 []; let s := shaded r tables; r.litPage (r.pageOf (s.g.operand64 s.port 154).toNat) = none ∧
      s.pools.find? (fun p => decide (p.num = r.pool)) = some ⟨1, some 0, [0x20_0000]⟩ ∧ Memory.wf s.mem = true) ∧
    (let r := region1 [page1 true false]; let s := shaded r tables; Clear (.shfade 154 0xD9) s ∧
      Claims.OnePage s (s.g.operand64 s.port 154).toNat r ∧ r.litPage (r.pageOf (s.g.operand64 s.port 154).toNat) = some (page1 true false) ∧
      s.pageClean r (page1 false false) = true ∧ s.pageBusy r 1 = false ∧ Claims.firstStep s r (r.pageOf (s.g.operand64 s.port 154).toNat)) ∧
    (let r := region1 [page1 true false]; let s := shaded r (Memory.write tables (storageKey 0 0x30_0000) 1); Clear (.shfade 154 0xD9) s ∧
      s.pageClean r (page1 true false) = false ∧ Claims.firstStep s r (r.pageOf (s.g.operand64 s.port 154).toNat)) ∧
    (let r := region1 [page1 false true]; let s := shaded r tables; s.regions = [r] ∧ r.gone = false ∧ r.litPage 1 = some (page1 false true) ∧
      r.fade = 0 ∧ s.pageBusy r 1 = false ∧ s.pageClean r (page1 false true) = true) := by
  refine ⟨fun lit hl => ?_, by decide +kernel, ⟨clear_spec (by decide +kernel), onePage_spec (by decide +kernel), by unfold Claims.firstStep; decide +kernel⟩,
    ⟨clear_spec (by decide +kernel), by unfold Claims.firstStep; decide +kernel⟩, by decide +kernel⟩
  fin_cases hl <;> exact ⟨clear_spec (by decide +kernel), onePage_spec (by decide +kernel), by unfold Claims.firstStep; decide +kernel⟩

/-- What stops a page step: `s2`, or `a2` in the setter, names the address, and the pool has no free page. -/
def stopped (p : Port) (x : DWord) : State :=
  let s := { shaded (region1 []) tables with pools := [⟨1, some 0, []⟩], port := p }
  { s with g := { s.g with regs := { s.g.regs with s := s.g.regs.s.set 2 x, a := (s.g.regs.a.set 2 x).set 3 1 } } }

theorem met_PageStepsTrap : (∀ i ∈ [(.shlit 154 0xD9 : Instr), .shfade 154 0xD9], ∀ x ∈ [(0x5001_0001 : DWord), 0x6000_0000], let s := stopped .slot0 x
      Clear i s ∧ s.g.id.kind = .ordinary ∧ (s.g.slot s.port).chain = none ∧ s.pagesWait = none ∧ (s.g.operand64 s.port 154).toNat = x.toNat ∧
        (x.toNat % 65536 = 0 → s.regionAt s.g.id.root x.toNat = none)) ∧
    (∀ i ∈ [(.shlit 154 0xDA : Instr), .shfade 154 0xDA], let s := stopped .slot0 0x5001_0000; Clear i s ∧ s.pagesWait = none ∧
      s.g.operandFull s.port 0xDA = 2 ∧ s.regionAt s.g.id.root 0x5001_0000 = some (region1 []) ∧
      (region1 []).base + (region1 []).size < 0x5001_0000 + 65536 * 2) ∧
    (let s := stopped .slot0 0x5001_0000; Clear (.shlit 154 0xD9) s ∧ s.pagesWait = none ∧ Claims.OnePage s 0x5001_0000 (region1 []) ∧
      s.g.operandFull s.port 0xD9 = 1 ∧ Claims.firstStep s (region1 []) ((region1 []).pageOf 0x5001_0000) ∧
      (region1 []).litPage ((region1 []).pageOf 0x5001_0000) = none ∧
      s.pools.find? (fun p => decide (p.num = (region1 []).pool)) = some ⟨1, some 0, []⟩ ∧ s.candidates (region1 []).pool = []) ∧
    (let s := stopped .setter 0x5001_0001; Clear (.shlit 2 3) s ∧ s.pagesWait = none ∧ (s.g.operand64 s.port 2).toNat % 65536 ≠ 0) := by
  refine ⟨fun i hi x hx => ?_, fun i hi => ?_, ⟨clear_spec (by decide +kernel), by decide +kernel, onePage_spec (by decide +kernel), by decide +kernel,
    by unfold Claims.firstStep; decide +kernel, by decide +kernel⟩, clear_spec (by decide +kernel), by decide +kernel⟩
  · fin_cases hi <;> fin_cases hx <;> exact ⟨clear_spec (by decide +kernel), by decide +kernel⟩
  · fin_cases hi <;> exact ⟨clear_spec (by decide +kernel), by decide +kernel⟩

/-- A kernel record, and the task of the group, with or without the region-management grant. -/
def krec1 : KernelRec := ⟨0, 0, 1, 0, false, 0, 0, 1, 1, 64, 0, 0, []⟩
def task1 (region : Bool) : Task where
  id := 1
  parent := none
  queue := 0
  order := 0
  raised := 0
  prio := 0
  stage := .running
  krec := krec1
  root := 0x10_0000
  nteams := 1
  placed := 1
  args := []
  seed := 0
  done := 0
  debug := false
  region := region
  code := tables
  codeNvme := []
  endedByHandler := false
  preempted := false
  ofBin := false
  hostWait := none
/-- A region descriptor: two pages at 0x5000_0000, backed by pool 1. -/
def regionDesc1 : Nat := 0x5000_0000 + 0x2_0000 * 2 ^ 64 + 2 ^ 192
/-- The module with that task, regions, and the descriptor at offset 0x2000 (in `s3`) of the scratchpad, a `litscan` header at 0x3000 (`s4`). -/
def mapping (grant : Bool) (rs : List Region) : State :=
  { st2With (fun g => { g with regs := { g.regs with s := ((g.regs.s.set 3 0x2000).set 4 0x3000).set 2 0x5000_0000 } }) with
    tasks := [task1 grant], regions := rs
    teams := [{ team1 with spad := Memory.writeNat (Memory.writeNat [] 0x2000 64 regionDesc1) 0x3000 16 (2 ^ 32 + 1) }] }

theorem met_RegionsMapAndScan : (∀ rs ∈ [[], [region1 []]], let s := mapping true rs; let off := s.g.operand32 s.port 155
      Clear (.shmap 155) s ∧ s.mayManage = true ∧ off % 64 = 0 ∧ off + 64 ≤ s.windowSize s.g ∧ s.g.pendingOn s.port (.spad s.g.id.team off) 64 = false ∧
        let q := { region1 [] with creator := some 1 }
        regionOfDesc (ofBytes (s.spadBytes s.g off 64)) s.g.id.root (some s.g.ownTask) = some q ∧ s.regionClash q = decide (rs ≠ []) ∧
          s.mayWrite s.port (.region q.root q.base) q.size = true) ∧
    (let s := mapping false []; Clear (.shmap 155) s ∧ s.mayManage = false ∧ s.g.id.kind = .ordinary ∧ (s.g.slot s.port).chain = none) ∧
    (let s := mapping true [region1 [page1 true false]]; Clear (.litscan 154 156) s ∧ (∃ T, Claims.TeamOf s T) ∧
      let off := s.g.operand32 s.port 156; let cap := ofBytes (s.spadBytes s.g off 16) % 2 ^ 32
      off % 16 = 0 ∧ off + 16 + 4 * cap ≤ s.windowSize s.g ∧ s.g.pendingOn s.port (.spad s.g.id.team off) 16 = false ∧
        s.g.mayAccess s.port (.region 0x10_0000 0x5000_0000) 0x2_0000 .load = true ∧ s.mayWrite s.port (.spad s.g.id.team off) (16 + 4 * cap) = true ∧
        s.regionAt s.g.id.root (s.g.operand64 s.port 154).toNat = some (region1 [page1 true false])) := by
  refine ⟨fun rs hr => ?_, ⟨clear_spec (by decide +kernel), by decide +kernel, rfl, rfl⟩, clear_spec (by decide +kernel), ⟨_, rfl, by decide +kernel⟩,
    by decide +kernel⟩
  fin_cases hr <;> exact ⟨clear_spec (by decide +kernel), by decide +kernel⟩

theorem met_RegionsMap_places : (let s := { mapping true [] with port := .setter }; let s := { s with g := { s.g with regs := { s.g.regs with a := s.g.regs.a.set 6 0x2000 } } }
      Clear (.shmap 6) s ∧ s.mayManage = true ∧ s.g.operandFull s.port 6 = 0x2000 ∧ 0x2000 + 64 ≤ s.windowSize s.g ∧
        s.g.pendingOn s.port (.spad s.g.id.team 0x2000) 64 = false ∧ let q := { region1 [] with creator := some 1 }
        regionOfDesc (ofBytes (s.spadBytes s.g 0x2000 64)) s.g.id.root (some s.g.ownTask) = some q ∧ s.regionClash q = false ∧
          s.mayWrite s.port (.region q.root q.base) q.size = true) ∧
    (∀ x ∈ [(0x2001 : DWord), 65536], let s := mapping true []; let s := { s with g := { s.g with regs := { s.g.regs with s := s.g.regs.s.set 5 x } } }
      let off := s.g.operandFull s.port 157; Clear (.shmap 157) s ∧ s.g.id.kind = .ordinary ∧ (s.g.slot s.port).chain = none ∧ s.mayManage = true ∧
        (off % 64 ≠ 0 ∨ s.windowSize s.g < off + 64)) := by
  refine ⟨⟨clear_spec (by decide +kernel), by decide +kernel⟩, fun x hx => ?_⟩
  fin_cases hx <;> exact ⟨clear_spec (by decide +kernel), by decide +kernel⟩

/-- The last entry of a scan by slot 0, which waits for it. -/
def scanning : State := st1With (fun g => { holding (entry .store 5 0) g with slot0 := { g.slot0 with wait := .scan 0 } })

theorem met_LitPagesScan : (∀ x ∈ [((0x3001 : DWord), (0x5000_0000 : DWord)), (65536, 0x5000_0000), (0x2000, 0x5000_0000), (0x3000, 0x6000_0000)],
      let s := mapping true [region1 [page1 true false]]
      let s := { s with g := { s.g with regs := { s.g.regs with s := (s.g.regs.s.set 4 x.1).set 2 x.2 } } }
      let off := s.g.operandFull s.port 156; let cap := ofBytes (s.spadBytes s.g off 16) % 2 ^ 32
      Clear (.litscan 154 156) s ∧ s.g.id.kind = .ordinary ∧ (s.g.slot s.port).chain = none ∧
        (x.1 ∈ [0x3001, 65536] ∧ (off % 16 ≠ 0 ∨ s.windowSize s.g < off + 16) ∨
         off % 16 = 0 ∧ off + 16 ≤ s.windowSize s.g ∧ s.g.pendingOn s.port (.spad s.g.id.team off) 16 = false ∧
          (x.1 = 0x2000 ∧ s.windowSize s.g < off + 16 + 4 * cap ∨
            off + 16 + 4 * cap ≤ s.windowSize s.g ∧ s.regionAt s.g.id.root (s.g.operand64 s.port 154).toNat = none))) ∧
    (let s := scanning; let e := entry .store 5 0; Claims.Ready s e ∧ Claims.Unwatched s ∧ e.win = none ∧ s.releaseMay s.g e = true ∧
      s.g.portWhere (fun w => decide (w = .scan e.serial)) = some .slot0 ∧ (∀ x ∈ s.g.outq, x.serial = e.serial → x.id = e.id) ∧
      (s.g.slot .slot0).path.isSome = true) := by
  refine ⟨fun x hx => ?_, ready_spec (by decide +kernel), unwatched_spec (by decide +kernel), rfl, by decide +kernel⟩
  fin_cases hx <;> exact ⟨clear_spec (by decide +kernel), by decide +kernel⟩

theorem met_StateRegisterWrites : (∀ d ∈ [(8 : BitVec 7), 9, 10, 11, 12, 13, 14, 15], Clear (.wrst d 0xD8) st0 ∧ d.toNat ≠ 21 ∧
      ¬Claims.badValue d.toNat (st0.g.operand64 st0.port 0xD8) ∧ st0.g.diverged = false) ∧
    (let s := st0With (fun g => { g with id := { g.id with kind := .handler } }); Clear (.wrst 21 0xD8) s) ∧
    (Clear (.wrst 8 0xDE) st0 ∧ Claims.badValue 8 (st0.g.operand64 st0.port 0xDE) ∧ st0.g.id.kind = .ordinary ∧
      st0.g.isMember st0.port (usesOf (st0.g.streamAt st0.port) (.wrst 8 0xDE)) = false) ∧
    (let s := st0With meeting; Clear (.wrst 11 0xD8) s ∧ ¬Claims.badValue 11 (s.g.operand64 s.port 0xD8) ∧ s.g.diverged = true ∧
      Clear (.gset 0xD8 0xD8) s) ∧
    (Clear (.gset 0xD8 0xD8) st0 ∧ st0.g.operand32 st0.port 0xD8 = 0) ∧
    (Clear (.gset 0xF8 0xD8) st0 ∧ st0.g.operand32 st0.port 0xF8 = 32 ∧ (st0.g.slot st0.port).chain = none) := by
  refine ⟨fun d hd => ?_, clear_spec (by decide +kernel), ⟨clear_spec (by decide +kernel), ?_, rfl, by decide +kernel⟩,
    ⟨clear_spec (by decide +kernel), ?_, by decide +kernel, clear_spec (by decide +kernel)⟩, ⟨clear_spec (by decide +kernel), by decide +kernel⟩,
    clear_spec (by decide +kernel), by decide +kernel, rfl⟩
  · fin_cases hd <;> exact ⟨clear_spec (by decide +kernel), by decide, by unfold Claims.badValue; decide +kernel, by decide +kernel⟩
  · unfold Claims.badValue; decide +kernel
  · unfold Claims.badValue; decide +kernel

/-- A barrier word at offset 8 of the scratchpad, and what `s5` and `s6` hold: its offset and a token. -/
def barrier (w token : Nat) : State := { st1With (fun g => { g with
    regs := { g.regs with s := (g.regs.s.set 5 8).set 6 (BitVec.ofNat 64 token) } }) with
  teams := [{ team1 with spad := Memory.writeNat [] 8 8 w }] }

theorem met_BarriersCount : (∀ w ∈ [0xFFFF_0001, 0x0003_0004, 0x0003_0304], let s := barrier w 3; Clear (.barArv 1 157) s ∧
      (∃ T, Claims.TeamOf s T ∧ Memory.readNat T.spad (s.g.operand32 s.port 157) 8 = w) ∧ Claims.barrierClear s (s.g.operand32 s.port 157) ∧
      s.mayRelease s.port 1 = true ∧ w < 2 ^ 32 ∧ 0 < w % 256 ∧ w / 256 % 256 < w % 256) ∧
    (∀ token ∈ [2, 3], let s := barrier 0x0003_0104 token; let off := s.g.operand32 s.port 157; let l : Loc := .spad s.g.id.team off
      Clear (.barWait 157 158) s ∧ (∃ T, Claims.TeamOf s T ∧ Memory.readNat T.spad off 8 = 0x0003_0104) ∧ Claims.barrierClear s off ∧
        s.g.pendingOn s.port l 8 = false ∧ (∀ x ∈ s.bufs, x.node ∈ s.g.below l → overlap x.loc x.size l 8 = false) ∧
        s.g.operand32 s.port 158 = token) ∧
    (let s := st1With (flying (flight (some 0) .store .none false)); Clear (.wait 0 0xD8) s ∧ s.g.operand32 s.port 0xD8 < s.g.counter 0) ∧
    (let s := { barrier 4 0 with g := meeting (barrier 4 0).g }; Clear (.barArv 1 157) s ∧ Clear (.barWait 157 158) s ∧ Clear (.echo 1 157) s ∧
      s.g.diverged = true ∧ s.g.id.kind = .ordinary ∧ (s.g.slot s.port).chain = none) ∧
    (∀ w ∈ [0x1_0003_0104, 0x0003_0000, 0x0003_0404], let s := barrier w 3; let off := s.g.operand32 s.port 157; let l : Loc := .spad s.g.id.team off
      Clear (.barArv 1 157) s ∧ Clear (.barWait 157 158) s ∧ Clear (.echo 1 157) s ∧ Claims.barrierClear s off ∧
        (∃ T, s.team s.g.id.team = some T ∧ Claims.badBarrier (Memory.readNat T.spad off 8)) ∧ s.g.id.kind = .ordinary ∧
        (s.g.slot s.port).chain = none ∧ s.mayRelease s.port 1 = true ∧ s.inBarrier = none ∧ s.g.pendingOn s.port l 8 = false ∧
        (∀ x ∈ s.bufs, x.node ∈ s.g.below l → overlap x.loc x.size l 8 = false)) ∧
    (Clear (.barArv 1 0xD9) st1 ∧ st1.g.diverged = false ∧ st1.g.operand32 st1.port 0xD9 % 8 ≠ 0) := by
  refine ⟨fun w hw => ?_, fun t ht => ?_, ⟨clear_spec (by decide +kernel), by decide +kernel⟩,
    ⟨clear_spec (by decide +kernel), clear_spec (by decide +kernel), clear_spec (by decide +kernel), by decide +kernel, rfl, rfl⟩, fun w hw => ?_,
    clear_spec (by decide +kernel), by decide +kernel, by decide +kernel⟩
  · fin_cases hw <;> exact ⟨clear_spec (by decide +kernel), ⟨_, ⟨rfl, by decide +kernel⟩, by decide +kernel⟩, by unfold Claims.barrierClear; decide +kernel,
      by decide +kernel, by decide, by decide, by decide⟩
  · fin_cases ht <;> exact ⟨clear_spec (by decide +kernel), ⟨_, ⟨rfl, by decide +kernel⟩, by decide +kernel⟩, by unfold Claims.barrierClear; decide +kernel,
      by decide +kernel, by decide +kernel, by decide +kernel⟩
  · fin_cases hw <;> exact ⟨clear_spec (by decide +kernel), clear_spec (by decide +kernel), clear_spec (by decide +kernel),
      by unfold Claims.barrierClear; decide +kernel, ⟨_, rfl, by unfold Claims.badBarrier; decide +kernel⟩, rfl, rfl, by decide +kernel, rfl, by decide +kernel,
      by decide +kernel⟩

/-- The group parked on a barrier word of phase 3 at which it has arrived, and a second group of its team. -/
def parked (g : Group) : Group := { g with arrivals := [(8, 3)], slot0 := { g.slot0 with wait := .barrier 8 3 } }
def other1 (w : Wait) : Group := { grp1 with id := { grp1.id with uid := 2, gslot := 1 }, slot0 := { grp1.slot0 with wait := w } }
/-- The two groups of the team, the first one running or parked; the second one waits for a barrier that the first has not reached. -/
def cycle (f : Group → Group) (w : Wait) : State :=
  let s := barrier 0x0003_0102 3
  let t := s.teams.map (fun t => { t with spad := Memory.writeNat t.spad 16 8 2 })
  { s with g := f s.g, others := [other1 w], teams := t }

theorem met_ProbesFindCycles : (let s := cycle id .running; let off := s.g.operand32 s.port 157; Clear (.echo 1 157) s ∧ Claims.barrierClear s off ∧
      barWordBad (s.barWord s.g.id.team off) = false ∧
      s.probe s.g.id.uid 4096 (((s.barrierEdges s.g.id.team off).filter (fun u => u != s.g.id.uid)).map (fun u => (u, []))) [] = none) ∧
    (let s := cycle id (.barrier 16 0); let off := s.g.operand32 s.port 157; Clear (.echo 1 157) s ∧ Claims.barrierClear s off ∧
      (s.probe s.g.id.uid 4096 (((s.barrierEdges s.g.id.team off).filter (fun u => u != s.g.id.uid)).map (fun u => (u, []))) []).isSome = true ∧
      s.g.id.kind = .ordinary ∧ (s.g.slot s.port).chain = none) ∧
    (let s := cycle parked (.barrier 16 0); s.g.id.present = true ∧ s.g.id.kind = .ordinary ∧ s.g.waitAt .slot0 = .barrier 8 3 ∧
      (s.g.slot .slot0).chain = none ∧ barPhase (s.barWord s.g.id.team 8) = (3 : BitVec 16).toNat ∧
      (s.probe s.g.id.uid 4096 ((s.barrierEdges s.g.id.team 8).map (fun u => (u, []))) []).isSome = true) ∧
    (let s := { cycle parked (.barrier 16 0) with teams := (barrier 0x0004_0002 3).teams }; s.g.id.present = true ∧
      s.g.waitAt .slot0 = .barrier 8 3 ∧ barPhase (s.barWord s.g.id.team 8) ≠ (3 : BitVec 16).toNat) :=
  ⟨⟨clear_spec (by decide +kernel), by unfold Claims.barrierClear; decide +kernel, by decide +kernel⟩,
    ⟨clear_spec (by decide +kernel), by unfold Claims.barrierClear; decide +kernel, by decide +kernel, rfl, rfl⟩, by decide +kernel, by decide +kernel⟩

/-! ### Hypotheses that meet: handlers, tasks, mailboxes -/

/-- The kernel record of R55 with a hitter at 0x4000_8080, one group to a team, and 64 registers, and its 128 bytes at 0x4000_8000. -/
def kernelWord : Nat := 0x4000_8080 + 2 ^ 128 + 2 ^ 160 + 2 ^ 164 + 64 * 2 ^ 168 + 2 ^ 832
def kernels : Mem := Memory.writeNat tables 0x8000 128 kernelWord
def core0 : CoreCtl where
  core := 0
  root := 0x10_0000
  handler := 0x4000_8000
  mcheck := 0x4000_8000
  notices := []
  halted := false
  mcheckCause := none
  mcheckGroup := none
/-- A trap that slot 0 holds. -/
def trap1 (kind : BitVec 2) : TrapWord where
  cause := Cause.badVa
  kind := kind
  chain := false
  pc := 0x4000_0000
  mask := 0x8000_0000_0000_0001
  records := []
  detail := []
  next := 0x4000_0004
  instr := 0x4000_0000
  order := 1
def trapping (k : BitVec 2) (g : Group) : Group := { g with
  id := { g.id with image := some 0 }, slot0 := { g.slot0 with trap := some (trap1 k), wait := .trapped } }
/-- The module with that kernel, a core record and a context pool. -/
def handled (g : Group) (c : CoreCtl) : State :=
  { st1 with g := g, mem := kernels, cores := [c], ctxPool := some ⟨0x80_0000, 0x4080_0000, 4, 4⟩ }

theorem met_HandlerIsEntered : let g := { trapping 1 grp1 with id := grp1.id }; let s := handled g core0
    Claims.slotFree s 0 core0 ∧ s.firstTrap 0 = some (g, .slot0, trap1 1) ∧ core0.notices = [] ∧ s.g.slot0.chain = none ∧ s.g.slot1.chain = none ∧
    ((Claims.imaged s g .slot0 (trap1 1)).kernelAt [] core0.root core0.handler.toNat).isSome = true :=
  ⟨by unfold Claims.slotFree; decide +kernel, by decide +kernel, rfl, rfl, rfl, by decide +kernel⟩

theorem met_NoticesAndMachineChecks : (let c := { core0 with notices := [(1, 0x9_0000)] }; let s := handled grp1 c; Claims.slotFree s 0 c ∧
      s.firstTrap 0 = none ∧ (s.kernelAt [] c.root c.handler.toNat).isSome = true) ∧
    (let c := { core0 with mcheckCause := some Cause.poison }; let s := handled grp1 c; s.coreCtl 0 = some c ∧ c.halted = false ∧
      s.runOn 0 .mcheck = none ∧ s.runOn 0 .handler = none ∧ (s.kernelAt [] c.root c.mcheck.toNat).isSome = true) ∧
    (∀ k ∈ [GroupKind.handler, .mcheck], let s := handled { grp1 with id := { grp1.id with kind := k } } core0; let i : Instr := .acquire
      i.isEncoded = true ∧ s.port ≠ .setter ∧ (s.g.slot s.port).chain = none ∧ s.held = false ∧ s.preTrap i (usesOf (s.g.streamAt s.port) i) = some Cause.illegal ∧
      s.coreCtl s.g.id.core = some core0 ∧ s.g.id.kind = k) :=
  ⟨⟨by unfold Claims.slotFree; decide +kernel, by decide +kernel⟩, by decide +kernel, by decide +kernel⟩

/-- A run in the handler slot for that trap, the trapped group beside it. -/
def handler1 (k : BitVec 2) : State := { handled grp1 core0 with
  g := { grp1 with
    id := { grp1.id with uid := 9, kind := .handler, gslot := 0 }
    trapRegs := { TrapRegs.zero with trapped := 1, port := .slot0, rplmask := 1, entry := 1 } }
  others := [trapping k grp1]
  mem := Memory.writeNat (Memory.writeNat kernels 0x80_0000 8 0x4000_0000) 0x80_0008 8 0x8000_0000_0000_0001 }

theorem leaving_spec {s : State} {G : Group} {pa : Nat} {w : TrapWord} (h : (decide (s.g.id.kind = .handler) && !s.g.trapRegs.notice &&
    decide (s.group s.g.trapRegs.trapped = some G) && !G.ended && decide (G.id.uid ≠ s.g.id.uid) && decide (s.imagePa G = some pa) &&
    (!s.imagePoisoned pa && imageOk (s.imageRead pa)) && s.mayRelease s.port 6 &&
    decide (G.heldTraps.find? (fun t => decide (t.1 = s.g.trapRegs.port)) = some (s.g.trapRegs.port, w)) &&
    decide (s.g.trapRegs.port ≠ .setter) && decide (s.tasks = []) && decide (s.pme = [])) = true) : Claims.Leaving s G pa w := by
  simp only [Bool.and_eq_true, decide_eq_true_eq, Bool.not_eq_true'] at h
  obtain ⟨⟨⟨⟨⟨⟨⟨⟨⟨⟨⟨h1, h2⟩, h3⟩, h4⟩, h5⟩, h6⟩, h7⟩, h8⟩, h9⟩, h10⟩, h11⟩, h12⟩ := h
  exact ⟨h1, h2, h3, h4, h5, h6, h7, h8, fun r hr => by simp [h12] at hr, h9, h10, fun _ _ y hy => by simp [h11] at hy⟩

/-- The trapped group with a replay of lane 0 under way. -/
def redoing : Group := { trapping 0 grp1 with
  slot0 := { (trapping 0 grp1).slot0 with
    path := some { path0 with mask := 1 }
    replay := some { last := 0x4000_0004, full := 0x8000_0000_0000_0001 } } }

theorem met_HandlerReturns : (∀ k ∈ [(0 : BitVec 2), 1], let s := handler1 k; Claims.Leaving s (trapping k grp1) 0x80_0000 (trap1 k) ∧ s.port ≠ .setter ∧
      Clear .eret s ∧ Clear .exit s ∧ Clear .replay s ∧ s.g.trapRegs.rplmask ≠ 0 ∧ Memory.readNat s.mem 0x80_0008 8 ≠ 0 ∧
      (trapping k grp1).slot0.replay = none) ∧
    (let s := { handler1 0 with others := [redoing] }; Claims.Leaving s redoing 0x80_0000 (trap1 0) ∧ Clear .eret s ∧
      redoing.slot0.replay = some { last := 0x4000_0004, full := 0x8000_0000_0000_0001 } ∧
      redoing.slot0.path = some { path0 with mask := 1 } ∧ path0.pc = BitVec.ofNat 64 (Memory.readNat s.mem 0x80_0000 8) ∧
      BitVec.ofNat 64 (Memory.readNat s.mem 0x80_0008 8) &&& (1 : Lanes) ≠ 0) ∧
    (let s := handler1 1; Clear .eretEnd s ∧ s.g.id.kind = .handler ∧ s.g.trapRegs.notice = false ∧ s.mayRelease s.port 6 = true ∧
      s.group s.g.trapRegs.trapped = some (trapping 1 grp1) ∧ (trapping 1 grp1).ended = false ∧ (trapping 1 grp1).id.present = true ∧ s.pme = []) := by
  refine ⟨fun k hk => ?_, ⟨leaving_spec (by decide +kernel), clear_spec (by decide +kernel), rfl, rfl, by decide +kernel, by decide +kernel⟩,
    clear_spec (by decide +kernel), by decide +kernel⟩
  fin_cases hk <;> exact ⟨leaving_spec (by decide +kernel), by decide, clear_spec (by decide +kernel), clear_spec (by decide +kernel),
    clear_spec (by decide +kernel), by decide +kernel⟩

/-- A launch record of R246 for that kernel on queue 1, one team. -/
def launchWord : Nat := 0x4000_8000 + 2 ^ 128 + 2 ^ 164
/-- The module with that record at offset 0 of the scratchpad, some tasks, and the value of `s2`. -/
def launching (ts : List Task) (x : Nat) : State :=
  { handled { grp1 with regs := { grp1.regs with s := grp1.regs.s.set 2 (BitVec.ofNat 64 x) } } core0 with
    tasks := ts, teams := [{ team1 with spad := Memory.writeNat [] 0 128 launchWord }], nextSeq := 5 }
/-- A task of another tree. -/
def stranger : Task := { task1 false with id := 2 }
/-- A launch that waits for room in queue 1. -/
def waiting1 : Task := { task1 false with id := 3, queue := 1, stage := .waiting }

theorem launchable_spec {s : State} {off : Nat} {r : LaunchRec} {k : KernelRec} (h : (decide (off % 128 = 0 ∧ off + 128 ≤ s.windowSize s.g) &&
    s.mayRelease s.port 6 && decide (launchRecOf (ofBytes (s.spadBytes s.g off 128)) = some r) &&
    decide (s.kernelAt s.g.nodes s.g.id.root r.krec = some k) &&
    decide (r.root = 0 ∧ r.nteams % k.gfall = 0 ∧ (r.region = true → s.hasGrant s.g.ownTask = true))) = true) : Claims.Launchable s off r k := by
  simp only [Bool.and_eq_true, decide_eq_true_eq] at h
  obtain ⟨⟨⟨⟨h1, h2⟩, h3⟩, h4⟩, h5⟩ := h
  exact ⟨h1, h2, h3, h4, h5⟩

def launch1 : LaunchRec := ⟨0x4000_8000, 0, 1, 0, 1, false, false, false, 0, 0, List.replicate 8 0⟩
def kernel1 : KernelRec := ⟨0x4000_8080, 0, 1, 0, false, 0, 0, 1, 1, 64, 0, 0, List.replicate 8 0⟩

theorem met_LaunchAndCancel : (∀ ts ∈ [[task1 false], [task1 false, waiting1]], let s := launching ts 0; Clear (.launch 2 0xD8) s ∧
      Claims.Launchable s (s.g.operand64 s.port 0xD8).toNat launch1 kernel1 ∧ s.queueOpen launch1.queue = decide (ts.length = 1)) ∧
    (Clear (.launch 2 0xD9) (launching [task1 false] 0) ∧ (st1.g.operand64 st1.port 0xD9).toNat % 128 ≠ 0) ∧
    (let s := { launching [task1 false] 0 with teams := [team1] }; Clear (.launch 2 0xD8) s ∧ s.mayRelease s.port 6 = true ∧
      launchRecOf (ofBytes (s.spadBytes s.g 0 128)) = none ∧ s.g.id.kind = .ordinary) ∧
    (∀ x ∈ [2 ^ 40, 7], let s := launching [task1 false] x; Clear (.cancel 3 154) s ∧
      (2 ^ 40 ≤ (s.g.operand64 s.port 154).toNat ∨ s.inTree ((s.g.operand64 s.port 154).setWidth 40) = false)) ∧
    (∀ x ∈ [1, 2], let s := launching [task1 false, stranger] x; Clear (.cancel 3 154) s ∧ (s.g.operand64 s.port 154).toNat = x ∧
      s.inTree (BitVec.ofNat 40 x) = true ∧ s.under s.g.ownTask (BitVec.ofNat 40 x) = decide (x = 1) ∧ s.pme = []) := by
  refine ⟨fun ts ht => ?_, ⟨clear_spec (by decide +kernel), by decide +kernel⟩, ⟨clear_spec (by decide +kernel), by decide +kernel⟩, fun x hx => ?_,
    fun x hx => ?_⟩
  · fin_cases ht <;> exact ⟨clear_spec (by decide +kernel), launchable_spec (by decide +kernel), by decide +kernel⟩
  · fin_cases hx <;> exact ⟨clear_spec (by decide +kernel), by decide +kernel⟩
  · fin_cases hx <;> exact ⟨clear_spec (by decide +kernel), by decide +kernel⟩

/-- A child of the group's task, and a subtree that does not hold the group itself. -/
def child1 : Task := { task1 false with id := 4, parent := some 1, stage := .queued }

theorem met_CancelOfAChild : let s := launching [task1 false, child1] 4; Clear (.cancel 3 154) s ∧ s.under s.g.ownTask 4 = true ∧ s.inTree 4 = true ∧
    (s.beginCancel 4).1.g.ended = false :=
  ⟨clear_spec (by decide +kernel), by decide +kernel⟩

/-- A grid of that kernel that waits for its place, and a bin of its threads. -/
def queued1 : Task := { task1 false with id := 8, queue := 1, stage := .queued, krec := kernel1, placed := 0 }
def thread1 : Thread := ⟨7, 1, 0, ⟨1, 1, 0, false, 3⟩, 0, 200⟩
def bin1 (n : Nat) : Bin := ⟨0, 0x4000_8000, 0x10_0000, kernel1, List.replicate n thread1, 200⟩
/-- The module with those, and `s` registers and `pc` of a spawning group: its target is the kernel record. -/
def spawning (bs : List Bin) : State := { launching [task1 false, queued1] 0 with bins := bs }

theorem admissible_spec {s : State} {x : Task} {core : BitVec 10} {cores : List (BitVec 10)} {size : Nat} {image : List Byte}
    (h : (decide (s.task x.id = some x) && decide (x.stage = .queued ∧ x.preempted = false ∧ s.bootStage = 3) && s.mayTake x &&
    decide (s.nextGang x = some size) && decide (size ≤ 4) && decide (cores = gangCores size (core.toNat / size) ∧ cores.head? = some core) &&
    s.gangFits x.krec cores && (match s.readImage x.root x.krec.spimg.toNat x.krec.spsize with
      | .ok l => decide (l = image)
      | .error _ => false) && (s.pausedTeam x.id core).isNone) = true) : Claims.Admissible s x core cores size image := by
  simp only [Bool.and_eq_true, decide_eq_true_eq, Option.isNone_iff_eq_none] at h
  obtain ⟨⟨⟨⟨⟨⟨⟨⟨h1, h2⟩, h3⟩, h4⟩, h5⟩, h6⟩, h7⟩, h8⟩, h9⟩ := h
  refine ⟨h1, h2, h3, h4, h5, h6, h7, ?_, h9⟩
  split at h8
  · next l hl => rw [hl]; exact congrArg Except.ok (of_decide_eq_true h8)
  · cases h8

theorem met_GridsAreAdmitted : (∀ n ∈ [0, 61], let s := spawning (if n = 0 then [] else [bin1 n]); Clear (.spawn 3 0x4040) s ∧ s.mayRelease s.port 3 = true ∧
      let key := s.g.pcAt s.port + BitVec.ofInt 64 (2 * (0x4040 : BitVec 18).toInt) - 128
      s.kernelAt s.g.nodes s.g.id.root key.toNat = some kernel1 ∧ kernel1.team = 1 ∧ kernel1.gpref = 1 ∧ kernel1.hit.toNat = key.toNat + 128 ∧
        members (s.g.maskAt s.port) ≠ [] ∧ ((s.binOf 0 key s.g.id.root).map (fun b => b.ticks)).getD (s.g.modes.bintime.setWidth 32) ≠ 0 ∧
        ((s.binOf 0 key s.g.id.root).isSome = true ∨ (s.bins.filter (fun b => b.die == 0)).length < 256) ∧ ((s.binOf 0 key s.g.id.root).map (fun b => b.threads.length)).getD 0 + (members (s.g.maskAt s.port)).length < 64) ∧
    (let s := spawning []; Clear (.spawn 3 0) s ∧ s.kernelAt s.g.nodes s.g.id.root (s.g.pcAt s.port - 128).toNat = none) ∧
    (let s := launching [task1 false, waiting1] 0; s.queueWaiters 1 = [.host waiting1] ∧ (s.queueItems 1).length < 1024) ∧
    (let s := launching [task1 false] 0; let s := { s with g := { s.g with slot0 := { s.g.slot0 with wait := .launch waiting1 (.s 2) } } }
      s.queueWaiters 1 = [.stream 1 .slot0 waiting1 (.s 2)] ∧ (s.queueItems 1).length < 1024 ∧ ∀ h ∈ s.groups, s.inHandler h = false) ∧
    (launching [task1 false] 0).readySlot (launching [task1 false] 0).g = true ∧
    (let s := spawning []; s.task 8 = some queued1 ∧ queued1.stage = .queued ∧ queued1.placed = 0 ∧ queued1.prio.toNat + queued1.raised < 7) ∧
    (let s := spawning []; Claims.Admissible s queued1 1 [1] 1 [] ∧ ∀ c ∈ [(1 : BitVec 10)], s.freeWindow c (windowBytes queued1.krec.spsize) ≠ none ∧
      ∀ h ∈ s.groups, h.stopped = false) ∧
    (let b := bin1 64; let s := spawning [b]; s.binOf b.die b.key b.root = some b ∧ (∀ h ∈ s.groups, h.stopped = false) ∧ dieOf 1 = 0 ∧
      b.threads.length ≤ 64 ∧ b.krec.team = 1 ∧ s.gangFits b.krec [1] = true ∧ s.freeWindow 1 (windowBytes b.krec.spsize) ≠ none ∧ s.recorders = [] ∧
      b.krec.spsize = 0 ∧ (∀ y ∈ s.tasks, y.id ≠ thread1.parent.extractLsb' 34 6 ++ s.nextSeq) ∧ ∀ g ∈ s.groups, g.outq = []) := by
  refine ⟨fun n hn => ?_, ⟨clear_spec (by decide +kernel), by decide +kernel⟩, by decide +kernel, by decide +kernel, by decide +kernel, by decide +kernel,
    ⟨admissible_spec (by decide +kernel), by decide +kernel⟩, by decide +kernel⟩
  fin_cases hn <;> exact ⟨clear_spec (by decide +kernel), by decide +kernel⟩

/-- The release of a `spawn` into a bin of five threads. -/
theorem met_SpawnsGather_release : let e := entry (.spawn 0x4000_8000 0x10_0000) 0 0; let s := { st1With (holding e) with bins := [bin1 5] }
    Claims.Ready s e ∧ s.releaseMay s.g e = true ∧ s.binOf (dieOf s.g.id.core).toNat 0x4000_8000 0x10_0000 = some (bin1 5) ∧
      (bin1 5).threads.length < 64 ∧ (bin1 5).ticks ≠ 0 :=
  ⟨ready_spec (by decide +kernel), by decide +kernel⟩

/-- A grid that runs with a completion word, and one that is being reclaimed for the host, without groups. -/
def running2 : Task := { task1 false with id := 6, done := 0x4000_0100 }
def ending (ts : List Task) : State :=
  { launching (task1 false :: { child1 with stage := .reclaiming } :: ts) 0 with cancels := [⟨4, 0, 0, 9⟩] }

theorem met_TasksEnd : (let s := ending [running2]; s.task 6 = some running2 ∧ running2.stage = .running ∧ s.taskDrained 6 = true ∧
      running2.done ≠ 0 ∧ s.doneWaits running2 1 = false ∧ s.migs = [] ∧ s.tracked = [] ∧ Memory.wf s.mem = true ∧ s.poison = [] ∧ s.failing = [] ∧
      ∃ l, s.translate none running2.root running2.done.toNat .write = .ok (.phys 0x100 l)) ∧
    (let s := ending []; s.task 4 = some { child1 with stage := .reclaiming } ∧ s.reclaimable (s.subtree 4) = true ∧ s.waiters (fun w => match w with
      | .reclaim _ _ _ => true
      | .launch _ _ => true
      | _ => false) = [] ∧ s.kvDirs = [] ∧ s.regions = [] ∧ s.cancels = [⟨4, 0, 0, 9⟩] ∧ ∀ y ∈ s.tasks, y.done = 0 ∧ y.hostWait = none) :=
  ⟨⟨by decide +kernel, rfl, by decide +kernel, by decide, by decide +kernel, rfl, rfl, by decide +kernel, rfl, rfl, leafOf 0x1F 0 0x4000_0000 0x11_0008,
    by decide +kernel⟩, by decide +kernel⟩

/-- A court without a program, and a mailbox of it whose episode is at step 1. -/
def court1 : Court where
  obj := ⟨0, [], [], [], 0⟩
  rule := 1
  mem := 65536
  cycles := 1000
  time := 0
  x := Vector.replicate 32 0
  f := Vector.replicate 32 0
  fcsr := 0
  pc := 0
  resv := none
  ram := []
  running := true
  used := 0
  hart := none
def box1 : Mailbox where
  die := 0
  num := 3
  court := some court1
  ended := false
  owner := some 1
  gen := 2
  next := 1
  opened := none
  obs := []
  cmds := []
  action := []
  obsBuf := []
def boxed (m : Mailbox) : State := { st1With (flying (flight (some 5) .mailbox (.s 3) false)) with mailboxes := [m] }

theorem met_VolleyCommandsIssue : (∀ s ∈ [boxed box1, { boxed box1 with port := .setter }], s.g.counter 5 < 255) ∧
    Clear (.vserve 4 0xDB 0xD8) (boxed box1) ∧ Clear (.vcatch 0xDB 0xD8) (boxed box1) ∧ Clear (.vpoll 4 0xDB) (boxed box1) ∧
    Claims.volleyGood (boxed box1) ((boxed box1).g.operandFull .slot0 0xDB) ((boxed box1).g.operandFull .slot0 0xD8) ∧
    ¬Claims.volleyGood (boxed box1) ((boxed box1).g.operandFull .slot0 0xDB) ((boxed box1).g.operandFull .slot0 0xD9) :=
  ⟨by decide +kernel, clear_spec (by decide +kernel), clear_spec (by decide +kernel), clear_spec (by decide +kernel),
    by unfold Claims.volleyGood; decide +kernel, by unfold Claims.volleyGood; decide +kernel⟩

/-- A mailbox command of the group. -/
def command1 (serve : Bool) (dest : Dest) : MboxCmd where
  serve := serve
  grp := 1
  team := 1
  serial := 0
  setter := false
  task := 1
  off := 0
  dest := dest
  entry := 5
  after := []

theorem met_VolleysPerform : (box1.court = some court1 ∧ box1.ended = false ∧ box1.owner = some 1 ∧ box1.next.toNat = 1 ∧ box1.gen.toNat = 2 ∧
      court1.rule = 1) ∧
    (∀ d ∈ [Dest.s 3, .a 31], let m := { box1 with cmds := [command1 true d] }; let s := boxed m; s.mailbox 0 3 = m ∧ m.opened = none ∧ m.obs.length < 2 ∧
      m.cmds = [command1 true d] ∧ s.g.id.present = true ∧ s.g.ended = false ∧ s.mayServe (command1 true d) s.g = true ∧
        s.inHandler s.g = false ∧ s.g.stopped = false ∧ s.g.spilled = false) ∧
    (let m := { box1 with cmds := [command1 false .none], obs := [⟨0, 2, 1, [1, 2]⟩] }; let s := boxed m; s.mailbox 0 3 = m ∧ s.g.id.present = true ∧
      (∀ e ∈ s.g.outq, e.id ∉ (command1 false .none).after) ∧ m.owner = some (command1 false .none).task ∧ s.recorders = []) := by
  decide +kernel

/-! ### Hypotheses that meet: courts, the host link, boot -/

/-- The court with one instruction as its text, on core 0, and its mailbox with or without an open step. -/
def courtWith (text : List Byte) : Court :=
  let o : CourtObject := ⟨0x4000_C000, text, [], [], 0⟩
  { court1 with obj := o, ram := o.image, pc := 0x1_0000, hart := some 0, x := court1.x.set 2 0x1_0004 }
def courtBox (text : List Byte) (step : Option OpenStep) : Mailbox := { box1 with court := some (courtWith text), opened := step }
/-- `addi x1, x0, 5`; `csrr x1, vbrecv`; `csrw vbsend, x2`; `ecall`. -/
def addi5 : List Byte := [0x93, 0x00, 0x50, 0x00]
def recv1 : List Byte := [0xF3, 0x20, 0x00, 0x80]
def send2 : List Byte := [0x73, 0x10, 0x11, 0x80]
def ecall : List Byte := [0x73, 0x00, 0x00, 0x00]
def step1 : OpenStep := ⟨1, 2, false⟩

/-- Which end an instruction of a court comes to. -/
def endsAs (r : CourtStep) : Nat :=
  match r with
  | .done _ _ => 0
  | .recv _ _ => 1
  | .send _ _ => 2
  | .except => 3

theorem met_CourtsRun : (∀ x ∈ [(addi5, 0), (recv1, 1), (send2, 2), (ecall, 3)], let m := courtBox x.1 (some step1); let s := boxed m
      s.mailbox 0 3 = m ∧ m.onCore = some (courtWith x.1) ∧ endsAs (m.courtStep (courtWith x.1)) = x.2) ∧
    (let m := courtBox recv1 none; m.onCore = some (courtWith recv1) ∧ endsAs (m.courtStep (courtWith recv1)) = 1 ∧ m.opened = none) ∧
    (∃ rd next, (courtBox recv1 (some step1)).courtStep (courtWith recv1) = .recv rd next ∧ 0 < rd ∧ rd < 32) ∧
    (∃ x c, (courtBox send2 (some step1)).courtStep (courtWith send2) = .send x c ∧ x % 4096 ≤ 4080) ∧
    (let c := { courtWith addi5 with used := 1000 }; let m := { courtBox addi5 (some step1) with court := some c }; m.opened = some step1 ∧
      c.cycles ≠ 0 ∧ c.cycles ≤ c.used) ∧
    (let c := { courtWith addi5 with hart := none }; let m := { courtBox addi5 none with court := some c }; let s := boxed m; s.mailboxes = [m] ∧
      m.die = 0 ∧ m.num = 3 ∧ c.running = true ∧ m.opened = none ∧ m.stalled c = false) := by
  exact ⟨by decide +kernel, by decide +kernel, ⟨1, 0x1_0004, by decide +kernel⟩, ⟨0x1_0004, { courtWith send2 with pc := 0x1_0004 }, by decide +kernel⟩,
    by decide +kernel, by decide +kernel⟩

/-- The module with a command as the next entry of pair 1, which is due with SEQ 7. -/
def entry7 (op arg0 arg1 : Nat) : Submission := ⟨7, BitVec.ofNat 8 op, arg0, arg1, false⟩
def submit (s : State) (op arg0 arg1 : Nat) : State := { s with
  hostMem := Memory.writeNat [] 0x1000 64 (7 + op * 2 ^ 32 + arg0 * 2 ^ 64 + arg1 * 2 ^ 128)
  pairs := s.pairs.map (fun p => if p.num = 1 then { p with sqb := 0x1000, cqb := 0x2000, tail := 1, sub := 7 } else p) }
/-- The same with other bytes in device memory. -/
def withMem (s : State) (pa n x : Nat) : State := { s with mem := Memory.writeNat s.mem pa n x }

theorem submitted_spec {s : State} {n : BitVec 4} {code : Nat} {e : Submission} (h : (s.pairs.any (fun p => p.num == n.toNat) &&
    decide (s.submission n = some e) && decide (e.op.toNat = code) && decide (e.seq = (s.pair n).sub) && !e.reserved) = true) :
    Claims.Submitted s n code e := by
  simp only [Bool.and_eq_true, decide_eq_true_eq, Bool.not_eq_true', List.any_eq_true, beq_iff_eq] at h
  obtain ⟨⟨⟨⟨h1, h2⟩, h3⟩, h4⟩, h5⟩ := h
  exact ⟨h1, h2, h3, h4, h5⟩

/-- The module with the kernel and tasks. -/
def withTasks (ts : List Task) : State := { handled grp1 core0 with tasks := ts }

/-- Without migrations and tracked blocks a write to plain memory does not wait, nor does one that does not translate. -/
theorem moveHolds_still {s : State} (h : s.migs = []) {t : Target} (hm : t.mig = false) : s.moveHolds t = false := by
  unfold State.moveHolds State.lineHeld
  split <;> simp [h, hm]
theorem tryWrite_plain {s : State} {root va : Nat} (h : s.migs = []) (hb : s.tracked = []) (ht : (match s.translate none root va .write with
    | .ok (.phys _ l) => !l.mig
    | .ok _ => false
    | .error _ => true) = true) (n x : Nat) (tag : Option Tag) : (s.tryWrite root va n x tag).isNone = false := by
  unfold State.tryWrite
  split
  · rfl
  · next t he =>
    rw [he] at ht
    cases t with
    | region => cases ht
    | phys pa l =>
      have hm : (Target.phys pa l).mig = false := by simpa [Target.mig] using ht
      simp [moveHolds_still h hm, State.writeHeld_still h hb, State.preparePage, Target.loc]

/-- In empty memory nothing is mapped. -/
theorem walk_empty (root va : Nat) : walk [] root va = .error Cause.notMapped := by
  have h : ∀ e, Memory.readNat [] e 8 = 0 := fun e => by simp [Memory.readNat, Memory.readBytes, Memory.read, ofBytes]
  simp [walk, walkLevels, walkFrom, h, bitAt]
/-- Bytes that are dropped do not wait. -/
theorem putWaits_dropped {s : State} {root va : Nat} {bs : List Byte}
    (h : ∀ x ∈ (List.range bs.length).zip bs, s.tryWrite root (va + x.1) 1 x.2.toNat none = some s) : s.putWaits root va bs = false := by
  rw [State.putWaits, State.tryPut, foldWaiting_same h]
  rfl
/-- In empty memory a write of the device is dropped. -/
theorem tryPut_empty {s : State} (hm : s.mem = []) (hr : s.regions = []) (root va : Nat) (bs : List Byte) :
    s.tryPut root va none bs = some s := by
  refine foldWaiting_same fun x _ => ?_
  have hl : s.leafFor none root (((va + x.1 : Nat) : Int).toNat) = .error Cause.notMapped := by
    unfold State.leafFor
    rw [hm, walk_empty, List.find?_eq_none.2 (fun e _ => by simp)]
  have ha : s.regionAt root (((va + x.1 : Nat) : Int).toNat) = none := by unfold State.regionAt; rw [hr]; rfl
  obtain ⟨c, hc⟩ : ∃ c, s.translate none root ((va + x.1 : Nat) : Int) .write = .error c := by
    unfold State.translate
    rw [ha, hl]
    split <;> exact ⟨_, rfl⟩
  rw [State.tryWrite, hc]
theorem putWaits_empty {s : State} (hm : s.mem = []) (hr : s.regions = []) (root va : Nat) (bs : List Byte) :
    s.putWaits root va bs = false := by
  rw [State.putWaits, tryPut_empty hm hr]
  rfl
theorem writeChunk_empty {s : State} (hm : s.mem = []) (hr : s.regions = []) (c : Collective) (k : Nat) (data : List (BitVec 16)) (m : List Nat) :
    (s.writeChunk c k data m).isSome = true := by
  have h : s.tryPuts (Config.windowSpace c.src.toNat) none (c.writes k data m) = some s :=
    foldWaiting_same fun x _ => tryPut_empty hm hr _ x.1 x.2
  rw [State.writeChunk, h]
  rfl

theorem met_TaskCommandsRun : (let s := submit (withMem (withTasks []) 0xA000 128 (launchWord + 0x10_0000 * 2 ^ 64)) 1 0xA000 0
      Claims.Submitted s 1 1 (entry7 1 0xA000 0) ∧ inMemory 0xA000 128 = true ∧
        launchRecOf (s.physical 0xA000 128) = some { launch1 with root := 0x10_0000 } ∧ s.kernelAt [] 0x10_0000 launch1.krec = some kernel1 ∧
        s.queueOpen launch1.queue = true ∧ launch1.nteams % kernel1.gfall = 0) ∧
    (let s := submit (withTasks []) 1 1 0; Claims.Submitted s 1 1 (entry7 1 1 0) ∧ 1 % 128 ≠ 0) ∧
    (let s := submit (withTasks []) 2 7 0; Claims.Submitted s 1 2 (entry7 2 7 0) ∧ s.inTree 7 = false) ∧
    (let s := submit (withTasks [task1 false]) 2 1 0; Claims.Submitted s 1 2 (entry7 2 1 0) ∧ s.inTree 1 = true ∧ ∀ r ∈ s.pme, r.checked = true) ∧
    (let s := submit (withTasks [task1 false]) 3 1 0x4000_0100; Claims.Submitted s 1 3 (entry7 3 1 0x4000_0100) ∧ s.task 1 = some (task1 false) ∧
      s.isBinTask 1 = false ∧ (∀ w, s.deviceWaits 0x10_0000 0x4000_0100 w = false) ∧ s.poison = [] ∧ s.failing = [] ∧ s.migs = [] ∧ s.tracked = [] ∧
      Memory.wf s.mem = true) ∧
    (∀ b ∈ [true, false], let x := { task1 false with preempted := b }; let s := submit (withTasks [x]) 4 1 0; Claims.Submitted s 1 4 (entry7 4 1 0) ∧
      s.task 1 = some x ∧ x.stage.stopping = false) ∧
    (let x := { task1 false with preempted := true, stage := .reclaiming }; let s := submit (withTasks [x]) 4 1 0; Claims.Submitted s 1 4 (entry7 4 1 0) ∧
      s.task 1 = some x ∧ x.stage.stopping = true) ∧
    (∀ op ∈ [3, 4], ∀ id ∈ [7, 2 ^ 40], let s := submit (withTasks [task1 false]) op id 0; Claims.Submitted s 1 op (entry7 op id 0) ∧
      (s.task (BitVec.ofNat 40 id) = none ∨ 2 ^ 40 ≤ id)) := by
  refine ⟨⟨submitted_spec (by decide +kernel), by decide +kernel⟩, ⟨submitted_spec (by decide +kernel), by decide⟩,
    ⟨submitted_spec (by decide +kernel), by decide +kernel⟩, ⟨submitted_spec (by decide +kernel), by decide +kernel⟩,
    ⟨submitted_spec (by decide +kernel), by decide +kernel, by decide +kernel, fun w => tryWrite_plain rfl rfl (by decide +kernel) _ _ _, rfl, rfl, rfl, rfl,
      by decide +kernel⟩, fun b hb => ?_, ⟨submitted_spec (by decide +kernel), by decide +kernel⟩, fun op ho id hi => ?_⟩
  · fin_cases hb <;> exact ⟨submitted_spec (by decide +kernel), by decide +kernel⟩
  · fin_cases ho <;> fin_cases hi <;> exact ⟨submitted_spec (by decide +kernel), by decide +kernel⟩

/-- The first launch in an address space for which a region is loaded. -/
theorem met_TaskCommandsRun_regions : (let q := region1 []; let s := { submit (withMem (withTasks []) 0xA000 128 (launchWord + 0x10_0000 * 2 ^ 64)) 1 0xA000 0 with
      loadRegions := [q] }
    Claims.Submitted s 1 1 (entry7 1 0xA000 0) ∧ launchRecOf (s.physical 0xA000 128) = some { launch1 with root := q.root } ∧
      s.kernelAt [] 0x10_0000 launch1.krec = some kernel1 ∧ s.queueOpen launch1.queue = true ∧ s.regionClash q = false) :=
  ⟨submitted_spec (by decide +kernel), by decide +kernel⟩

/-- A module that has booted and runs nothing. -/
def idle : State := { State.reset with bootStage := 3 }
/-- Context-pool numbers: images at 0x80_0000, named from 0x4080_0000, 4 images and 4 save areas. -/
def poolWord : Nat := 0x80_0000 + 0x4080_0000 * 2 ^ 64 + 4 * 2 ^ 160 + 4 * 2 ^ 192

theorem met_MemoryCommandsRun : Memory.wf tables = true ∧
    (let s := submit st1 5 0x10_0000 0; Claims.Submitted s 1 5 (entry7 5 0x10_0000 0)) ∧
    (let s := submit st1 6 1 0x40_0000; Claims.Submitted s 1 6 (entry7 6 1 0x40_0000) ∧ inMemory 0x40_0000 65536 = true ∧
      ∀ p ∈ s.pools, p.num = 1 → ∀ c, p.code = some c → c = BitVec.ofNat 3 (1 / 256)) ∧
    (let r := region1 [page1 false false]; let s := submit (shaded r tables) 7 0x10_0000 0x5000_0000; Claims.Submitted s 1 7 (entry7 7 0x10_0000 0x5000_0000) ∧
      s.regions = [r] ∧ r.gone = false ∧ s.regionBusy r = false ∧ (s.pools.find? (fun p => decide (p.num = r.pool))).isSome = true) ∧
    (let s := submit st1 7 0x10_0000 0x5000_0000; Claims.Submitted s 1 7 (entry7 7 0x10_0000 0x5000_0000) ∧ s.regions = []) ∧
    (∀ c ∈ [0, 1023, 0xFFFF], let s := submit (withMem idle 0xB000 32 (0x10_0000 + 0x4000_8000 * 2 ^ 64 + 0x4000_8000 * 2 ^ 128)) 0xB 0xB000 c
      Claims.Submitted s 1 0xB (entry7 0xB 0xB000 c) ∧ inMemory 0xB000 32 = true ∧ s.physical 0xB000 32 < 2 ^ 192) ∧
    (let s := submit (withMem idle 0xC000 64 poolWord) 0x11 0xC000 0; let x := s.physical 0xC000 64; Claims.Submitted s 1 0x11 (entry7 0x11 0xC000 0) ∧
      inMemory 0xC000 64 = true ∧ x < 2 ^ 224 ∧ x / 2 ^ 128 % 2 ^ 32 = 0 ∧ x / 2 ^ 160 % 2 ^ 32 ≠ 0 ∧ x / 2 ^ 64 % 65536 = 0 ∧ x % 65536 = 0 ∧
      tierOf (x % 2 ^ 64) = some 0 ∧ ∀ g ∈ s.groups, g.id.kind = .ordinary → g.ended = true) ∧
    (let s := submit idle 0xD 15 0x1_0000; Claims.Submitted s 1 0xD (entry7 0xD 15 0x1_0000) ∧ inMemory 0x1_0000 (64 + 32 * 1024) = true) ∧
    (let s := submit idle 0xD 16 0x1_0000; Claims.Submitted s 1 0xD (entry7 0xD 16 0x1_0000)) ∧
    (let s := submit idle 0xE 5 0x2_0000; Claims.Submitted s 1 0xE (entry7 0xE 5 0x2_0000) ∧ inMemory 0x2_0000 (s.quote 5).length = true) := by
  refine ⟨by decide +kernel, submitted_spec (by decide +kernel), ⟨submitted_spec (by decide +kernel), by decide +kernel, fun p hp => by cases hp⟩,
    ⟨submitted_spec (by decide +kernel), by decide +kernel⟩, ⟨submitted_spec (by decide +kernel), by decide +kernel⟩, fun c hc => ?_,
    ⟨submitted_spec (by decide +kernel), by decide +kernel⟩, ⟨submitted_spec (by decide +kernel), by decide +kernel⟩,
    submitted_spec (by decide +kernel), submitted_spec (by decide +kernel), ?_⟩
  · fin_cases hc <;> exact ⟨submitted_spec (by decide +kernel), by decide +kernel⟩
  · rw [State.length_quote]
    decide +kernel

/-- Descriptors of a court, a window, a collective and a debug block. -/
def courtWord : Nat := 0x4000_C000 + 3 * 2 ^ 72 + 1000 * 2 ^ 128 + 0x1_0000 * 2 ^ 192
def windowWord : Nat := 0x5000_0000 + 256 * 2 ^ 64 + 2 * 2 ^ 144 + 0x5001_0000 * 2 ^ 192
def collectiveWord : Nat := 0x4000_1000 + 0x4000_2000 * 2 ^ 64 + 0x4000_3000 * 2 ^ 128 + 0x4000_3040 * 2 ^ 192 + 128 * 2 ^ 320 + 2 * 2 ^ 368
def debugWord : Nat := 0x6_0000 + 1024 * 2 ^ 64 + 10 * 2 ^ 128 + 2 ^ 160 + 0x7_0000 * 2 ^ 192
def object1 : CourtObject := ⟨0x4000_C000, addi5, [], [], 0⟩
/-- The module with a descriptor at 0xC000 and its command in the ring. -/
def describing (s : State) (op x : Nat) : State := submit (withMem s 0xC000 64 x) op 0xC000 0
def window1 (closed : Bool) : Window where
  id := 1
  base := 0x5000_0000
  size := 256
  op := 0
  home := 0
  first := 0
  nmem := 2
  status := 0x5001_0000
  absent := []
  epochs := 0
  partialEpoch := false
  closed := closed
  arrived := []
  away := []

/-- The region of two pages in an address space, both dark, and no page for them: what is written there is dropped. -/
def spaced (root : Nat) (s : State) : State := { s with regions := [{ region1 [] with root := root }], pools := [] }
theorem regionAt_spaced (root : Nat) (s : State) (n : Nat) (hn : n < 0x2_0000) :
    (spaced root s).regionAt root (0x5000_0000 + n) = some { region1 [] with root := root } := by
  rw [State.regionAt, spaced, List.find?_cons_of_pos]
  show (root == root && !false && decide (0x5000_0000 ≤ 0x5000_0000 + n) && decide (0x5000_0000 + n < 0x5000_0000 + 0x2_0000)) = true
  simp only [beq_self_eq_true, Bool.not_false, Bool.true_and, Bool.and_eq_true, decide_eq_true_eq]
  exact ⟨by omega, by omega⟩
theorem windowMapped_spaced (root : Nat) (s : State) : (spaced root s).windowMapped root 0x5000_0000 256 = true := by
  have h : (0x5000_0000 + 256 + 65535) / 65536 - 0x5000_0000 / 65536 = 1 := by norm_num
  have ha : (spaced root s).regionAt root 0x5000_0000 = some { region1 [] with root := root } := regionAt_spaced root s 0 (by omega)
  simp only [State.windowMapped, h, List.range_one, List.all_cons, List.all_nil, Nat.add_zero, Bool.and_true]
  norm_num [ha]
theorem putWaits_spaced (root : Nat) (s : State) (h : s.migs = []) (bs : List Byte) (hb : bs.length ≤ 64) :
    (spaced root s).putWaits root 0x5001_0000 bs = false := by
  refine putWaits_dropped fun x hx => ?_
  have hn : x.1 < 64 := lt_of_lt_of_le (List.mem_range.1 (List.of_mem_zip hx).1) hb
  have ha : (spaced root s).regionAt root (0x5001_0000 + x.1) = some { region1 [] with root := root } := by
    have := regionAt_spaced root s (0x1_0000 + x.1) (by omega)
    rwa [← Nat.add_assoc] at this
  have ht : (spaced root s).translate none root ((0x5001_0000 + x.1 : Nat) : Int) .write = .ok (.region root (0x5001_0000 + x.1)) := by
    unfold State.translate
    rw [if_neg (by omega), Int.toNat_natCast, ha]
    rfl
  have hd : (spaced root s).darkPage root (0x5001_0000 + x.1) =
      some ({ region1 [] with root := root }, ({ region1 [] with root := root } : Region).pageOf (0x5001_0000 + x.1)) := by
    have hr : (spaced root s).regionOf root (0x5001_0000 + x.1) = some { region1 [] with root := root } := by
      rw [State.regionOf, spaced, List.find?_cons_of_pos]
      show (root == root && decide (0x5000_0000 ≤ 0x5001_0000 + x.1) && decide (0x5001_0000 + x.1 < 0x5000_0000 + 0x2_0000)) = true
      simp only [beq_self_eq_true, Bool.true_and, Bool.and_eq_true, decide_eq_true_eq]
      exact ⟨by omega, by omega⟩
    simp only [State.darkPage, hr]
    rfl
  have hm : (spaced root s).moveHolds (.region root (0x5001_0000 + x.1)) = false := moveHolds_still (s := spaced root s) h rfl
  have hg : ∀ r page, (spaced root s).allocate r page = .refused (spaced root s) := fun r page => by
    have hc : (spaced root s).candidates r.pool = [] := by simp [State.candidates, spaced, region1, sortBy]
    rw [State.allocate, hc]
    rfl
  rw [State.tryWrite, ht]
  simp only [hm, Target.loc, State.preparePage, hd, hg]
  cases hi : ({ region1 [] with root := root } : Region).isShade (0x5001_0000 + x.1) 1 x.2.toNat <;> simp_all

theorem met_UnitCommandsRun : (let s := describing { idle with courtObjs := [object1] } 8 courtWord; let x := s.physical 0xC000 64
      Claims.Submitted s 1 8 (entry7 8 0xC000 0) ∧ inMemory 0xC000 64 = true ∧ x < 2 ^ 256 ∧ x / 2 ^ 64 % 2 ^ 8 = 0 ∧ x / 2 ^ 80 % 2 ^ 4 = 0 ∧
        x / 2 ^ 90 % 2 ^ 38 = 0 ∧ x / 2 ^ 88 % 4 ≠ 3 ∧ s.courtObjs.find? (fun o => o.va.toNat == x % 2 ^ 64) = some object1 ∧
        (s.mailbox (BitVec.ofNat 4 (x / 2 ^ 84)) (BitVec.ofNat 8 (x / 2 ^ 72))).court = none ∧ x / 2 ^ 192 % 2 ^ 32 = 65536 ∧
        object1.extent ≤ 65536 ∧ ∀ m ∈ s.mailboxes, m.die = 0 → m.court = none) ∧
    (let s := submit (boxed box1) 0x10 0 3; Claims.Submitted s 1 0x10 (entry7 0x10 0 3) ∧ (s.mailbox 0 3).court = some court1) ∧
    (let s := submit idle 0x10 15 255; Claims.Submitted s 1 0x10 (entry7 0x10 15 255) ∧ (s.mailbox 15 255).court = none) ∧
    (let r := Config.windowSpace 0x5000_0000; let s := spaced r (describing idle 9 windowWord); Claims.Submitted s 1 9 (entry7 9 0xC000 0) ∧
      inMemory 0xC000 64 = true ∧ s.physical 0xC000 64 % 2 ^ 64 = 0x5000_0000 ∧ windowOf (s.physical 0xC000 64) s.nextUid = some (window1 false) ∧
      s.windows = [] ∧ s.poison = [] ∧ s.failing = [] ∧ s.windowMapped r 0x5000_0000 256 = true ∧
      s.putWaits r (window1 false).status.toNat (statusBytes 0 0 0) = false) ∧
    (∀ w ∈ [{ window1 false with base := 0x5000_0080 }, { window1 false with base := 0x6000_0000, first := 1, home := 1 }],
      let r := Config.windowSpace 0x5000_0000; let s := spaced r (describing { idle with windows := [w] } 9 windowWord)
      Claims.Submitted s 1 9 (entry7 9 0xC000 0) ∧ s.physical 0xC000 64 % 2 ^ 64 = 0x5000_0000 ∧
      s.physical 0xC000 64 / 2 ^ 192 % 2 ^ 64 = 0x5001_0000 ∧ windowOf (s.physical 0xC000 64) s.nextUid = some (window1 false) ∧
      (w.overlaps (window1 false) = true ∨ w.first ≠ (window1 false).first) ∧ s.poison = [] ∧ s.failing = [] ∧
      s.putWaits r 0x5001_0000 (statusBytes 3 0 0) = false) ∧
    (let s := describing idle 9 0; Claims.Submitted s 1 9 (entry7 9 0xC000 0) ∧ windowOf (s.physical 0xC000 64) s.nextUid = none ∧
      s.poison = [] ∧ s.failing = [] ∧ ∀ r va bs, s.putWaits r va bs = false) ∧
    (let s := describing idle 0xA collectiveWord; Claims.Submitted s 1 0xA (entry7 0xA 0xC000 0) ∧ inMemory 0xC000 64 = true ∧
      (collectiveOf (s.physical 0xC000 64) s.nextUid).isSome = true) ∧
    (let s := describing idle 0xA 0; Claims.Submitted s 1 0xA (entry7 0xA 0xC000 0) ∧ collectiveOf (s.physical 0xC000 64) s.nextUid = none ∧
      s.poison = [] ∧ s.failing = [] ∧ ∀ r va bs, s.putWaits r va bs = false) ∧
    (let s := submit { idle with windows := [window1 false] } 0xF 0x5000_0000 0; Claims.Submitted s 1 0xF (entry7 0xF 0x5000_0000 0) ∧
      s.windows = [window1 false] ∧ (window1 false).base = 0x5000_0000) ∧
    (let s := submit idle 0xF 0x5000_0000 0; Claims.Submitted s 1 0xF (entry7 0xF 0x5000_0000 0) ∧ ∀ w ∈ s.windows, w.base ≠ 0x5000_0000) ∧
    (let s := submit { idle with windows := [window1 true] } 0xF 0x5000_0000 0; Claims.Submitted s 1 0xF (entry7 0xF 0x5000_0000 0) ∧
      ∀ w ∈ s.windows, w.base = 0x5000_0000 → w.closed = true) ∧
    (let s := { idle with windows := [window1 true] }; s.submission 1 = none ∧
      (s.windows.filter (fun v => v.closed))[(1 : BitVec 4).toNat % (s.windows.filter (fun v => v.closed)).length]? = some (window1 true) ∧
      s.windows.Pairwise (fun v u => v.id ≠ u.id) ∧ (∀ c ∈ s.contribs, c.base ≠ (window1 true).base) ∧
      (window1 true).arrived = [] ∧ ∀ bs, s.putWaits (Config.windowSpace (window1 true).base) (window1 true).status.toNat bs = false) ∧
    (let y := { task1 false with debug := true }; let s := submit (withMem (withTasks [y]) 0xC000 64 debugWord) 0xC 1 0xC000
      Claims.Submitted s 1 0xC (entry7 0xC 1 0xC000) ∧ s.task 1 = some y ∧ (debugBlockOf (s.physical 0xC000 64) 1).isSome = true) := by
  refine ⟨⟨submitted_spec (by decide +kernel), by decide +kernel⟩, ⟨submitted_spec (by decide +kernel), by decide +kernel⟩,
    ⟨submitted_spec (by decide +kernel), by decide +kernel⟩, ⟨submitted_spec (by decide +kernel), by decide +kernel, by decide +kernel,
      by decide +kernel, rfl, rfl, rfl, windowMapped_spaced _ _, putWaits_spaced _ _ rfl _ (by decide)⟩, fun w hw => ?_,
    ⟨submitted_spec (by decide +kernel), by decide +kernel, rfl, rfl, fun _ _ _ => putWaits_empty (by decide +kernel) rfl _ _ _⟩,
    ⟨submitted_spec (by decide +kernel), by decide +kernel⟩,
    ⟨submitted_spec (by decide +kernel), by decide +kernel, rfl, rfl, fun _ _ _ => putWaits_empty (by decide +kernel) rfl _ _ _⟩,
    ⟨submitted_spec (by decide +kernel), by decide +kernel⟩, ⟨submitted_spec (by decide +kernel), by decide +kernel⟩,
    ⟨submitted_spec (by decide +kernel), by decide +kernel⟩,
    ⟨by decide +kernel, by decide +kernel, by decide +kernel, by decide +kernel, rfl, putWaits_empty rfl rfl _ _⟩,
    submitted_spec (by decide +kernel), by decide +kernel⟩
  fin_cases hw <;> exact ⟨submitted_spec (by decide +kernel), by decide +kernel, by decide +kernel, by decide +kernel, by decide +kernel, rfl, rfl,
    putWaits_spaced _ _ rfl _ (by decide)⟩

/-- A completion of pair 1 that is due. -/
def done1 : Completion := ⟨1, 5, 1, 0, 6⟩

theorem met_QueuePairsServe : (let s := submit idle 2 7 0; let e := entry7 2 7 0; (∃ p ∈ s.pairs, p.num = (1 : BitVec 4).toNat) ∧ s.submission 1 = some e ∧
      e.seq = (s.pair 1).sub) ∧
    (let s := submit idle 2 7 0; let s := { s with pairs := s.pairs.map (fun (p : QueuePair) => { p with sub := p.sub + 1 }) }
      s.submission 1 = some (entry7 2 7 0) ∧ (entry7 2 7 0).seq ≠ (s.pair 1).sub ∧ Claims.commandOf (.cancelCommand 1) = some (1, 2)) ∧
    (let s := submit idle 2 7 (2 ^ 64); s.submission 1 = some { entry7 2 7 0 with reserved := true }) ∧
    (∀ op ∈ [0, 0x12, 0xFF], let s := submit idle op 7 0; s.submission 1 = some (entry7 op 7 0) ∧ ((entry7 op 7 0).op.toNat = 0 ∨ 0x11 < (entry7 op 7 0).op.toNat)) ∧
    (∀ s ∈ [idle, State.reset], ∃ p, s.pairs.find? (fun q => q.num == (1 : BitVec 4).toNat) = some p) ∧
    (let p := { QueuePair.reset 1 with head := 0, held := 16 }; p.cq.toNat ≤ 12 ∧ p.head.toNat ≤ 15 ∧ 15 < p.head.toNat + 2 ^ p.cq.toNat ∧
      15 - p.head.toNat ≤ p.held ∧ 2 ^ p.cq.toNat ≤ p.held ∧ (QueuePair.reset 1).held < 2 ^ (QueuePair.reset 1).cq.toNat) ∧
    (let s := { idle with completions := [done1] }; s.completions.find? (fun c => c.pair == (1 : BitVec 4).toNat) = some done1 ∧
      Memory.wf s.hostMem = true) := by
  refine ⟨by decide +kernel, by decide +kernel, by decide +kernel, by decide +kernel, fun s hs => ?_, by decide +kernel, by decide +kernel⟩
  fin_cases hs <;> exact ⟨QueuePair.reset 1, by decide +kernel⟩

/-- A firmware image. -/
def firmware1 : FirmwareImage := { wellFormed := true, length := 1, body := [7], digest := 0, rsaKey := [], rsaSig := [], slhKey := [], slhSig := [], version := 1, components := [] }

theorem met_BootsInOrder : (∀ b ∈ [(0 : BitVec 8), 3, 4], ({ State.reset with bootStage := b } : State).bootStage ≠ 1 ∧ b ≠ 2) ∧
    (let s := { State.reset with bootStage := 1 }; s.bootImage = none) ∧
    (let s := { State.reset with bootStage := 2, bootImage := some firmware1 }; s.bootStage = 2 ∧ s.bootImage = some firmware1) := by decide +kernel

theorem met_DataEntersAndLeaves : (Memory.wf st1.mem = true ∧ st1.poison = [] ∧ st1.failing = [] ∧ st1.migs = [] ∧ st1.tracked = [] ∧ st1.recorders = [] ∧
      (∀ k, 0 ≤ k → k < 0 + [(1 : Byte), 2].length → (tierOf k).isSome = true)) ∧
    (∀ k, State.reset.haloBad k = false) ∧
    (let s := { State.reset with halos := [(3, 1)] }; s.haloBad 3 = true ∧ (∀ j, s.haloBad j = true → j = 3) ∧ 64 ≤ 32 * 3 ∧ 32 * 3 < 64 + 64) := by
  refine ⟨⟨by decide +kernel, rfl, rfl, rfl, rfl, rfl, fun k _ hk => ?_⟩, fun k => ?_, by decide +kernel, fun j hj => ?_, by decide⟩
  · have : k = 0 ∨ k = 1 := by simp only [List.length_cons, List.length_nil] at hk; omega
    rcases this with rfl | rfl <;> decide
  · simp [State.haloBad, State.halo, State.reset]
  · by_contra h
    simp [State.haloBad, State.halo, Ne.symm h] at hj

/-! ### Hypotheses that meet: windows, migration, attention caches, checkpoints, steps -/

/-- A merge slot of the first element of a window of one member. -/
def window2 : Window := { window1 false with base := 0x4000_0100, op := 2, nmem := 1 }
def contribution1 : Contribution where
  base := 0x4000_0100
  off := 252
  data := 0xFFFF_FFFF
  grp := 1
  serial := 0
  root := 0x10_0000
def merging : State := { st1 with windows := [window2], contribs := [contribution1] }
/-- A collective of two members, and one of which this module is the only one. -/
def ring (n : Nat) : Collective where
  id := 5
  kind := 0
  rnd := 0
  nmem := n
  first := 0
  chunk := 1
  seed := 0
  maskVa := 0
  status := 0x4000_3040
  dst := 0x4000_2000
  src := 0x4000_1000
  absent := []
  written := []

theorem met_WindowsMerge : (let w := window2; let c := contribution1; let s := merging; let x := (0, 0xFFFF_FFFF); s.windows = [w] ∧ w.base < 2 ^ 64 ∧
      s.contribs = [c] ∧ c.base = w.base ∧ c.off = 252 ∧ 252 % w.element = 0 ∧ 252 < w.size ∧
      (∀ m, w.first ≤ m → m < w.first + w.nmem → m ∈ w.absent ∨ ∃ y ∈ s.epochInputs w (some c) 252, y.1 = m) ∧
      s.epochInputs w (some c) 252 = x :: [] ∧ w.home = s.module.toNat ∧
      (∃ y : Target, s.translate none c.root ((w.base + 252 : Nat) : Int) .read = .ok y ∧ y.loc = .mem 508 ∧ y.mig = false) ∧ s.poison = [] ∧
      s.failing = [] ∧ s.migs = [] ∧ s.tracked = [] ∧ Memory.wf s.mem = true) ∧
    (let w := { window2 with nmem := 2, home := 1 }; let c := contribution1; let s := { merging with windows := [w] }
      let v := [(1, (5 : BitVec 32)), (1, 6), (2, 7)].foldl (Window.arrive s.module.toNat 252) w
      s.epochInputs v (some c) 252 = [(0, 0xFFFF_FFFF), (1, 5)] ∧ w.home ≠ s.module.toNat) ∧
    window2.op = 2#4 ∧ 1 ≠ merging.module.toNat ∧
    (∀ n ∈ [1, 2], let c := ring n; let s := { idle with colls := [c] }; s.colls.find? (fun x => x.id == c.id) = some c ∧ 0 < c.nmem ∧
      s.module.toNat ∈ c.route 0 ∧ (∀ y ∈ c.written, y.1 ≠ 0) ∧ s.passed = []) ∧
    (∀ c k data by_ va bs, let s := { idle with colls := [c] }; (s.writeChunk c k data by_).isSome = true ∧
      s.putWaits (Config.windowSpace c.src.toNat) va bs = false) ∧
    (ring 2).route 1 = [0, 1] ∧ (ring 1).route 0 = [0] ∧ ((ring 2).route 1).getLast? ≠ some 0 ∧ (ring 2).nextLive 0 = some 1 := by
  refine ⟨⟨rfl, by decide, rfl, rfl, rfl, by decide, by decide, fun m h1 h2 => Or.inr ?_, by decide +kernel, rfl,
    ⟨.phys 508 ⟨0, 2 ^ 30, 0, false, true, true, true, 0x11_0008⟩, by decide +kernel, by decide +kernel, rfl⟩, rfl, rfl, rfl, rfl,
    by decide +kernel⟩, by decide +kernel, rfl, by decide, by decide +kernel, fun c k data m va bs => ⟨writeChunk_empty rfl rfl c k data m, putWaits_empty rfl rfl _ _ _⟩,
    by decide +kernel⟩
  have : m = 0 := by simp only [window2, window1] at h1 h2; omega
  subst this
  exact ⟨(0, 0xFFFF_FFFF), by decide +kernel, rfl⟩

/-- The members of two kinds of collective that a chunk comes round to, and who has contributed. -/
theorem met_ChunksGoRound : (let c := { ring 2 with kind := 2 }; (c.route 1).getLast? ≠ some 0 ∧ c.kind ≠ 1#4) ∧
    (let c := { ring 2 with kind := 1 }; (c.route 1).getLast? ≠ some 0 ∧ 0 ∈ [0] ∧ c.kind = 1#4) := by decide +kernel

/-- A chunk that went to a member which is absent now; and a collective of which this member has done its part, or has not. -/
def passed1 : Passed where
  coll := 5
  chunk := 2
  next := 1
  data := [7]
  contributed := [0]
theorem met_CollectivesEnd : (let c := { ring 3 with absent := [1] }; let s := { idle with colls := [c], passed := [passed1] }
      s.colls.find? (fun x => x.id == c.id) = some c ∧ 2 < c.nmem ∧ 0 ∈ c.route 2 ∧ (∀ y ∈ c.written, y.1 ≠ 2) ∧
        s.stranded c 2 [7] [0] = some passed1 ∧ (c.route 2).getLast? ≠ some 0 ∧ c.nextLive 0 = some 2) ∧
    (let c := { ring 2 with written := [(0, [0, 1])] }; let s := { idle with colls := [c], passed := [{ passed1 with chunk := 1 }] }
      s.colls.find? (fun x => x.id == c.id) = some c ∧ ∀ k ∈ List.range c.nmem, (0 ∈ c.route k → (∃ y ∈ c.written, y.1 = k) ∨
        ∃ p ∈ s.passed, p.coll = c.id ∧ p.chunk = k) ∧ (c.kind = 1#4 ∨ (c.route k).getLast? = some 0 → ∃ y ∈ c.written, y.1 = k)) ∧
    (let c := ring 2; let s := { idle with colls := [c] }; 0 < c.nmem ∧ 0 ∈ c.route 0 ∧ c.written = [] ∧ s.passed = []) := by
  decide +kernel

/-- The page of a gigabyte, to be moved to tier 0 or to tier 2, and the move. -/
def move1 (tier : BitVec 2) (phys : Nat) : MigCommand where
  root := 0x10_0000
  va := 0x4000_0000
  newTier := tier
  newPhys := phys
  newCode := 0
  size := 2 ^ 30
  block := none
def moving (cmd : MigCommand) : Migration where
  id := 1
  queue := 0
  cmd := cmd
  pte := 0x11_0008
  oldPhys := 0
  oldCode := 0
  window := decide (2 ≤ cmd.newTier.toNat)
  bitmap := 0
  copying := none
def farTier : Nat := 0x4000_0000_0000

theorem met_PagesMigrate : (∀ cmd ∈ [move1 0 (2 ^ 31), move1 2 farTier], entryFrom st1.mem cmd.va.toNat cmd.size walkLevels cmd.root = some 0x11_0008 ∧
      (∃ l, walk st1.mem cmd.root cmd.va.toNat = .ok l ∧ l.size = cmd.size) ∧ st1.migs = [] ∧ st1.regions = [] ∧
      cmd.size = 2 ^ 30 ∧ cmd.va.toNat % cmd.size = 0 ∧ cmd.va.toNat < 2 ^ 56 ∧ cmd.newPhys % cmd.size = 0 ∧
      tierOf cmd.newPhys = some cmd.newTier) ∧
    (∀ cmd ∈ [move1 0 (2 ^ 31), move1 2 farTier], let m := moving cmd; let s := { st1 with migs := [m] }; m.cmd.block = none ∧ s.migs = [m] ∧ s.nvmeAt = [] ∧ s.poison = [] ∧
      Memory.wf s.mem = true ∧ m.cmd.size = 2 ^ 30 ∧ m.oldPhys % m.cmd.size = 0 ∧ m.cmd.newPhys % m.cmd.size = 0 ∧ tierOf m.oldPhys = some 0 ∧
      tierOf m.cmd.newPhys = some m.cmd.newTier) ∧ (moving (move1 2 farTier)).window = true ∧
    (let m := moving { move1 0 0x2_0000 with size := 65536 }; m.window = false ∧ m.copying = none ∧
      (List.range m.lines).find? (fun j => !(m.bitmap.testBit j)) = some 0 ∧ { m with copying := some 511 }.copying = some 511 ∧ m.full = false ∧
      m.cmd.newTier ≠ 3 ∧ { m with bitmap := 2 ^ 512 - 1 }.full = true) := by
  refine ⟨fun cmd hc => ?_, by decide +kernel, rfl, by decide +kernel⟩
  have hw : walk st1.mem 0x10_0000 0x4000_0000 = .ok ⟨0, 2 ^ 30, 0, false, true, true, true, 0x11_0008⟩ := by decide +kernel
  fin_cases hc <;> exact ⟨by decide +kernel, ⟨_, hw, rfl⟩, by decide +kernel⟩

/-- The move of a page that lies in tier 2 to tier 0, and of a page of tier 0 out to NVMe, with a granule that failed its check inside it and outside. -/
theorem met_PagesMove : (let s := { st1 with mem := Memory.writeNat tables 0x11_0008 8 (farTier + 0x1F) }; let cmd := move1 0 (2 ^ 31)
      entryFrom s.mem cmd.va.toNat cmd.size walkLevels cmd.root = some 0x11_0008 ∧
        (∃ l, walk s.mem cmd.root cmd.va.toNat = .ok l ∧ l.size = cmd.size ∧ ∃ x, tierOf l.page = some x ∧ 2 ≤ x.toNat) ∧
        tierOf cmd.newPhys = some cmd.newTier ∧ Memory.wf s.mem = true) ∧
    (let m := moving (move1 3 0); let s := { st1 with migs := [m] }; m.cmd.block = none ∧ s.fromNvme m = false ∧ s.pageUnsettled m = false) ∧
    (∀ x ∈ [((3 : Nat), true), (2 ^ 30, false)], let m := moving (move1 3 0); let s := { st1 with migs := [m], halos := [(x.1, 1)] }
      s.haloBad x.1 = true ∧ (m.offsetOf (32 * x.1)).isSome = x.2) := by
  refine ⟨⟨by decide +kernel, ⟨⟨farTier, 2 ^ 30, 0, false, true, true, true, 0x11_0008⟩, by decide +kernel⟩, by decide +kernel⟩, by decide +kernel,
    by decide +kernel⟩

/-- A directory at 0x4001_0000: two slots, a block table with the two entries of one block, a pool of four, a block with one reference; slot 0 holds a sequence of one position,
slot 1 is free. `a1` names it, and `v5` holds the word of position 0. -/
def directory (e0 : Nat) : Mem :=
  [(0x1_0000, 2), (0x1_0008, 0x200), (0x1_0010, 4 * 2 ^ 32), (0x1_0040, 2 ^ 62 + 1), (0x1_0048, 0x100), (0x1_0088, 0x180), (0x1_0100, e0), (0x1_0500, 1)].foldl
    (fun (m : Mem) (x : Nat × Nat) => Memory.writeNat m x.1 8 x.2) tables
def entryOf : Nat := 4 * 2 ^ 16 + 1
def caching (lanes : Lanes) (e0 : Nat) : State := { st1 with
  mem := directory e0
  g := { grp1 with
    slot0 := { grp1.slot0 with path := some { path0 with mask := lanes } }
    regs := { grp1.regs with aLaunch := grp1.regs.aLaunch.set 1 0x4001_0000, a := grp1.regs.a.set 1 0x4001_0000 } } }
def header1 : KvHeader := ⟨2, 0, 0, 1, 16, 0, 0x200, 4, 0⟩
def twoLanes : Lanes := 0x8000_0000_0000_0001#64

theorem kvReady_spec {s : State} {n : BitVec 3} {h : KvHeader} (x : (decide (s.port ≠ .setter) && decide (s.g.counter 6 < 255) && s.mayRelease s.port 6 &&
    (match s.kvHeader s.g.id.root (s.g.aBase n.toNat).toNat with
      | .ok k => decide (k = h)
      | .error _ => false) && !s.g.kvHeld && !s.kvBusy s.g.id.root && decide (s.recorders = [])) = true) : Claims.KvReady s n h := by
  simp only [Bool.and_eq_true, decide_eq_true_eq, Bool.not_eq_true'] at x
  obtain ⟨⟨⟨⟨⟨⟨h1, h2⟩, h3⟩, h4⟩, h5⟩, h6⟩, h7⟩ := x
  refine ⟨h1, h2, h3, ?_, h5, h6, h7⟩
  split at h4
  · next k hk => rw [hk, of_decide_eq_true h4]
  · cases h4

/-- An access that answers a value, to be evaluated. -/
def gives {α : Type} [DecidableEq α] (x : Except Cause α) (y : α) : Bool :=
  match x with
  | .ok z => decide (z = y)
  | .error _ => false
theorem gives_spec {α : Type} [DecidableEq α] {x : Except Cause α} {y : α} (h : gives x y = true) : x = .ok y := by
  unfold gives at h
  split at h
  · rw [of_decide_eq_true h]
  · cases h

theorem kvHit_zero {s : State} {base slot x : Nat} (hs : (decide (base = 0x4001_0000) && decide (slot = 0) && decide (x = 0) &&
    gives (s.kvRead s.g.id.root (slotAt 0x4001_0000 0) 8) (2 ^ 62 + 1) && gives (s.kvRead s.g.id.root (slotAt 0x4001_0000 0 + 8) 8) 0x100 &&
    gives (s.kvRead s.g.id.root (0x4001_0000 + 0x100) 8) entryOf) = true) :
    Claims.KvHit s base header1 slot x (2 ^ 62 + 1) entryOf 0x4001_0600 := by
  simp only [Bool.and_eq_true, decide_eq_true_eq] at hs
  obtain ⟨⟨⟨⟨⟨rfl, rfl⟩, rfl⟩, h1⟩, h2⟩, h3⟩ := hs
  exact ⟨by decide, gives_spec h1, by decide, by decide, by decide, by decide, ⟨0x100, gives_spec h2, gives_spec h3⟩, by decide, by decide, by decide⟩

/-- The flight of a held `kvx` with an action of lane 0 on a block of bounds alone whose new place is not mapped any more, and the slot that waits for it. -/
def act1 : KvAct := ⟨0x4001_0100, 1, 2 ^ 23 * 2 ^ 16 + 1, 0x10_0000, 0x4001_0000, 0, 0, false, true, [], 0, 0⟩
def held1 : InFlight := flight (some 6) (.kv [(0, 0x4001_0600)] [act1] []) (.v 5 true) false
def actionPending : State :=
  let s := caching 1 entryOf
  { s with g := { s.g with slot0 := { s.g.slot0 with wait := .action 0 }, inflight := [held1] } }

theorem met_CachesTranslate_read : let s := caching twoLanes entryOf; Clear (.kvx 1 4 5 20) s ∧ Claims.KvReady s 1 header1 ∧
    ∀ l ∈ members (s.g.maskAt s.port), ∃ w e, Claims.KvHit s (s.g.aBase (1 : BitVec 3).toNat).toNat header1 (Claims.slotIn s 5 l) (Claims.wordIn s 4 l) w e
      0x4001_0600 ∧ Claims.wordIn s 4 l % 2 ^ 20 < slotLen w := by
  refine ⟨clear_spec (by decide +kernel), kvReady_spec (by decide +kernel), fun l hl => ?_⟩
  have h0 : members ((caching twoLanes entryOf).g.maskAt (caching twoLanes entryOf).port) = [0, 63] := by decide +kernel
  rw [h0] at hl
  rcases (show l = 0 ∨ l = 63 by simpa using hl) with rfl | rfl <;>
    exact ⟨2 ^ 62 + 1, entryOf, kvHit_zero (by decide +kernel), by decide +kernel⟩
theorem met_CachesTranslate_write : let s := caching 1 entryOf; let base := (s.g.aBase (1 : BitVec 3).toNat).toNat; Clear (.kvxW 1 4 5 20) s ∧
    Claims.KvReady s 1 header1 ∧ members (s.g.maskAt s.port) = [0] ∧
    Claims.KvHit s base header1 (Claims.slotIn s 5 0) (Claims.wordIn s 4 0) (2 ^ 62 + 1) entryOf 0x4001_0600 ∧ kvShared entryOf = false ∧
    (∃ pa lf, s.translate none s.g.id.root (slotAt base (Claims.slotIn s 5 0) : Nat) .write = .ok (.phys pa lf)) ∧ s.tracked = [] ∧ Claims.Quiet s ∧
    Memory.wf s.mem = true := by
  exact ⟨clear_spec (by decide +kernel), kvReady_spec (by decide +kernel), by decide +kernel, kvHit_zero (by decide +kernel), by decide,
    ⟨0x1_0040, ⟨0, 2 ^ 30, 0, false, true, true, true, 0x11_0008⟩, by decide +kernel⟩, by decide +kernel, ⟨rfl, rfl, rfl, rfl⟩, by decide +kernel⟩
theorem met_CachesTranslate_action : let s := actionPending; let f := held1; s.g.id.present = true ∧ s.g.inflight.find? (fun x => x.serial == f.serial) = some f ∧
    f.kind = .kv [(0, 0x4001_0600)] [act1] [] ∧ f.done = false ∧ f.dest = .v 5 true ∧ s.actsTurn [act1] = true ∧
    (foldWaiting (fun (r : State) x => r.kvPerform (s.g.id.uid, f.pc.toNat) x) [act1] s).isSome = true ∧
    s.regions = [] ∧ s.inHandler s.g = false ∧
    s.g.portWhere (fun w => decide (w = .action f.serial)) = some .slot0 ∧ (s.g.slot .slot0).path.isSome = true := by
  decide +kernel

/-- What a fork and a release answer, to be evaluated. -/
def forks (s : State) (slot len c : Nat) : Bool :=
  match s.kvFork s.kvWho s.g.id.root 0x4001_0000 header1 s.g.ownTask slot len with
  | .ok x => decide (x.2 = c)
  | .error _ => false
theorem forks_spec {s : State} {slot len c : Nat} (h : forks s slot len c = true) :
    ∃ u, s.kvFork s.kvWho s.g.id.root 0x4001_0000 header1 s.g.ownTask slot len = .ok (u, c) := by
  unfold forks at h
  split at h
  · next x hx => exact ⟨x.1, by rw [hx, ← of_decide_eq_true h]⟩
  · cases h
def releases (s : State) (slot k : Nat) : Bool :=
  match s.kvRelease s.kvWho s.g.id.root 0x4001_0000 header1 slot with
  | .ok x => decide (x.2 = k)
  | .error _ => false
theorem releases_spec {s : State} {slot k : Nat} (h : releases s slot k = true) :
    ∃ u, s.kvRelease s.kvWho s.g.id.root 0x4001_0000 header1 slot = .ok (u, k) := by
  unfold releases at h
  split at h
  · next x hx => exact ⟨x.1, by rw [hx, ← of_decide_eq_true h]⟩
  · cases h
/-- A `kvskip` descriptor of the sequence in slot 0: no window, and the query at the start of the scratchpad. -/
def skip0 : SkipDesc := ⟨0, 0, 0, 0, 0, 0, 0, 0⟩

theorem met_SequencesAndBlocks : (let s := caching 1 entryOf; Clear (.kvfork 1 4 5 20) s ∧ Claims.KvReady s 1 header1 ∧
      (s.g.aBase (1 : BitVec 3).toNat).toNat = 0x4001_0000 ∧ members (s.g.maskAt s.port) = [0] ∧ s.regions = [] ∧ Claims.slotIn s 5 0 = 0 ∧
      Claims.wordIn s 4 0 % 2 ^ 20 = 0 ∧ ∃ u, s.kvFork s.kvWho s.g.id.root 0x4001_0000 header1 s.g.ownTask 0 0 = .ok (u, 1)) ∧
    (let s := caching 1 entryOf; Clear (.kvrel 1 5 20) s ∧ Claims.KvReady s 1 header1 ∧
      ∃ u, s.kvRelease s.kvWho s.g.id.root 0x4001_0000 header1 0 = .ok (u, 1)) ∧
    (let s := caching 1 0; Clear (.kvrel 1 5 20) s ∧ Claims.KvReady s 1 header1 ∧ s.kvSlot s.g.id.root 0x4001_0000 header1 0 = .ok (2 ^ 62 + 1) ∧
      s.kvRead s.g.id.root (slotAt 0x4001_0000 0 + 8) 8 = .ok 0x100 ∧ s.kvEntries s.g.id.root (0x4001_0000 + 0x100) header1.entries = .ok [] ∧
      s.kvRead s.g.id.root (0x4001_0000 + 16) 4 = .ok 0 ∧ 0 ≤ header1.poolCap ∧
      s.translate none s.g.id.root (slotAt 0x4001_0000 0 : Nat) .write = .ok (.phys 0x1_0040 ⟨0, 2 ^ 30, 0, false, true, true, true, 0x11_0008⟩) ∧
      s.tracked = [] ∧ Claims.Quiet s ∧ Memory.wf s.mem = true) := by
  refine ⟨⟨clear_spec (by decide +kernel), kvReady_spec (by decide +kernel), by decide +kernel, by decide +kernel, by decide +kernel, by decide +kernel,
    by decide +kernel, forks_spec (by decide +kernel)⟩,
    ⟨clear_spec (by decide +kernel), kvReady_spec (by decide +kernel), releases_spec (by decide +kernel)⟩,
    clear_spec (by decide +kernel), kvReady_spec (by decide +kernel), gives_spec (by decide +kernel), gives_spec (by decide +kernel),
    gives_spec (by decide +kernel), gives_spec (by decide +kernel), by decide, by decide +kernel, by decide +kernel, ⟨rfl, rfl, rfl, rfl⟩, by decide +kernel⟩

theorem met_SequencesAndBlocks_skip : ∀ x ∈ [((0 : Nat), false), (entryOf, false)], let s := caching twoLanes x.1
    Clear (.kvskip 1 100 5 3) s ∧ s.port ≠ .setter ∧ s.g.kvHeld = false ∧ s.mayRelease s.port 6 = true ∧ s.recorders = [] ∧
    gives (s.kvHeader s.g.id.root (s.g.aBase (1 : BitVec 3).toNat).toNat) header1 = true ∧ 32 * (100 : BitVec 7).toNat + 32 ≤ s.windowSize s.g ∧
    (s.g.outq = []) ∧
    skipDescOf (ofBytes (s.spadBytes s.g (32 * (100 : BitVec 7).toNat) 32)) = some skip0 ∧ skip0.layer ≤ header1.layers ∧ skip0.head ≤ header1.heads ∧
    skip0.qoff + 4 * header1.dim ≤ s.windowSize s.g ∧ gives (s.kvSlot s.g.id.root 0x4001_0000 header1 0) (2 ^ 62 + 1) = true ∧
    gives (s.kvRead s.g.id.root (slotAt 0x4001_0000 0 + 8) 8) 0x100 = true ∧
    gives (s.kvSkipLane s.g.id.root 0x4001_0000 header1 skip0 (slotLen (2 ^ 62 + 1)) 0x100 (fun c => ofBytes (s.spadBytes s.g (4 * c) 4)) 0) x.2 = true := by
  intro x hx
  fin_cases hx <;> exact ⟨clear_spec (by decide +kernel), by decide +kernel⟩

/-- A debug block of task 1 with an area of `n` times 4 KB. -/
def debug1 (n : Nat) (due : Bool) : DebugBlock where
  task := 1
  ckpt := 0x6_0000
  cksz := n
  period := 10
  logn := 64
  log := 0x7_0000
  order := 0
  inLog := 0
  number := 0
  used := 0
  touched := []
  saved := []
  due := due
  full := false
  recording := true

theorem met_CheckpointsAreTaken : (∀ n ∈ [0, 2000], ∀ due ∈ [false, true], let d := debug1 n due; let s := { st1 with recorders := [d] }; s.recorders = [d] ∧
      d.recording = true ∧ d.due = due ∧ s.gridStill d.task = true ∧ Memory.wf s.mem = true ∧
      decide (checkpointSize (s.savedGroups d.task).length (s.teams.filter (fun t => decide (t.task = d.task))) (pmesOf (s.savedGroups d.task)).length ≤
        d.cksz * 4096) = decide (n = 2000)) ∧
    (let d := debug1 2000 true; let s := { st1With (holding (entry .load 0 0)) with recorders := [d] }; s.gridStill d.task = false) := by
  decide +kernel

theorem met_StepRunsDecoded : ∀ x ∈ [((0x0509_0501 : Nat), (.add 5 false 9 5 : Instr)), (0x4152, .xor16 9 5), (0x0003_232B, .movPush 3 3)],
    let s := State.reset.withFetchWord (if x.1 < 2 ^ 16 then 16 else 32) x.1
    (match s.agenda with
      | [.issue uid p] =>
        let u := ({ s.tick with agenda := [] }).select uid p
        decide (u.g.id.uid = uid) && u.mayIssue u.g p && u.inOrder u.g p && decide (s.recorders = []) && (match u.fetchNow with
          | .ok w => decide (decode (u.g.streamAt u.port) w.1 w.2 = some x.2)
          | .error _ => false)
      | _ => false) = true := by
  decide +kernel

/-- A grid that a debug launch records, whose area still has room; and turns that a stopped module does not take. -/
theorem met_StepRunsDecoded_recorded : (let s := { State.reset.withFetchWord 16 0x4152 with recorders := [debug1 2000 false] }
      (match s.agenda with
      | [.issue uid p] =>
        let u := ({ s.tick with agenda := [] }).select uid p
        u.mayIssue u.g p && u.inOrder u.g p && (debug1 2000 false).recording && (match exec (.xor16 9 5) u.begun with
          | .next t => !t.areaShort u.g.id.task
          | _ => false)
      | _ => false) = true) ∧
    ∀ x ∈ [Turn.issue 1 .slot0, .happen (.badOp 1)], let s := { State.reset with stopped := true, agenda := [x] }; s.stopped = true ∧
      ∀ m, x ≠ .happen (.powerUp m) := by
  refine ⟨by decide +kernel, fun x hx => ?_⟩
  fin_cases hx <;> exact ⟨rfl, fun m h => by cases h⟩

theorem next_spec {o : Host.Outcome State Fault Refusal} (h : isNext o = true) : ∃ t, o = .next t := by
  cases o <;> first | exact ⟨_, rfl⟩ | cases h

theorem met_MemoryStaysCanonical : ∀ s ∈ [State.reset, State.reset.withFetchWord 32 0x0509_0501], Claims.Canonical s ∧ ∃ t, step s = .next t := by
  intro s hs
  fin_cases hs <;> exact ⟨⟨by decide +kernel, by decide +kernel, fun t ht => by cases ht⟩, next_spec (by decide +kernel)⟩

theorem met_HappeningsComplete_engines : (let r := { request1 (.acz 0 0) with granted := false }; let s := { requesting (.acz 0 0) with pme := [r] }
      s.ungranted 0 = [r] ∧ s.unitOf r = [r] ∧ r.checked = true ∧ r.dispatched = true ∧ s.arraysFree [r] = true) ∧
    (let r := request1 (.pass 0 0 1 (member1 .mma)); let s := requesting r.cmd
      s.pme.find? (fun x => x.id == r.id && x.pme == 0) = some r ∧ r.member?.isSome = true ∧ s.turnOf (s.unitOf r) = true) ∧
    (let r := request1 (.result [(127, 1)] 0 false false true); let s := requesting r.cmd; let f := flight (some 4) (.engine 7 false) .none false
      s.pme.find? (fun x => x.id == r.id && x.pme == 0) = some r ∧ s.g.id.present = true ∧ r.grp = s.g.id.uid ∧
        s.g.inflight.find? (fun x => x.serial == r.serial) = some f ∧ s.turnOf [r] = true ∧ s.g.ended = false) := by
  decide +kernel
theorem met_HappeningsComplete_units : (let c := command1 true (.s 3); let m := { box1 with cmds := [c] }; let s := boxed m
      s.mailbox 0 3 = m ∧ m.opened = none ∧ m.obs = [] ∧ s.g.id.present = true ∧ c.grp = s.g.id.uid ∧ s.g.ended = false ∧ s.mayServe c s.g = true) ∧
    (let c := command1 false .none; let m := { box1 with cmds := [c], obs := [⟨0, 2, 1, [1, 2]⟩] }; let s := boxed m
      s.mailbox 0 3 = m ∧ m.owner = some c.task ∧ s.g.id.present = true ∧ c.grp = s.g.id.uid ∧ ∀ e ∈ s.g.outq, e.id ∉ c.after) ∧
    (let w := { window2 with nmem := 2, absent := [1] }; let c := contribution1; let s := { merging with windows := [w] }
      w.base < 2 ^ 64 ∧ c.base = w.base ∧ c.off < w.size ∧ c.off % w.element = 0 ∧ w.arrived = [] ∧ w.home = s.module.toNat ∧
        s.migs = [] ∧ s.tracked = [] ∧ s.poison = [] ∧ s.failing = [] ∧ Memory.wf s.mem = true) ∧
    (let w := { window2 with nmem := 2 }; w.first ≤ 1 ∧ 1 < w.first + w.nmem ∧ 1 ∉ w.absent) ∧
    (let c := ring 2; (1 : Nat) < c.nmem ∧ (c.route 1).head? = some 0 ∧ c.written = [] ∧ idle.passed = [] ∧ (c.route 1).getLast? ≠ some 0 ∧ c.nextLive 0 = some 1 ∧ (1 : Nat) ≠ 0) ∧
    (∃ p, idle.pairs.find? (fun q => q.num == (1 : BitVec 4).toNat) = some p) ∧ idle.bootStage = 3 :=
  ⟨by decide +kernel, by decide +kernel, by decide +kernel, by decide +kernel, by decide +kernel, ⟨QueuePair.reset 1, by decide +kernel⟩, rfl⟩

/-- The module with a word at the pc that is no instruction of the hitter stream. -/
def odd : State :=
  let m := Memory.writeNat tables 0 4 0xFFFF_FFFF
  { st1 with mem := m, tasks := [{ task1 false with code := m }] }
def fetches (s : State) (lo hi : BitVec 16) : Bool :=
  match s.fetchNow with
  | .ok w => decide (w = (lo, hi))
  | .error _ => false
theorem fetches_spec {s : State} {lo hi : BitVec 16} (h : fetches s lo hi = true) : s.fetchNow = .ok (lo, hi) := by
  unfold fetches at h
  split at h
  · next w hw => rw [hw, of_decide_eq_true h]
  · cases h
def fetchFails (s : State) (c : Cause) : Bool :=
  match s.fetchHalf s.g (s.g.pcAt s.port).toNat with
  | .ok _ => false
  | .error d => decide (d = c)
theorem fetchFails_spec {s : State} {c : Cause} (h : fetchFails s c = true) : s.fetchHalf s.g (s.g.pcAt s.port).toNat = .error c := by
  unfold fetchFails at h
  split at h
  · cases h
  · next d hd => rw [hd, of_decide_eq_true h]

theorem met_StreamTraps : (∀ x ∈ [(st0, (0xDA : BitVec 8)), (st0S, 31)], Clear (.trap x.2) x.1 ∧ x.1.g.id.kind = .ordinary) ∧
    (odd.fetchNow = .ok (0xFFFF, 0xFFFF) ∧ decode (odd.g.streamAt odd.port) 0xFFFF 0xFFFF = none ∧ odd.g.id.kind = .ordinary ∧
      (odd.g.slot odd.port).chain = none ∧ odd.g.holdsIssue odd.port = false) ∧
    (st0.fetchHalf st0.g (st0.g.pcAt st0.port).toNat = .error Cause.notMapped ∧ st0.g.id.kind = .ordinary ∧ (st0.g.slot st0.port).chain = none ∧
      st0.g.holdsIssue st0.port = false) := by
  refine ⟨fun s hs => ?_, ⟨fetches_spec (by decide +kernel), by decide +kernel, rfl, rfl, by decide +kernel⟩, fetchFails_spec (by decide +kernel), rfl, rfl, by decide +kernel⟩
  fin_cases hs <;> exact ⟨clear_spec (by decide +kernel), rfl⟩

/-! ### Results written out in the spec, one step each -/

/-- The group with `v1` and `v2` that hold a word in every lane, and a mode register. -/
def holds (a b : Word) (fmode : BitVec 64) : State := st0With (fun g => { g with
  regs := { g.regs with v := (g.regs.v.set 1 (wideOf (fun _ => a))).set 2 (wideOf (fun _ => b)) }
  modes := { g.modes with fmode := fmode } })
/-- The word that lane 63 of a register holds after the instruction, and the flags. -/
def result (i : Instr) (s : State) (n : Nat) : Nat × Nat :=
  match exec i s with
  | .next t => ((lane (t.g.v n) 63).toNat, t.g.modes.fflags.toNat)
  | _ => (2 ^ 32, 0)

/-- The table of results of R386: `cvt`. -/
theorem test_cvt : result (.cvt 3 1 0x08 0x0B) (holds 0xC020_0000 0 0) 3 = (0xFFFF_FFFE, 1) ∧
    result (.cvt 3 1 0x08 0x0B) (holds 0x5015_02F9 0 0) 3 = (0x7FFF_FFFF, 16) ∧ result (.cvt 3 1 0x08 0x0B) (holds 0x7FC0_0000 0 0) 3 = (0, 16) ∧
    result (.cvt 3 1 0x0B 0x00) (holds 0x12C 0 0) 3 = (0x7F, 32) ∧ result (.cvt 3 1 0x0B 0x0A) (holds 0xFFFF_FFFF 0 0) 3 = (0, 32) ∧
    result (.cvt 3 1 0x0B 0x08) (holds 0x0100_0001 0 0) 3 = (0x4B80_0000, 1) ∧ result (.cvt 3 1 0x08 0x04) (holds 0x4396_0000 0 0) 3 = (0x79, 1) ∧
    result (.cvt 3 1 0x03 0x07) (holds 0xF 0 0) 3 = (0xC600, 0) := by decide +kernel
/-- The table of R107: 300 in several formats. -/
theorem test_cvt_300 : result (.cvt 3 1 0x08 0x06) (holds 0x4396_0000 0 0) 3 = (0x4396, 0) ∧
    result (.cvt 3 1 0x08 0x05) (holds 0x4396_0000 0 0) 3 = (0x5D, 1) ∧ result (.cvt 3 1 0x08 0x14) (holds 0x4396_0000 0 0) 3 = (0x7E, 5) ∧
    result (.cvt 3 1 0x08 0x14) (holds 0x4396_0000 0 0x40) 3 = (0x7F, 5) ∧ result (.cvt 3 1 0x08 0x1C) (holds 0x4396_0000 0 0) 3 = (0x7F, 5) := by
  decide +kernel
/-- The table of results of R444: `qnt`. -/
theorem test_qnt : result (.qnt 3 1 2 0x04) (holds 0x4040_0000 0x42E0_0000 0) 3 = (0x7A, 1) ∧
    result (.qnt 3 1 2 0x04) (holds 0x4080_0000 0x42E0_0000 0) 3 = (0x7E, 0) ∧ result (.qnt 3 1 2 0x04) (holds 0x4100_0000 0x42E0_0000 0) 3 = (0x7E, 5) ∧
    result (.qnt 3 1 2 0x04) (holds 0x4100_0000 0x42E0_0000 0x40) 3 = (0x7F, 5) ∧ result (.qnt 3 1 2 0x03) (holds 0x40A0_0000 0x3F80_0000 0) 3 = (0x6, 1) ∧
    result (.qnt 3 1 2 0x00) (holds 0x42C8_0000 0x3FC0_0000 0) 3 = (0x7F, 16) ∧ result (.qnt 3 1 2 0x24) (holds 0xBF80_0000 0x3F80_0000 0) 3 = (0x00, 16) := by
  decide +kernel
/-- R109 and R480: packed sums and products. -/
theorem test_packed : result (.xadd 3 1 2 0x04) (holds 0x7F38_7E30 0x0038_7E30 0) 3 = (0x7F40_7E38, 5) ∧
    result (.xmul 3 1 2 0x00) (holds 0x7FFF_0280 0x02FF_0380 0) 3 = (0x7F01_067F, 32) := by decide +kernel
/-- R3: 300 − 50 wraps to 250 and sets no flag. -/
theorem test_sub : result (.sub 3 false 1 2) (holds 300 50 0) 3 = (250, 0) := by decide +kernel
/-- R159: 2^3 is exact at every precision, and so is the root of 16. -/
theorem test_cordic : ∀ n ∈ [0, 20, 40], CordicFn.exp.eval n 0 0x4040_0000 = (0x4100_0000, 0) ∧ CordicFn.sqrt.eval n 0 0x4180_0000 = (0x4080_0000, 0) := by
  decide +kernel
/-- The table of R441: a product whose guard overflows, and the digits that are recovered. -/
theorem test_pmul : let x : Wide := BitVec.ofNat 2048 0x0007_0707
    guardOverflow 8 x x = true ∧ wideProduct false x x = BitVec.ofNat 4096 0x31_6293_6231 ∧
    ((extracted 64 8 (wideProduct false x x) 0).map (fun d => d.1)).take 6 = [49, 98, -109, 99, 49, 0] := by decide +kernel
/-- The step that runs an instruction at the pc of a group moves that group by its length. -/
theorem test_step : (match step (State.reset.withFetchWord 16 0x4152) with
    | .next t => (t.g.pcAt .slot0).toNat
    | _ => 0) = 0x4000_0002 := by decide +kernel

end Sys2Proof.Tests
end

section
/-! PROOF. O48 and O59: power-up, the check of a firmware image, the records of the dies, and what reset leaves. -/

namespace Sys2Proof.FirmwareImage

/-- R328: the format of an image is known, and its length is the one that it names. -/
def formatGood (x : FirmwareImage) : Bool := x.wellFormed && x.length == x.body.length

/-- R328: both signatures of an image hold, each under its fused key. -/
def signaturesGood (x : FirmwareImage) : Bool :=
  Config.rsaVerify x.rsaKey x.digest x.rsaSig && Config.sha384 x.rsaKey == Config.fusedRsaHash &&
    Config.slhVerify x.slhKey x.digest x.slhSig && Config.sha384 x.slhKey == Config.fusedSlhHash

/-- R328: the digest of an image is that of its body. -/
def digestGood (x : FirmwareImage) : Bool := Config.sha384 x.body == x.digest

/-- R328: the version of an image is not below the fused one. -/
def versionGood (x : FirmwareImage) : Bool := decide (Config.fusedMinVersion ≤ x.version.toNat)

/-- R328: an image is accepted when all four checks hold. -/
def accepted (x : FirmwareImage) : Bool := x.formatGood && x.signaturesGood && x.digestGood && x.versionGood

end Sys2Proof.FirmwareImage

namespace Sys2Proof.Machine

/-! ### The check of a firmware image (R327, R328) -/

/-- R328: the reason is that of the first check that refuses, in the order format, signatures, digest, version. -/
theorem imageReason_eq (x : FirmwareImage) : imageReason x =
    if x.formatGood = false then 4 else if x.signaturesGood = false then 1 else if x.digestGood = false then 2
    else if x.versionGood = false then 3 else 0 := by
  have hformat : (!x.wellFormed || x.length != x.body.length) = !x.formatGood := by
    simp [FirmwareImage.formatGood, bne]
  have hsigned : (Config.rsaVerify x.rsaKey x.digest x.rsaSig && decide (Config.sha384 x.rsaKey = Config.fusedRsaHash) &&
      Config.slhVerify x.slhKey x.digest x.slhSig && decide (Config.sha384 x.slhKey = Config.fusedSlhHash)) = x.signaturesGood := rfl
  have hdigest : Config.sha384 x.body ≠ x.digest ↔ x.digestGood = false := by simp [FirmwareImage.digestGood]
  have hversion : x.version.toNat < Config.fusedMinVersion ↔ x.versionGood = false := by simp [FirmwareImage.versionGood]
  simp only [imageReason, hformat, hsigned, hdigest, hversion, Bool.not_eq_true']

theorem imageReason_eq_zero_iff (x : FirmwareImage) : imageReason x = 0 ↔ x.accepted = true := by
  rw [imageReason_eq, FirmwareImage.accepted]
  split_ifs with hformat hsigned hdigest hversion <;> simp_all

/-- R328: the reason in BOOTST names a check that refuses the image. -/
theorem imageReason_refuses (x : FirmwareImage) (h : x.accepted = false) :
    imageReason x = 1 ∧ x.signaturesGood = false ∨ imageReason x = 2 ∧ x.digestGood = false ∨
      imageReason x = 3 ∧ x.versionGood = false ∨ imageReason x = 4 ∧ x.formatGood = false := by
  have hne : imageReason x ≠ 0 := fun e => Bool.false_ne_true (h ▸ (imageReason_eq_zero_iff x).1 e)
  rw [imageReason_eq] at hne ⊢
  split_ifs at hne ⊢ with hformat hsigned hdigest hversion
  · exact .inr (.inr (.inr ⟨rfl, hformat⟩))
  · exact .inl ⟨rfl, hsigned⟩
  · exact .inr (.inl ⟨rfl, hdigest⟩)
  · exact .inr (.inr (.inl ⟨rfl, hversion⟩))
  · exact absurd rfl hne

/-- R327, R328: the check of an image ends in RUNNING, or in AWAIT_IMAGE with its reason. -/
theorem State.checkImage_eq (s : State) (x : FirmwareImage) : s.checkImage x =
    if x.accepted then { s with bootStage := 3, bootImage := none, attestLog := x.components.map (fun c => (c.1, Config.sha384 c.2)) }
    else { s with bootStage := 1, bootImage := none, bootReason := imageReason x } := by
  simp only [State.checkImage, imageReason_eq_zero_iff]

theorem execFirmwareImage_awaiting (x : FirmwareImage) (s : State) (hstage : s.bootStage = 1) (himage : s.bootImage = none) :
    execFirmwareImage x s = .next { s with bootStage := 2, bootImage := some x } := by
  simp [execFirmwareImage, hstage, himage]

theorem execFirmwareImage_checking (x y : FirmwareImage) (s : State) (hstage : s.bootStage = 2) (himage : s.bootImage = some x) :
    execFirmwareImage y s = .next (s.checkImage x) := by
  simp [execFirmwareImage, hstage, himage]

theorem execFirmwareImage_ignored (x : FirmwareImage) (s : State) (h1 : s.bootStage ≠ 1) (h2 : s.bootStage ≠ 2) :
    execFirmwareImage x s = .next s := by
  unfold execFirmwareImage
  cases s.bootImage with
  | none => simp only [if_neg h1]
  | some y => simp only [if_neg h2]

/-! ### The record of a die -/

theorem State.modDie_eq_dies (s : State) (die : BitVec 4) (f : DieCtl → DieCtl) :
    s.modDie die f = { s with dies := (s.modDie die f).dies } := by
  unfold State.modDie; split <;> rfl

/-- The record of a die that was changed, from the one at module reset where the die had none. -/
theorem State.dieCtl_modDie (s : State) (die : BitVec 4) (f : DieCtl → DieCtl) (hf : ∀ d, (f d).die = d.die) :
    (s.modDie die f).dieCtl die = some (f (Claims.dieNow s die)) := by
  unfold State.modDie Claims.dieNow
  cases hd : s.dieCtl die with
  | none =>
    have hfind : s.dies.find? (fun d => d.die == die) = none := hd
    simp [State.dieCtl, hfind, hf, DieCtl.reset]
  | some d =>
    have hfind : s.dies.find? (fun d => decide (d.die = die)) = some d := hd
    have hchanged := find?_updateWhere s.dies (fun d => decide (d.die = die)) f (by simp [hf])
    rw [hfind] at hchanged
    exact hchanged

/-- The records of the other dies stay. -/
theorem State.dieCtl_modDie_other (s : State) (die m : BitVec 4) (f : DieCtl → DieCtl) (hf : ∀ d, (f d).die = d.die) (h : m ≠ die) :
    (s.modDie die f).dieCtl m = s.dieCtl m := by
  unfold State.modDie
  split
  · refine find?_updateWhere_other s.dies _ _ f fun d hd => ?_
    obtain rfl := of_decide_eq_true hd
    simp [hf, Ne.symm h]
  · simp [State.dieCtl, hf, DieCtl.reset, Ne.symm h]

theorem State.onlyDie_modDie (s : State) (die : BitVec 4) (f : DieCtl → DieCtl) (hf : ∀ d, (f d).die = d.die) :
    Claims.OnlyDie s (s.modDie die f) die :=
  ⟨s.modDie_eq_dies die f, fun m hm => s.dieCtl_modDie_other die m f hf hm⟩

/-- The record of a die after a change of every record that keeps their numbers. -/
theorem State.dieCtl_map (s : State) (die : BitVec 4) (f : DieCtl → DieCtl) (hf : ∀ d, (f d).die = d.die) :
    ({ s with dies := s.dies.map f } : State).dieCtl die = (s.dieCtl die).map f := by
  simp [State.dieCtl, List.find?_map, hf]

/-! ### The throttle states (R331) -/

theorem maxNat_eq_foldr (l : List Nat) : maxNat l = l.foldr max 0 := List.foldl_eq_foldr (f := max)

theorem le_maxNat {l : List Nat} {k : Nat} (h : k ∈ l) : k ≤ maxNat l :=
  maxNat_eq_foldr l ▸ List.le_max_of_le' 0 h le_rfl

theorem maxNat_mem {l : List Nat} (h : l ≠ []) : maxNat l ∈ l :=
  maxNat_eq_foldr l ▸ List.maximum_mem (List.foldr_max_of_ne_nil h).symm

theorem throttleAt_eq_entryTemp {k : Nat} (h : k ≤ 3) : throttleAt k = Claims.entryTemp k := by
  interval_cases k <;> rfl

theorem throttleFor_le_three (t : Nat) : throttleFor t ≤ 3 := by
  unfold throttleFor; split_ifs <;> omega

/-- R331: the entry temperature of the state of a temperature is reached. -/
theorem entryTemp_throttleFor_le (t : Nat) : Claims.entryTemp (throttleFor t) ≤ t := by
  unfold throttleFor
  split_ifs <;> simp_all [throttleAt, Claims.entryTemp]

/-- R331: the state of a temperature is the highest whose entry temperature is reached. -/
theorem le_throttleFor {t j : Nat} (hj : j ≤ 3) (h : Claims.entryTemp j ≤ t) : j ≤ throttleFor t := by
  rw [← throttleAt_eq_entryTemp hj] at h
  unfold throttleFor
  split_ifs with h3 h2 h1
  · exact hj
  all_goals interval_cases j <;> omega

/-- R331: the states that a die has entered and does not leave at a temperature: their entry lies less than 5 degrees above it. -/
def DieCtl.keptStates (t : Nat) (d : DieCtl) : List Nat :=
  (List.range 4).filter (fun k => decide (k ≤ d.thr.toNat) && !decide (t + 20 ≤ throttleAt k))

theorem DieCtl.throttled_eq (t : Nat) (d : DieCtl) : d.throttled t = max (throttleFor t) (maxNat (d.keptStates t)) := rfl

theorem DieCtl.mem_keptStates {t k : Nat} {d : DieCtl} : k ∈ d.keptStates t ↔ k ≤ d.thr.toNat ∧ Claims.entryTemp k < t + 20 := by
  have hthr : d.thr.toNat < 4 := d.thr.isLt
  simp only [DieCtl.keptStates, List.mem_filter, List.mem_range, Bool.and_eq_true, decide_eq_true_eq, Bool.not_eq_true',
    decide_eq_false_iff_not, Nat.not_le]
  constructor
  · rintro ⟨hk, hle, hlt⟩
    exact ⟨hle, throttleAt_eq_entryTemp (Nat.le_of_lt_succ hk) ▸ hlt⟩
  · rintro ⟨hle, hlt⟩
    exact ⟨Nat.lt_of_le_of_lt hle hthr, hle, (throttleAt_eq_entryTemp (hle.trans (Nat.le_of_lt_succ hthr))).symm ▸ hlt⟩

theorem DieCtl.maxNat_keptStates_mem (t : Nat) (d : DieCtl) : maxNat (d.keptStates t) ∈ d.keptStates t :=
  maxNat_mem (List.ne_nil_of_mem (mem_keptStates.2 ⟨Nat.zero_le _, Nat.succ_pos _⟩))

/-- R331: a die stays in a state that it had entered, or is in the one of its temperature. -/
theorem DieCtl.throttled_cases (t : Nat) (d : DieCtl) :
    d.throttled t = throttleFor t ∨ d.throttled t ≤ d.thr.toNat ∧ Claims.entryTemp (d.throttled t) < t + 20 := by
  rw [throttled_eq]
  rcases max_choice (throttleFor t) (maxNat (d.keptStates t)) with h | h <;> rw [h]
  · exact .inl rfl
  · exact .inr (mem_keptStates.1 (d.maxNat_keptStates_mem t))

theorem DieCtl.throttled_le_three (t : Nat) (d : DieCtl) : d.throttled t ≤ 3 := by
  have hthr : d.thr.toNat < 4 := d.thr.isLt
  have hfor := throttleFor_le_three t
  rcases d.throttled_cases t with h | ⟨h, -⟩ <;> omega

theorem DieCtl.throttleFor_le_throttled (t : Nat) (d : DieCtl) : throttleFor t ≤ d.throttled t := le_max_left _ _

/-- R331: a die leaves no state whose entry lies less than 5 degrees above its temperature. -/
theorem DieCtl.le_throttled {t j : Nat} {d : DieCtl} (hj : j ≤ d.thr.toNat) (h : Claims.entryTemp j < t + 20) : j ≤ d.throttled t :=
  (le_maxNat (mem_keptStates.2 ⟨hj, h⟩)).trans (le_max_right _ _)

/-! ### The sensors of a die (R331) -/

/-- What the sensors leave alone: everything but the records of the dies, the stop and the stage of boot. -/
theorem State.sense_frame (s : State) (die : BitVec 4) (tmax : BitVec 12) (thr : DieCtl → Nat) :
    s.sense die tmax thr = { s with dies := (s.sense die tmax thr).dies
                                    stopped := decide (460 ≤ tmax.toNat) || s.stopped
                                    bootStage := if 460 ≤ tmax.toNat then 4 else s.bootStage } := by
  unfold State.sense
  rw [s.modDie_eq_dies]
  split <;> simp [*]

/-- The record of the die: its temperature and its throttle state, with the rail voltage and the process code that the sensors give. -/
theorem State.dieCtl_sense (s : State) (die : BitVec 4) (tmax : BitVec 12) (thr : DieCtl → Nat) :
    ∃ vmin proc, (s.sense die tmax thr).dieCtl die = some { Claims.dieNow s die with
      tmax := tmax, vmin := vmin, proc := proc, thr := BitVec.ofNat 2 (thr (Claims.dieNow s die)) } := by
  unfold State.sense
  split <;> exact ⟨_, _, s.dieCtl_modDie die _ (fun _ => rfl)⟩

theorem State.dieCtl_sense_other (s : State) (die m : BitVec 4) (tmax : BitVec 12) (thr : DieCtl → Nat) (h : m ≠ die) :
    (s.sense die tmax thr).dieCtl m = s.dieCtl m := by
  unfold State.sense
  split <;> exact s.dieCtl_modDie_other die m _ (fun _ => rfl) h

theorem State.sense_eq_dies (s : State) (die : BitVec 4) (tmax : BitVec 12) (thr : DieCtl → Nat) (h : tmax.toNat < 460) :
    s.sense die tmax thr = { s with dies := (s.sense die tmax thr).dies } := by
  have hcool : ¬ 460 ≤ tmax.toNat := Nat.not_le.2 h
  simpa [hcool] using s.sense_frame die tmax thr

/-- Below 115 degrees the sensors of a die change its record alone. -/
theorem State.onlyDie_sense (s : State) (die : BitVec 4) (tmax : BitVec 12) (thr : DieCtl → Nat) (h : tmax.toNat < 460) :
    Claims.OnlyDie s (s.sense die tmax thr) die :=
  ⟨s.sense_eq_dies die tmax thr h, fun m hm => s.dieCtl_sense_other die m tmax thr hm⟩

/-- Each of the three reports of a temperature reads the sensors of the die. -/
theorem exec_report_eq_sense (s : State) (die : BitVec 4) (tmax : BitVec 12) (i : Instr)
    (h : i = .thermalStop die tmax ∨ i = .throttleEntry die tmax false ∨ i = .throttleExit die tmax) :
    ∃ thr, exec i s = .next (s.sense die tmax thr) := by
  rcases h with rfl | rfl | rfl <;> exact ⟨_, rfl⟩

/-! ### What each happening does -/

/-- R331: entry by temperature: the die is in the state of its temperature, and in none below the one that it was in. -/
theorem throttleEntry_temperature (s : State) (die : BitVec 4) (tmax : BitVec 12) (h : tmax.toNat < 460) :
    let d := Claims.dieNow s die
    ∃ t k x, exec (.throttleEntry die tmax false) s = .next t ∧ Claims.OnlyDie s t die ∧ t.dieCtl die = some x ∧
      x = { d with tmax := tmax, vmin := x.vmin, proc := x.proc, thr := BitVec.ofNat 2 (max d.thr.toNat k) } ∧ k ≤ 3 ∧
      Claims.entryTemp k ≤ tmax.toNat ∧ ∀ j, j ≤ 3 → Claims.entryTemp j ≤ tmax.toNat → j ≤ k := by
  obtain ⟨vmin, proc, hx⟩ := s.dieCtl_sense die tmax (fun d => max d.thr.toNat (throttleFor tmax.toNat))
  exact ⟨_, throttleFor tmax.toNat, _, rfl, s.onlyDie_sense die tmax _ h, hx, rfl, throttleFor_le_three _, entryTemp_throttleFor_le _,
    fun j hj => le_throttleFor hj⟩

/-- R331: a die one throttle state higher, in 3 at most. -/
def DieCtl.raised (d : DieCtl) : DieCtl := { d with thr := BitVec.ofNat 2 (min 3 (d.thr.toNat + 1)) }

theorem exec_throttleEntry_power (s : State) (die : BitVec 4) (tmax : BitVec 12) :
    let u := s.sense die tmax (fun d => max d.thr.toNat (throttleFor tmax.toNat))
    exec (.throttleEntry die tmax true) s = .next { u with dies := u.dies.map DieCtl.raised } := rfl

/-- R331: entry by package power: every other die goes one state higher, to 3 at most (log 36). -/
theorem throttleEntry_power (s : State) (die : BitVec 4) (tmax : BitVec 12) (h : tmax.toNat < 460) :
    ∃ t, exec (.throttleEntry die tmax true) s = .next t ∧ t = { s with dies := t.dies } ∧
      ∀ m x, m ≠ die → s.dieCtl m = some x → t.dieCtl m = some { x with thr := BitVec.ofNat 2 (min 3 (x.thr.toNat + 1)) } := by
  refine ⟨_, exec_throttleEntry_power s die tmax, ?_, fun m x hm hx => ?_⟩
  · rw [s.sense_eq_dies die tmax _ h]
  · rw [State.dieCtl_map _ m DieCtl.raised (fun _ => rfl), s.dieCtl_sense_other die m tmax _ hm, hx]; rfl

/-- R331: exit: the die keeps just the states whose entry lies less than 5 degrees above its temperature, or is reached. -/
theorem throttleExit_temperature (s : State) (die : BitVec 4) (tmax : BitVec 12) (h : tmax.toNat < 460) :
    let d := Claims.dieNow s die
    ∃ t x, exec (.throttleExit die tmax) s = .next t ∧ Claims.OnlyDie s t die ∧ t.dieCtl die = some x ∧
      let k := x.thr.toNat
      x = { d with tmax := tmax, vmin := x.vmin, proc := x.proc, thr := x.thr } ∧ (k ≤ d.thr.toNat ∨ Claims.entryTemp k ≤ tmax.toNat) ∧
        (k = 0 ∨ Claims.entryTemp k < tmax.toNat + 20) ∧ (∀ j, j ≤ 3 → Claims.entryTemp j ≤ tmax.toNat → j ≤ k) ∧
        ∀ j, j ≤ d.thr.toNat → Claims.entryTemp j < tmax.toNat + 20 → j ≤ k := by
  intro d
  obtain ⟨vmin, proc, hx⟩ := s.dieCtl_sense die tmax (DieCtl.throttled tmax.toNat)
  have hk : (BitVec.ofNat 2 (d.throttled tmax.toNat)).toNat = d.throttled tmax.toNat :=
    Nat.mod_eq_of_lt (Nat.lt_succ_of_le (d.throttled_le_three tmax.toNat))
  have hfor := entryTemp_throttleFor_le tmax.toNat
  refine ⟨_, _, rfl, s.onlyDie_sense die tmax _ h, hx, rfl, ?_⟩
  simp only
  rw [hk]
  refine ⟨?_, ?_, fun j hj hreach => (le_throttleFor hj hreach).trans (d.throttleFor_le_throttled _), fun j => DieCtl.le_throttled⟩
  · rcases d.throttled_cases tmax.toNat with e | ⟨hle, -⟩
    · exact .inr (e ▸ hfor)
    · exact .inl hle
  · rcases d.throttled_cases tmax.toNat with e | ⟨-, hlt⟩
    · rw [e]; omega
    · exact .inr hlt

/-- R331: whatever reports the temperature of a die records it, and at 115 degrees the module stops. -/
theorem report_stops (s : State) (die : BitVec 4) (tmax : BitVec 12) (i : Instr)
    (h : i = .thermalStop die tmax ∨ i = .throttleEntry die tmax false ∨ i = .throttleExit die tmax) :
    ∃ t, exec i s = .next t ∧ t.mem = s.mem ∧ t.g = s.g ∧ t.others = s.others ∧ (t.dieCtl die).map (fun d => d.tmax) = some tmax ∧
      (4 * 115 ≤ tmax.toNat → t.stopped = true ∧ t.bootStage = 4) ∧
      (tmax.toNat < 4 * 115 → t.stopped = s.stopped ∧ t.bootStage = s.bootStage) := by
  obtain ⟨thr, hexec⟩ := exec_report_eq_sense s die tmax i h
  obtain ⟨vmin, proc, hx⟩ := s.dieCtl_sense die tmax thr
  refine ⟨_, hexec, ?_, ?_, ?_, by rw [hx]; rfl, fun hhot => ?_, fun hcool => ?_⟩
  · rw [s.sense_frame]
  · rw [s.sense_frame]
  · rw [s.sense_frame]
  · rw [s.sense_frame]; simp_all
  · rw [s.sense_eq_dies die tmax thr hcool]; exact ⟨rfl, rfl⟩

/-- R332: RDEVT rises by one and stays at its greatest value. -/
theorem rdevt_raised (x : BitVec 16) :
    (if x = BitVec.allOnes 16 then x else x + 1) = BitVec.ofNat 16 (min 0xFFFF (x.toNat + 1)) := by
  have hx := x.isLt
  split
  · next h => subst h; rfl
  · next h =>
    have hne : x.toNat ≠ 0xFFFF := fun e => h (BitVec.eq_of_toNat_eq e)
    apply BitVec.eq_of_toNat_eq
    rw [Nat.min_eq_right (by omega), BitVec.toNat_add, BitVec.toNat_ofNat]; rfl

/-- R332: a die that counts a row disturbance. -/
def DieCtl.disturbed (d : DieCtl) : DieCtl := { d with rdevt := if d.rdevt = BitVec.allOnes 16 then d.rdevt else d.rdevt + 1 }

theorem exec_rowDisturb_over (s : State) (die : BitVec 4) (saturated bad : Bool) (h : saturated = true ∨ bad = true) :
    exec (.rowDisturb die saturated bad) s = .next (s.modDie die DieCtl.disturbed) := by
  have hover : (saturated || bad) = true := by simpa using h
  exact congrArg Host.Outcome.next (if_pos hover)

theorem rowDisturb_counts (s : State) (die : BitVec 4) (saturated bad : Bool) (h : saturated = true ∨ bad = true) :
    ∃ t, exec (.rowDisturb die saturated bad) s = .next t ∧ Claims.OnlyDie s t die ∧
      t.dieCtl die = some { Claims.dieNow s die with rdevt := BitVec.ofNat 16 (min 0xFFFF ((Claims.dieNow s die).rdevt.toNat + 1)) } := by
  refine ⟨_, exec_rowDisturb_over s die saturated bad h, s.onlyDie_modDie die _ (fun _ => rfl), ?_⟩
  rw [s.dieCtl_modDie die DieCtl.disturbed (fun _ => rfl), DieCtl.disturbed, rdevt_raised]

/-- R327, R328: the next occurrence ends the check of an image. -/
theorem firmwareImage_checked (s : State) (x y : FirmwareImage) (hstage : s.bootStage = 2) (himage : s.bootImage = some x) :
    ∃ r : BitVec 8, exec (.firmwareImage y) s = .next (if x.accepted then
        { s with bootStage := 3, bootImage := none, attestLog := x.components.map (fun c => (c.1, Config.sha384 c.2)) }
      else { s with bootStage := 1, bootImage := none, bootReason := r }) ∧
      (x.accepted = false → r = 1 ∧ x.signaturesGood = false ∨ r = 2 ∧ x.digestGood = false ∨
        r = 3 ∧ x.versionGood = false ∨ r = 4 ∧ x.formatGood = false) := by
  refine ⟨imageReason x, ?_, imageReason_refuses x⟩
  rw [exec_firmwareImage, execFirmwareImage_checking x y s hstage himage, State.checkImage_eq]

/-- Settles O48: the sensors change the record of one die and the stop alone, and an image is refused by its first check that fails. -/
theorem bootAndHealth : Obligations.BootAndHealth := by
  unfold Obligations.BootAndHealth
  refine ⟨fun s => ⟨fun failed => ?_, fun x => execFirmwareImage_awaiting x s, firmwareImage_checked s,
      fun x => execFirmwareImage_ignored x s, fun _ => rfl⟩,
    fun s die tmax => ⟨throttleEntry_temperature s die tmax, throttleEntry_power s die tmax, throttleExit_temperature s die tmax,
      report_stops s die tmax, rowDisturb_counts s die⟩⟩
  exact ⟨_, rfl, rfl, rfl, rfl, rfl, rfl, rfl, rfl, rfl, rfl, rfl, rfl, rfl, rfl⟩

/-! ### Reset and launch (R6, R74, R76, R321) -/

/-- R321: every queue pair has its registers at the Reset column. -/
theorem State.pair_reset (n : BitVec 4) : State.reset.pair n = QueuePair.reset n.toNat := by
  have hfind : (List.range 16).find? (fun k => k == n.toNat) = some n.toNat := by
    rw [List.find?_range_eq_some]
    exact ⟨beq_self_eq_true _, List.mem_range.2 n.isLt, fun j hj => by simp [hj.ne]⟩
  have hpred : (fun p : QueuePair => p.num == n.toNat) ∘ QueuePair.reset = fun k => k == n.toNat := rfl
  rw [State.pair, State.reset, List.find?_map, hpred, hfind]; rfl

theorem Group.v_launch (k : Nat) : Group.launch.v k = 0 := by
  have hget : Group.launch.v k = (Vector.replicate 128 (0 : Wide)).getD k 0 := rfl
  rw [hget, Vector.getD, Array.getD]
  split <;> simp

theorem State.canonical_reset : Claims.Canonical State.reset :=
  ⟨rfl, rfl, fun _ ht => absurd ht List.not_mem_nil⟩

/-- Settles O59, from the queue pairs and the registers at reset. -/
theorem resetLeaves : Obligations.ResetLeaves := by
  unfold Obligations.ResetLeaves
  refine ⟨⟨rfl, rfl, rfl, rfl, rfl, rfl, rfl, rfl, rfl, fun n => ?_⟩,
    ⟨rfl, rfl, rfl, rfl, rfl, rfl, rfl, fun k _ => Group.v_launch k, rfl⟩, State.canonical_reset⟩
  rw [State.pair_reset]
  exact ⟨rfl, rfl, rfl, rfl, rfl, rfl, rfl, rfl, rfl, rfl, rfl⟩

end Sys2Proof.Machine
end

section
/-! PROOF. O17: loads and scratchpad accesses as they issue: their entries and flights, and the records of the lanes that fail. -/

namespace Sys2Proof.Machine

/-! ### What an instruction that goes in flight leaves behind (R172, R213) -/

/-- `t` is `s` with `new` at the end of the out-queue of its group and `flights` at the end of its instructions in flight, but for translations
that it keeps (R166). -/
def Sends (s t : State) (new : List Entry) (flights : List InFlight) : Prop :=
  t = { s with tlb := t.tlb, nextUid := t.nextUid, g := { s.g with outq := s.g.outq ++ new, inflight := s.g.inflight ++ flights } }

theorem sends_refl (s : State) : Sends s s [] [] := by simp [Sends]

theorem Sends.trans {s t u : State} {a b : List Entry} {f h : List InFlight} (x : Sends s t a f) (y : Sends t u b h) :
    Sends s u (a ++ b) (f ++ h) := by
  rw [Sends] at y
  rw [y, x]
  simp [Sends]

theorem Sends.g_eq {s t : State} {a : List Entry} {f : List InFlight} (x : Sends s t a f) :
    t.g = { s.g with outq := s.g.outq ++ a, inflight := s.g.inflight ++ f } := congrArg State.g x

theorem sends_addEntry (s : State) (lane off : Nat) (kind : EntryKind) (loc : Loc) (va size : Nat) (data data2 : BitVec 64)
    (acq rel : Option (BitVec 3)) (full : Bool) (win : Option (Nat × Nat)) :
    Sends s (s.addEntry lane off kind loc va size data data2 acq rel full win)
      [{ s.g.entry s.port s.nextUid lane off kind loc size data data2 acq rel full with va := va, win := win }] [] := by
  simp [Sends, State.addEntry]

theorem sends_remember (s : State) (core : BitVec 10) (root va : Nat) : Sends s (s.remember core root va) [] [] := by
  rw [State.remember_eq]; simp [Sends]

theorem sends_addFlight (s : State) (f : InFlight) : Sends s (s.onGroup (fun g => g.addFlight f)) [] [f] := by
  simp [Sends, State.onGroup, Group.addFlight]

/-- Steps that each send some entries send them all, in their order. -/
theorem sends_foldl {α β : Type} (r : Entry → α) {f : State → β → State} {ρ : β → List α} {P : Entry → Prop}
    (h : ∀ s b, ∃ new, Sends s (f s b) new [] ∧ new.map r = ρ b ∧ ∀ e ∈ new, P e) (l : List β) (s : State) :
    ∃ new, Sends s (l.foldl f s) new [] ∧ new.map r = l.flatMap ρ ∧ ∀ e ∈ new, P e := by
  induction l generalizing s with
  | nil => exact ⟨[], sends_refl s, rfl, by simp⟩
  | cons b l ih =>
    obtain ⟨x, hx, ex, px⟩ := h s b
    obtain ⟨y, hy, ey, py⟩ := ih (f s b)
    refine ⟨x ++ y, hx.trans hy, by simp [ex, ey], fun e he => ?_⟩
    exact (List.mem_append.1 he).elim (px e) (py e)

theorem sends_rememberAll (s : State) (ts : List (Piece × Target)) : Sends s (s.rememberAll ts) [] [] := by
  obtain ⟨new, h, e, -⟩ := sends_foldl (fun _ => ()) (ρ := fun _ => []) (P := fun _ => True)
    (fun s (t : Piece × Target) => ⟨[], sends_remember s s.g.id.core s.g.id.root t.1.va.toNat, rfl, fun _ _ => trivial⟩) ts s
  obtain rfl : new = [] := by simpa using congrArg List.length e
  exact h

/-! ### How an access ends (R172, R263-R269) -/

theorem Sends.exists_eq {s t : State} {a : List Entry} {f : List InFlight} (x : Sends s t a f) : ∃ tlb uid,
    t = { s with tlb := tlb, nextUid := uid, g := { s.g with outq := s.g.outq ++ a, inflight := s.g.inflight ++ f } } :=
  ⟨_, _, x⟩

theorem settle_run_started {i : Instr} {s t : State} {new : List Entry} {fl : List InFlight} (h : Clear i s) (e : Sends s t new fl) :
    let u := s.settle i (usesOf (s.g.streamAt s.port) i) (.run t)
    Claims.Started i s u ∧ u.g.modes = s.g.modes ∧ u.g.outq = s.g.outq ++ new ∧ u.g.inflight = s.g.inflight ++ fl := by
  obtain ⟨tlb, uid, rfl⟩ := e.exists_eq
  intro u
  have hg : u.g = s.g.retire { s.g with outq := s.g.outq ++ new, inflight := s.g.inflight ++ fl } s.port i
    (usesOf (s.g.streamAt s.port) i) none false := rfl
  have hslot : ({ s.g with outq := s.g.outq ++ new, inflight := s.g.inflight ++ fl } : Group).slot s.port = s.g.slot s.port := by
    cases s.port <;> rfl
  have hpc : ({ s.g with outq := s.g.outq ++ new, inflight := s.g.inflight ++ fl } : Group).pcAt s.port = s.g.pcAt s.port := by
    cases s.port <;> rfl
  refine ⟨⟨⟨⟨rfl, rfl, rfl, rfl, rfl⟩, rfl, ?_, ?_, ?_, ?_, ?_⟩, rfl⟩, ?_, ?_, ?_⟩
  · rw [hg, Group.retire_id]
  · rw [hg, Group.retire_regs]
  · rw [hg, Group.retire_stack]
  · rw [Pops, hg, Group.retire_queues]
    split
    · rfl
    · exact Group.popAll_congr _ _ hslot rfl
  · rw [Steps, hg, Group.retire_pcAt _ _ _ _ _ _ _ (by rw [hslot]; exact h.here), hpc]; rfl
  · rw [hg, Group.retire_modes]
  · rw [hg, Group.retire_outq]
  · rw [hg, Group.retire_inflight]

/-- R264: a slot of an ordinary group that stops on a trap. -/
theorem State.hold_slot {s : State} {p : Port} (t : TrapWord) (hk : s.g.id.kind = .ordinary) (hp : p ≠ .setter) :
    s.hold p t = { s with
      nextTrap := s.nextTrap + 1
      g := s.g.setSlot p { (s.g.slot p).switch with trap := some { t with order := s.nextTrap }, wait := .trapped } } := by
  unfold State.hold
  rw [hk]
  cases p with
  | setter => exact absurd rfl hp
  | slot0 => rfl
  | slot1 => rfl

/-- R264: the setter of an ordinary group that stops on a trap. -/
theorem State.hold_setter {s : State} (t : TrapWord) (hk : s.g.id.kind = .ordinary) :
    s.hold .setter t = { s with
      nextTrap := s.nextTrap + 1
      g := { s.g with setTrap := some { t with order := s.nextTrap }, setWait := .trapped } } := by
  unfold State.hold
  rw [hk]; rfl

theorem Group.isMember_unchained {g : Group} {p : Port} {u : Uses} (h : (g.slot p).chain = none) : g.isMember p u = false := by
  simp [Group.isMember, h]

theorem Group.waitAt_hitter (g : Group) {p : Port} (h : p ≠ .setter) : g.waitAt p = (g.slot p).wait := by
  cases p <;> first | rfl | exact absurd rfl h

theorem Group.heldAt_hitter (g : Group) {p : Port} (h : p ≠ .setter) : g.heldAt p = (g.slot p).trap := by
  cases p <;> first | rfl | exact absurd rfl h

theorem Group.slot_setSlot_other (g : Group) (p : Port) (x : Slot) : (g.setSlot p x).slot (otherSlot p) = g.slot (otherSlot p) := by
  cases p <;> rfl

/-- R263, R268: the trap that a slot outside a latch chain holds for the lanes that fail. -/
def Group.laneTrap (g : Group) (p : Port) (i : Instr) (recs : List (Nat × Cause × BitVec 64 × Bool)) (order : Nat) : TrapWord where
  cause := (recs.map (fun r => r.2.1)).headD 0
  kind := 1
  chain := false
  pc := g.pcAt p
  mask := (((g.slot p).replay).map (fun r => r.full)).getD (g.maskAt p)
  records := recs
  detail := []
  next := g.pcAt p + BitVec.ofNat 64 i.len
  instr := g.pcAt p
  order := order

/-- R263, R269: the slot of `g` at which the lanes fail, for the group `h` after the effect of the others. -/
def Group.laneFaulted (g h : Group) (p : Port) (i : Instr) (u : Uses) (recs : List (Nat × Cause × BitVec 64 × Bool)) (order : Nat) : Slot :=
  { (h.slot p).switch with
    path := (h.slot p).path.map (fun q => { q with pc := g.pcAt p, mask := (((g.slot p).replay).map (fun r => r.full)).getD (g.maskAt p) })
    rpl := lanesOf (fun j => recs.any (fun r => r.1 == j))
    held := g.poppedBy p u
    replay := none
    firstFmode := g.fmode p
    firstGmode := g.gmode p
    firstRngs := [(g.pcAt p, g.rngctr p)]
    firstRes := []
    trap := some (g.laneTrap p i recs order)
    wait := .trapped }

theorem Group.slot_counts (g : Group) (a b : Nat) (p : Port) : ({ g with serial := a, ready := b } : Group).slot p = g.slot p := by
  cases p <;> rfl

theorem State.laneFault_unchained {s t : State} (i : Instr) (u : Uses) (recs : List (Nat × Cause × BitVec 64 × Bool))
    (hp : s.port ≠ .setter) (hc : (s.g.slot s.port).chain = none) (hk : t.g.id.kind = .ordinary) :
    s.laneFault t i u recs = { t with
      nextTrap := t.nextTrap + 1
      g := { (t.g.popAll s.port u.pops).setSlot s.port (s.g.laneFaulted t.g s.port i u recs t.nextTrap) with
        serial := t.g.serial + 1
        ready := 0 } } := by
  have hm := Group.isMember_unchained (u := u) hc
  simp only [State.laneFault, hc, hm]
  rw [State.hold_slot _ (by simpa using hk) hp]
  cases hport : s.port with
  | setter => exact absurd hport hp
  | slot0 => cases hr : s.g.slot0.replay <;> simp [Group.laneFaulted, Group.laneTrap, Group.setSlot, Group.slot, Slot.switch, hr]
  | slot1 => cases hr : s.g.slot1.replay <;> simp [Group.laneFaulted, Group.laneTrap, Group.setSlot, Group.slot, Slot.switch, hr]

/-- R263, R266: some lanes fail and the others go in flight. -/
theorem laneFault_sends {i : Instr} {s t : State} {new : List Entry} {fl : List InFlight} {recs : List (Nat × Cause × BitVec 64 × Bool)}
    (h : Claims.plainSlot s) (e : Sends s t new fl) (hr : recs ≠ []) :
    let u := s.laneFault t i (usesOf (s.g.streamAt s.port) i) recs
    Claims.LanesFail i s u recs ∧ u.regions = s.regions ∧ u.g.modes = s.g.modes ∧ u.g.outq = s.g.outq ++ new ∧
      u.g.inflight = s.g.inflight ++ fl := by
  obtain ⟨hp, hk, hc⟩ := h
  obtain ⟨tlb, uid, rfl⟩ := e.exists_eq
  intro u
  have hu : u = _ := State.laneFault_unchained i (usesOf (s.g.streamAt s.port) i) recs hp hc hk
  have hslot : ({ s.g with outq := s.g.outq ++ new, inflight := s.g.inflight ++ fl } : Group).slot s.port = s.g.slot s.port := by
    cases s.port <;> rfl
  have hu0 : u.g.slot s.port = s.g.laneFaulted { s.g with outq := s.g.outq ++ new, inflight := s.g.inflight ++ fl } s.port i
      (usesOf (s.g.streamAt s.port) i) recs s.nextTrap := by
    rw [hu]; exact (Group.slot_counts _ _ _ _).trans (Group.slot_setSlot_same _ _ _ hp)
  refine ⟨⟨?_, ?_, ?_, ?_, ?_, ?_, ?_, ?_, ?_, ?_, ?_⟩, ?_, ?_, ?_, ?_⟩
  · rw [hu]; exact ⟨rfl, rfl, rfl, rfl, rfl⟩
  · rw [hu]
  · rw [hu]; simp
  · rw [hu]; simp
  · rw [hu]; simp
  · rw [Pops, hu, if_neg hp]
    simp only [Group.setSlot_queues]
    exact Group.popAll_congr _ _ hslot rfl
  · rw [hu0, Group.laneFaulted, hslot]
    simp only [Group.pcAt_hitter _ _ hp]
    cases (s.g.slot s.port).path <;> rfl
  · rw [hu]
    refine (Group.slot_counts _ _ _ _).trans ((Group.slot_setSlot_other _ _ _).trans (Group.slot_eq ?_ ?_)) <;> simp
  · intro j hj
    rw [hu0]; exact getLsbD_lanesOf _ _ hj
  · refine ⟨s.g.laneTrap s.port i recs s.nextTrap, ?_, rfl, rfl, ?_, rfl, rfl, rfl, rfl⟩
    · rw [Group.heldAt_hitter _ hp, hu0]; rfl
    · cases recs with
      | nil => exact absurd rfl hr
      | cons r rs => rfl
  · rw [Group.waitAt_hitter _ hp, hu0]; rfl
  · rw [hu]
  · rw [hu]; simp
  · rw [hu]; simp
  · rw [hu]; simp

/-- R263, R268: the trap of an instruction that is refused outside a latch chain. -/
def Group.refusal (g : Group) (p : Port) (c : Cause) (addr : BitVec 64) (out : Bool) (detail : List Byte) (order : Nat) : TrapWord where
  cause := c
  kind := 0
  chain := false
  pc := g.pcAt p
  mask := g.maskAt p
  records := [(if p = .setter then 0 else lowest (g.maskAt p), c, addr, out)]
  detail := detail
  next := g.pcAt p
  instr := g.pcAt p
  order := order

theorem State.refuse_unchained {s : State} (u : Uses) (c : Cause) (addr : BitVec 64) (out : Bool) (detail : List Byte)
    (hc : (s.g.slot s.port).chain = none) :
    s.refuse u c addr out detail = (s.onGroup (fun g => g.unpop s.port)).hold s.port (s.g.refusal s.port c addr out detail 0) := by
  simp only [State.refuse, hc, Group.isMember_unchained (u := u) hc]
  rfl

/-- R263, R264: a refused trap outside a latch chain stops its stream, and nothing else has happened, but for popped entries that go back. -/
theorem refuse_traps {s : State} (u : Uses) (c : Cause) (addr : BitVec 64) (out : Bool) (detail : List Byte)
    (hk : s.g.id.kind = .ordinary) (hc : (s.g.slot s.port).chain = none) :
    let t := s.refuse u c addr out detail
    Trapped s t c 0 addr ∧ t = { s with g := t.g, nextTrap := t.nextTrap } ∧ t.g.regs = s.g.regs ∧ t.g.modes = s.g.modes ∧
      t.g.outq = s.g.outq ∧ t.g.inflight = s.g.inflight ∧ (s.port = .setter → t.g.queues = s.g.queues) := by
  intro t
  have ht : t = _ := State.refuse_unchained u c addr out detail hc
  have hk' : (s.onGroup (fun g => g.unpop s.port)).g.id.kind = .ordinary := by simpa using hk
  by_cases hp : s.port = .setter
  · rw [hp] at ht
    rw [State.hold_setter _ (by simpa [hp] using hk')] at ht
    have hu : s.g.unpop .setter = s.g := if_pos (.inl rfl)
    refine ⟨⟨s.g.refusal s.port c addr out detail s.nextTrap, ?_, rfl, rfl, rfl, rfl, rfl, rfl, ?_⟩, ?_, ?_, ?_, ?_, ?_, fun _ => ?_⟩
    all_goals rw [ht]
    all_goals simp [hp, hu, Group.heldAt, Group.waitAt, Group.refusal, State.onGroup]
  · rw [State.hold_slot _ hk' hp] at ht
    have hslot : (t.g.slot s.port).trap = some (s.g.refusal s.port c addr out detail s.nextTrap) ∧ (t.g.slot s.port).wait = .trapped := by
      rw [ht, Group.slot_setSlot_same _ _ _ hp]; exact ⟨rfl, rfl⟩
    refine ⟨⟨s.g.refusal s.port c addr out detail s.nextTrap, ?_, rfl, rfl, rfl, rfl, rfl, rfl, ?_⟩, ?_, ?_, ?_, ?_, ?_, fun e => absurd e hp⟩
    · rw [Group.heldAt_hitter _ hp, hslot.1]
    · rw [Group.waitAt_hitter _ hp, hslot.2]
    all_goals rw [ht]
    all_goals simp [State.onGroup]

/-! ### The checks of a load (R265, R266, R268) -/

/-- R268: a record keeps bits 55:0 of an address. -/
theorem ofInt_and_address (a : Int) : BitVec.ofInt 64 a &&& 0x00FF_FFFF_FFFF_FFFF#64 = BitVec.ofNat 64 (a % 2 ^ 56).toNat := by
  apply BitVec.eq_of_toNat_eq
  have hmask : (0x00FF_FFFF_FFFF_FFFF#64).toNat = 2 ^ 56 - 1 := rfl
  rw [BitVec.toNat_and, BitVec.toNat_ofInt, hmask, Nat.and_two_pow_sub_one_eq_mod, BitVec.toNat_ofNat]
  omega

theorem laneRecord_eq (l : Nat) (c : Cause) (a : Int) : laneRecord l c a = Claims.failRecord l c a := by
  rw [laneRecord, Claims.failRecord, ofInt_and_address, ← Bool.decide_or]
  norm_num

/-- R165: why a piece does not translate. -/
def State.walkCause (s : State) (acc : Access) (p : Piece) : Option Cause :=
  match s.translate (some s.g.id.core) s.g.id.root p.va acc with
  | .error c => some c
  | .ok _ => none

/-- R165: a piece with what it translates to. -/
def State.targeted (s : State) (acc : Access) (p : Piece) : Option (Piece × Target) :=
  match s.translate (some s.g.id.core) s.g.id.root p.va acc with
  | .error _ => none
  | .ok t => some (p, t)

/-- The pieces translate, or the first that does not gives the cause. -/
theorem State.targets_eq (s : State) (acc : Access) (ps : List Piece) : s.targets s.g acc ps =
    match ps.findSome? (s.walkCause acc) with
    | some c => .error c
    | none => .ok (ps.filterMap (s.targeted acc)) := by
  induction ps with
  | nil => rfl
  | cons p ps ih =>
    rw [State.targets, ih, List.findSome?_cons, List.filterMap_cons]
    cases h : s.translate (some s.g.id.core) s.g.id.root p.va acc with
    | error c => simp [State.walkCause, h]
    | ok t =>
      simp only [State.walkCause, State.targeted, h]
      cases ps.findSome? (s.walkCause acc) <;> rfl

/-- A lane that fails with a cause, or passes with the targets of its pieces. -/
def Checked.judged (c : Option Cause) (ts : List (Piece × Target)) : Checked :=
  match c with
  | some c => .bad c
  | none => .ok ts

/-- R237, R280: what a piece reads is poisoned, and no earlier store of the path makes it good. -/
def State.readsBad (s : State) (acc : Access) (p : Piece) : Bool :=
  match s.translate (some s.g.id.core) s.g.id.root p.va acc with
  | .error _ => false
  | .ok t => (List.range p.size).any (fun k => s.poisoned (t.loc.add k) && (s.awayAt (t.loc.add k) (p.va.toNat + k) 1).isNone &&
      !(s.coverComing s.g (t.loc.add k)))

/-- R237: a piece lies in an open window that does not take it. -/
def State.turnsAway (s : State) (takes : Window → Bool) (p : Piece) : Bool :=
  (s.windowAt p.va.toNat).any (fun w => !w.closed && !takes w)

theorem lapse_eq (s : State) (acc : Access) (takes : Window → Bool) (reads : Bool) (size : Option Nat) (a : Int) (ps : List Piece) :
    Claims.lapse s acc takes reads size a ps =
      if a < 0 ∨ 2 ^ 56 ≤ a then some Cause.badVa
      else if (size >>= fun n => pure (n : Int)).any (fun n => decide (a % n ≠ 0)) = true then some Cause.misaligned
      else if (ps.findSome? (s.walkCause acc)).isSome then ps.findSome? (s.walkCause acc)
      else if acc = .write ∧ ps.any (s.turnsAway takes) = true then some Cause.windowOp
      else if reads = true ∧ ps.any (s.readsBad acc) = true then some Cause.poison
      else none := rfl

/-- The poison that a check finds among the targets is that of the pieces. -/
theorem State.any_readsBad (s : State) (acc : Access) (ps : List Piece) :
    (ps.filterMap (s.targeted acc)).any (fun t => (List.range t.1.size).any (fun i =>
      s.readsPoison (t.2.loc.add i) (t.1.va.toNat + i) && !(s.coverComing s.g (t.2.loc.add i)))) = ps.any (s.readsBad acc) := by
  rw [List.any_filterMap]
  congr 1
  funext p
  unfold State.targeted State.readsBad
  cases s.translate (some s.g.id.core) s.g.id.root p.va acc with
  | error c => rfl
  | ok t => simp only [State.readsPoison, Bool.and_comm]

/-- R266: what is read passes its checks, or fails with the first cause that applies. -/
theorem State.check_read (s : State) (a : Int) (size : Option Nat) (ps : List Piece) :
    s.check s.g .read a size (fun _ => true) true ps =
      Checked.judged (Claims.lapse s .read (fun _ => true) true size a ps) (ps.filterMap (s.targeted .read)) := by
  have haddress : ((2 ^ 56 : Nat) : Int) = 2 ^ 56 := by norm_num
  simp only [State.check, lapse_eq, State.targets_eq, haddress]
  by_cases hva : a < 0 ∨ 2 ^ 56 ≤ a
  · rw [if_pos hva, if_pos hva]; rfl
  · rw [if_neg hva, if_neg hva]
    by_cases hal : (size >>= fun n => pure (n : Int)).any (fun n => decide (a % n ≠ 0)) = true
    · rw [if_pos hal, if_pos hal]; rfl
    · rw [if_neg hal, if_neg hal]
      cases ps.findSome? (s.walkCause .read) with
      | some c => rfl
      | none =>
        simp only [reduceCtorEq, false_and, if_false, decide_false, Bool.false_and, Bool.true_and, true_and, Option.isSome_none,
          Bool.false_eq_true, s.any_readsBad .read]
        split <;> rfl

/-- R165, R171: a lane passes the checks of a read: it lies in the address space, is aligned where it has to be, and no piece of it fails. -/
theorem lapse_read_none {s : State} {a : Int} {size : Option Nat} {ps : List Piece} {loc : Int → Loc} (h0 : 0 ≤ a) (h1 : a < 2 ^ 56)
    (hal : ∀ n, size = some n → a % (n : Int) = 0) (hp : ∀ p ∈ ps, Claims.passes s .read p (loc p.va)) :
    Claims.lapse s .read (fun _ => true) true size a ps = none := by
  have hsize : (size >>= fun n => pure (n : Int)).any (fun n => decide (a % n ≠ 0)) = false := by
    cases size with
    | none => rfl
    | some n => simpa using hal n rfl
  have hwalk : ps.findSome? (s.walkCause .read) = none := by
    rw [List.findSome?_eq_none_iff]
    intro p hps
    obtain ⟨t, ht, -⟩ := hp p hps
    simp [State.walkCause, ht]
  have hbad : ps.any (s.readsBad .read) = false := by
    rw [List.any_eq_false]
    intro p hps
    obtain ⟨t, ht, hl, hpoison, -⟩ := hp p hps
    simp only [State.readsBad, ht, List.any_eq_true, List.mem_range, not_exists, not_and, hl]
    intro k hk
    simp [hpoison rfl k hk]
  rw [lapse_eq, if_neg (by omega), if_neg (by rw [hsize]; exact Bool.false_ne_true), hwalk]
  simp [hbad]

/-- The places of pieces that translate. -/
theorem State.targeted_places {s : State} {acc : Access} {ps : List Piece} {loc : Int → Loc} {α : Type} (f : Piece → Loc → α)
    (h : ∀ p ∈ ps, ∃ t : Target, s.translate (some s.g.id.core) s.g.id.root p.va acc = .ok t ∧ t.loc = loc p.va) :
    (ps.filterMap (s.targeted acc)).map (fun t => f t.1 t.2.loc) = ps.map (fun p => f p (loc p.va)) := by
  induction ps with
  | nil => rfl
  | cons p ps ih =>
    obtain ⟨t, ht, hl⟩ := h p List.mem_cons_self
    have hp : s.targeted acc p = some (p, t) := by simp [State.targeted, ht]
    rw [List.filterMap_cons, hp, List.map_cons, List.map_cons, ih (fun q hq => h q (List.mem_cons_of_mem _ hq)), hl]

/-! ### Loads (R172, R213, R416, R417, R406) -/

/-- R213, R268: what a load does for a lane with its verdict. -/
def LoadOp.step (o : LoadOp) (acc : State × List (Nat × Cause × BitVec 64 × Bool)) (x : Nat × Checked) :
    State × List (Nat × Cause × BitVec 64 × Bool) :=
  let s := acc.1
  match x.2 with
  | .ok ts =>
    (ts.foldl (fun s t => s.addEntry x.1 t.1.off .load t.2.loc t.1.va.toNat t.1.size 0 0 o.acq none false) (s.rememberAll ts), acc.2)
  | .bad c => (s, acc.2 ++ [laneRecord x.1 c (o.addr x.1)])
  | _ => acc

/-- R266: why a lane of a load fails. -/
def LoadOp.fails (o : LoadOp) (s : State) (l : Nat) : Option Cause :=
  Claims.lapse s .read (fun _ => true) true (if o.aligned then some (memSize o.ty) else none) (o.addr l) (piecesOf (o.addr l) (memSize o.ty) 0)

/-- What is read of the entry of a load. -/
def Entry.loadView (e : Entry) : Nat × Nat × EntryKind × Loc × Nat × Option (BitVec 3) :=
  (e.lane, e.byteOff, e.kind, e.loc, e.size, e.acq)

theorem LoadOp.step_ok (o : LoadOp) (s : State) (recs : List (Nat × Cause × BitVec 64 × Bool)) (l : Nat) (ts : List (Piece × Target)) :
    ∃ t new, o.step (s, recs) (l, .ok ts) = (t, recs) ∧ Sends s t new [] ∧
      new.map Entry.loadView = ts.map (fun t => (l, t.1.off, .load, t.2.loc, t.1.size, o.acq)) := by
  obtain ⟨new, h, e, -⟩ := sends_foldl Entry.loadView (P := fun _ => True) (ρ := fun t : Piece × Target => [(l, t.1.off, .load, t.2.loc, t.1.size, o.acq)])
    (f := fun s t => s.addEntry l t.1.off .load t.2.loc t.1.va.toNat t.1.size 0 0 o.acq none false)
    (fun s t => ⟨_, sends_addEntry .., rfl, fun _ _ => trivial⟩) ts (s.rememberAll ts)
  exact ⟨_, new, rfl, by simpa using (sends_rememberAll s ts).trans h, e.trans List.map_eq_flatMap.symm⟩

theorem LoadOp.foldl_step (o : LoadOp) (fails : Nat → Option Cause) (ts : Nat → List (Piece × Target)) (ls : List Nat) (s : State)
    (recs : List (Nat × Cause × BitVec 64 × Bool)) :
    ∃ t new, (ls.map (fun l => (l, Checked.judged (fails l) (ts l)))).foldl o.step (s, recs) =
        (t, recs ++ (ls.filter (fun l => (fails l).isSome)).map (fun l => Claims.failRecord l ((fails l).getD 0) (o.addr l))) ∧
      Sends s t new [] ∧ new.map Entry.loadView =
        (ls.filter (fun l => (fails l).isNone)).flatMap (fun l => (ts l).map (fun t => (l, t.1.off, .load, t.2.loc, t.1.size, o.acq))) := by
  induction ls generalizing s recs with
  | nil => exact ⟨s, [], by simp, sends_refl s, rfl⟩
  | cons l ls ih =>
    rw [List.map_cons, List.foldl_cons]
    cases hl : fails l with
    | some c =>
      obtain ⟨t, new, h, hs, e⟩ := ih s (recs ++ [laneRecord l c (o.addr l)])
      refine ⟨t, new, h.trans ?_, hs, ?_⟩
      · simp [hl, laneRecord_eq]
      · simpa [hl] using e
    | none =>
      obtain ⟨u, a, hu, hsa, ea⟩ := o.step_ok s recs l (ts l)
      obtain ⟨t, b, h, hsb, eb⟩ := ih u recs
      refine ⟨t, a ++ b, ?_, by simpa using hsa.trans hsb, ?_⟩
      · rw [Checked.judged, hu, h]; simp [hl]
      · simp [hl, ea, eb]

/-- R213, R266: the lanes that pass have their entries in the out-queue, and the others their records. -/
theorem loadLanes_spec (o : LoadOp) (s : State) :
    ∃ t new, s.loadLanes o =
        (t, (o.lanes.filter (fun l => (o.fails s l).isSome)).map (fun l => Claims.failRecord l ((o.fails s l).getD 0) (o.addr l))) ∧
      Sends s t new [] ∧ new.map Entry.loadView = (o.lanes.filter (fun l => (o.fails s l).isNone)).flatMap (fun l =>
        ((piecesOf (o.addr l) (memSize o.ty) 0).filterMap (s.targeted .read)).map (fun t => (l, t.1.off, .load, t.2.loc, t.1.size, o.acq))) := by
  have h : s.loadLanes o = (o.lanes.map (fun l => (l, Checked.judged (o.fails s l)
      ((piecesOf (o.addr l) (memSize o.ty) 0).filterMap (s.targeted .read))))).foldl o.step (s, []) := by
    simp only [LoadOp.fails, ← State.check_read]; rfl
  rw [h]
  exact o.foldl_step _ _ _ s []

theorem lanesOf_contains_eq_zero {ls : List Nat} (h : ∀ l ∈ ls, l < 64) : lanesOf (fun j => ls.contains j) = 0 ↔ ls = [] := by
  refine ⟨fun e => List.eq_nil_iff_forall_not_mem.2 fun l hl => ?_, fun e => by subst e; decide⟩
  have hbit := congrArg (fun x => x.getLsbD l) e
  simp [getLsbD_lanesOf _ l (h l hl), hl] at hbit

theorem lanesAt_lt (s : State) : ∀ l ∈ Claims.lanesAt s, l < 64 := by
  unfold Claims.lanesAt
  split
  · simp
  · exact fun l hl => (mem_members.1 hl).1

/-- The lanes that have no record are those that pass. -/
theorem contains_and_not_recorded (ls : List Nat) (fails : Nat → Option Cause) (a : Nat → Int) (j : Nat) :
    (ls.contains j && !((ls.filter (fun l => (fails l).isSome)).map (fun l => Claims.failRecord l ((fails l).getD 0) (a l))).any
      (fun r => r.1 == j)) = (ls.filter (fun l => (fails l).isNone)).contains j := by
  have hrecorded : ((ls.filter (fun l => (fails l).isSome)).map (fun l => Claims.failRecord l ((fails l).getD 0) (a l))).any
      (fun r => r.1 == j) = (ls.filter (fun l => (fails l).isSome)).contains j := by
    rw [List.any_map]; exact List.any_beq'
  rw [hrecorded, Bool.eq_iff_iff]
  by_cases hj : j ∈ ls <;> cases hf : fails j <;> simp [hj, hf]

theorem Group.counterFull_false {g : Group} {c : BitVec 3} (h : g.counter c < 255) : g.counterFull c = false := by
  simpa [Group.counterFull] using h

/-- R174, R416: the flight of a load: the lanes that pass. -/
def LoadOp.flight (o : LoadOp) (s : State) (c : BitVec 3) : InFlight :=
  let good := o.lanes.filter (fun l => (o.fails s l).isNone)
  s.g.launched s.port (some c) (.load o.ty [] (o.tags && decide (lanesOf (fun j => good.contains j) = BitVec.allOnes 64)) true) o.dest
    (lanesOf (fun j => good.contains j)) (good == [])

/-- R265, R268: the records of the lanes of a load that fail. -/
def LoadOp.records (o : LoadOp) (s : State) : List (Nat × Cause × BitVec 64 × Bool) :=
  (o.lanes.filter (fun l => (o.fails s l).isSome)).map (fun l => Claims.failRecord l ((o.fails s l).getD 0) (o.addr l))

theorem LoadOp.records_eq_nil {o : LoadOp} {s : State} : o.records s = [] ↔ ∀ l ∈ o.lanes, o.fails s l = none := by
  simp [LoadOp.records, List.filter_eq_nil_iff]

/-- R172, R266, R416: a load with room in its counter: the lanes that pass go in flight, and the others stop the stream. -/
theorem load_spec {o : LoadOp} {s : State} {c : BitVec 3} (hpath : o.path = some c) (hc : s.g.counter c < 255) (hl : ∀ l ∈ o.lanes, l < 64)
    (hs : s.port ≠ .setter ∨ o.records s = []) :
    ∃ t new, s.load o = (if o.records s = [] then .run t else .fault t (o.records s)) ∧ Sends s t new [o.flight s c] ∧
      new.map Entry.loadView = (o.lanes.filter (fun l => (o.fails s l).isNone)).flatMap (fun l =>
        ((piecesOf (o.addr l) (memSize o.ty) 0).filterMap (s.targeted .read)).map (fun t => (l, t.1.off, .load, t.2.loc, t.1.size, o.acq))) := by
  obtain ⟨t, new, h, ht, e⟩ := loadLanes_spec o s
  change s.loadLanes o = (t, o.records s) at h
  have hgood : lanesOf (fun j => o.lanes.contains j && !((o.records s).any (fun x => x.1 == j))) =
      lanesOf (fun j => (o.lanes.filter (fun l => (o.fails s l).isNone)).contains j) :=
    congrArg lanesOf (funext fun j => contains_and_not_recorded o.lanes (o.fails s) o.addr j)
  have hnone : decide (lanesOf (fun j => (o.lanes.filter (fun l => (o.fails s l).isNone)).contains j) = 0) =
      (o.lanes.filter (fun l => (o.fails s l).isNone) == []) := by
    rw [Bool.eq_iff_iff, decide_eq_true_iff, lanesOf_contains_eq_zero (fun l hm => hl l (List.mem_of_mem_filter hm)), beq_iff_eq]
  refine ⟨t.onGroup (fun g => g.addFlight (o.flight s c)), new, ?_, by simpa using ht.trans (sends_addFlight t _), e⟩
  rw [State.load, hpath, Option.any_some, Group.counterFull_false hc, if_neg Bool.false_ne_true]
  simp only [h]
  split
  · next p recs hport hrecs => exact absurd hport (hs.resolve_right (by rw [hrecs]; simp))
  · simp only [hgood, hnone, Option.isNone_some, Bool.and_false, Bool.false_eq_true, if_false, List.isEmpty_iff]
    rfl

/-- R265: a setter's load that fails is refused. -/
theorem load_setter_fails {o : LoadOp} {s : State} {c : BitVec 3} {x : Cause} (hpath : o.path = some c) (hc : s.g.counter c < 255)
    (hp : s.port = .setter) (hl : o.lanes = [0]) (hx : o.fails s 0 = some x) :
    ∃ out, s.load o = .trap x (BitVec.ofNat 64 (o.addr 0 % 2 ^ 56).toNat) out := by
  obtain ⟨t, new, h, -⟩ := loadLanes_spec o s
  rw [State.load, hpath, Option.any_some, Group.counterFull_false hc, if_neg Bool.false_ne_true]
  simp only [h, hp, hl, hx, List.filter_singleton, Option.isSome_some, cond_true, List.map_cons, List.map_nil, Option.getD_some, Claims.failRecord]
  exact ⟨_, rfl⟩

theorem Group.streamAt_eq_setter {g : Group} {p : Port} : g.streamAt p = .setter ↔ p = .setter := by
  unfold Group.streamAt
  split <;> simp_all

/-- The load that a form stands for. -/
def loadOpOf (x : Claims.LoadForm) (s : State) (tags : Bool) : LoadOp where
  ty := x.ty
  lanes := Claims.lanesAt s
  addr := x.addr
  aligned := x.aligned
  path := some x.path
  acq := x.acq
  dest := x.dest
  tags := tags

/-- R406, R416, R417: an instruction of a load form issues its load. -/
theorem exec_loadForm {i : Instr} {s : State} {x : Claims.LoadForm} (h : Claims.loadForm s i = some x) (hc : Clear i s) :
    ∃ tags, exec i s = .next (s.settle i (usesOf (s.g.streamAt s.port) i) (s.load (loadOpOf x s tags))) := by
  unfold Claims.loadForm at h
  split at h
  · next d t n e =>
    cases h
    exact ⟨_, congrArg Host.Outcome.next (issue_of_clear hc _)⟩
  · next d t n sc =>
    cases h
    exact ⟨_, congrArg Host.Outcome.next (issue_of_clear hc _)⟩
  · next d t n e =>
    cases h
    have hl : ((s.g.streamAt s.port == .setter) && _) = true := hc.legal
    have hp : s.port = .setter := by simpa [Group.streamAt_eq_setter] using (Bool.and_eq_true_iff.1 hl).1
    refine ⟨false, (congrArg Host.Outcome.next (issue_of_clear hc _)).trans ?_⟩
    simp [loadOpOf, Claims.lanesAt, hp, Group.spread]
  · next d t n sc =>
    cases h
    have hl : ((s.g.streamAt s.port == .setter) && _) = true := hc.legal
    have hp : s.port = .setter := by simpa [Group.streamAt_eq_setter] using (Bool.and_eq_true_iff.1 hl).1
    refine ⟨false, (congrArg Host.Outcome.next (issue_of_clear hc _)).trans ?_⟩
    simp [loadOpOf, Claims.lanesAt, hp, Group.spread]
  · next sc q t a d =>
    cases h
    exact ⟨_, congrArg Host.Outcome.next (issue_of_clear hc _)⟩
  · exact absurd h (by simp)

/-! ### Scratchpad accesses (R418, R419, R469, R470) -/

/-- The lanes of a scratchpad access that pass its checks. -/
def State.spadGood (s : State) (ty : BitVec 3) (addr : Nat → Int) : List Nat :=
  (Claims.lanesAt s).filter (fun l => (Claims.spadLapse s (addr l) (memSize ty)).isNone)

/-- R268, R419: the records of those that do not. -/
def State.spadRecords (s : State) (ty : BitVec 3) (addr : Nat → Int) : List (Nat × Cause × BitVec 64 × Bool) :=
  ((Claims.lanesAt s).filter (fun l => (Claims.spadLapse s (addr l) (memSize ty)).isSome)).map
    (fun l => Claims.failRecord l ((Claims.spadLapse s (addr l) (memSize ty)).getD 0) (addr l))

theorem filterMap_records (ls : List Nat) (f : Nat → Option Cause) (a : Nat → Int) :
    ls.filterMap (fun l => (f l).map (fun c => laneRecord l c (a l))) =
      (ls.filter (fun l => (f l).isSome)).map (fun l => Claims.failRecord l ((f l).getD 0) (a l)) := by
  simp only [laneRecord_eq]
  induction ls with
  | nil => rfl
  | cons l ls ih => cases h : f l <;> simpa [h] using ih

theorem spadLanes_eq (s : State) (n : BitVec 5) (e : Int) (ty : BitVec 3) :
    s.spadLanes n e (memSize ty) = (s.spadGood ty (s.g.spread s.port n e (memSize ty)), s.spadRecords ty (s.g.spread s.port n e (memSize ty))) :=
  congrArg _ (filterMap_records _ _ _)

/-- R470: the units of a scratchpad store that the coalescer leaves. -/
def State.spadUnits (s : State) (d : BitVec 5) (ty : BitVec 3) (addr : Nat → Int) : List StoreUnit :=
  coalesce ((s.spadGood ty addr).map (fun l =>
    StoreUnit.mk l 0 (addr l) (.spad s.g.id.team (addr l).toNat) (memSize ty) (Claims.stored s ty d l)))

/-- R419: the flight of a scratchpad load. -/
def State.spadFlight (s : State) (d : BitVec 5) (ty : BitVec 3) (addr : Nat → Int) : InFlight :=
  s.g.launched s.port none (.load ty [] false false) (.v d.toNat (decide (6 ≤ ty.toNat))) (lanesOf (fun j => (s.spadGood ty addr).contains j)) false

/-- What is read of the entry of a store. -/
def Entry.storeView (e : Entry) : Nat × Nat × EntryKind × Loc × Nat × Nat :=
  (e.lane, e.byteOff, e.kind, e.loc, e.size, e.data.toNat)

/-- R419, R469, R470: what a scratchpad access leaves in flight. -/
def SpadSends (s t : State) (d : BitVec 5) (ty : BitVec 3) (addr : Nat → Int) (order : Option (BitVec 3)) (isLoad : Bool) : Prop :=
  ∃ new, if isLoad then
      Sends s t new (if s.spadGood ty addr = [] then [] else [s.spadFlight d ty addr]) ∧
        new.map Entry.loadView = (s.spadGood ty addr).map (fun l => (l, 0, .load, .spad s.g.id.team (addr l).toNat, memSize ty, order))
    else Sends s t new [] ∧
      new.map Entry.storeView = (s.spadUnits d ty addr).map (fun u => (u.lane, u.off, .store, u.loc, u.size, u.data % 2 ^ 64)) ∧
      (order.isSome = true → ∀ e ∈ new, e.rel.isSome = true)

theorem lds_sends (s : State) (d : BitVec 5) (ty : BitVec 3) (addr : Nat → Int) (acq : Option (BitVec 3)) :
    let u := (s.spadGood ty addr).foldl (fun (u : State) l =>
      u.addEntry l 0 .load (.spad s.g.id.team (addr l).toNat) 0 (memSize ty) 0 0 acq none false) s
    SpadSends s (if (s.spadGood ty addr).isEmpty then u else u.onGroup (fun g => g.addFlight (s.spadFlight d ty addr))) d ty addr acq true := by
  intro u
  obtain ⟨new, h, e, -⟩ := sends_foldl Entry.loadView (P := fun _ => True)
    (ρ := fun l => [(l, 0, .load, .spad s.g.id.team (addr l).toNat, memSize ty, acq)])
    (f := fun u l => u.addEntry l 0 .load (.spad s.g.id.team (addr l).toNat) 0 (memSize ty) 0 0 acq none false)
    (fun s l => ⟨_, sends_addEntry .., rfl, fun _ _ => trivial⟩) (s.spadGood ty addr) s
  refine ⟨new, ?_⟩
  rw [if_pos rfl]
  refine ⟨?_, e.trans List.map_eq_flatMap.symm⟩
  simp only [List.isEmpty_iff]
  split
  · exact h
  · simpa using h.trans (sends_addFlight u _)

/-- R216: a write with a release scope of its own carries a release scope. -/
theorem Group.writeScope_isSome (g : Group) (p : Port) (rel : Option (BitVec 3)) (h : rel.isSome = true) : (g.writeScope p rel).isSome = true := by
  unfold Group.writeScope
  split <;> simp_all

theorem sts_sends (s : State) (d : BitVec 5) (ty : BitVec 3) (addr : Nat → Int) (rel : Option (BitVec 3)) :
    SpadSends s ((s.spadUnits d ty addr).foldl (fun (u : State) x =>
      u.addEntry x.lane x.off .store x.loc 0 x.size (BitVec.ofNat 64 x.data) 0 none rel false) s) d ty addr rel false := by
  obtain ⟨new, h, e, hrel⟩ := sends_foldl Entry.storeView (P := fun e => rel.isSome = true → e.rel.isSome = true)
    (ρ := fun x : StoreUnit => [(x.lane, x.off, .store, x.loc, x.size, x.data % 2 ^ 64)])
    (f := fun u x => u.addEntry x.lane x.off .store x.loc 0 x.size (BitVec.ofNat 64 x.data) 0 none rel false)
    (fun s x => ⟨_, sends_addEntry .., by simp [Entry.storeView, Group.entry], fun e he => by
      rw [List.mem_singleton.1 he]; exact s.g.writeScope_isSome s.port rel⟩) (s.spadUnits d ty addr) s
  refine ⟨new, ?_⟩
  rw [if_neg Bool.false_ne_true]
  exact ⟨h, e.trans List.map_eq_flatMap.symm, fun hr e he => hrel e he hr⟩

/-- R419, R470: an instruction of a scratchpad form sends its access. -/
theorem exec_spadForm {i : Instr} {s : State} {d : BitVec 5} {ty : BitVec 3} {addr : Nat → Int} {order : Option (BitVec 3)} {isLoad : Bool}
    (h : Claims.spadForm s i = some (d, ty, addr, order, isLoad)) (hc : Clear i s) :
    ∃ t, SpadSends s t d ty addr order isLoad ∧ exec i s = .next (s.settle i (usesOf (s.g.streamAt s.port) i)
      (if s.spadRecords ty addr = [] then .run t else .fault t (s.spadRecords ty addr))) := by
  unfold Claims.spadForm at h
  split at h
  · next d t n e =>
    cases h
    refine ⟨_, lds_sends s _ _ _ _, (congrArg Host.Outcome.next (issue_of_clear hc _)).trans ?_⟩
    simp only [spadLanes_eq, List.isEmpty_iff]
    rfl
  · next d t n sc =>
    cases h
    refine ⟨_, lds_sends s _ _ _ _, (congrArg Host.Outcome.next (issue_of_clear hc _)).trans ?_⟩
    simp only [spadLanes_eq, List.isEmpty_iff]
    rfl
  · next d t n e =>
    cases h
    refine ⟨_, sts_sends s _ _ _ _, (congrArg Host.Outcome.next (issue_of_clear hc _)).trans ?_⟩
    simp only [spadLanes_eq, List.isEmpty_iff]
    rfl
  · next d t n sc =>
    cases h
    refine ⟨_, sts_sends s _ _ _ _, (congrArg Host.Outcome.next (issue_of_clear hc _)).trans ?_⟩
    simp only [spadLanes_eq, List.isEmpty_iff]
    rfl
  · exact absurd h (by simp)

/-! ### O17 -/

theorem flies_launched {s t : State} {path : Option (BitVec 3)} {kind : FlightKind} {dest : Dest} {lanes : Lanes} {done : Bool}
    (h : t.g.inflight = s.g.inflight ++ [s.g.launched s.port path kind dest lanes done]) : Claims.Flies s t path kind dest lanes done :=
  ⟨_, h, rfl, rfl, rfl, rfl, rfl, rfl, rfl⟩

theorem lanesOf_members (m : Lanes) : lanesOf (fun j => (members m).contains j) = m := by
  apply BitVec.eq_of_getLsbD_eq
  intro j hj
  rw [getLsbD_lanesOf _ j hj, Bool.eq_iff_iff, List.contains_iff_mem, mem_members]
  simp [hj]

theorem LoadOp.flies {o : LoadOp} {s t : State} {c : BitVec 3} {good : List Nat} (hgood : o.lanes.filter (fun l => (o.fails s l).isNone) = good)
    (h : t.g.inflight = s.g.inflight ++ [o.flight s c]) :
    ∃ tags, Claims.Flies s t (some c) (.load o.ty [] tags true) o.dest (lanesOf (fun j => good.contains j)) (good == []) := by
  subst hgood
  exact ⟨_, flies_launched h⟩

theorem filter_isNone_eq {ls : List Nat} {f : Nat → Option Cause} (h : ∀ l ∈ ls, f l = none) : ls.filter (fun l => (f l).isNone) = ls :=
  List.filter_eq_self.2 (fun l hl => by simp [h l hl])

/-- The lanes of a load that translate have their entries at their places. -/
theorem load_places {s : State} {o : LoadOp} {ls : List Nat} {loc : Int → Loc}
    (h : ∀ l ∈ ls, ∀ p ∈ piecesOf (o.addr l) (memSize o.ty) 0, ∃ y : Target,
      s.translate (some s.g.id.core) s.g.id.root p.va .read = .ok y ∧ y.loc = loc p.va) :
    ls.flatMap (fun l => ((piecesOf (o.addr l) (memSize o.ty) 0).filterMap (s.targeted .read)).map
        (fun t => (l, t.1.off, EntryKind.load, t.2.loc, t.1.size, o.acq))) =
      ls.flatMap (fun l => (piecesOf (o.addr l) (memSize o.ty) 0).map (fun p => (l, p.off, .load, loc p.va, p.size, o.acq))) :=
  List.flatMap_congr fun l hl => State.targeted_places (fun p x => (l, p.off, EntryKind.load, x, p.size, o.acq)) (h l hl)

/-- R416: a load whose lanes all pass. -/
theorem load_passes {i : Instr} {s : State} {x : Claims.LoadForm} {loc : Int → Loc} (hx : Claims.loadForm s i = some x) (h : Clear i s)
    (hc : s.g.counter x.path < 255) (hne : Claims.lanesAt s ≠ [])
    (hp : ∀ l ∈ Claims.lanesAt s, 0 ≤ x.addr l ∧ x.addr l < 2 ^ 56 ∧ (x.aligned = true → x.addr l % (memSize x.ty : Int) = 0) ∧
      ∀ p ∈ piecesOf (x.addr l) (memSize x.ty) 0, Claims.passes s .read p (loc p.va)) :
    ∃ t, exec i s = .next t ∧ Claims.Started i s t ∧ t.g.modes = s.g.modes ∧
      (∃ tags, Claims.Flies s t (some x.path) (.load x.ty [] tags true) x.dest (lanesOf (fun j => (Claims.lanesAt s).contains j)) false) ∧
      ∃ new, t.g.outq = s.g.outq ++ new ∧
        new.map (fun e => (e.lane, e.byteOff, e.kind, e.loc, e.size, e.acq)) = (Claims.lanesAt s).flatMap (fun l =>
          (piecesOf (x.addr l) (memSize x.ty) 0).map (fun p => (l, p.off, .load, loc p.va, p.size, x.acq))) := by
  obtain ⟨tags, hexec⟩ := exec_loadForm hx h
  have hfails : ∀ l ∈ Claims.lanesAt s, (loadOpOf x s tags).fails s l = none := fun l hl => by
    obtain ⟨h0, h1, hal, hps⟩ := hp l hl
    refine lapse_read_none h0 h1 (fun n hn => ?_) hps
    by_cases hx : x.aligned = true
    · rw [show (loadOpOf x s tags).aligned = true from hx, if_pos rfl] at hn
      cases hn
      exact hal hx
    · rw [show (loadOpOf x s tags).aligned = x.aligned from rfl, if_neg hx] at hn
      exact absurd hn (by simp)
  have hrecs : (loadOpOf x s tags).records s = [] := LoadOp.records_eq_nil.2 hfails
  obtain ⟨u, new, hload, hsends, hview⟩ := load_spec (o := loadOpOf x s tags) (s := s) rfl hc (lanesAt_lt s) (.inr hrecs)
  have hgood : (loadOpOf x s tags).lanes.filter (fun l => ((loadOpOf x s tags).fails s l).isNone) = Claims.lanesAt s :=
    filter_isNone_eq hfails
  rw [hload, if_pos hrecs] at hexec
  obtain ⟨hstarted, hmodes, houtq, hflight⟩ := settle_run_started h hsends
  have hflies := LoadOp.flies hgood hflight
  rw [show (Claims.lanesAt s == []) = false from beq_false_of_ne hne] at hflies
  refine ⟨_, hexec, hstarted, hmodes, hflies, new, houtq, hview.trans ?_⟩
  rw [hgood]
  exact load_places (fun l hl p hpl => let ⟨t, ht, hloc, _⟩ := (hp l hl).2.2.2 p hpl; ⟨t, ht, hloc⟩)

/-- R263, R266, R416: a load of which some lanes fail. -/
theorem load_lanes_fail {i : Instr} {s : State} {x : Claims.LoadForm} {loc : Int → Loc} (hx : Claims.loadForm s i = some x) (h : Clear i s)
    (hc : s.g.counter x.path < 255) (hs : Claims.plainSlot s) :
    let pieces := fun l => piecesOf (x.addr l) (memSize x.ty) 0
    let fail := fun l => Claims.lapse s .read (fun _ => true) true (if x.aligned then some (memSize x.ty) else none) (x.addr l) (pieces l)
    let bad := (Claims.lanesAt s).filter (fun l => (fail l).isSome)
    let good := (Claims.lanesAt s).filter (fun l => (fail l).isNone)
    bad ≠ [] →
    (∀ l ∈ good, ∀ p ∈ pieces l, ∃ y : Target, s.translate (some s.g.id.core) s.g.id.root p.va .read = .ok y ∧ y.loc = loc p.va) →
    ∃ t, exec i s = .next t ∧ Claims.LanesFail i s t (bad.map (fun l => Claims.failRecord l ((fail l).getD 0) (x.addr l))) ∧
      t.regions = s.regions ∧ t.g.modes = s.g.modes ∧
      (∃ tags, Claims.Flies s t (some x.path) (.load x.ty [] tags true) x.dest (lanesOf (fun j => good.contains j)) (good == [])) ∧
      ∃ new, t.g.outq = s.g.outq ++ new ∧
        new.map (fun e => (e.lane, e.byteOff, e.kind, e.loc, e.size, e.acq)) = good.flatMap (fun l =>
          (pieces l).map (fun p => (l, p.off, .load, loc p.va, p.size, x.acq))) := by
  intro pieces fail bad good hbad hloc
  obtain ⟨tags, hexec⟩ := exec_loadForm hx h
  have hrecs : (loadOpOf x s tags).records s ≠ [] := fun e => hbad (List.map_eq_nil_iff.1 e)
  obtain ⟨u, new, hload, hsends, hview⟩ := load_spec (o := loadOpOf x s tags) (s := s) rfl hc (lanesAt_lt s) (.inl hs.1)
  rw [hload, if_neg hrecs] at hexec
  obtain ⟨hfail, hregions, hmodes, houtq, hflight⟩ := laneFault_sends (i := i) hs hsends hrecs
  exact ⟨_, hexec, hfail, hregions, hmodes, LoadOp.flies (good := good) rfl hflight, new, houtq, hview.trans (load_places hloc)⟩

/-- R265: a load of the setter that fails. -/
theorem load_setter_refused {i : Instr} {s : State} {x : Claims.LoadForm} {c : Cause} (hx : Claims.loadForm s i = some x) (h : Clear i s)
    (hk : s.g.id.kind = .ordinary) (hc : s.g.counter x.path < 255) (hp : s.port = .setter)
    (hfail : Claims.lapse s .read (fun _ => true) true (if x.aligned then some (memSize x.ty) else none) (x.addr 0)
      (piecesOf (x.addr 0) (memSize x.ty) 0) = some c) : Claims.SetterFails i s c (x.addr 0) := by
  obtain ⟨tags, hexec⟩ := exec_loadForm hx h
  obtain ⟨out, hload⟩ := load_setter_fails (o := loadOpOf x s tags) rfl hc hp (if_pos hp) hfail
  rw [hload] at hexec
  obtain ⟨htrap, hrest, hregs, hmodes, houtq, hflight, hqueues⟩ := refuse_traps (s := s) (usesOf (s.g.streamAt s.port) i) c
    (BitVec.ofNat 64 (x.addr 0 % 2 ^ 56).toNat) out [] hk (by rw [hp]; rfl)
  refine ⟨_, hexec, htrap, ?_, ?_, hregs, hmodes, hqueues hp, houtq, hflight, ?_⟩
  all_goals exact (congrArg _ hrest).trans rfl

/-- R419, R470: a scratchpad access whose lanes all pass. -/
theorem spad_passes {i : Instr} {s : State} {d : BitVec 5} {ty : BitVec 3} {addr : Nat → Int} {order : Option (BitVec 3)} {isLoad : Bool}
    (hx : Claims.spadForm s i = some (d, ty, addr, order, isLoad)) (hp : s.port ≠ .setter) (h : Clear i s) (hm : s.g.maskAt s.port ≠ 0)
    (hl : ∀ l ∈ Claims.lanesAt s, 0 ≤ addr l ∧ addr l < (s.windowSize s.g : Int) ∧ addr l % (memSize ty : Int) = 0) :
    ∃ t, exec i s = .next t ∧ Claims.Started i s t ∧ t.g.modes = s.g.modes ∧
      ∃ new, t.g.outq = s.g.outq ++ new ∧
        (if isLoad then
          Claims.Flies s t none (.load ty [] false false) (.v d.toNat (decide (6 ≤ ty.toNat))) (s.g.maskAt s.port) false ∧
          new.map (fun e => (e.lane, e.byteOff, e.kind, e.loc, e.size, e.acq)) =
            (Claims.lanesAt s).map (fun l => (l, 0, .load, .spad s.g.id.team (addr l).toNat, memSize ty, order))
        else
          t.g.inflight = s.g.inflight ∧
          new.map (fun e => (e.lane, e.byteOff, e.kind, e.loc, e.size, e.data.toNat)) =
            (coalesce ((Claims.lanesAt s).map (fun l =>
              StoreUnit.mk l 0 (addr l) (.spad s.g.id.team (addr l).toNat) (memSize ty) (Claims.stored s ty d l)))).map (fun u =>
                (u.lane, u.off, .store, u.loc, u.size, u.data % 2 ^ 64)) ∧
          (order.isSome = true → ∀ e ∈ new, e.rel.isSome = true)) := by
  obtain ⟨u, ⟨new, hsends⟩, hexec⟩ := exec_spadForm hx h
  have hpass : ∀ l ∈ Claims.lanesAt s, Claims.spadLapse s (addr l) (memSize ty) = none := fun l hm => by
    obtain ⟨h0, h1, h2⟩ := hl l hm
    rw [Claims.spadLapse, if_neg (by omega), if_neg (by simp [h2])]
  have hgood : s.spadGood ty addr = Claims.lanesAt s := filter_isNone_eq hpass
  have hrecs : s.spadRecords ty addr = [] := by simpa [State.spadRecords, List.filter_eq_nil_iff] using hpass
  rw [if_pos hrecs] at hexec
  have hlanes : Claims.lanesAt s = members (s.g.maskAt s.port) := if_neg hp
  cases isLoad with
  | true =>
    obtain ⟨hsends, hview⟩ := hsends
    have hmask : lanesOf (fun j => (Claims.lanesAt s).contains j) = s.g.maskAt s.port := by rw [hlanes, lanesOf_members]
    have hne : Claims.lanesAt s ≠ [] := fun e => hm (hmask ▸ (lanesOf_contains_eq_zero (lanesAt_lt s)).2 e)
    rw [hgood, if_neg hne] at hsends
    obtain ⟨hstarted, hmodes, houtq, hflight⟩ := settle_run_started h hsends
    refine ⟨_, hexec, hstarted, hmodes, new, houtq, flies_launched (hflight.trans ?_), by rw [← hgood]; exact hview⟩
    rw [State.spadFlight, hgood, hmask]
  | false =>
    obtain ⟨hsends, hview, hrel⟩ := hsends
    obtain ⟨hstarted, hmodes, houtq, hflight⟩ := settle_run_started h hsends
    refine ⟨_, hexec, hstarted, hmodes, new, houtq, hflight.trans (List.append_nil _), ?_, hrel⟩
    rw [← hgood]; exact hview

/-- R419, R470: a scratchpad access of which some lanes fail. -/
theorem spad_lanes_fail {i : Instr} {s : State} {d : BitVec 5} {ty : BitVec 3} {addr : Nat → Int} {order : Option (BitVec 3)} {isLoad : Bool}
    (hx : Claims.spadForm s i = some (d, ty, addr, order, isLoad)) (hs : Claims.plainSlot s) (h : Clear i s) :
    let fail := fun l => Claims.spadLapse s (addr l) (memSize ty)
    let bad := (Claims.lanesAt s).filter (fun l => (fail l).isSome)
    let good := (Claims.lanesAt s).filter (fun l => (fail l).isNone)
    bad ≠ [] →
    ∃ t, exec i s = .next t ∧ Claims.LanesFail i s t (bad.map (fun l => Claims.failRecord l ((fail l).getD 0) (addr l))) ∧ t.regions = s.regions ∧
      t.g.modes = s.g.modes ∧ ∃ new, t.g.outq = s.g.outq ++ new ∧
        (if isLoad then
          (if good = [] then t.g.inflight = s.g.inflight
           else Claims.Flies s t none (.load ty [] false false) (.v d.toNat (decide (6 ≤ ty.toNat))) (lanesOf (fun j => good.contains j)) false) ∧
          new.map (fun e => (e.lane, e.byteOff, e.kind, e.loc, e.size, e.acq)) =
            good.map (fun l => (l, 0, .load, .spad s.g.id.team (addr l).toNat, memSize ty, order))
        else
          t.g.inflight = s.g.inflight ∧
          new.map (fun e => (e.lane, e.byteOff, e.kind, e.loc, e.size, e.data.toNat)) =
            (coalesce (good.map (fun l =>
              StoreUnit.mk l 0 (addr l) (.spad s.g.id.team (addr l).toNat) (memSize ty) (Claims.stored s ty d l)))).map (fun u =>
                (u.lane, u.off, .store, u.loc, u.size, u.data % 2 ^ 64))) := by
  intro fail bad good hbad
  obtain ⟨u, ⟨new, hsends⟩, hexec⟩ := exec_spadForm hx h
  have hrecs : s.spadRecords ty addr ≠ [] := fun e => hbad (List.map_eq_nil_iff.1 e)
  rw [if_neg hrecs] at hexec
  cases isLoad with
  | true =>
    obtain ⟨hsends, hview⟩ := hsends
    obtain ⟨hfail, hregions, hmodes, houtq, hflight⟩ := laneFault_sends (i := i) hs hsends hrecs
    refine ⟨_, hexec, hfail, hregions, hmodes, new, houtq, ?_, hview⟩
    change (if s.spadGood ty addr = [] then _ else _)
    split
    · next hnone =>
      rw [if_pos hnone] at hflight
      exact hflight.trans (List.append_nil _)
    · next hsome =>
      rw [if_neg hsome] at hflight
      exact flies_launched hflight
  | false =>
    obtain ⟨hsends, hview, -⟩ := hsends
    obtain ⟨hfail, hregions, hmodes, houtq, hflight⟩ := laneFault_sends (i := i) hs hsends hrecs
    exact ⟨_, hexec, hfail, hregions, hmodes, new, houtq, hflight.trans (List.append_nil _), hview⟩

/-- Settles O17: a load or a scratchpad access sends the entries of the lanes that pass, and the records of the others stop its stream. -/
theorem loadsIssue : Obligations.LoadsIssue := by
  unfold Obligations.LoadsIssue
  refine ⟨fun i s x loc hx h hc => load_passes hx h hc, fun i s x loc hx h hk hc => ⟨load_lanes_fail hx h hc, fun c hp hfail =>
      load_setter_refused hx h hk hc hp hfail⟩,
    fun i s d ty addr order isLoad hx hp h => spad_passes hx hp h, fun i s d ty addr order isLoad hx hs h => spad_lanes_fail hx hs h⟩

end Sys2Proof.Machine
end

section
/-! PROOF. O44: LAUNCH, CANCEL, PREEMPT and RESUME from the host: how a submitted command ends, the regions that a first launch loads, what a
cancellation leaves alone, and what a write of the device does. -/

namespace Sys2Proof.Machine

/-! ### How a submitted command ends (R322, R323, R325) -/

/-- R322, R325: the state that a command leaves at a pair, by how it ends. -/
def State.afterRun (s : State) (n : BitVec 4) (e : Submission) : Ran → State
  | .refused => (s.consume n).complete { pair := n.toNat, result := 0, op := e.op, status := 3, sseq := e.seq }
  | .refusedIn t => (t.consume n).complete { pair := n.toNat, result := 0, op := e.op, status := 3, sseq := e.seq }
  | .done t r => (t.consume n).complete { pair := n.toNat, result := r, op := e.op, status := 0, sseq := e.seq }
  | .later t => t.consume n
  | .waits t => t

/-- R322: a submitted command runs what its OP means. -/
theorem State.command_of_submitted {s : State} {n : BitVec 4} {code : Nat} {e : Submission} (h : Claims.Submitted s n code e)
    (f : State → Submission → Ran) : s.command n (opIs code) f = s.afterRun n e (f s e) := by
  obtain ⟨-, hh, ho, hs, hc⟩ := h
  unfold State.command opIs
  cases hf : f s e <;> simp [hh, ho, hs, hc, hf, State.afterRun]

/-- R323: what has the rings of a state, consumed, has consumed the entry. -/
theorem consumed_of {s t : State} {n : BitVec 4} (hp : ∃ p ∈ s.pairs, p.num = n.toNat) (h : t.pairs = (s.consume n).pairs) :
    Claims.Consumed s t n := by
  have hpair : ∀ m, t.pair m = (s.consume n).pair m := fun m => by simp only [State.pair, h]
  have hsame : t.pair n = _ := (hpair n).trans (s.pair_modPair n _ (fun _ => rfl) hp)
  exact ⟨by rw [hsame], by rw [hsame]; rfl, fun m hm => (hpair m).trans (s.pair_modPair_other n m _ (fun _ => rfl) hm)⟩

/-- R322: a command that its meaning refuses. -/
theorem refuses_of {i : Instr} {s : State} {n : BitVec 4} {code : Nat} {e : Submission} (h : Claims.Submitted s n code e)
    {f : State → Submission → Ran} (hi : exec i s = .next (s.command n (opIs code) f)) (hf : f s e = .refused) : Claims.Refuses i s n e :=
  ⟨s.afterRun n e .refused, hi.trans (by rw [State.command_of_submitted h, hf]), consumed_of h.pair rfl, rfl, rfl⟩

/-- R325: a command that its meaning has done: where that left the rings and the completions alone, it completes OK with its result. -/
theorem succeeds_of {i : Instr} {s t : State} {n : BitVec 4} {code : Nat} {e : Submission} (h : Claims.Submitted s n code e)
    {f : State → Submission → Ran} {r : BitVec 48} (hi : exec i s = .next (s.command n (opIs code) f)) (hf : f s e = .done t r)
    (hp : t.pairs = s.pairs) (hc : t.completions = s.completions) {effect : State → Prop}
    (he : ∀ ps cs, effect { t with pairs := ps, completions := cs }) : Claims.Succeeds i s n e r effect := by
  refine ⟨s.afterRun n e (.done t r), hi.trans (by rw [State.command_of_submitted h, hf]), consumed_of h.pair ?_, ?_, he _ _⟩
  · simp only [State.afterRun, State.complete, State.consume, State.modPair, hp]
  · simp only [Claims.Completed, State.afterRun, State.complete, State.consume, State.modPair, hc]

/-! ### The regions of loaded objects (R50, R193) -/

/-- R50: the region of an object, as it enters the table. -/
def Region.loaded (r : Region) : Region := { r with creator := none, lit := [], gone := false, deleter := none }

/-- R193: the regions of a list enter the table one after the other, where nothing clashes. -/
def State.addLoaded (l : List Region) (s : State) : State := l.foldl (fun s r => if s.regionClash r then s else s.addRegion r.loaded) s

theorem State.loadFor_eq (s : State) (root : Nat) : s.loadFor root =
    { s.addLoaded (s.loadRegions.filter (fun r => r.root == root)) with loadRegions := s.loadRegions.filter (fun r => !(r.root == root)) } := rfl

/-- R193: loading regions changes the table and the translation caches alone. -/
theorem State.addLoaded_eq (l : List Region) (s : State) :
    ∃ rs tlb, s.addLoaded l = { s with regions := rs, tlb := tlb } ∧ (∀ q ∈ s.regions, q ∈ rs) ∧
      ∀ q ∈ rs, q ∈ s.regions ∨ ∃ r ∈ l, q = r.loaded := by
  induction l generalizing s with
  | nil => exact ⟨s.regions, s.tlb, rfl, fun _ h => h, fun _ h => .inl h⟩
  | cons r l ih =>
    by_cases hc : s.regionClash r = true
    · obtain ⟨rs, tlb, e, h1, h2⟩ := ih s
      refine ⟨rs, tlb, by simpa [State.addLoaded, hc] using e, h1, fun q hq => (h2 q hq).imp_right ?_⟩
      rintro ⟨x, hx, e⟩
      exact ⟨x, List.mem_cons_of_mem _ hx, e⟩
    · obtain ⟨rs, tlb, e, h1, h2⟩ := ih (s.addRegion r.loaded)
      have hs : s.addLoaded (r :: l) = (s.addRegion r.loaded).addLoaded l := by simp [State.addLoaded, hc]
      refine ⟨rs, tlb, hs.trans e, fun q hq => h1 q (List.mem_append_left _ hq), fun q hq => ?_⟩
      rcases h2 q hq with h | ⟨x, hx, e⟩
      · rcases List.mem_append.1 h with h | h
        · exact .inl h
        · exact .inr ⟨r, List.mem_cons_self, List.mem_singleton.1 h⟩
      · exact .inr ⟨x, List.mem_cons_of_mem _ hx, e⟩

/-- R50, R193: a launch loads the regions of its address space, changing the table, the translation caches and what is left to load. -/
theorem State.loadFor_cases (s : State) (root : Nat) :
    ∃ rs tlb, s.loadFor root = { s with regions := rs, tlb := tlb, loadRegions := s.loadRegions.filter (fun q => q.root != root) } ∧
      (∀ q ∈ s.regions, q ∈ rs) ∧ (∀ q ∈ rs, q ∈ s.regions ∨ q.root = root ∧ q.creator = none ∧ q.lit = []) ∧
      ∀ q, s.loadRegions = [q] → q.root = root → s.regionClash q = false → q.loaded ∈ rs := by
  obtain ⟨rs, tlb, e, h1, h2⟩ := State.addLoaded_eq (s.loadRegions.filter (fun r => r.root == root)) s
  have he : s.loadFor root = { s with regions := rs, tlb := tlb, loadRegions := s.loadRegions.filter (fun q => q.root != root) } := by
    rw [State.loadFor_eq, e]; rfl
  refine ⟨rs, tlb, he, h1, fun q hq => (h2 q hq).imp_right ?_, fun q hl hr hc => ?_⟩
  · rintro ⟨r, hr, rfl⟩
    exact ⟨eq_of_beq (List.mem_filter.1 hr).2, rfl, rfl⟩
  · have hrs : (s.addLoaded [q]).regions = rs := by
      have := congrArg State.regions e
      simpa [hl, hr] using this
    rw [← hrs]
    simp [State.addLoaded, hc, State.addRegion, State.dropTlb]

/-- R50, R247, R322: LAUNCH of a good record, its queue open. -/
theorem launchCommand_succeeds {n : BitVec 4} {s : State} {e : Submission} {r : LaunchRec} {k : KernelRec} (h : Claims.Submitted s n 1 e)
    (ha : e.arg0 % 128 = 0) (hm : inMemory e.arg0 128 = true) (h1 : e.arg1 = 0) (hr : launchRecOf (s.physical e.arg0 128) = some r)
    (hk : s.kernelAt [] r.root r.krec = some k) (h0 : r.root ≠ 0) (hg : r.nteams % k.gfall = 0) (hq : s.queueOpen r.queue = true) :
    Claims.Succeeds (.launchCommand n) s n e ((r.queue ++ s.nextSeq).zeroExtend 48) (fun t => t.mem = s.mem ∧ t.g = s.g ∧ t.others = s.others ∧
      ∃ x, t.tasks = s.tasks ++ [x] ∧ x.id = r.queue ++ s.nextSeq ∧ x.stage = .queued ∧ x.krec = k ∧ x.root = r.root ∧ x.nteams = r.nteams ∧
        x.prio = r.prio ∧ x.seed = r.seed ∧ x.parent = none ∧ x.args = (if r.argv then r.args else k.args) ∧
        t.loadRegions = s.loadRegions.filter (fun q => q.root != r.root) ∧ (∀ q ∈ s.regions, q ∈ t.regions) ∧
        (∀ q ∈ t.regions, q ∈ s.regions ∨ q.root = r.root ∧ q.creator = none ∧ q.lit = []) ∧
        ∀ q, s.loadRegions = [q] → q.root = r.root → s.regionClash q = false →
          ∃ p ∈ t.regions, p.root = q.root ∧ p.base = q.base ∧ p.size = q.size ∧ p.pool = q.pool ∧ p.shade = q.shade) := by
  obtain ⟨rs, tlb, hl, hkeep, honly, hone⟩ := s.loadFor_cases r.root
  have hopen : (s.loadFor r.root).queueOpen r.queue = true := by rw [hl]; exact hq
  have hfb : fallbackOk r k = true := by simp [fallbackOk, hg]
  refine succeeds_of h (t := ((s.loadFor r.root).enterTask .queued
    { newTask r.queue none r.prio k r.root r.nteams (r.argsFor k) r.seed r.done r.debug r.region (s.loadFor r.root).nextUid with
      hostWait := none }).1) rfl ?_ ?_ ?_ (fun ps cs => ?_)
  · simp [ha, hm, h1, hr, hk, h0, hfb, hopen, State.enterTask, newTask]
    rw [hl]
  · rw [hl]; rfl
  · rw [hl]; rfl
  · rw [hl]
    exact ⟨rfl, rfl, rfl, _, rfl, rfl, rfl, rfl, rfl, rfl, rfl, rfl, rfl, rfl, rfl, hkeep, honly,
      fun q h1 h2 h3 => ⟨_, hone q h1 h2 h3, rfl, rfl, rfl, rfl, rfl⟩⟩

/-- R322: LAUNCH of a record that is not aligned, or that breaks the map. -/
theorem launchCommand_refuses {n : BitVec 4} {s : State} {e : Submission} (h : Claims.Submitted s n 1 e)
    (hb : e.arg0 % 128 ≠ 0 ∨ launchRecOf (s.physical e.arg0 128) = none) : Claims.Refuses (.launchCommand n) s n e := by
  refine refuses_of h rfl ?_
  simp only
  split
  · rfl
  · next hn => rw [hb.resolve_left (fun h => hn (.inl h))]

/-! ### What a cancellation leaves alone (R255) -/

/-- What stops with a subtree leaves alone: memory, the task tree, the rings and what is owed to them. -/
structure Undisturbed (s t : State) : Prop where
  mem : t.mem = s.mem
  tasks : t.tasks = s.tasks
  pairs : t.pairs = s.pairs
  completions : t.completions = s.completions
  cancels : t.cancels = s.cancels

theorem Undisturbed.refl (s : State) : Undisturbed s s := ⟨rfl, rfl, rfl, rfl, rfl⟩
theorem Undisturbed.trans {s t u : State} (h : Undisturbed s t) (k : Undisturbed t u) : Undisturbed s u :=
  ⟨k.mem.trans h.mem, k.tasks.trans h.tasks, k.pairs.trans h.pairs, k.completions.trans h.completions, k.cancels.trans h.cancels⟩

/-- R126: where every request is paired, no member breaks. -/
theorem State.leaveGang_checked {s : State} (h : ∀ r ∈ s.pme, r.checked = true) (g : Group) : s.leaveGang g = s := by
  unfold State.leaveGang
  simp only
  rw [List.filter_eq_nil_iff.2 fun r hr => by split <;> simp [h r hr]]
  rfl

theorem State.endGroup_keeps {s : State} (h : ∀ r ∈ s.pme, r.checked = true) (uid : Nat) :
    Undisturbed s (s.endGroup uid) ∧ ∀ r ∈ (s.endGroup uid).pme, r.checked = true := by
  unfold State.endGroup
  split
  · exact ⟨.refl s, h⟩
  · rw [State.leaveGang_checked h]
    exact ⟨⟨rfl, rfl, rfl, rfl, rfl⟩, fun r hr => h r (List.mem_of_mem_filter hr)⟩

theorem State.endAll_keeps {s : State} (h : ∀ r ∈ s.pme, r.checked = true) (uids : List Nat) :
    Undisturbed s (s.endAll uids) ∧ ∀ r ∈ (s.endAll uids).pme, r.checked = true := by
  induction uids generalizing s with
  | nil => exact ⟨.refl s, h⟩
  | cons u us ih =>
    obtain ⟨k1, h1⟩ := State.endGroup_keeps h u
    obtain ⟨k2, h2⟩ := ih h1
    exact ⟨k1.trans k2, h2⟩

/-- R255: what a cancellation makes of a task. -/
def State.stopTask (s : State) (root : BitVec 40) (t : Task) : Task :=
  if (s.subtree root).contains t.id && !t.stage.over && !((s.tasks.filter s.lastEnded).map (fun t => t.id)).contains t.id then
    { t with stage := .reclaiming } else t

/-- R255: a state in which the tasks of a subtree are stopped, and nothing else of what `Undisturbed` names has changed. -/
def Stopped (s : State) (root : BitVec 40) (t : State) : Prop := Undisturbed { s with tasks := s.tasks.map (s.stopTask root) } t

/-- R255 steps 1-4, where every request is paired. -/
theorem State.cancelTree_keeps {s : State} (h : ∀ r ∈ s.pme, r.checked = true) (root : BitVec 40) : Stopped s root (s.cancelTree root).1 := by
  unfold State.cancelTree
  extract_lets ids live complete whole bins u v gone w x
  obtain ⟨k1, h1⟩ : Undisturbed s u ∧ ∀ r ∈ u.pme, r.checked = true := State.endAll_keeps h whole
  obtain ⟨k2, -⟩ : Undisturbed v w ∧ ∀ r ∈ w.pme, r.checked = true := State.endAll_keeps (s := v) h1 gone
  clear_value w u
  exact ⟨k2.mem.trans k1.mem, congrArg (List.map (s.stopTask root)) (k2.tasks.trans k1.tasks), k2.pairs.trans k1.pairs,
    k2.completions.trans k1.completions, k2.cancels.trans k1.cancels⟩

/-- R483: regions that leave the table change it and the translation caches alone. -/
theorem State.closeRegions_keeps (l : List Region) (s : State) : Undisturbed s (l.foldl State.closeRegion s) := by
  induction l generalizing s with
  | nil => exact .refl s
  | cons r l ih =>
    have h1 : Undisturbed s (s.closeRegion r) := ⟨rfl, rfl, rfl, rfl, rfl⟩
    exact h1.trans (ih _)

/-- R255: a cancellation, where every request is paired. -/
theorem State.beginCancel_keeps {s : State} (h : ∀ r ∈ s.pme, r.checked = true) (root : BitVec 40) : Stopped s root (s.beginCancel root).1 := by
  unfold State.beginCancel
  extract_lets ids r ended u
  have k : Stopped s root r.1 := State.cancelTree_keeps h root
  clear_value r
  have hu : Undisturbed r.1 u := ⟨rfl, rfl, rfl, rfl, rfl⟩
  exact (Undisturbed.trans k hu).trans (State.closeRegions_keeps _ u)

/-- R255: a task of the subtree is reclaimed, unless it has ended, or its last group has. -/
theorem State.stopTask_stage {s : State} {root : BitVec 40} {x : Task} (hx : x ∈ s.tasks.map (s.stopTask root))
    (hi : x.id ∈ s.subtree root) : x.stage = .reclaiming ∨ x.stage.over = true ∨ ∃ z ∈ s.tasks, z.id = x.id ∧ s.lastEnded z = true := by
  obtain ⟨y, hy, rfl⟩ := List.mem_map.1 hx
  unfold State.stopTask at hi ⊢
  split at hi <;> rename_i hc
  · exact .inl (by rw [if_pos hc])
  · rw [if_neg hc]
    by_cases ho : y.stage.over = true
    · exact .inr (.inl ho)
    · have hl : ((s.tasks.filter s.lastEnded).map (fun t => t.id)).contains y.id = true := by
        by_contra hn
        exact hc (by rw [List.contains_iff_mem.2 hi, Bool.eq_false_iff.2 ho, Bool.eq_false_iff.2 hn]; rfl)
      obtain ⟨z, hz, hzi⟩ := List.mem_map.1 (List.contains_iff_mem.1 hl)
      exact .inr (.inr ⟨z, (List.mem_filter.1 hz).1, hzi, (List.mem_filter.1 hz).2⟩)

/-- R255: CANCEL of an id outside the tree. -/
theorem cancelCommand_outside {n : BitVec 4} {s : State} {e : Submission} (h : Claims.Submitted s n 2 e) (h1 : e.arg1 = 0)
    (hb : 2 ^ 40 ≤ e.arg0 ∨ s.inTree (BitVec.ofNat 40 e.arg0) = false) :
    Claims.Succeeds (.cancelCommand n) s n e 0 (Claims.OnlyRings s) :=
  succeeds_of h rfl (t := s) (by simp only [h1, ne_eq, not_true_eq_false, if_false, if_pos hb]) rfl rfl (fun _ _ => rfl)

/-- R255: CANCEL of an id in the tree, where every request is paired. -/
theorem cancelCommand_inTree {n : BitVec 4} {s : State} {e : Submission} (h : Claims.Submitted s n 2 e) (h1 : e.arg1 = 0)
    (hlt : e.arg0 < 2 ^ 40) (hi : s.inTree (BitVec.ofNat 40 e.arg0) = true) (hp : ∀ r ∈ s.pme, r.checked = true) :
    ∃ t, exec (.cancelCommand n) s = .next t ∧ Claims.Consumed s t n ∧ t.completions = s.completions ∧ t.mem = s.mem ∧
      (∀ x ∈ t.tasks, x.id ∈ s.subtree (BitVec.ofNat 40 e.arg0) → x.stage = .reclaiming ∨ x.stage.over = true ∨
        ∃ z ∈ s.tasks, z.id = x.id ∧ s.lastEnded z = true) ∧
      ∃ c, t.cancels = s.cancels ++ [c] ∧ c.task = BitVec.ofNat 40 e.arg0 ∧ c.pair = n.toNat ∧ c.sseq = e.seq := by
  have hout : ¬(2 ^ 40 ≤ e.arg0 ∨ s.inTree (BitVec.ofNat 40 e.arg0) = false) := not_or.2 ⟨Nat.not_le.2 hlt, by simp [hi]⟩
  have k := State.beginCancel_keeps hp (BitVec.ofNat 40 e.arg0)
  have he : exec (.cancelCommand n) s = execCancelCommand n s := rfl
  rw [he]
  unfold execCancelCommand
  rw [State.command_of_submitted h]
  simp only [h1, ne_eq, not_true_eq_false, if_false, if_neg hout, State.afterRun]
  generalize s.beginCancel (BitVec.ofNat 40 e.arg0) = r at k
  refine ⟨_, rfl, consumed_of h.pair ?_, k.completions, k.mem, fun x hx => State.stopTask_stage ?_, _, congrArg (· ++ _) k.cancels, rfl, rfl, rfl⟩
  · exact congrArg (updateWhere _ _) k.pairs
  · rw [← show r.1.tasks = s.tasks.map (s.stopTask (BitVec.ofNat 40 e.arg0)) from k.tasks]
    exact hx

/-! ### Tasks by their ids -/

theorem State.task_id {s : State} {id : BitVec 40} {x : Task} (h : s.task id = some x) : x.id = id :=
  by simpa using List.find?_some (p := fun t : Task => t.id == id) h

/-- A task that was changed. -/
theorem State.task_modTask (s : State) (id : BitVec 40) (f : Task → Task) (hf : ∀ t, (f t).id = t.id) :
    (s.modTask id f).task id = (s.task id).map f := by
  unfold State.task State.modTask
  simp only
  induction s.tasks with
  | nil => rfl
  | cons a l ih =>
    by_cases h : a.id = id
    · simp [h, hf]
    · simpa [h] using ih

/-- R279: RESUME of a grid that is pre-empted and runs on. -/
theorem resume_succeeds {n : BitVec 4} {s : State} {e : Submission} {x : Task} (h : Claims.Submitted s n 4 e) (hlt : e.arg0 < 2 ^ 40)
    (h1 : e.arg1 = 0) (hx : s.task (BitVec.ofNat 40 e.arg0) = some x) (hp : x.preempted = true) (hs : x.stage.stopping = false) :
    Claims.Succeeds (.resume n) s n e 0 (fun t => t.mem = s.mem ∧ t.g = s.g ∧ t.others = s.others ∧
      (t.task (BitVec.ofNat 40 e.arg0)).map (fun y => y.preempted) = some false) := by
  refine succeeds_of h rfl (t := s.modTask x.id (fun t => { t with preempted := false })) ?_ rfl rfl (fun _ _ => ⟨rfl, rfl, rfl, ?_⟩)
  · simp only [hx]
    rw [if_neg (not_or.2 ⟨Nat.not_le.2 hlt, by simp [hp, hs, h1]⟩)]
  · show ((s.modTask x.id _).task _).map _ = _
    rw [State.task_id hx, State.task_modTask _ _ (fun t => { t with preempted := false }) (fun _ => rfl), hx]
    rfl

/-- R279: RESUME of a grid that is not pre-empted, or runs no more. -/
theorem resume_refuses {n : BitVec 4} {s : State} {e : Submission} {x : Task} (h : Claims.Submitted s n 4 e)
    (hx : s.task (BitVec.ofNat 40 e.arg0) = some x) (hb : x.preempted = false ∨ x.stage.stopping = true) : Claims.Refuses (.resume n) s n e := by
  refine refuses_of h rfl ?_
  simp only [hx]
  exact if_pos (.inr (hb.imp_right .inl))

/-- R279: RESUME of an id that names no grid. -/
theorem resume_refuses_of_none {n : BitVec 4} {s : State} {e : Submission} (h : Claims.Submitted s n 4 e)
    (hb : s.task (BitVec.ofNat 40 e.arg0) = none ∨ 2 ^ 40 ≤ e.arg0) : Claims.Refuses (.resume n) s n e := by
  refine refuses_of h rfl ?_
  split
  · rfl
  · next hx => exact if_pos (.inl (hb.resolve_left (by simp [hx])))

/-- R278: PREEMPT of an id that names no grid. -/
theorem preempt_refuses_of_none {n : BitVec 4} {s : State} {e : Submission} (h : Claims.Submitted s n 3 e)
    (hb : s.task (BitVec.ofNat 40 e.arg0) = none ∨ 2 ^ 40 ≤ e.arg0) : Claims.Refuses (.preempt n) s n e := by
  refine refuses_of h rfl ?_
  simp only
  split
  · rfl
  · next hx => exact if_pos (.inl (hb.resolve_left (by simp [hx])))

/-! ### A write of the device, where every sector is good (R171, R184, R196, R297) -/

/-- R171: no sector is poisoned, and each can be read. -/
def State.Sound (s : State) : Prop := s.poison = [] ∧ s.failing = []

/-- What a write at home leaves alone where every sector is good: the groups, the task tree, the rings and what is owed to them; the sectors stay
good. -/
structure Writing (s t : State) : Prop where
  g : t.g = s.g
  others : t.others = s.others
  tasks : t.tasks = s.tasks
  pairs : t.pairs = s.pairs
  completions : t.completions = s.completions
  sound : t.Sound

theorem Writing.refl {s : State} (h : s.Sound) : Writing s s := ⟨rfl, rfl, rfl, rfl, rfl, h⟩
theorem Writing.trans {s t u : State} (h : Writing s t) (k : Writing t u) : Writing s u :=
  ⟨k.g.trans h.g, k.others.trans h.others, k.tasks.trans h.tasks, k.pairs.trans h.pairs, k.completions.trans h.completions, k.sound⟩

theorem Writing.foldl {β : Type} {f : State → β → State} (h : ∀ s b, s.Sound → Writing s (f s b)) (l : List β) {s : State} (hs : s.Sound) :
    Writing s (l.foldl f s) := by
  induction l generalizing s with
  | nil => exact .refl hs
  | cons b l ih => exact (h s b hs).trans (ih (h s b hs).sound)

theorem State.setHomeByte_writing {s : State} (hs : s.Sound) (l : Loc) (b : Byte) : Writing s (s.setHomeByte l b) := by
  unfold State.setHomeByte
  split
  · exact ⟨rfl, rfl, rfl, rfl, rfl, hs⟩
  · exact ⟨rfl, rfl, rfl, rfl, rfl, hs⟩
  · split
    · exact .refl hs
    · split
      · exact ⟨rfl, rfl, rfl, rfl, rfl, hs⟩
      · exact .refl hs

theorem State.homeWrite_writing {s : State} (hs : s.Sound) (l : Loc) (n v : Nat) : Writing s (s.homeWrite l n v) :=
  .foldl (fun _ _ h => State.setHomeByte_writing h _ _) _ hs

theorem State.noteClean_writing {s : State} (hs : s.Sound) (root va : Nat) (b : Bool) : Writing s (s.noteClean root va b) := by
  unfold State.noteClean
  split
  · exact .refl hs
  · split
    · exact .refl hs
    · simp only
      split
      · exact ⟨rfl, rfl, rfl, rfl, rfl, hs⟩
      · split
        · exact ⟨rfl, rfl, rfl, rfl, rfl, hs⟩
        · exact .refl hs

/-- R171: sectors that are good stay so. -/
theorem State.renew_writing {s : State} (hs : s.Sound) (p q : Nat → Bool) : Writing s (s.renew p q) := by
  obtain ⟨hp, hf⟩ := hs
  exact ⟨rfl, rfl, rfl, rfl, rfl, by simp [State.Sound, State.renew, hp, hf]⟩

/-- R171: a sector that is good is renewed as it is written. -/
theorem State.sectorWritten_sound {s : State} (hs : s.Sound) (grp : Nat) (l : Loc) (va k : Nat) (full : Bool) :
    s.sectorWritten grp l va k full = s.renew (fun x => x == sectorOf k) (fun x => if full then x == sectorOf k else false) := by
  obtain ⟨hp, hf⟩ := hs
  cases full <;> simp [State.sectorWritten, hp, hf]

theorem State.carrySector_writing {s : State} (hs : s.Sound) (old new : Nat) : Writing s (s.carrySector old new) := by
  obtain ⟨hp, hf⟩ := hs
  unfold State.carrySector
  generalize Memory.writeBytes _ _ _ = m
  exact ⟨rfl, rfl, rfl, rfl, rfl, by simp [State.Sound, carryMark, hp, hf]⟩

theorem State.alsoNew_writing {s : State} (hs : s.Sound) (k : Nat) : Writing s (s.alsoNew k) := by
  refine .foldl (fun t m ht => ?_) _ hs
  split
  · split
    · exact State.carrySector_writing ht _ _
    · exact .refl ht
  · exact .refl ht

theorem State.arrive_writing {s : State} (hs : s.Sound) (grp : Nat) (l : Loc) (va n v : Nat) (full : Bool) :
    Writing s (s.arrive grp l va n v full) := by
  have h1 := State.homeWrite_writing hs l n v
  unfold State.arrive State.noting
  refine Writing.trans (t := _) ?arrived (.foldl (fun _ _ h => State.noteClean_writing h _ _ _) _ (Writing.sound (s := s) ?arrived))
  simp only
  split
  · exact h1
  · next k _ =>
    rw [State.sectorWritten_sound h1.sound]
    have h3 := State.renew_writing h1.sound (fun x => x == sectorOf k) (fun x => if full then x == sectorOf k else false)
    exact (h1.trans h3).trans (State.alsoNew_writing h3.sound k)

/-! ### Pages that a write allocates (R196, R197, R201) -/

/-- The state that an allocation leaves. -/
def Grant.state : Grant → State
  | .granted s => s
  | .refused s => s
  | .waits s => s

theorem State.fade_writing {s : State} (hs : s.Sound) (r : Region) (page : Nat) : Writing s (s.fade r page) := by
  unfold State.fade
  split
  · exact .refl hs
  · split
    · exact .refl hs
    · split <;> exact ⟨rfl, rfl, rfl, rfl, rfl, hs⟩

theorem State.makeRoom_writing {s : State} (hs : s.Sound) (n : BitVec 8) (l : List (Region × Nat)) : Writing s (State.makeRoom n l s).state := by
  induction l generalizing s with
  | nil => exact .refl hs
  | cons x l ih =>
    have h := State.fade_writing hs x.1 x.2
    unfold State.makeRoom
    split
    · exact .refl hs
    · simp only
      split
      · exact h
      · exact h.trans (ih h.sound)

theorem State.light_writing {s t : State} (hs : s.Sound) {r : Region} {page : Nat} (h : s.light r page = some t) : Writing s t := by
  unfold State.light at h
  split at h
  · cases h
  · obtain rfl := (Option.some.inj h).symm
    obtain ⟨hp, hf⟩ := hs
    exact ⟨rfl, rfl, rfl, rfl, rfl, by simp [State.Sound, State.setLit, State.fillPage, State.renew, State.setFree, hp, hf]⟩

theorem State.allocate_writing {s : State} (hs : s.Sound) (r : Region) (page : Nat) : Writing s (s.allocate r page).state := by
  unfold State.allocate
  split
  · next h => exact State.light_writing hs h
  · have h := State.makeRoom_writing hs r.pool (s.candidates r.pool)
    split
    · next t e =>
      rw [e] at h
      split
      · next hl => exact h.trans (State.light_writing h.sound hl)
      · exact h
    · exact h

theorem State.preparePage_writing {s : State} (hs : s.Sound) (l : Loc) (n data : Nat) : Writing s (s.preparePage l n data).state := by
  unfold State.preparePage
  split
  · split
    · exact .refl hs
    · split
      · exact .refl hs
      · exact State.allocate_writing hs _ _
  · exact .refl hs

/-! ### The bounds of tracked blocks, and what a debug launch records (R282, R297) -/

theorem State.keepSector_writing {s : State} (hs : s.Sound) (d : DebugBlock) (names : List Loc) (l : Loc) (va : Nat) :
    Writing s (s.keepSector d names l va) := by
  unfold State.keepSector
  split
  · exact .refl hs
  · split
    · exact ⟨rfl, rfl, rfl, rfl, rfl, hs⟩
    · simp only
      generalize Memory.writeNat _ _ _ _ = m
      exact ⟨rfl, rfl, rfl, rfl, rfl, hs⟩

theorem State.keepFor_writing {s : State} (hs : s.Sound) (grp : Nat) (l : Loc) (va : Nat) : Writing s (s.keepFor grp l va) := by
  unfold State.keepFor
  split
  · exact .foldl (fun _ _ h => State.keepSector_writing h _ _ _ _) _ hs
  · exact .refl hs

theorem State.raiseChannel_writing (grp : Nat) {acc : State × Bool} (hs : acc.1.Sound) (x : TrackedBlock × Nat) :
    Writing acc.1 (State.raiseChannel grp acc x).1 := by
  unfold State.raiseChannel
  simp only
  split
  · exact .refl hs
  · next y _ =>
    have h := State.preparePage_writing hs y.loc 2 (acc.1.boundAfter x.1 x.2 y.loc)
    split <;> rename_i t e <;> rw [e] at h
    · have h2 := State.keepFor_writing h.sound grp y.loc (x.1.va + 2 * (x.2 % x.1.dim))
      exact (h.trans h2).trans (State.arrive_writing h2.sound _ _ _ _ _ _)
    · exact h
    · exact h

theorem State.raiseChannels_writing (grp : Nat) (rows : List (TrackedBlock × Nat)) {acc : State × Bool} (hs : acc.1.Sound) :
    Writing acc.1 (rows.foldl (State.raiseChannel grp) acc).1 := by
  induction rows generalizing acc with
  | nil => exact .refl hs
  | cons x rows ih =>
    have h := State.raiseChannel_writing grp hs x
    exact h.trans (ih h.sound)

theorem State.homeArrive_writing {s : State} (hs : s.Sound) (grp : Nat) (l : Loc) (va n v : Nat) (full : Bool) :
    Writing s (s.homeArrive grp l va n v full) := by
  have h := State.arrive_writing hs grp l va n v full
  exact h.trans (State.raiseChannels_writing grp _ (acc := (s.arrive grp l va n v full, false)) h.sound)

/-- Steps that each change what is recorded alone do so together. -/
theorem foldl_recorders {β : Type} {f : State → β → State} (h : ∀ s b, ∃ ds, f s b = { s with recorders := ds }) (l : List β) (s : State) :
    ∃ ds, l.foldl f s = { s with recorders := ds } := by
  induction l generalizing s with
  | nil => exact ⟨s.recorders, rfl⟩
  | cons b l ih =>
    obtain ⟨ds, e⟩ := h s b
    obtain ⟨es, e'⟩ := ih (f s b)
    rw [e] at e'
    exact ⟨es, by rw [List.foldl_cons, e, e']⟩

/-- R282: an access of a party outside the groups is recorded, and does nothing else. -/
theorem State.observe_outside (s : State) (l : Loc) (va pc : Nat) (wr atom : Bool) :
    ∃ ds, s.observe none l va pc wr atom = { s with recorders := ds } := by
  unfold State.observe
  simp only
  split
  · exact ⟨s.recorders, rfl⟩
  · refine foldl_recorders (fun t d => ?_) _ s
    split
    · exact ⟨t.recorders, rfl⟩
    · exact ⟨_, rfl⟩

/-- R282, R297: a write of a party outside the groups, as it is recorded, reaches its home, and leaves its tag. -/
theorem State.written_writing {s : State} (hs : s.Sound) (l : Loc) (va n v : Nat) (tag : Option Tag) :
    Writing s (((s.observe none l va 0 true false).homeArrive 0 l va n v false).setTags l n tag) := by
  obtain ⟨ds, ho⟩ := s.observe_outside l va 0 true false
  have h1 : Writing s (s.observe none l va 0 true false) := by
    rw [ho]
    exact ⟨rfl, rfl, rfl, rfl, rfl, hs⟩
  have h2 := h1.trans (State.homeArrive_writing h1.sound 0 l va n v false)
  exact ⟨h2.g, h2.others, h2.tasks, h2.pairs, h2.completions, h2.sound⟩

/-- R184, R196: a write of the device. -/
theorem State.tryWrite_writing {s t : State} (hs : s.Sound) {root va n v : Nat} {tag : Option Tag} (h : s.tryWrite root va n v tag = some t) :
    Writing s t := by
  unfold State.tryWrite at h
  split at h
  · obtain rfl := Option.some.inj h
    exact .refl hs
  · next y _ =>
    have hp := State.preparePage_writing hs y.loc n v
    split at h
    · cases h
    · split at h
      · cases h
      · next u e =>
        rw [e] at hp
        obtain rfl := Option.some.inj h
        exact hp
      · next u e =>
        rw [e] at hp
        extract_lets dark at h
        clear_value dark
        split at h
        · obtain rfl := Option.some.inj h
          exact hp
        · split at h
          · cases h
          · obtain rfl := Option.some.inj h
            exact hp.trans (State.written_writing hp.sound y.loc va n v tag)

theorem State.deviceWrite_writing {s : State} (hs : s.Sound) (root va x : Nat) : Writing s (s.deviceWrite root va x) := by
  unfold State.deviceWrite
  cases h : s.tryDevice root va x with
  | none => exact .refl hs
  | some t => exact State.tryWrite_writing hs h

/-! ### The bytes that a write of the device leaves in plain memory (R184, R249) -/

/-- R4: the bytes of a number. -/
theorem getD_toBytes (n v i : Nat) (d : Byte) : (toBytes n v).getD i d = if i < n then BitVec.ofNat 8 (v / 256 ^ i) else d := by
  induction n generalizing v i with
  | zero => simp [toBytes]
  | succ n ih =>
    cases i with
    | zero => simp [toBytes]
    | succ i =>
      rw [toBytes, List.getD_cons_succ, ih]
      simp [Nat.pow_succ', Nat.div_div_eq_div_mul]

/-- Memory after the bytes of a number were written. -/
theorem writes_of_mem {s t : State} {a n v : Nat} (wf : Memory.wf s.mem = true) (h : t.mem = Memory.writeBytes s.mem a (toBytes n v)) :
    Claims.Writes s t a n v := by
  intro c
  rw [h, Memory.read_writeBytes wf, getD_toBytes]
  by_cases h1 : a ≤ c
  · by_cases h2 : c < a + n
    · rw [if_pos h1, if_pos (by omega), if_pos ⟨h1, h2⟩]
    · rw [if_pos h1, if_neg (by omega), if_neg (by omega)]
  · rw [if_neg h1, if_neg (by omega)]

/-- A write of consecutive bytes of device memory. -/
theorem foldl_setHomeByte_mem (s : State) (k a : Nat) (bs : List Byte) :
    ((List.range' a bs.length).zip bs).foldl (fun s p => s.setHomeByte ((Loc.mem k).add p.1) p.2) s =
      { s with mem := Memory.writeBytes s.mem (k + a) bs } := by
  induction bs generalizing s a with
  | nil => rfl
  | cons b bs ih =>
    rw [List.length_cons, List.range'_succ, List.zip_cons_cons, List.foldl_cons, ih]
    rfl

theorem State.homeWrite_mem (s : State) (k n v : Nat) :
    s.homeWrite (.mem k) n v = { s with mem := Memory.writeBytes s.mem k (toBytes n v) } := by
  have h := foldl_setHomeByte_mem s k 0 (toBytes n v)
  rw [length_toBytes, ← List.range_eq_range'] at h
  exact h

theorem State.noteClean_mem (s : State) (root va : Nat) (b : Bool) : (s.noteClean root va b).mem = s.mem := by
  unfold State.noteClean
  split
  · rfl
  · split
    · rfl
    · simp only
      split
      · rfl
      · split <;> rfl

theorem foldl_noteClean_mem (l : List (Nat × Nat)) (f : Nat × Nat → Bool) (s : State) :
    (l.foldl (fun t x => t.noteClean x.1 x.2 (f x)) s).mem = s.mem := by
  induction l generalizing s with
  | nil => rfl
  | cons x l ih => exact (ih _).trans (State.noteClean_mem _ _ _ _)

/-- R171, R185: a write of good sectors of device memory, with no page on the move. -/
theorem State.arrive_mem {s : State} (hs : s.Sound) (hm : s.migs = []) (grp k va n v : Nat) (full : Bool) :
    (s.arrive grp (.mem k) va n v full).mem = Memory.writeBytes s.mem k (toBytes n v) := by
  unfold State.arrive State.noting
  rw [foldl_noteClean_mem _ (fun x => s.cleanAt x.1 x.2)]
  simp only [State.keyOf]
  rw [State.sectorWritten_sound (State.homeWrite_writing hs _ _ _).sound, State.homeWrite_mem]
  simp [State.alsoNew, State.renew, hm]

/-- R184, R249: a write of the device to plain memory that waits for nothing. -/
theorem State.deviceWrite_mem {s : State} (hs : s.Sound) (hm : s.migs = []) (ht : s.tracked = []) {root va pa x : Nat} {l : Leaf}
    (hl : s.translate none root va .write = .ok (.phys pa l)) (hw : l.mig = false) :
    (s.deviceWrite root va x).mem = Memory.writeBytes s.mem (storageKey l.code pa) (toBytes 8 x) := by
  obtain ⟨ds, ho⟩ := s.observe_outside (.mem (storageKey l.code pa)) va 0 true false
  have hh : s.moveHolds (.phys pa l) = false := by
    simp [State.moveHolds, Target.mig, hw, State.lineHeld_still hm]
  have h : s.tryDevice root va x = some (((s.observe none (.mem (storageKey l.code pa)) va 0 true false).homeArrive 0
      (.mem (storageKey l.code pa)) va 8 x false).setTags (.mem (storageKey l.code pa)) 8 (some outsideTag)) := by
    unfold State.tryDevice State.tryWrite
    simp only [hl, hh, Target.loc, State.preparePage, State.writeHeld_still hm ht]
    simp
  rw [State.deviceWrite, h, ho]
  show (State.homeArrive { s with recorders := ds } 0 _ va 8 x false).mem = _
  rw [State.homeArrive, State.homeRaise_untracked (s := { s with recorders := ds }) ht]
  exact State.arrive_mem (s := { s with recorders := ds }) hs hm _ _ _ _ _ _

/-- R184: a write of the device that does not wait goes to a page under no write-protect window. -/
theorem State.mig_of_deviceWaits {s : State} {root va pa x : Nat} {l : Leaf} (h : s.deviceWaits root va x = false)
    (hl : s.translate none root va .write = .ok (.phys pa l)) : l.mig = false := by
  by_contra hm
  have hh : s.moveHolds (.phys pa l) = true := by
    rw [State.moveHolds, Target.mig, Bool.eq_true_of_not_eq_false hm, Bool.true_or]
  simp [State.deviceWaits, State.tryDevice, State.tryWrite, hl, hh] at h

/-! ### PREEMPT (R278) -/

/-- R79, R278: a group of a grid stops, its slots switched. -/
def State.stopGroup (s : State) (id : BitVec 40) (g : Group) : Group :=
  if g.id.task = id ∧ g.id.kind = .ordinary ∧ g.ended = false then { s.switchOut g with stopped := true } else g

/-- R278: the groups of a grid stop, and it is pre-empted unless it runs no more. -/
def State.stopGrid (s : State) (id : BitVec 40) : State :=
  (s.mapGroups (s.stopGroup id)).modTask id (fun t => { t with preempted := !t.stage.stopping })

theorem State.stopGroup_stopped {s : State} {id : BitVec 40} {g : Group} (ht : (s.stopGroup id g).id.task = id)
    (hk : (s.stopGroup id g).id.kind = .ordinary) (he : (s.stopGroup id g).ended = false) : (s.stopGroup id g).stopped = true := by
  unfold State.stopGroup at *
  split at ht
  · next h => rw [if_pos h]
  · next h =>
    rw [if_neg h] at hk he
    exact absurd ⟨ht, hk, he⟩ h

theorem State.stopGrid_stopped {s : State} {id : BitVec 40} {g : Group} (hg : g ∈ (s.stopGrid id).g :: (s.stopGrid id).others)
    (ht : g.id.task = id) (hk : g.id.kind = .ordinary) (he : g.ended = false) : g.stopped = true := by
  obtain ⟨f, rfl⟩ : ∃ f, g = s.stopGroup id f := by
    rcases List.mem_cons.1 hg with rfl | hg
    · exact ⟨s.g, rfl⟩
    · obtain ⟨f, -, rfl⟩ := List.mem_map.1 hg
      exact ⟨f, rfl⟩
  exact State.stopGroup_stopped ht hk he

theorem State.task_stopGrid {s : State} {id : BitVec 40} {x : Task} (hx : s.task id = some x) :
    (s.stopGrid id).task id = some { x with preempted := !x.stage.stopping } := by
  rw [State.stopGrid, State.task_modTask _ _ (fun t => { t with preempted := !t.stage.stopping }) (fun _ => rfl)]
  exact congrArg (Option.map _) hx

/-- R278: PREEMPT of a grid whose status word can be written at once. -/
theorem preempt_succeeds {n : BitVec 4} {s : State} {e : Submission} {x : Task} (h : Claims.Submitted s n 3 e) (hlt : e.arg0 < 2 ^ 40)
    (hx : s.task (BitVec.ofNat 40 e.arg0) = some x) (hb : s.isBinTask (BitVec.ofNat 40 e.arg0) = false) (h1 : e.arg1 < 2 ^ 56)
    (hw : ∀ w, s.deviceWaits x.root e.arg1 w = false) (hp : s.poison = []) (hf : s.failing = []) :
    let held := (s.groups.filter (fun g => decide (g.id.task = BitVec.ofNat 40 e.arg0) && decide (g.id.kind = .ordinary) && !g.ended)).length
    Claims.Succeeds (.preempt n) s n e 0 (fun t =>
      (∀ g ∈ t.g :: t.others, g.id.task = BitVec.ofNat 40 e.arg0 → g.id.kind = .ordinary → g.ended = false → g.id.present = true →
        g.stopped = true) ∧
      (t.task (BitVec.ofNat 40 e.arg0)).map (fun y => y.preempted) = some (!x.stage.stopping) ∧
      ∀ pa l, s.translate none x.root e.arg1 .write = .ok (.phys pa l) → Memory.wf s.mem = true → s.migs = [] → s.tracked = [] →
        Claims.Writes s t (storageKey l.code pa) 8 (if held = 0 then 2 else 1 + held % 2 ^ 32 * 2 ^ 8)) := by
  intro held
  let id := BitVec.ofNat 40 e.arg0
  let word := if held = 0 then 2 else 1 + held % 2 ^ 32 * 2 ^ 8
  have k : Writing (s.stopGrid id) ((s.stopGrid id).deviceWrite x.root e.arg1 word) :=
    State.deviceWrite_writing (s := s.stopGrid id) ⟨hp, hf⟩ _ _ _
  refine succeeds_of h rfl (t := (s.stopGrid id).deviceWrite x.root e.arg1 word) ?_ k.pairs k.completions (fun ps cs => ⟨?_, ?_, ?_⟩)
  · have hok : ¬(2 ^ 40 ≤ e.arg0 ∨ s.isBinTask id = true ∨ 2 ^ 56 ≤ e.arg1) :=
      not_or.2 ⟨Nat.not_le.2 hlt, not_or.2 ⟨by simp [id, hb], Nat.not_le.2 h1⟩⟩
    simp only [hx]
    rw [if_neg hok, if_neg (by simp [hw])]
    rfl
  · intro g hg ht hk hend _
    rw [show _ :: _ = (s.stopGrid id).g :: (s.stopGrid id).others from congrArg₂ List.cons k.g k.others] at hg
    exact State.stopGrid_stopped hg ht hk hend
  · refine (congrArg (fun l : List Task => (l.find? (fun t => t.id == id)).map (fun y => y.preempted)) k.tasks).trans ?_
    show ((s.stopGrid id).task id).map _ = _
    rw [State.task_stopGrid hx]
    rfl
  · intro pa l hl wf hm htr
    exact writes_of_mem wf (State.deviceWrite_mem (s := s.stopGrid id) ⟨hp, hf⟩ hm htr hl (State.mig_of_deviceWaits (hw word) hl))

/-- Settles O44: each command by how it ends, from what the operations that it runs leave alone. -/
theorem taskCommandsRun : Obligations.TaskCommandsRun := by
  unfold Obligations.TaskCommandsRun
  intro n s e
  refine ⟨fun r k h ha hm h1 hr hk h0 hg hq => launchCommand_succeeds h ha hm h1 hr hk h0 hg hq, fun h hb => launchCommand_refuses h hb,
    fun h h1 hb => cancelCommand_outside h h1 hb, fun h h1 hlt hi hp => cancelCommand_inTree h h1 hlt hi hp,
    fun x h hlt hx hb h1 hw hp hf => preempt_succeeds h hlt hx hb h1 hw hp hf, fun h hb => preempt_refuses_of_none h hb,
    fun x h hlt h1 hx => ⟨fun hp hs => resume_succeeds h hlt h1 hx hp hs, fun hb => resume_refuses h hx hb⟩,
    fun h hb => resume_refuses_of_none h hb⟩

end Sys2Proof.Machine
end

section
/-! PROOF. O39: spawn and its bins, the queues of the distributor, and the starts of teams and of bin groups. -/

namespace Sys2Proof.Machine

/-! ### `spawn` (R82, R83, R464) -/

/-- R343: the address of the record that a `spawn` names. -/
theorem Group.target_eq (g : Group) (p : Port) (o : BitVec 18) : g.target p o = g.pcAt p + BitVec.ofInt 64 (2 * o.toInt) := by
  unfold Group.target
  congr 1
  rw [BitVec.ofInt_mul, ← BitVec.signExtend, BitVec.shiftLeft_eq_mul_twoPow, BitVec.mul_comm]
  rfl

/-- A bin that was changed is found as it is now. -/
theorem find?_replaced {α : Type} [DecidableEq α] {l : List α} {q : α → Bool} {b c : α} (h : l.find? q = some b) (hc : q c = true) :
    (updateWhere (fun x => decide (x = b)) (fun _ => c) l).find? q = some c := by
  induction l with
  | nil => cases h
  | cons a l ih =>
    unfold updateWhere at ih ⊢
    rw [List.map_cons, List.find?_cons]
    by_cases ha : a = b
    · simp [ha, hc]
    · have hq : q a = false := by
        by_contra hq
        rw [List.find?_cons, Bool.eq_true_of_not_eq_false hq] at h
        exact ha (Option.some.inj h)
      rw [List.find?_cons, hq] at h
      simpa [ha, hq] using ih h

/-- R83: what a thread of a bin brings to its group: its word, its parent and its timer. -/
def Thread.view (x : Thread) : Word × BitVec 40 × BitVec 32 := (x.v0, x.parent, x.ticks)

/-- R252: the priority of a task, 0 where it has gone. -/
def State.prioOf (s : State) (id : BitVec 40) : BitVec 3 :=
  match s.task id with
  | some t => t.prio
  | none => 0

/-- R464: the threads that a `spawn` adds, the lowest lane first. -/
def State.spawned (s : State) (a : BitVec 6) (rel : BitVec 3) : List Thread :=
  s.active.map (fun l => { v0 := lane (s.g.v a.toNat) l, parent := s.g.ownTask, prio := s.prioOf s.g.ownTask,
                           tag := s.g.tag rel, entry := s.nextUid, ticks := s.g.modes.bintime.setWidth 32 })

/-- R83: the bins with the threads of a `spawn`: in the bin of their kernel on the die, a new one where there is none. -/
def State.binsWith (s : State) (die : Nat) (key : DWord) (root : Nat) (k : KernelRec) (ts : List Thread) : List Bin :=
  match s.binOf die key root with
  | some b => updateWhere (fun c => decide (c = b)) (fun _ => { b with threads := b.threads ++ ts }) s.bins
  | none => s.bins ++ [{ die := die, key := key, root := root, krec := k, threads := ts, ticks := s.g.modes.bintime.setWidth 32 }]

theorem State.binOf_binsWith (s : State) (die : Nat) (key : DWord) (root : Nat) (k : KernelRec) (ts : List Thread) :
    ∃ b, ({ s with bins := s.binsWith die key root k ts }).binOf die key root = some b ∧ b.threads.map Thread.view =
      ((s.binOf die key root).map (fun b => b.threads.map Thread.view)).getD [] ++ ts.map Thread.view := by
  unfold State.binsWith
  split
  · next b hb =>
    have hq := List.find?_some hb
    exact ⟨{ b with threads := b.threads ++ ts }, find?_replaced hb hq, by simp [hb]⟩
  · next hb =>
    refine ⟨{ die := die, key := key, root := root, krec := k, threads := ts, ticks := s.g.modes.bintime.setWidth 32 }, ?_, by simp [hb]⟩
    have hb' : s.bins.find? _ = none := hb
    simp [State.binOf, List.find?_append, hb']

/-- R82, R464: the entry of the release of a `spawn`. -/
def State.spawnEntry (s : State) (key : DWord) : Entry :=
  s.g.entry s.port s.nextUid 0 0 (.spawn key s.g.id.root) (.mem 0) 0 0 0 none (some 3) false

/-- R83, R464: `spawn` of a kernel of one group by some lanes. -/
theorem execSpawn_good {a : BitVec 6} {o : BitVec 18} {s : State} (h : Clear (.spawn a o) s) {k : KernelRec}
    (hk : s.kernelAt s.g.nodes s.g.id.root ((s.g.target s.port o - 128).toNat : Nat) = some k) (h1 : k.team = 1) (h2 : k.gpref = 1)
    (h3 : k.hit.toNat = (s.g.target s.port o - 128).toNat + 128) (hl : s.active ≠ [])
    (hroom : (s.binOf (dieOf s.g.id.core).toNat (s.g.target s.port o - 128) s.g.id.root).isSome = true ∨
      (s.bins.filter (fun b => b.die == (dieOf s.g.id.core).toNat)).length < 256) :
    exec (.spawn a o) s = .next (s.settle (.spawn a o) (usesOf (s.g.streamAt s.port) (.spawn a o)) (.run
      { s with
        bins := s.binsWith (dieOf s.g.id.core).toNat (s.g.target s.port o - 128) s.g.id.root k
          (s.spawned a ((s.spawnEntry (s.g.target s.port o - 128)).rel.getD 3))
        nextUid := s.nextUid + 1
        g := { s.g with outq := s.g.outq ++ [s.spawnEntry (s.g.target s.port o - 128)] } })) := by
  show Host.Outcome.next (s.issue _ _) = _
  rw [issue_of_clear h]
  have hbad : ¬(k.team ≠ 1 ∨ k.gpref ≠ 1 ∨ k.hit.toNat ≠ (s.g.target s.port o - 128).toNat + 128) := by simp [h1, h2, h3]
  have hne : s.active.isEmpty = false := by simpa using hl
  unfold State.binsWith
  cases hb : s.binOf (dieOf s.g.id.core).toNat (s.g.target s.port o - 128) s.g.id.root with
  | some b =>
    simp only [hk, if_neg hbad, hb, List.isEmpty_map, hne]
    rfl
  | none =>
    have hfull : ¬256 ≤ (s.bins.filter (fun b => b.die == (dieOf s.g.id.core).toNat)).length :=
      Nat.not_le.2 (hroom.resolve_left (by rw [hb]; exact Bool.false_ne_true))
    simp only [hk, if_neg hbad, hb, List.isEmpty_map, hne, if_neg hfull]
    rfl

/-- R358: an instruction that leaves entries in the out-queue steps to the next one. -/
theorem settle_run_entries {i : Instr} {s t : State} {new : List Entry} (h : Clear i s) (hg : t.g = { s.g with outq := s.g.outq ++ new }) :
    let u := s.settle i (usesOf (s.g.streamAt s.port) i) (.run t)
    u = { t with g := u.g } ∧ Steps i s u ∧ u.g.regs = s.g.regs ∧ u.g.modes = s.g.modes ∧ u.g.outq = s.g.outq ++ new := by
  intro u
  have hu : u.g = s.g.retire { s.g with outq := s.g.outq ++ new } s.port i (usesOf (s.g.streamAt s.port) i) none false := by
    rw [← hg]
    rfl
  have hslot : ({ s.g with outq := s.g.outq ++ new } : Group).slot s.port = s.g.slot s.port := by cases s.port <;> rfl
  have hpc : ({ s.g with outq := s.g.outq ++ new } : Group).pcAt s.port = s.g.pcAt s.port := by cases s.port <;> rfl
  refine ⟨rfl, ?_, ?_, ?_, ?_⟩
  · rw [Steps, hu, Group.retire_pcAt _ _ _ _ _ _ _ (by rw [hslot]; exact h.here), hpc]
    rfl
  · rw [hu, Group.retire_regs]
  · rw [hu, Group.retire_modes]
  · rw [hu, Group.retire_outq]

/-- R82, R83, R464: `spawn` of a kernel of one group by some lanes of a hitter slot. -/
theorem spawn_fills_bin {a : BitVec 6} {o : BitVec 18} {s : State} (hp : s.port ≠ .setter) (h : Clear (.spawn a o) s) {k : KernelRec} :
    let key := s.g.pcAt s.port + BitVec.ofInt 64 (2 * o.toInt) - 128
    let die := (dieOf s.g.id.core).toNat
    let lanes := members (s.g.maskAt s.port)
    s.kernelAt s.g.nodes s.g.id.root key.toNat = some k → k.team = 1 → k.gpref = 1 → k.hit.toNat = key.toNat + 128 → lanes ≠ [] →
      ((s.binOf die key s.g.id.root).isSome = true ∨ (s.bins.filter (fun b => b.die == die)).length < 256) →
      ∃ t b, exec (.spawn a o) s = .next t ∧ t.mem = s.mem ∧ t.others = s.others ∧ Steps (.spawn a o) s t ∧ t.g.regs = s.g.regs ∧
        t.g.modes = s.g.modes ∧ (∃ e, t.g.outq = s.g.outq ++ [e] ∧ e.kind = .spawn key s.g.id.root) ∧ t.binOf die key s.g.id.root = some b ∧
        b.threads.map (fun x => (x.v0, x.parent, x.ticks)) =
          ((s.binOf die key s.g.id.root).map (fun b => b.threads.map (fun x => (x.v0, x.parent, x.ticks)))).getD [] ++
          lanes.map (fun l => (lane (s.g.v a.toNat) l, s.g.ownTask, s.g.modes.bintime.setWidth 32)) := by
  intro key die lanes hk h1 h2 h3 hl hroom
  have hkey : s.g.target s.port o - 128 = key := by rw [Group.target_eq]
  have hact : s.active = lanes := if_neg hp
  obtain ⟨ts, hts⟩ : ∃ ts, s.spawned a ((s.spawnEntry key).rel.getD 3) = ts := ⟨_, rfl⟩
  have hex := execSpawn_good h (by rw [hkey]; exact hk) h1 h2 (by rw [hkey]; exact h3) (by rw [hact]; exact hl) (by rw [hkey]; exact hroom)
  rw [hkey, hts] at hex
  obtain ⟨heq, hsteps, hregs, hmodes, houtq⟩ := settle_run_entries (new := [s.spawnEntry key])
    (t := { s with
      bins := s.binsWith die key s.g.id.root k ts
      nextUid := s.nextUid + 1
      g := { s.g with outq := s.g.outq ++ [s.spawnEntry key] } }) h rfl
  obtain ⟨b, hb, hthreads⟩ := s.binOf_binsWith die key s.g.id.root k ts
  refine ⟨_, b, hex, ?_, ?_, hsteps, hregs, hmodes, ⟨_, houtq, rfl⟩, hb, hthreads.trans ?_⟩
  · rw [heq]
  · rw [heq]
  · rw [← hts, State.spawned, hact, List.map_map]
    rfl

/-- R464: `spawn` of a target that names no kernel of one group. -/
theorem spawn_traps {a : BitVec 6} {o : BitVec 18} {s : State} (h : Clear (.spawn a o) s) (hk : s.g.id.kind = .ordinary)
    (hc : (s.g.slot s.port).chain = none) : let key := s.g.pcAt s.port + BitVec.ofInt 64 (2 * o.toInt) - 128
    (∀ k, s.kernelAt s.g.nodes s.g.id.root key.toNat = some k → k.team ≠ 1 ∨ k.gpref ≠ 1 ∨ k.hit.toNat ≠ key.toNat + 128) →
    ∃ t, exec (.spawn a o) s = .next t ∧ Trapped s t Cause.badSpawn 0 0 ∧ t.bins = s.bins ∧ t.g.regs = s.g.regs := by
  intro key hbad
  have hkey : s.g.target s.port o - 128 = key := by rw [Group.target_eq]
  obtain ⟨ht, heq, hregs, -⟩ := refuse_traps (usesOf (s.g.streamAt s.port) (.spawn a o)) Cause.badSpawn 0 false [] hk hc
  refine ⟨s.refuse (usesOf (s.g.streamAt s.port) (.spawn a o)) Cause.badSpawn, ?_, ht, by rw [heq], hregs⟩
  show Host.Outcome.next (s.issue _ _) = _
  rw [issue_of_clear h]
  simp only [hkey]
  cases hr : s.kernelAt s.g.nodes s.g.id.root key.toNat with
  | none => rfl
  | some k =>
    simp only [if_pos (hbad k hr)]
    rfl

/-- R465: the release of a `spawn` performs, its bin neither full nor without a timer. -/
theorem performSpawn_launches_nothing {s : State} {e : Entry} {key : BitVec 64} {root : Nat} (hr : Claims.Ready s e)
    (hk : e.kind = .spawn key root) (hm : s.releaseMay s.g e = true)
    (hb : ∀ b, s.binOf (dieOf s.g.id.core).toNat key root = some b → b.threads.length < 64 ∧ b.ticks ≠ 0) :
    ∃ t, exec (.performStore e.id) s = .next t ∧ t.mem = s.mem ∧ t.bins = s.bins ∧ t.bufs = s.bufs ∧ Claims.OthersStay s t s.g.id.uid ∧
      t.g.regs = s.g.regs ∧ t.g.modes = s.g.modes ∧ Claims.Left s t e := by
  obtain ⟨-, hfound, hmay⟩ := hr
  let t := s.modGroup s.g.id.uid (fun g => g.leaves e)
  have hfull : t.launchFull (dieOf s.g.id.core).toNat key root 64 = t := by
    unfold State.launchFull
    have hbin : t.binOf (dieOf s.g.id.core).toNat key root = s.binOf (dieOf s.g.id.core).toNat key root := rfl
    rw [hbin]
    cases hs : s.binOf (dieOf s.g.id.core).toNat key root with
    | none => rfl
    | some b => exact if_pos (.inl (hb b hs))
  have hg : t.g = s.g.leaves e := if_pos rfl
  refine ⟨t, ?_, rfl, rfl, rfl, fun h hh hne => ?_, by rw [hg]; rfl, by rw [hg]; rfl, ?_⟩
  · show execPerformStore e.id s = _
    unfold execPerformStore
    simp only [hfound, hmay, hm, hk]
    exact congrArg _ hfull
  · exact List.mem_map.2 ⟨h, hh, if_neg hne⟩
  · rw [Claims.Left, hg, Group.leaves, List.map_map, List.filter_map]
    congr 1
    funext x
    simp only [Function.comp]
    split <;> rfl

/-! ### The end of a wait (R254, R271) -/

/-- Selecting a port moves groups alone. -/
theorem State.select_eq (s : State) (uid : Nat) (p : Port) : ∃ g os, s.select uid p = { s with g := g, others := os, port := p } := by
  unfold State.select
  split
  · exact ⟨s.g, s.others, rfl⟩
  · split
    · exact ⟨s.g, s.others, rfl⟩
    · exact ⟨_, _, rfl⟩

/-- Selecting a port makes no group. -/
theorem State.mem_groups_of_select {s : State} {uid : Nat} {p : Port} {h : Group} (hh : h ∈ (s.select uid p).groups) : h ∈ s.groups := by
  unfold State.select at hh
  split at hh
  · exact hh
  · split at hh
    · exact hh
    · next g hg =>
      have hmem : g ∈ s.others := List.mem_of_find?_eq_some hg
      simp only [State.groups] at hh ⊢
      rcases List.mem_append.1 hh with hh | hh
      · split at hh
        · rw [List.mem_singleton.1 hh]
          exact List.mem_append_right _ hmem
        · cases hh
      · split at hh
        · next hp =>
          rw [if_pos hp]
          rcases List.mem_cons.1 hh with rfl | hh
          · exact List.mem_append_left _ (List.mem_singleton.2 rfl)
          · exact List.mem_append_right _ (List.mem_of_mem_filter hh)
        · exact List.mem_append_right _ (List.mem_of_mem_filter hh)

/-- A group after a change that leaves its record alone is one of before, or one of before as it was changed. -/
theorem State.mem_groups_of_onGroup {s : State} {f : Group → Group} (hf : ∀ g, (f g).id = g.id) {h : Group} (hh : h ∈ (s.onGroup f).groups) :
    ∃ k ∈ s.groups, h = k ∨ h = f k := by
  simp only [State.groups, State.onGroup, hf] at hh ⊢
  rcases List.mem_append.1 hh with hh | hh
  · split at hh
    · next hp =>
      rw [if_pos hp]
      exact ⟨s.g, by simp, .inr (List.mem_singleton.1 hh)⟩
    · cases hh
  · exact ⟨h, List.mem_append_right _ hh, .inl rfl⟩

/-- Acting on a group at a port of it changes groups alone, and makes none. -/
theorem State.visit_onGroup {s : State} {uid : Nat} {p : Port} {f : Group → Group} (hf : ∀ g, (f g).id = g.id) :
    (∃ g os, s.visit uid p (fun s => s.onGroup f) = { s with g := g, others := os }) ∧
    ∀ h ∈ (s.visit uid p (fun s => s.onGroup f)).groups, ∃ k ∈ s.groups, h = k ∨ h = f k := by
  constructor
  · obtain ⟨g, os, e⟩ := s.select_eq uid p
    obtain ⟨g', os', e'⟩ := ((s.select uid p).onGroup f).select_eq s.g.id.uid s.port
    refine ⟨g', os', ?_⟩
    rw [State.visit, e', e]
    rfl
  · intro h hh
    obtain ⟨k, hk, e⟩ := State.mem_groups_of_onGroup hf (State.mem_groups_of_select hh)
    exact ⟨k, State.mem_groups_of_select hk, e⟩

/-- R271: where no handler run has a group in hand, a step of a parked stream leaves the images alone. -/
theorem State.mirrorStep_unhandled {s : State} (h : ∀ g ∈ s.groups, s.inHandler g = false) (uid : Nat) (p : Port) (d : Dest) (m : Lanes) :
    s.mirrorStep uid p d m = s := by
  unfold State.mirrorStep
  split
  · rfl
  · next g hg =>
    split
    · rfl
    · rw [h g (List.mem_of_find?_eq_some hg)]
      rfl

/-- R271: changes of groups that leave alone whether they have ended and what their handlers work on put no group into a handler's hands. -/
theorem State.inHandler_of_origin {s t : State} (h : ∀ g ∈ s.groups, s.inHandler g = false)
    (ho : ∀ g ∈ t.groups, ∃ k ∈ s.groups, g.id = k.id ∧ g.ended = k.ended ∧ g.trapRegs = k.trapRegs) : ∀ g ∈ t.groups, t.inHandler g = false := by
  intro g hg
  obtain ⟨k, hk, hid, -, -⟩ := ho g hg
  have hno := h k hk
  rw [State.inHandler, List.any_eq_false] at hno ⊢
  intro u hu
  obtain ⟨w, hw, hwid, hwend, hwregs⟩ := ho u hu
  rw [hwid, hwend, hwregs, hid]
  exact hno w hw

@[simp] theorem Dest.write_id (d : Dest) (x : DWord) (g : Group) : (d.write x g).id = g.id := by cases d <;> rfl
@[simp] theorem Dest.write_ended (d : Dest) (x : DWord) (g : Group) : (d.write x g).ended = g.ended := by cases d <;> rfl
@[simp] theorem Dest.write_trapRegs (d : Dest) (x : DWord) (g : Group) : (d.write x g).trapRegs = g.trapRegs := by cases d <;> rfl
@[simp] theorem Group.landedAt_id (g : Group) (n : Nat) (d : Dest) : (g.landedAt n d).id = g.id := by cases d <;> rfl
@[simp] theorem Group.landedAt_ended (g : Group) (n : Nat) (d : Dest) : (g.landedAt n d).ended = g.ended := by cases d <;> rfl
@[simp] theorem Group.landedAt_trapRegs (g : Group) (n : Nat) (d : Dest) : (g.landedAt n d).trapRegs = g.trapRegs := by cases d <;> rfl

/-- R271: a parked instruction completes, no handler run having a group in hand: groups change, and nothing else. -/
theorem State.finishWait_write {s : State} (h : ∀ g ∈ s.groups, s.inHandler g = false) (uid : Nat) (p : Port) (i : Instr) (d : Dest) (x : DWord) :
    ∃ g os, s.finishWait uid p i d (fun g => d.write x g) = { s with g := g, others := os } := by
  obtain ⟨⟨g, os, e⟩, horigin⟩ := State.visit_onGroup (s := s) (uid := uid) (p := p)
    (f := fun g => g.retire ((d.write x g).landedAt g.serial d) p i {} none false) (fun g => by simp)
  refine ⟨g, os, ?_⟩
  unfold State.finishWait
  rw [State.mirrorStep_unhandled, e]
  refine State.inHandler_of_origin h fun u hu => ?_
  obtain ⟨k, hk, rfl | rfl⟩ := horigin u hu
  · exact ⟨u, hk, rfl, rfl, rfl⟩
  · exact ⟨k, hk, by simp, by simp, by simp⟩

/-! ### What the distributor and the cores do by themselves (R247, R248, R254, R259) -/

/-- R247: QUEUE_APPEND of a host's launch. -/
theorem queueAppend_host {s : State} {q : BitVec 6} {x : Task} {rest : List Waiting} (hw : s.queueWaiters q = .host x :: rest)
    (hq : (s.queueItems q).length < 1024) :
    ∃ t, exec (.queueAppend q) s = .next t ∧ t.mem = s.mem ∧ t.g = s.g ∧ t.others = s.others ∧
      t.tasks = s.tasks.map (fun y => if y.id = x.id then { y with stage := .queued, hostWait := none } else y) ∧
      t.completions.length = s.completions.length + (if x.hostWait.isSome then 1 else 0) := by
  have he : exec (.queueAppend q) s = execQueueAppend q s := rfl
  rw [he]
  unfold execQueueAppend
  simp only [hw, if_neg (Nat.not_le.2 hq)]
  cases x.hostWait with
  | none => exact ⟨_, rfl, rfl, rfl, rfl, rfl, rfl⟩
  | some w => exact ⟨_, rfl, rfl, rfl, rfl, rfl, List.length_append⟩

/-- R254: QUEUE_APPEND of a stream's launch, no handler run having a group in hand. -/
theorem queueAppend_stream {s : State} {q : BitVec 6} {uid : Nat} {p : Port} {x : Task} {d : Dest} {rest : List Waiting}
    (hw : s.queueWaiters q = .stream uid p x d :: rest) (hq : (s.queueItems q).length < 1024) (hh : ∀ h ∈ s.groups, s.inHandler h = false) :
    ∃ t, exec (.queueAppend q) s = .next t ∧ t.mem = s.mem ∧ t.nextSeq = s.nextSeq + 1 ∧ t.completions = s.completions ∧
      t.tasks = s.tasks ++ [{ x with id := x.queue ++ s.nextSeq, order := s.nextUid, stage := .queued, code := s.mem, codeNvme := s.nvme }] := by
  obtain ⟨g, os, e⟩ := State.finishWait_write (s := (s.enterTask .queued x).1) hh uid p (.launch 0 0) d ((x.queue ++ s.nextSeq).zeroExtend 64)
  refine ⟨{ (s.enterTask .queued x).1 with g := g, others := os }, ?_, rfl, rfl, rfl, rfl⟩
  have he : exec (.queueAppend q) s = execQueueAppend q s := rfl
  rw [he, ← e]
  unfold execQueueAppend
  simp only [hw, if_neg (Nat.not_le.2 hq)]
  rfl

/-- R248: PRIORITY_AGING of a queued task of which nothing is placed. -/
theorem priorityAging_raises {s : State} {id : BitVec 40} {x : Task} (hx : s.task id = some x) (hs : x.stage = .queued) (hp : x.placed = 0)
    (hl : x.prio.toNat + x.raised < 7) :
    ∃ t, exec (.priorityAging id) s = .next t ∧ t.mem = s.mem ∧ t.g = s.g ∧ t.others = s.others ∧
      (t.task id).map (fun y => y.effective) = some (x.effective + 1) := by
  have he : x.effective < 7 := by
    rw [Task.effective]
    omega
  refine ⟨_, rfl, rfl, rfl, rfl, ?_⟩
  rw [State.task_modTask _ _ _ (fun t => by split <;> rfl), hx]
  simp only [Option.map_some, hs, hp, he, decide_true, beq_self_eq_true, Bool.and_self, if_true]
  rw [Task.effective, Task.effective]
  congr 1
  simp only
  omega

/-- R259: STARVATION_BOUND. -/
theorem starvationBound_spec (s : State) (grp : Nat) : ∃ t, exec (.starvationBound grp) s = .next t ∧
    t = { s with g := t.g, others := t.others } ∧ t.g = (if s.g.id.uid = grp then s.g.starved else s.g) ∧
    ∀ h ∈ s.others, (if h.id.uid = grp then h.starved else h) ∈ t.others :=
  ⟨s.modGroup grp Group.starved, rfl, rfl, rfl, fun _ hh => List.mem_map_of_mem hh⟩

/-! ### Groups as they start (R45, R46, R60, R76) -/

theorem launchArgs_getD (args : List DWord) {k : Nat} (h : k < 32) : (launchArgs args).getD k 0 = args.getD k 0 := by
  simp [launchArgs, Vector.getD, h]

theorem launch_v_set (v0 : Wide) (k : Nat) : (Regs.launch.v.set 0 v0).getD k 0 = if k = 0 then v0 else 0 := by
  unfold Regs.launch
  by_cases hk : k < 128
  · by_cases h0 : k = 0
    · simp [Vector.getD, h0]
    · simp [Vector.getD, hk, h0, Ne.symm h0]
  · have h0 : k ≠ 0 := by omega
    simp [Vector.getD, hk, h0]

/-- R60, R83: a group that starts for a task on a core, with some lanes, their words in `v0`, and the parents of its threads. -/
def Begins (t : Task) (core : BitVec 10) (lanes : Lanes) (v0 : Wide) (parents : List (BitVec 40)) (h : Group) : Prop :=
  Claims.Starts t core lanes h ∧ h.v 0 = v0 ∧ h.id.laneTask = parents

theorem Task.start_begins (t : Task) (module : BitVec 12) (uid image team gang clock : Nat) (core : BitVec 10)
    (gslot teamId gidx size pos : Nat) (lanes : Lanes) (v0 : Wide) (parents : List (BitVec 40)) :
    Begins t core lanes v0 parents (t.start module uid image team gang clock core gslot teamId gidx size pos lanes v0 parents) := by
  refine ⟨⟨rfl, rfl, rfl, rfl, rfl, rfl, rfl, rfl, rfl, rfl, rfl, rfl, rfl, rfl, rfl, rfl, rfl, fun k hk => ?_, fun k hk => ?_⟩, ?_, rfl⟩
  · exact launchArgs_getD _ (by omega)
  · exact (launch_v_set v0 k).trans (if_neg (by omega))
  · exact (launch_v_set v0 0).trans (if_pos rfl)

/-! ### Placing teams (R58, R250, R251) -/

/-- What placing groups of a task does: they join the others, each as it starts; teams, images and numbers follow, and nothing else. -/
def Places (s t : State) (new : List Group) : Prop :=
  ∃ teams imgs uid, t = { s with others := s.others ++ new, teams := teams, images := imgs, nextUid := uid }

theorem Places.refl (s : State) : Places s s [] := ⟨s.teams, s.images, s.nextUid, by simp⟩

theorem Places.trans {s t u : State} {a b : List Group} (h : Places s t a) (k : Places t u b) : Places s u (a ++ b) := by
  obtain ⟨_, _, _, rfl⟩ := h
  obtain ⟨teams, imgs, uid, rfl⟩ := k
  exact ⟨teams, imgs, uid, by simp⟩

/-- Steps that each place as many groups, with a property, place that many times the number of steps. -/
theorem Places.foldl {β : Type} {f : State → β → State} {n : Nat} {P : β → Group → Prop}
    (h : ∀ s b, ∃ new, Places s (f s b) new ∧ new.length = n ∧ ∀ g ∈ new, P b g) (l : List β) (s : State) :
    ∃ new, Places s (l.foldl f s) new ∧ new.length = l.length * n ∧ ∀ g ∈ new, ∃ b ∈ l, P b g := by
  induction l generalizing s with
  | nil => exact ⟨[], .refl s, by simp, by simp⟩
  | cons b l ih =>
    obtain ⟨new1, p1, n1, h1⟩ := h s b
    obtain ⟨new2, p2, n2, h2⟩ := ih (f s b)
    refine ⟨new1 ++ new2, p1.trans p2, by simp only [List.length_append, List.length_cons, n1, n2, Nat.succ_mul]; omega, fun g hg => ?_⟩
    rcases List.mem_append.1 hg with hg | hg
    · exact ⟨b, List.mem_cons_self, h1 g hg⟩
    · obtain ⟨c, hc, hp⟩ := h2 g hg
      exact ⟨c, List.mem_cons_of_mem _ hc, hp⟩

theorem State.placeGroup_places (t : Task) (team gang : Nat) (core : BitVec 10) (teamId gidx size pos : Nat) (lanes : Lanes) (v0 : Wide)
    (parents : List (BitVec 40)) (s : State) : ∃ new, Places s (State.placeGroup t team gang core teamId gidx size pos lanes v0 parents s) new ∧
      new.length = 1 ∧ ∀ g ∈ new, Begins t core lanes v0 parents g := by
  refine ⟨[_], ⟨s.teams, _, _, rfl⟩, rfl, fun g hg => ?_⟩
  rw [List.mem_singleton.1 hg]
  exact Task.start_begins _ _ _ _ _ _ _ _ _ _ _ _ _ _ _ _

/-- R58, R250: a team starts with as many groups as its kernel record says. -/
theorem State.placeTeam_places (t : Task) (gang size pos teamId : Nat) (core : BitVec 10) (base : Nat) (image : List Byte) (lanes : Lanes)
    (v0 : Wide) (parents : List (BitVec 40)) (s : State) :
    ∃ new, Places s (State.placeTeam t gang size pos teamId core base image lanes v0 parents s) new ∧ new.length = t.krec.team ∧
      ∀ g ∈ new, Begins t core lanes v0 parents g := by
  unfold State.placeTeam
  extract_lets uid team u
  obtain ⟨new, hp, hn, hg⟩ := Places.foldl (n := 1) (P := fun _ g => Begins t core lanes v0 parents g)
    (fun s gidx => State.placeGroup_places t uid gang core teamId gidx size pos lanes v0 parents s) (List.range t.krec.team) u
  refine ⟨new, Places.trans (a := []) ⟨_, _, _, by rw [List.append_nil]⟩ hp, by simpa using hn, fun g h => ?_⟩
  obtain ⟨-, -, hb⟩ := hg g h
  exact hb

/-! ### Windows that are free, and lines that nothing pushes out (R251, R278) -/

theorem State.makeWindow_of_free {s : State} {core : BitVec 10} {size b : Nat} (h : s.freeWindow core size = some b) (n : Nat) :
    s.makeWindow core size (n + 1) = some (s, b) := by
  rw [State.makeWindow, h]

/-- R251: where each core has a free window, no team is saved for one. -/
theorem State.makeWindows_of_free {s : State} {size : Nat} {cores : List (BitVec 10)} (h : ∀ c ∈ cores, s.freeWindow c size ≠ none) :
    ∃ bs, s.makeWindows size cores = some (s, bs) ∧ bs.length = cores.length := by
  induction cores with
  | nil => exact ⟨[], rfl, rfl⟩
  | cons c cs ih =>
    obtain ⟨b, hb⟩ := Option.ne_none_iff_exists'.1 (h c List.mem_cons_self)
    obtain ⟨bs, hbs, hn⟩ := ih (fun c hc => h c (List.mem_cons_of_mem _ hc))
    exact ⟨b :: bs, by rw [State.makeWindows, State.makeWindow_of_free hb 31]; simp only [hbs], by simp [hn]⟩

theorem State.makeWindows_singleton {s : State} {core : BitVec 10} {size b : Nat} (h : s.freeWindow core size = some b) :
    s.makeWindows size [core] = some (s, [b]) := by
  rw [State.makeWindows, State.makeWindow_of_free h 31]
  rfl

/-- R278: where no group is pre-empted, a newcomer pushes no lines out. -/
theorem State.pushOut_running {s : State} (h : ∀ g ∈ s.groups, g.stopped = false) (core : BitVec 10) (n : Nat) : s.pushOut core n = s := by
  unfold State.pushOut
  extract_lets gs
  have hnone : gs.filter (fun g => g.stopped) = [] :=
    List.filter_eq_nil_iff.2 fun g hg => by simp [h g (List.mem_of_mem_filter hg)]
  rw [hnone]
  exact State.evict.eq_1 _ _

theorem State.pushOuts_running {s : State} (h : ∀ g ∈ s.groups, g.stopped = false) (n : Nat) (cores : List (BitVec 10)) :
    cores.foldl (fun (u : State) c => u.pushOut c n) s = s := by
  induction cores with
  | nil => rfl
  | cons c cs ih => rw [List.foldl_cons, State.pushOut_running h, ih]

/-- R250: places the teams of a gang of a grid on some cores, each at the base of its window there. -/
def State.placeGang (s : State) (x : Task) (size : Nat) (image : List Byte) (cores : List (BitVec 10)) (bases : List Nat) : State :=
  ((List.range size).zip (cores.zip bases)).foldl (fun u p =>
    State.placeTeam x s.nextUid size p.1 (x.placed + p.1) p.2.1 p.2.2 image (BitVec.allOnes 64) 0 [] u) { s with nextUid := s.nextUid + 1 }

/-- R250: a gang starts with the groups of a team on each of its cores. -/
theorem State.placeGang_places (s : State) (x : Task) (image : List Byte) {cores : List (BitVec 10)} {bases : List Nat}
    (h : bases.length = cores.length) : ∃ new, Places s (s.placeGang x cores.length image cores bases) new ∧
      new.length = cores.length * x.krec.team ∧ ∀ g ∈ new, ∃ c ∈ cores, Begins x c (BitVec.allOnes 64) 0 [] g := by
  obtain ⟨new, hp, hn, hg⟩ := Places.foldl (P := fun (p : Nat × BitVec 10 × Nat) g => Begins x p.2.1 (BitVec.allOnes 64) 0 [] g)
    (fun u (p : Nat × BitVec 10 × Nat) =>
      State.placeTeam_places x s.nextUid cores.length p.1 (x.placed + p.1) p.2.1 p.2.2 image (BitVec.allOnes 64) 0 [] u)
    ((List.range cores.length).zip (cores.zip bases)) { s with nextUid := s.nextUid + 1 }
  refine ⟨new, Places.trans (a := []) ⟨_, _, _, by rw [List.append_nil]⟩ hp, by simpa [h] using hn, fun g hm => ?_⟩
  obtain ⟨p, hps, hb⟩ := hg g hm
  exact ⟨p.2.1, (List.of_mem_zip (List.of_mem_zip hps).2).1, hb⟩

/-- R250, R251: the distributor places the next gang of a grid, a window free on each core and no group pre-empted. -/
theorem State.admitGang_placed {s : State} {x : Task} {core : BitVec 10} {cores : List (BitVec 10)} {size : Nat} {image : List Byte}
    {bases : List Nat} (ha : Claims.Admissible s x core cores size image)
    (hb : s.makeWindows (windowBytes x.krec.spsize) cores = some (s, bases)) (hs : ∀ h ∈ s.groups, h.stopped = false) :
    s.admitGang x.id cores = (s.placeGang x size image cores bases).modTask x.id (fun t => { t with
      placed := t.placed + size
      stage := if t.nteams ≤ t.placed + size then .running else .queued }) := by
  obtain ⟨htask, ⟨hstage, hpre, hboot⟩, hfirst, hnext, -, ⟨hplaces, hhead⟩, hfits, himage, -⟩ := ha
  obtain ⟨rest, hcores⟩ : ∃ rest, cores = core :: rest := List.head?_eq_some_iff.1 hhead
  have hmay : (decide (x.stage = .queued) && !x.preempted && decide (s.bootStage = 3) && s.mayTake x &&
      decide (cores = gangCores size (core.toNat / size)) && s.gangFits x.krec cores) = true := by
    simp [hstage, hpre, hboot, hfirst, hfits, ← hplaces]
  unfold State.admitGang
  subst hcores
  simp -zeta only [htask, hnext, hmay]
  -- The search for windows is hidden, so that the kernel does not run it as it compares the sides.
  generalize State.makeWindows _ _ _ = found at hb ⊢
  subst hb
  rw [himage]
  dsimp -zeta only
  rw [State.pushOuts_running hs]
  rfl

/-- R250, R251: TEAM_ADMISSION of the next gang of a grid, a window free on each core and no group pre-empted. -/
theorem teamAdmission_places {s : State} {x : Task} {core : BitVec 10} {cores : List (BitVec 10)} {size : Nat} {image : List Byte}
    (ha : Claims.Admissible s x core cores size image) (hw : ∀ c ∈ cores, s.freeWindow c (windowBytes x.krec.spsize) ≠ none)
    (hs : ∀ h ∈ s.groups, h.stopped = false) :
    ∃ t new, exec (.teamAdmission x.id cores) s = .next t ∧ t.mem = s.mem ∧ t.g = s.g ∧ t.others = s.others ++ new ∧
      new.length = size * x.krec.team ∧ (∀ h ∈ new, ∃ c ∈ cores, Claims.Starts x c (BitVec.allOnes 64) h ∧ h.v 0 = 0) ∧
      (t.task x.id).map (fun y => (y.placed, y.stage)) = some (x.placed + size, if x.nteams ≤ x.placed + size then .running else .queued) := by
  obtain ⟨bases, hbases, hlen⟩ := State.makeWindows_of_free hw
  have hsize : cores.length = size := by simp [ha.places.1, gangCores]
  obtain ⟨new, ⟨teams, imgs, uid, hp⟩, hn, hg⟩ := s.placeGang_places x image hlen
  rw [hsize] at hp hn
  have hex : exec (.teamAdmission x.id cores) s = .next (s.admitGang x.id cores) := by
    show execTeamAdmission x.id cores s = _
    simp only [execTeamAdmission, ha.places.2, Option.bind_some, ha.paused]
  rw [hex, State.admitGang_placed ha hbases hs, hp]
  refine ⟨_, new, rfl, rfl, rfl, rfl, hn, fun h hh => ?_, ?_⟩
  · obtain ⟨c, hc, hstarts, hv, -⟩ := hg h hh
    exact ⟨c, hc, hstarts, hv⟩
  · rw [State.task_modTask]
    · show ((s.task x.id).map _).map _ = _
      rw [ha.task]
      rfl
    · exact fun _ => rfl

/-! ### Bin groups (R83) -/

/-- R83, R252: the task that a bin launches, whose first thread is `x`, as it enters the tree. -/
def State.binTask (s : State) (b : Bin) (x : Thread) : Task :=
  { newTask (x.parent.extractLsb' 34 6) (some x.parent) x.prio b.krec b.root 1 b.krec.args (((s.task x.parent).map (fun p => p.seed)).getD 0) 0
      false (s.hasGrant x.parent) s.nextUid with ofBin := true }

/-- R83, R252: the id of that task. -/
def State.binId (s : State) (x : Thread) : BitVec 40 := x.parent.extractLsb' 34 6 ++ s.nextSeq

/-- R83: the state in which that task has entered the tree with its one team, and up to 64 threads have left the bin. -/
def State.binTaken (s : State) (b : Bin) (x : Thread) : State :=
  { (s.enterTask .running (s.binTask b x)).1.modTask (s.binId x) (fun t => { t with placed := 1 }) with
    bins := (s.bins.map (fun c => if c = b then b.after (b.threads.drop 64) else c)).filter (fun c => !c.threads.isEmpty) }

/-- R83: a bin whose threads have all left is gone. -/
theorem State.not_mem_binTaken (s : State) {b : Bin} (x : Thread) (hn : b.threads.length ≤ 64) : b ∉ (s.binTaken b x).bins := by
  intro h
  obtain ⟨hm, hne⟩ := List.mem_filter.1 h
  obtain ⟨c, -, hc⟩ := List.mem_map.1 hm
  split at hc
  · rw [← hc] at hne
    exact absurd hne (by simp [Bin.after, List.drop_of_length_le hn])
  · next hcb => exact hcb hc

/-- R252: a task that enters the tree under an id that no other has is found there. -/
theorem State.task_enterTask {s : State} (stage : TaskStage) (t : Task) (h : ∀ y ∈ s.tasks, y.id ≠ t.queue ++ s.nextSeq) :
    (s.enterTask stage t).1.task (t.queue ++ s.nextSeq) =
      some { t with id := t.queue ++ s.nextSeq, order := s.nextUid, stage := stage, code := s.mem, codeNvme := s.nvme } := by
  show (s.tasks ++ [_]).find? _ = _
  rw [List.find?_append, List.find?_eq_none.2 (fun z hz => by simpa using h z hz), Option.none_or]
  simp

/-- R83, R252: the new task is the one of its id. -/
theorem State.task_binTaken {s : State} (b : Bin) {x : Thread} (h : ∀ y ∈ s.tasks, y.id ≠ s.binId x) :
    ∃ t, (s.binTaken b x).task (s.binId x) = some t ∧ t.krec = b.krec := by
  have h1 : (s.binTaken b x).task (s.binId x) =
      ((s.enterTask .running (s.binTask b x)).1.task (s.binId x)).map (fun t => { t with placed := 1 }) :=
    State.task_modTask _ _ _ (fun _ => rfl)
  exact ⟨_, h1.trans (congrArg _ (State.task_enterTask .running (s.binTask b x) h)), rfl⟩

/-- R48: an image reads the same whatever tasks and bins there are. -/
theorem State.readImage_binTaken (s : State) (b : Bin) (x : Thread) (root va n : Nat) :
    (s.binTaken b x).readImage root va n = s.readImage root va n := by
  induction n generalizing va with
  | zero => rfl
  | succ n ih =>
    simp only [State.readImage, ih]
    rfl

/-- R251: a window is free whatever tasks and bins there are. -/
theorem State.freeWindow_binTaken (s : State) (b : Bin) (x : Thread) (core : BitVec 10) (size : Nat) :
    (s.binTaken b x).freeWindow core size = s.freeWindow core size := rfl

/-- R282: where nothing is recorded, no event of a task is. -/
theorem State.logTask_unrecorded {s : State} (h : s.recorders = []) (about : BitVec 40) (addr kind : Nat) (task : BitVec 40) (pc : Nat)
    (contents : List Byte) : s.logTask about addr kind task pc contents = s := by
  unfold State.logTask
  rw [h]
  rfl

theorem Places.logTask {s t : State} {new : List Group} (h : Places s t new) (hr : s.recorders = []) (about : BitVec 40) (addr kind : Nat)
    (task : BitVec 40) (pc : Nat) (contents : List Byte) : Places s (t.logTask about addr kind task pc contents) new := by
  have ht : t.recorders = [] := by
    obtain ⟨_, _, _, rfl⟩ := h
    exact hr
  rw [State.logTask_unrecorded ht]
  exact h

/-- R83: the words of some threads, one in each lane from lane 0. -/
def threadWords (ts : List Thread) : Wide :=
  wideOf (fun j => match ts[j]? with
    | some x => x.v0
    | none => 0)

theorem lane_threadWords (ts : List Thread) {j : Nat} (h : j < 64) : lane (threadWords ts) j = ((ts[j]?).map (fun y => y.v0)).getD 0 := by
  rw [threadWords, lane_wideOf _ _ h]
  cases ts[j]? <;> rfl

/-- R83, R251: a bin of up to 64 threads launches them all, as one group of their first lanes. -/
theorem State.launchBin_starts {s : State} {b : Bin} {core : BitVec 10} {x : Thread} {rest : List Thread} {image : List Byte}
    (hs : ∀ h ∈ s.groups, h.stopped = false) (hd : dieOf core = BitVec.ofNat 4 b.die) (ht : b.threads = x :: rest)
    (hn : b.threads.length ≤ 64) (hk : b.krec.team = 1) (hf : s.gangFits b.krec [core] = true)
    (hw : s.freeWindow core (windowBytes b.krec.spsize) ≠ none) (hr : s.recorders = [])
    (hi : s.readImage b.root b.krec.spimg.toNat b.krec.spsize = .ok image) (hid : ∀ y ∈ s.tasks, y.id ≠ s.binId x)
    (he : ∀ y ∈ b.threads, ∀ g ∈ s.groups, ∀ e ∈ g.outq, e.id ≠ y.entry) :
    ∃ t h, Places (s.binTaken b x) (s.launchBin b core) [h] ∧ Begins t core (firstLanes b.threads.length)
      (threadWords b.threads) (b.threads.map (fun y => y.parent)) h ∧ t.krec = b.krec := by
  obtain ⟨t, htask, hkrec⟩ := State.task_binTaken b hid
  obtain ⟨base, hbase⟩ := Option.ne_none_iff_exists'.1 hw
  have htake : b.threads.take 64 = b.threads := List.take_of_length_le hn
  have hstart : s.startable b.threads = true := by
    simp only [State.startable, List.all_eq_true, bne_iff_ne]
    exact he
  have himage : (s.binTaken b x).readImage b.root b.krec.spimg.toNat b.krec.spsize = .ok image := by rw [State.readImage_binTaken, hi]
  have hfree : (s.binTaken b x).freeWindow core (windowBytes t.krec.spsize) = some base := by
    rw [hkrec, State.freeWindow_binTaken]
    exact hbase
  have hwin : (s.binTaken b x).makeWindows (windowBytes t.krec.spsize) [core] = some (s.binTaken b x, [base]) :=
    State.makeWindows_singleton hfree
  have hs' : ∀ h ∈ (s.binTaken b x).groups, h.stopped = false := hs
  have hpush : (s.binTaken b x).pushOut core 24 = s.binTaken b x := State.pushOut_running hs' _ _
  obtain ⟨new, hp, hlen, hg⟩ := State.placeTeam_places t (s.binTaken b x).nextUid 1 0 0 core base image (firstLanes b.threads.length)
    (threadWords b.threads) (b.threads.map (fun y => y.parent)) { s.binTaken b x with nextUid := (s.binTaken b x).nextUid + 1 }
  obtain ⟨h, rfl⟩ := List.length_eq_one_iff.1 (hlen.trans (hkrec ▸ hk))
  refine ⟨t, h, ?_, hg h (List.mem_singleton.2 rfl), hkrec⟩
  have hguard : ¬(dieOf core ≠ BitVec.ofNat 4 b.die ∨ s.gangFits b.krec [core] = false ∨ s.startable (b.threads.take 64) = false) := by
    rw [htake]
    simp [hd, hf, hstart]
  unfold State.launchBin
  split
  · next hnone => cases ht.symm.trans hnone
  · next y ys hy =>
    obtain rfl : y = x := (List.cons.inj (hy.symm.trans ht)).1
    rw [if_neg hguard]
    extract_lets ts number parent y' z u left v
    have hv : v = s.binTaken b y := rfl
    have hz : z.2 = s.binId y := rfl
    have hts : ts = b.threads := htake
    clear_value v
    subst hv
    rw [hz, htask, hts]
    dsimp -zeta only
    -- As in `admitGang_placed`, the search for a window is hidden from the kernel.
    generalize State.makeWindows _ _ _ = found at hwin ⊢
    subst hwin
    rw [himage]
    dsimp -zeta only
    rw [hpush]
    have hu : Places (s.binTaken b y) { s.binTaken b y with nextUid := (s.binTaken b y).nextUid + 1 } [] :=
      ⟨_, _, _, by rw [List.append_nil]⟩
    exact (hu.trans hp).logTask hr _ _ _ _ _ _

/-- R83: BIN_TIMER_EXPIRY of a bin of up to 64 threads, on a core with a free window and no pre-empted group. -/
theorem binTimerExpiry_starts {s : State} {b : Bin} {core : BitVec 10} {x : Thread} {rest : List Thread} {image : List Byte}
    (hb : s.binOf b.die b.key b.root = some b) (hs : ∀ h ∈ s.groups, h.stopped = false) (hdie : b.die < 16)
    (hd : dieOf core = BitVec.ofNat 4 b.die) (ht : b.threads = x :: rest) (hn : b.threads.length ≤ 64) (hk : b.krec.team = 1)
    (hf : s.gangFits b.krec [core] = true) (hw : s.freeWindow core (windowBytes b.krec.spsize) ≠ none) (hr : s.recorders = [])
    (hi : s.readImage b.root b.krec.spimg.toNat b.krec.spsize = .ok image)
    (hid : ∀ y ∈ s.tasks, y.id ≠ x.parent.extractLsb' 34 6 ++ s.nextSeq)
    (he : ∀ y ∈ b.threads, ∀ g ∈ s.groups, ∀ e ∈ g.outq, e.id ≠ y.entry) :
    ∃ t h, exec (.binTimerExpiry (BitVec.ofNat 4 b.die) (b.key, b.root) core) s = .next t ∧ t.mem = s.mem ∧ t.g = s.g ∧ t.others = s.others ++ [h] ∧
      h.id.core = core ∧ (∃ p, h.slot0.path = some p ∧ p.pc = b.krec.hit ∧ p.mask = lanesOf (fun j => decide (j < b.threads.length))) ∧
      (∀ j, j < 64 → lane (h.v 0) j = ((b.threads[j]?).map (fun y => y.v0)).getD 0) ∧ h.id.laneTask = b.threads.map (fun y => y.parent) ∧
      b ∉ t.bins := by
  obtain ⟨t, h, ⟨teams, imgs, uid, hp⟩, ⟨hstarts, hv, hparents⟩, hkrec⟩ := State.launchBin_starts hs hd ht hn hk hf hw hr hi hid he
  obtain ⟨-, hcore, -, -, -, hpath, -⟩ := hstarts
  have hex : exec (.binTimerExpiry (BitVec.ofNat 4 b.die) (b.key, b.root) core) s = .next (s.launchBin b core) := by
    show execBinTimerExpiry _ _ core s = _
    have hdie' : (BitVec.ofNat 4 b.die).toNat = b.die := by rw [BitVec.toNat_ofNat, Nat.mod_eq_of_lt hdie]
    simp only [execBinTimerExpiry, hdie', hb]
  refine ⟨s.launchBin b core, h, hex, by rw [hp]; rfl, by rw [hp]; rfl, by rw [hp]; rfl, hcore, ⟨_, hpath, ?_, rfl⟩, fun j hj => ?_, hparents, ?_⟩
  · rw [hkrec]
  · rw [hv, lane_threadWords _ hj]
  · rw [hp]
    exact s.not_mem_binTaken x hn

/-- Settles O39: `spawn` and the release of its entry, the queues, aging and the starvation bound, and the starts of gangs and of bin groups. -/
theorem gridsAreAdmitted : Obligations.GridsAreAdmitted := by
  unfold Obligations.GridsAreAdmitted
  refine ⟨⟨fun a o s hp h => ⟨fun k => spawn_fills_bin hp h, fun hk hc => spawn_traps h hk hc⟩,
      fun s e key root hr hk hm hb => performSpawn_launches_nothing hr hk hm hb⟩,
    ⟨fun s q x rest hw hq => queueAppend_host hw hq, fun s q uid p x d rest hw hq hh => queueAppend_stream hw hq hh,
      fun s id x hx hs hp hl => priorityAging_raises hx hs hp hl, fun s grp => starvationBound_spec s grp⟩,
    fun s x core cores size image ha hw hs => teamAdmission_places ha hw hs,
    fun s b core x rest image hb hs hdie hd ht hn hk hf hw hr hi hid he => binTimerExpiry_starts hb hs hdie hd ht hn hk hf hw hr hi hid he⟩

end Sys2Proof.Machine
end

section
/-! PROOF. O5: the sums and differences of whole registers. -/

namespace Sys2Proof.Machine

theorem onlyRegs_setWidePair (g : Group) (n : Nat) (x : BitVec 4096) : OnlyRegs g (g.setWidePair n x) :=
  (onlyRegs_setV _ _ _).trans (onlyRegs_setV _ _ _)

@[simp] theorem Group.setWidePair_modes (g : Group) (n : Nat) (x : BitVec 4096) : (g.setWidePair n x).modes = g.modes := rfl

/-- R110: a wide pair reads as it was written. -/
theorem Group.widePair_setWidePair (g : Group) {n : Nat} (x : BitVec 4096) (h : n + 1 < 128) : (g.setWidePair n x).widePair n = x := by
  have hlow : (g.setWidePair n x).v n = x.setWidth 2048 := by
    rw [Group.setWidePair, Group.v_setV _ _ _ _ h, if_neg (by omega), Group.v_setV _ _ _ _ (by omega), if_pos rfl]
  have hhigh : (g.setWidePair n x).v (n + 1) = x.extractLsb' 2048 2048 := by
    rw [Group.setWidePair, Group.v_setV _ _ _ _ h, if_pos rfl]
  rw [Group.widePair, hlow, hhigh]
  apply BitVec.eq_of_getLsbD_eq
  intro i hi
  rw [BitVec.getLsbD_append, BitVec.getLsbD_setWidth, BitVec.getLsbD_extractLsb']
  by_cases hlt : i < 2048
  · simp [hlt]
  · have hsub : 2048 + (i - 2048) = i := by omega
    simp [hlt, hsub, show i - 2048 < 2048 by omega]

/-- R110: no other register changes. -/
theorem Group.v_setWidePair_other (g : Group) {n k : Nat} (x : BitVec 4096) (h : n + 1 < 128) (h0 : k ≠ n) (h1 : k ≠ n + 1) :
    (g.setWidePair n x).v k = g.v k := by
  rw [Group.setWidePair, Group.v_setV _ _ _ _ h, if_neg h1, Group.v_setV _ _ _ _ (by omega), if_neg h0]

/-- A wide pair of an instruction that may issue lies within the registers: its number is even (R364). -/
theorem succ_lt_of_even7 {d : BitVec 7} (h : even7 d = true) : d.toNat + 1 < 128 := by
  have heven : d.toNat % 2 = 0 := of_decide_eq_true h
  have hlt := d.isLt
  omega

/-- R364, R471: an instruction that writes a wide pair, in every lane. -/
theorem widePair_written {i : Instr} {s : State} {d : BitVec 7} (x : Group → BitVec 4096) (h : Clear i s) (hd : even7 d = true)
    (hi : exec i s = .next (s.plain i (fun g _ => g.setWidePair d.toNat (x g)))) :
    ∃ t, exec i s = .next t ∧ Retires s t ∧ Steps i s t ∧ t.g.widePair d.toNat = x s.g ∧
      (∀ k, k ≠ d.toNat → k ≠ d.toNat + 1 → t.g.v k = s.g.v k) ∧ t.g.regs.s = s.g.regs.s ∧ t.g.regs.a = s.g.regs.a ∧
      t.g.regs.p = s.g.regs.p ∧ t.g.modes = s.g.modes := by
  have hlt := succ_lt_of_even7 hd
  obtain ⟨hretires, -, hsteps, hregs, hmodes⟩ := plain_spec (fun g _ => g.setWidePair d.toNat (x g)) h (onlyRegs_setWidePair _ _ _)
  have hv : ∀ k, (s.plain i (fun g _ => g.setWidePair d.toNat (x g))).g.v k = (s.g.setWidePair d.toNat (x s.g)).v k := fun k => by
    unfold Group.v; rw [hregs]
  refine ⟨_, hi, hretires, hsteps, ?_, fun k h0 h1 => ?_, ?_, ?_, ?_, hmodes⟩
  · rw [Group.widePair, hv, hv]
    exact s.g.widePair_setWidePair _ hlt
  · rw [hv, Group.v_setWidePair_other _ _ hlt h0 h1]
  all_goals rw [hregs]; rfl

/-- Settles O5: both are instances of an instruction that writes a wide pair. -/
theorem wideResults : Obligations.WideResults := by
  unfold Obligations.WideResults
  have hlegal {g : Group} {p : Port} {d : BitVec 7} {x : Bool} (h : (g.streamAt p != .setter && (even7 d && x)) = true) : even7 d = true :=
    (Bool.and_eq_true_iff.1 (Bool.and_eq_true_iff.1 h).2).1
  refine fun d a b s _ => ⟨fun h => ?_, fun h => ?_⟩
  · exact widePair_written (fun g => g.widePair a.toNat + g.widePair b.toNat) h
      (hlegal (x := isPairV a && isPairV b) (by rw [← Bool.and_assoc (even7 d)]; exact h.legal)) rfl
  · exact widePair_written (fun g => g.widePair a.toNat - g.widePair b.toNat) h
      (hlegal (x := isPairV a && isPairV b) (by rw [← Bool.and_assoc (even7 d)]; exact h.legal)) rfl

end Sys2Proof.Machine
end

section
/-! PROOF. O32: `wrst` and `gset`: the values that they refuse, and what they write. -/

namespace Sys2Proof.Machine

/-! ### Refusals of an instruction that reads no latch of a chain (R80, R263) -/

/-- R263, R268: an instruction that is no member of a latch chain has had no effect, whatever chain has come before it. -/
theorem State.refuse_nonmember {s : State} {u : Uses} (c : Cause) (hm : s.g.isMember s.port u = false) :
    s.refuse u c = (s.onGroup (fun g => g.unpop s.port)).hold s.port (s.g.refusal s.port c 0 false [] 0) := by
  cases hc : (s.g.slot s.port).chain with
  | none => exact State.refuse_unchained u c 0 false [] hc
  | some x => simp only [State.refuse, hc, hm, Bool.false_eq_true, if_false]; rfl

/-- R263, R264: its trap stops its slot. -/
theorem refuse_nonmember_traps {s : State} {u : Uses} (c : Cause) (hp : s.port ≠ .setter) (hk : s.g.id.kind = .ordinary)
    (hm : s.g.isMember s.port u = false) :
    Trapped s (s.refuse u c) c 0 0 ∧ (s.refuse u c).g.regs = s.g.regs ∧ (s.refuse u c).g.modes = s.g.modes := by
  have hk' : (s.onGroup (fun g => g.unpop s.port)).g.id.kind = .ordinary := by simpa using hk
  rw [State.refuse_nonmember c hm, State.hold_slot _ hk' hp]
  refine ⟨⟨s.g.refusal s.port c 0 false [] s.nextTrap, ?_, rfl, rfl, rfl, rfl, rfl, rfl, ?_⟩, ?_, ?_⟩
  · rw [Group.heldAt_hitter _ hp, Group.slot_setSlot_same _ _ _ hp]; rfl
  · rw [Group.waitAt_hitter _ hp, Group.slot_setSlot_same _ _ _ hp]
  · simp
  · simp

/-- R358: an instruction whose own trap applies. -/
theorem issue_traps {i : Instr} {s : State} {act : State → Act} {c : Cause} (h : Clear i s) (hp : s.port ≠ .setter)
    (hk : s.g.id.kind = .ordinary) (hm : s.g.isMember s.port (usesOf (s.g.streamAt s.port) i) = false) (ha : act s = .no c) :
    Trapped s (s.issue i act) c 0 0 ∧ (s.issue i act).g.regs = s.g.regs ∧ (s.issue i act).g.modes = s.g.modes := by
  rw [issue_of_clear h, ha]
  exact refuse_nonmember_traps c hp hk hm

/-! ### The fields of FMODE and GMODE (R101, R111, R112) -/

theorem fmodeRM_eq (x : DWord) : fmodeRM x = x.toNat % 8 := by simp [fmodeRM]
theorem gmodePitch_eq (x : DWord) : gmodePitch x = x.toNat % 128 := by simp [gmodePitch]
theorem gmodeGuard_eq (x : DWord) : gmodeGuard x = x.toNat / 256 % 64 := by simp [gmodeGuard, Nat.shiftRight_eq_div_pow]

/-- R112: the valid pairs. -/
theorem gmodeValid_iff (w gd : Nat) :
    gmodeValid w gd = true ↔ w = 0 ∧ gd = 0 ∨ 8 ≤ w ∧ w ≤ 64 ∧ 1 ≤ gd ∧ gd + 2 ≤ w ∧ w ≤ gd + 32 := by
  simp [gmodeValid, and_assoc]

/-- R478: the values that `wrst` refuses. -/
theorem wrstIllegal_iff (n : Nat) (x : DWord) : wrstIllegal n x = true ↔ Claims.badValue n x := by
  rw [wrstIllegal, Claims.badValue, ← gmodeValid_iff, fmodeRM_eq, gmodePitch_eq, gmodeGuard_eq]
  simp

/-- R478: the registers that are written on one live path alone. -/
theorem wrstAlone_iff (n : Nat) : wrstAlone n = true ↔ n ∈ [8, 11, 12, 13] := by
  simp [wrstAlone, or_assoc]

/-! ### What `wrst` writes (R257, R272, R478) -/

/-- R257: the level is capped. -/
theorem Group.setLevel_modes (g : Group) (x : Nat) :
    (g.setLevel x).modes = { g.modes with prioLevel := BitVec.ofNat 3 (min x g.modes.prioCap.toNat) } := by
  unfold Group.setLevel
  by_cases h : x < g.modes.prioCap.toNat
  · simp [h, Nat.min_eq_left (Nat.le_of_lt h)]
  · simp [h, Nat.min_eq_right (Nat.le_of_not_lt h)]

theorem Group.writeStateReg_modes (g : Group) (n : Nat) (x : DWord) : (g.writeStateReg n x).modes = Claims.modesAfter n x g.modes := by
  unfold Group.writeStateReg
  split
  case h_7 => exact g.setLevel_modes x.toNat
  case h_10 => simp only [Claims.modesAfter]
  all_goals rfl

theorem Group.writeStateReg_regs (g : Group) (n : Nat) (x : DWord) : (g.writeStateReg n x).regs = g.regs := by
  unfold Group.writeStateReg
  split <;> rfl

/-- R478: but for RPLMASK, modes and the marks of flags are all that `wrst` changes. -/
theorem onlyRegs_writeStateReg (g : Group) {n : Nat} (x : DWord) (h : n ≠ 21) : OnlyRegs g (g.writeStateReg n x) := by
  unfold Group.writeStateReg
  split
  case h_9 => exact absurd rfl h
  case h_10 => exact onlyRegs_refl g
  all_goals exact ⟨_, _, _, rfl⟩

/-- R478: `wrst` of a value that its register takes. -/
theorem execWrst_writes {d : BitVec 7} {a : BitVec 8} {s : State} (h : Clear (.wrst d a) s)
    (hv : wrstIllegal d.toNat (s.g.operand64 s.port a) = false) (ha : (wrstAlone d.toNat && s.g.diverged) = false) :
    exec (.wrst d a) s = .next (s.settle (.wrst d a) (usesOf (s.g.streamAt s.port) (.wrst d a))
      (.run { s with g := s.g.writeStateReg d.toNat (s.g.operand64 s.port a) })) := by
  have he : exec (.wrst d a) s = execWrst d a s := rfl
  rw [he, execWrst, issue_of_clear h]
  simp only [hv, ha, Bool.false_eq_true, if_false]
  rfl

theorem wrst_writes {d : BitVec 7} {a : BitVec 8} {s : State} (h : Clear (.wrst d a) s) (hd : d.toNat ≠ 21)
    (hv : ¬Claims.badValue d.toNat (s.g.operand64 s.port a)) (ha : d.toNat ∈ [8, 11, 12, 13] → s.g.diverged = false) :
    ∃ t, exec (.wrst d a) s = .next t ∧ Retires s t ∧ Steps (.wrst d a) s t ∧ t.g.regs = s.g.regs ∧
      t.g.modes = Claims.modesAfter d.toNat (s.g.operand64 s.port a) s.g.modes := by
  have hgood : wrstIllegal d.toNat (s.g.operand64 s.port a) = false := Bool.eq_false_iff.2 (mt (wrstIllegal_iff _ _).1 hv)
  have halone : (wrstAlone d.toNat && s.g.diverged) = false := by
    by_cases hm : wrstAlone d.toNat = true
    · rw [ha ((wrstAlone_iff _).1 hm), Bool.and_false]
    · rw [Bool.eq_false_iff.2 hm, Bool.false_and]
  obtain ⟨hretires, -, hsteps, hregs, hmodes⟩ := settle_run_retires h (onlyRegs_writeStateReg s.g (s.g.operand64 s.port a) hd).eq
  exact ⟨_, execWrst_writes h hgood halone, hretires, hsteps, hregs.trans (Group.writeStateReg_regs _ _ _),
    hmodes.trans (Group.writeStateReg_modes _ _ _)⟩

/-- R334: an act that leaves its slot alone moves past its instruction. -/
theorem settle_run_steps {i : Instr} {s : State} {g : Group} (h : Clear i s) (hslot : g.slot s.port = s.g.slot s.port)
    (hpc : g.pcAt s.port = s.g.pcAt s.port) : Steps i s (s.settle i (usesOf (s.g.streamAt s.port) i) (.run { s with g := g })) :=
  (Group.retire_pcAt _ _ _ _ _ _ _ (by rw [hslot]; exact h.here)).trans (by rw [hpc]; rfl)

/-- R272: the handler's write of RPLMASK. -/
theorem wrst_rplmask {a : BitVec 8} {s : State} (h : Clear (.wrst 21#7 a) s) :
    ∃ t, exec (.wrst 21#7 a) s = .next t ∧ OnlyGroup s t ∧ Steps (.wrst 21#7 a) s t ∧ t.g.regs = s.g.regs ∧ t.g.modes = s.g.modes ∧
      t.g.trapRegs = { s.g.trapRegs with rplmask := s.g.operand64 s.port a &&& s.g.trapRegs.entry } := by
  have hslot : (s.g.writeStateReg 21 (s.g.operand64 s.port a)).slot s.port = s.g.slot s.port := by cases s.port <;> rfl
  have hpc : (s.g.writeStateReg 21 (s.g.operand64 s.port a)).pcAt s.port = s.g.pcAt s.port := by cases s.port <;> rfl
  exact ⟨_, execWrst_writes h rfl rfl, rfl, settle_run_steps h hslot hpc, Group.retire_regs _ _ _ _ _ _ _,
    Group.retire_modes _ _ _ _ _ _ _, Group.retire_trapRegs _ _ _ _ _ _ _⟩

/-- R478: the traps of `wrst`. -/
theorem wrst_traps {d : BitVec 7} {a : BitVec 8} {s : State} (hp : s.port ≠ .setter) (h : Clear (.wrst d a) s)
    (hk : s.g.id.kind = .ordinary) (hm : s.g.isMember s.port (usesOf (s.g.streamAt s.port) (.wrst d a)) = false) :
    (Claims.badValue d.toNat (s.g.operand64 s.port a) →
      ∃ t, exec (.wrst d a) s = .next t ∧ Trapped s t Cause.illegal 0 0 ∧ t.g.regs = s.g.regs ∧ t.g.modes = s.g.modes) ∧
    (¬Claims.badValue d.toNat (s.g.operand64 s.port a) → d.toNat ∈ [8, 11, 12, 13] → s.g.diverged = true →
      ∃ t, exec (.wrst d a) s = .next t ∧ Trapped s t Cause.modeDiverged 0 0 ∧ t.g.regs = s.g.regs ∧ t.g.modes = s.g.modes) := by
  refine ⟨fun hbad => ⟨_, rfl, issue_traps h hp hk hm ?_⟩, fun hgood halone hdiv => ⟨_, rfl, issue_traps h hp hk hm ?_⟩⟩
  · simp only [(wrstIllegal_iff _ _).2 hbad, if_true]
  · simp only [Bool.eq_false_iff.2 (mt (wrstIllegal_iff _ _).1 hgood), (wrstAlone_iff _).2 halone, hdiv, Bool.and_self, Bool.false_eq_true,
      if_false, if_true]

/-! ### `gset` (R112, R404) -/

/-- R404: PITCH and GUARD of a valid pair, and GOVM as it stood. -/
def gmodeOf (w gd : Nat) (govm : Bool) : DWord := BitVec.ofNat 64 (w + 256 * gd + (if govm then 32768 else 0))

/-- R112: the fields of a valid pair fit into their bits. -/
theorem gmodeOf_fields {w gd : Nat} (h : gmodeValid w gd = true) (govm : Bool) :
    (gmodeOf w gd govm).toNat % 128 = w ∧ (gmodeOf w gd govm).toNat / 256 % 64 = gd ∧ (gmodeOf w gd govm).getLsbD 15 = govm := by
  have hw : w < 128 ∧ gd < 64 := by
    have := (gmodeValid_iff w gd).1 h
    omega
  have hn : (gmodeOf w gd govm).toNat = w + 256 * gd + (if govm then 32768 else 0) := by
    rw [gmodeOf, BitVec.toNat_ofNat]
    cases govm <;> simp <;> omega
  refine ⟨?_, ?_, ?_⟩
  · rw [hn]; cases govm <;> simp <;> omega
  · rw [hn]; cases govm <;> simp <;> omega
  · rw [BitVec.getLsbD, hn, Nat.testBit_eq_decide_div_mod_eq]
    cases govm <;> simp <;> omega

/-- R112: `gset` refuses every other pair. -/
theorem gset_refuses_iff (w gd : Nat) : (128 ≤ w ∨ 64 ≤ gd ∨ gmodeValid w gd = false) ↔ ¬gmodeValid w gd = true := by
  rw [Bool.not_eq_true]
  refine ⟨fun h => ?_, fun h => .inr (.inr h)⟩
  by_contra hn
  have hvalid := (gmodeValid_iff w gd).1 (by simpa using hn)
  have hfalse := h.resolve_left (by omega) |>.resolve_left (by omega)
  exact hn hfalse

theorem gset_writes {a b : BitVec 8} {s : State} (h : Clear (.gset a b) s)
    (hgood : gmodeValid (s.g.operand32 s.port a) (s.g.operand32 s.port b) = true) (hdiv : s.g.diverged = false) :
    ∃ t, exec (.gset a b) s = .next t ∧ Retires s t ∧ Steps (.gset a b) s t ∧ t.g.regs = s.g.regs ∧
      t.g.modes = { s.g.modes with gmode := gmodeOf (s.g.operand32 s.port a) (s.g.operand32 s.port b) (gmodeGOVM s.g.modes.gmode) } := by
  have he : exec (.gset a b) s = execGset a b s := rfl
  have hexec : exec (.gset a b) s = .next (s.settle (.gset a b) (usesOf (s.g.streamAt s.port) (.gset a b)) (.run { s with g := { s.g with
      modes := { s.g.modes with gmode := gmodeOf (s.g.operand32 s.port a) (s.g.operand32 s.port b) (gmodeGOVM s.g.modes.gmode) } } })) := by
    rw [he, execGset, issue_of_clear h]
    simp only [mt (gset_refuses_iff _ _).1 (not_not_intro hgood), hdiv, Bool.false_eq_true, if_false]
    rfl
  obtain ⟨hretires, -, hsteps, hregs, hmodes⟩ := settle_run_retires h (g := { s.g with
      modes := { s.g.modes with gmode := gmodeOf (s.g.operand32 s.port a) (s.g.operand32 s.port b) (gmodeGOVM s.g.modes.gmode) } }) rfl
  exact ⟨_, hexec, hretires, hsteps, hregs, hmodes⟩

theorem gset_traps {a b : BitVec 8} {s : State} (hp : s.port ≠ .setter) (h : Clear (.gset a b) s) (hk : s.g.id.kind = .ordinary)
    (hc : (s.g.slot s.port).chain = none) :
    (¬gmodeValid (s.g.operand32 s.port a) (s.g.operand32 s.port b) = true →
      ∃ t, exec (.gset a b) s = .next t ∧ Trapped s t Cause.illegal 0 0 ∧ t.g.regs = s.g.regs ∧ t.g.modes = s.g.modes) ∧
    (gmodeValid (s.g.operand32 s.port a) (s.g.operand32 s.port b) = true → s.g.diverged = true →
      ∃ t, exec (.gset a b) s = .next t ∧ Trapped s t Cause.modeDiverged 0 0 ∧ t.g.regs = s.g.regs ∧ t.g.modes = s.g.modes) := by
  have hm := Group.isMember_unchained (u := usesOf (s.g.streamAt s.port) (.gset a b)) hc
  refine ⟨fun hbad => ⟨_, rfl, issue_traps h hp hk hm ?_⟩, fun hgood hdiv => ⟨_, rfl, issue_traps h hp hk hm ?_⟩⟩
  · simp only [(gset_refuses_iff _ _).2 hbad, if_true]
  · simp only [mt (gset_refuses_iff _ _).1 (not_not_intro hgood), hdiv, if_false, if_true]

/-- Settles O32: `wrst` and `gset` write what their registers take, and trap at the values and the paths that they refuse. -/
theorem stateRegisterWrites : Obligations.StateRegisterWrites := by
  unfold Obligations.StateRegisterWrites
  refine ⟨fun d a s _ h hd hv ha => wrst_writes h hd hv ha, fun a s _ h => wrst_rplmask h, fun d a s hp h hk hm => wrst_traps hp h hk hm,
    fun a b s hp h => ?_⟩
  simp only [← gmodeValid_iff]
  refine ⟨fun hgood hdiv => ?_, fun hk hc => gset_traps hp h hk hc⟩
  obtain ⟨t, hexec, hretires, hsteps, hregs, hmodes⟩ := gset_writes h hgood hdiv
  obtain ⟨hpitch, hguard, hgovm⟩ := gmodeOf_fields hgood (gmodeGOVM s.g.modes.gmode)
  refine ⟨t, hexec, hretires, hsteps, hregs, ?_, ?_, ?_, ?_⟩
  · rw [hmodes]
  · rw [hmodes]; exact hpitch
  · rw [hmodes]; exact hguard
  · rw [hmodes]; exact hgovm

end Sys2Proof.Machine
end

section
/-! PROOF. O27: engine commands post their requests, and the digits of an integer rebuild it. -/

namespace Sys2Proof.Machine

/-! ### Posting a request (R115, R134, R143) -/

/-- R115, R143, R213: what an engine command leaves: its request, with the entry and the flight that stand for it. -/
def Posts (i : Instr) (s t : State) (cmd : PmeCmd) (dest : Dest) (hold : Bool) : Prop :=
  ∃ r e, Claims.Started i s t ∧ t.g.modes = s.g.modes ∧ t.g.outq = s.g.outq ++ [e] ∧ e.kind = .engine r.id ∧ t.acc = s.acc ∧
    t.resident = s.resident ∧ t.pme = s.pme ++ [r] ∧ r.cmd = cmd ∧ r.grp = s.g.id.uid ∧ r.serial = s.g.serial ∧
    r.pme = clusterOf s.g.id.core ∧ r.granted = false ∧ r.dispatched = false ∧ r.level = s.g.modes.prioLevel ∧
    Claims.Flies s t (some 4) (.engine r.id hold) dest (s.g.maskAt s.port) false

/-- R143: the table of requests plays no part in what an instruction that issues leaves of its group. -/
theorem started_with_pme {i : Instr} {s u : State} (l : List PmeReq) (h : Claims.Started i s u) : Claims.Started i s { u with pme := l } :=
  ⟨⟨h.memory, h.others, h.id, h.regs, h.stack, h.queues, h.steps⟩, h.regions⟩

/-- R115, R134: a request is posted as its command issues. -/
theorem settle_post {i : Instr} {s : State} (h : Clear i s) (cmd : PmeCmd) (dest : Dest) (hold : Bool) :
    Posts i s (s.settle i (usesOf (s.g.streamAt s.port) i) (.run (s.post cmd dest (s.g.maskAt s.port) hold))) cmd dest hold := by
  have hsends : Sends s { s.post cmd dest (s.g.maskAt s.port) hold with pme := s.pme } [s.g.engineEntry s.port (s.nextUid + 1) s.nextUid []]
      [s.g.launched s.port (some 4) (.engine s.nextUid hold) dest (s.g.maskAt s.port) false] := rfl
  obtain ⟨hstarted, hmodes, houtq, hflight⟩ := settle_run_started h hsends
  exact ⟨_, _, started_with_pme _ hstarted, hmodes, houtq, rfl, rfl, rfl, rfl, rfl, rfl, rfl, rfl, rfl, rfl, rfl, flies_launched hflight⟩

/-- R115, R134: an engine command that no trap stops, with room in counter 4 and in the reservation table. -/
theorem engine_posts {i : Instr} {s : State} {trap : State → Option Cause} {cmd : State → PmeCmd} {dest : Dest} {hold : State → Bool}
    (h : Clear i s) (hc : s.g.counter 4 < 255) (hr : s.reserved (clusterOf s.g.id.core) < 16)
    (hi : exec i s = .next (s.engine i trap cmd dest hold)) (ht : trap s = none) :
    ∃ t, exec i s = .next t ∧ Posts i s t (cmd s) dest (hold s) := by
  refine ⟨_, hi, ?_⟩
  have hroom : (s.g.counterFull 4 || decide (16 ≤ s.reserved (clusterOf s.g.id.core))) = false := by
    rw [Group.counterFull_false hc, Bool.false_or, decide_eq_false (by omega)]
  unfold State.engine
  rw [issue_of_clear h]
  simp only [ht, hroom, Bool.false_eq_true, if_false]
  exact settle_post h _ _ _

/-! ### The conditions of the commands (R116, R127, R140) -/

theorem handleTrap_none {b : Bool} (h : b = false) : handleTrap b = none := by rw [h]; rfl

theorem Handle.blockBad_false {h : Handle} (hr : h.reserved = false) (h0 : h.row0 % 64 = 0) (h1 : h.col0 % 64 = 0) : h.blockBad = false := by
  simp [Handle.blockBad, hr, h0, h1]

theorem Handle.columnBad_false {h : Handle} (hr : h.reserved = false) (h0 : h.row0 % 64 = 0) : h.columnBad = false := by
  simp [Handle.columnBad, hr, h0]

theorem Handle.drainBad_false {h : Handle} {window : Nat} (hb : h.blockBad = false) (hs : h.spad % 256 = 0)
    (hw : h.spad + 16384 ≤ window) (hm : h.spad + 16384 ≤ 1536 * 1024) : h.drainBad window = false := by
  simp only [Handle.drainBad, hb, hs, Bool.false_or, ne_eq, not_true_eq_false, decide_false]
  exact decide_eq_false (by omega)

theorem State.needsPitch_none {s : State} (h : gmodePitch (s.g.gmode s.port) ≠ 0) : s.needsPitch = none := if_neg h

/-! ### What `pack` and `extr` compute (R117, R120) -/

/-- Registers made of lanes are equal when their lanes are. -/
theorem wideOf_congr {f h : Nat → Word} (e : ∀ j, j < 64 → f j = h j) : wideOf f = wideOf h :=
  wide_ext fun j hj => by rw [lane_wideOf _ _ hj, lane_wideOf _ _ hj, e j hj]

theorem setWidth_ite_zero {p : Prop} [Decidable p] (x : BitVec 6) : (if p then x else 0#6).setWidth 64 = if p then x.setWidth 64 else 0 := by
  split <;> rfl

/-- R120: a digit as its lane takes it. -/
theorem extracted_getD {n w base i : Nat} (x : BitVec 4096) (h : i < 64) :
    (extracted n w x base).getD i (0, false) = satS n ((digits 4096 w x.toInt).getD (base + i) 0) := by
  simp [extracted, allLanes, Config.gwidth, signedWide, h]

theorem extractFlags_extracted (n w : Nat) (x : BitVec 4096) (base : Nat) : extractFlags (extracted n w x base) =
    if allLanes.any (fun i => (satS n ((digits 4096 w x.toInt).getD (base + i) 0)).2) then flagSAT.setWidth 64 else 0 := by
  simp only [extractFlags, extracted, List.any_map, signedWide]
  rfl

/-- R120: a part of the digits that `extr` places in the lanes, as a register. -/
theorem wideOf_extracted (f : DWord → Word) (n w : Nat) (x : BitVec 4096) (base : Nat) :
    wideOf (fun i => f (extractLane (extracted n w x base) i)) =
      wideOf (fun i => f (BitVec.ofInt 64 (satS n ((digits 4096 w x.toInt).getD (base + i) 0)).1)) :=
  wideOf_congr fun i hi => by rw [extractLane, extracted_getD x hi]

theorem setWidth_ofInt_64_32 (x : Int) : (BitVec.ofInt 64 x).setWidth 32 = BitVec.ofInt 32 x := by
  apply BitVec.eq_of_toNat_eq
  rw [BitVec.toNat_setWidth, BitVec.toNat_ofInt, BitVec.toNat_ofInt]
  omega

/-- R117: the saturation flags of a packed value. -/
theorem packed_flags (signed rev : Bool) (w e : Nat) (src : Nat → Word) : (packed signed rev w e src).2.setWidth 64 =
    if (List.range (slotCount w)).any (fun i => (packDigit signed e (src i)).2) then flagSAT.setWidth 64 else 0 := by
  simp only [packed, List.any_map]
  exact setWidth_ite_zero _

/-- R117: `pack` in its four forms. -/
theorem pack_posts {i : Instr} {s : State} {d : BitVec 7} {a : BitVec 8} {signed rev : Bool} {ok : Prop} {cmd : PmeCmd} {dest : Dest}
    {hold : Bool} (h : Clear i s) (hf : Claims.engineForm.packForm s d a signed rev = some (ok, cmd, dest, hold)) (hok : ok)
    (hc : s.g.counter 4 < 255) (hr : s.reserved (clusterOf s.g.id.core) < 16) (hi : exec i s = .next (s.pack i signed rev d a)) :
    ∃ t, exec i s = .next t ∧ Posts i s t cmd dest hold := by
  cases hf
  have hpost := engine_posts h hc hr hi (State.needsPitch_none hok)
  simp only [packed_flags] at hpost
  exact hpost

/-- R117, R118, R120, R140: an engine command whose own condition holds. -/
theorem engineForm_posts {i : Instr} {s : State} {ok : Prop} {cmd : PmeCmd} {dest : Dest} {hold : Bool}
    (hf : Claims.engineForm s i = some (ok, cmd, dest, hold)) (h : Clear i s) (hok : ok) (hc : s.g.counter 4 < 255)
    (hr : s.reserved (clusterOf s.g.id.core) < 16) : ∃ t, exec i s = .next t ∧ Posts i s t cmd dest hold := by
  unfold Claims.engineForm at hf
  split at hf
  case h_1 d =>
    cases hf
    obtain ⟨hres, h0, h1⟩ := hok
    exact engine_posts h hc hr rfl (handleTrap_none (Handle.blockBad_false hres h0 h1))
  case h_2 d a =>
    cases hf
    obtain ⟨hres, h0⟩ := hok
    exact engine_posts h hc hr rfl (handleTrap_none (Handle.columnBad_false hres h0))
  case h_3 d a =>
    cases hf
    obtain ⟨hres, h0⟩ := hok
    exact engine_posts h hc hr rfl (handleTrap_none (Handle.columnBad_false hres h0))
  case h_4 d =>
    cases hf
    obtain ⟨hres, h0, h1, hspad, hwindow, hmax⟩ := hok
    exact engine_posts h hc hr rfl (handleTrap_none (Handle.drainBad_false (Handle.blockBad_false hres h0 h1) hspad hwindow hmax))
  case h_5 d =>
    cases hf
    obtain ⟨hres, h0, h1, hspad, hwindow, hmax⟩ := hok
    exact engine_posts h hc hr rfl (handleTrap_none (Handle.drainBad_false (Handle.blockBad_false hres h0 h1) hspad hwindow hmax))
  case h_6 d a b =>
    cases hf
    exact engine_posts h hc hr rfl rfl
  case h_7 d a b =>
    cases hf
    exact engine_posts h hc hr rfl (if_pos hok)
  case h_8 d a => exact pack_posts h hf hok hc hr rfl
  case h_9 d a => exact pack_posts h hf hok hc hr rfl
  case h_10 d a => exact pack_posts h hf hok hc hr rfl
  case h_11 d a => exact pack_posts h hf hok hc hr rfl
  case h_12 d a b =>
    cases hf
    have hpost := engine_posts h hc hr (hi := rfl) (State.needsPitch_none hok)
    simp only [extractFlags_extracted, wideOf_extracted (BitVec.setWidth 32), setWidth_ofInt_64_32] at hpost
    exact hpost
  case h_13 d a b =>
    cases hf
    have hpost := engine_posts h hc hr (hi := rfl) (State.needsPitch_none hok)
    simp only [extractFlags_extracted, wideOf_extracted (BitVec.setWidth 32), wideOf_extracted (BitVec.extractLsb' 32 32)] at hpost
    exact hpost
  case h_14 => exact absurd hf (by simp)

/-! ### Digits (R113) -/

/-- R3, R113: the digit of a pitch is what an integer leaves, in the signed range. -/
theorem digit_spec {w : Nat} (hw : 1 ≤ w) (x : Int) :
    -(2 ^ (w - 1) : Int) ≤ sextOf (wrapOf w x) w ∧ sextOf (wrapOf w x) w < 2 ^ (w - 1) ∧ (2 ^ w : Int) ∣ x - sextOf (wrapOf w x) w := by
  have hpow : (2 : Int) ^ w = 2 * 2 ^ (w - 1) := by rw [← pow_succ', Nat.sub_add_cancel hw]
  have hpos : (0 : Int) < 2 ^ (w - 1) := by positivity
  have hmod : (0 : Int) ≤ x % 2 ^ w ∧ x % 2 ^ w < 2 ^ w := ⟨Int.emod_nonneg _ (by positivity), Int.emod_lt_of_pos _ (by positivity)⟩
  have hwrap : (wrapOf w x : Int) = x % 2 ^ w := by
    rw [wrapOf, Int.toNat_of_nonneg (by push_cast; exact hmod.1)]; push_cast; rfl
  have hy : wrapOf w x % 2 ^ w = wrapOf w x := Nat.mod_eq_of_lt (by zify; rw [hwrap]; exact hmod.2)
  have hdvd : (2 ^ w : Int) ∣ x - x % 2 ^ w := Int.dvd_self_sub_emod
  unfold sextOf
  simp only [hy]
  split
  · next hlt =>
    zify at hlt
    rw [hwrap] at hlt ⊢
    exact ⟨by omega, hlt, hdvd⟩
  · next hge =>
    zify at hge
    push_cast
    rw [hwrap] at hge ⊢
    refine ⟨by omega, by omega, ?_⟩
    have : x - (x % 2 ^ w - 2 ^ w) = x - x % 2 ^ w + 2 ^ w := by ring
    rw [this]
    exact dvd_add hdvd dvd_rfl

theorem length_digitsGo (w n : Nat) (x : Int) : (digitsGo w n x).length = n + 1 := by
  induction n generalizing x with
  | zero => rfl
  | succ n ih => rw [digitsGo, List.length_cons, ih]

theorem sumInt_eq_sum (l : List Int) : sumInt l = l.sum := by rw [sumInt, List.sum_eq_foldl]

/-- R113: the digits rebuild the integer. -/
theorem sum_digitsGo {w : Nat} (hw : 1 ≤ w) (n : Nat) (x : Int) :
    ((List.range (n + 1)).map (fun i => (digitsGo w n x).getD i 0 * 2 ^ (w * i))).sum = x := by
  induction n generalizing x with
  | zero => simp [digitsGo]
  | succ n ih =>
    obtain ⟨-, -, y, hy⟩ := digit_spec hw x
    rw [digitsGo]
    set d := sextOf (wrapOf w x) w with hd
    have hquot : (x - d) / ((2 ^ w : Nat) : Int) = y := by
      push_cast
      rw [hy, Int.mul_ediv_cancel_left _ (by positivity)]
    have hshift : ∀ i, (d :: digitsGo w n y).getD (i + 1) 0 * (2 : Int) ^ (w * (i + 1)) = (digitsGo w n y).getD i 0 * 2 ^ (w * i) * 2 ^ w := by
      intro i
      rw [List.getD_cons_succ, Nat.mul_succ, pow_add, mul_assoc]
    rw [hquot, List.range_succ_eq_map, List.map_cons, List.sum_cons, List.map_map]
    simp only [Function.comp_def, hshift]
    rw [List.sum_map_mul_right, ih]
    simp only [List.getD_cons_zero, Nat.mul_zero, pow_zero, mul_one]
    linarith

/-- R113: all but the last digit lie in the signed range of the pitch. -/
theorem digitsGo_range {w : Nat} (hw : 1 ≤ w) (n : Nat) (x : Int) (i : Nat) (hi : i < n) :
    -(2 ^ (w - 1) : Int) ≤ (digitsGo w n x).getD i 0 ∧ (digitsGo w n x).getD i 0 < 2 ^ (w - 1) := by
  induction n generalizing x i with
  | zero => omega
  | succ n ih =>
    rw [digitsGo]
    cases i with
    | zero => exact ⟨(digit_spec hw x).1, (digit_spec hw x).2.1⟩
    | succ i =>
      rw [List.getD_cons_succ]
      exact ih _ i (by omega)

theorem digits_spec {w n : Nat} (x : Int) (hw : 1 ≤ w) (hn : 1 ≤ n) :
    let d := digits n w x
    d.length = (n + w - 1) / w ∧ sumInt ((List.range d.length).map (fun i => d.getD i 0 * 2 ^ (w * i))) = x ∧
      ∀ i, i + 1 < d.length → -(2 ^ (w - 1) : Int) ≤ d.getD i 0 ∧ d.getD i 0 < 2 ^ (w - 1) := by
  intro d
  have hcount : 1 ≤ (n + w - 1) / w := (Nat.one_le_div_iff (by omega)).2 (by omega)
  have hlen : d.length = (n + w - 1) / w - 1 + 1 := length_digitsGo _ _ _
  refine ⟨by omega, ?_, fun i hi => digitsGo_range hw _ x i (by omega)⟩
  rw [sumInt_eq_sum, hlen]
  exact sum_digitsGo hw _ x

/-- Settles O27: each engine command posts the request that its rule gives, and digits are a signed representation at their pitch. -/
theorem engineCommandsIssue : Obligations.EngineCommandsIssue := by
  unfold Obligations.EngineCommandsIssue
  refine ⟨fun i s ok cmd dest hold hf _ h hok hc hr => ?_, fun w n x hw hn => digits_spec x hw hn⟩
  obtain ⟨t, hexec, r, e, hposts⟩ := engineForm_posts hf h hok hc hr
  exact ⟨t, r, e, hexec, hposts⟩

end Sys2Proof.Machine
end

section
/-! PROOF. O28: the arbiter grants, passes accumulate, and engine commands complete. -/

namespace Sys2Proof.Machine

/-! ### Folds of which one step, or none, touches what is read -/

/-- A fold of which no step changes what is read. -/
theorem foldl_keeps {σ β α : Type} (read : σ → α) {f : σ → β → σ} {l : List β} (h : ∀ c ∈ l, ∀ s, read (f s c) = read s) (s : σ) :
    read (l.foldl f s) = read s := by
  induction l generalizing s with
  | nil => rfl
  | cons c l ih => exact (ih (fun d hd => h d (List.mem_cons_of_mem _ hd)) _).trans (h c List.mem_cons_self s)

/-- A fold over places, each with its own key, of which the step at one key alone changes what is read. -/
theorem foldl_at {σ β α : Type} (read : σ → α) (v : α → α) {f : σ → β → σ} {key : β → Nat} {l : List β} (target : Nat)
    (hnd : (l.map key).Nodup) (hit : ∀ c ∈ l, key c = target → ∀ s, read (f s c) = v (read s))
    (miss : ∀ c ∈ l, key c ≠ target → ∀ s, read (f s c) = read s) (s : σ) :
    read (l.foldl f s) = if target ∈ l.map key then v (read s) else read s := by
  induction l generalizing s with
  | nil => rfl
  | cons c l ih =>
    obtain ⟨hc, hnd⟩ := List.nodup_cons.1 hnd
    have htail := ih hnd (fun d hd => hit d (List.mem_cons_of_mem _ hd)) (fun d hd => miss d (List.mem_cons_of_mem _ hd)) (f s c)
    rw [List.foldl_cons, htail, List.map_cons]
    by_cases hk : key c = target
    · rw [if_neg (hk ▸ hc), if_pos (hk ▸ List.mem_cons_self)]
      exact hit c List.mem_cons_self hk s
    · rw [miss c List.mem_cons_self hk s]
      exact if_congr (by simp [Ne.symm hk]) rfl rfl

/-- The places of a fold over the numbers below `n`, from a base. -/
theorem mem_map_add_range {b n k : Nat} : k ∈ (List.range n).map (b + ·) ↔ b ≤ k ∧ k < b + n := by
  simp only [List.mem_map, List.mem_range]
  exact ⟨by rintro ⟨j, hj, rfl⟩; omega, fun h => ⟨k - b, by omega, by omega⟩⟩

/-- The places of a fold over the lanes of a set, from a base. -/
theorem mem_map_add_members {b k : Nat} {m : Lanes} : k ∈ (members m).map (b + ·) ↔ b ≤ k ∧ k < b + 64 ∧ m.getLsbD (k - b) = true := by
  simp only [List.mem_map, mem_members]
  constructor
  · rintro ⟨j, ⟨hj, hm⟩, rfl⟩
    exact ⟨by omega, by omega, by rwa [Nat.add_sub_cancel_left]⟩
  · rintro ⟨h, hk, hm⟩
    exact ⟨k - b, ⟨by omega, hm⟩, by omega⟩

theorem nodup_map_add (b : Nat) {l : List Nat} (h : l.Nodup) : (l.map (b + ·)).Nodup := h.map fun _ _ e => Nat.add_left_cancel e

theorem members_nodup (m : Lanes) : (members m).Nodup := List.nodup_range.filter _

/-! ### The accumulator store and the resident buffer (R138, R141) -/

/-- What a sparse store reads after a write. -/
theorem sparseRead_sparseWrite {n : Nat} (l : List (Nat × BitVec n)) (k : Nat) (x : BitVec n) (j : Nat) :
    sparseRead (sparseWrite l k x) j = if j = k then x else sparseRead l j := by
  have hrest : (l.filter (fun y => y.1 != k)).find? (fun y => y.1 == j) = if j = k then none else l.find? (fun y => y.1 == j) := by
    rw [List.find?_filter]
    split
    · next e => exact List.find?_eq_none.2 (by simp [e])
    · next e =>
      congr 1
      funext y
      by_cases hy : y.1 = j <;> simp [hy, e]
  unfold sparseWrite sparseRead
  generalize l.filter (fun y => y.1 != k) = rest at hrest
  by_cases hx : x = 0
  · simp only [hx, if_true, hrest]
    by_cases hj : j = k
    · simp only [if_pos hj]
    · simp only [if_neg hj]
  · simp only [if_neg hx]
    by_cases hj : j = k
    · subst hj
      have hnone : (rest.takeWhile (fun y => decide (y.1 < j))).find? (fun y => y.1 == j) = none := by
        rw [if_pos rfl] at hrest
        exact List.find?_eq_none.2 fun y hy => List.find?_eq_none.1 hrest y ((List.takeWhile_sublist _).subset hy)
      simp [List.find?_append, hnone]
    · have hskip : (k == j) = false := beq_false_of_ne (Ne.symm hj)
      rw [List.find?_append, List.find?_cons, hskip, ← List.find?_append, List.takeWhile_append_dropWhile, hrest, if_neg hj, if_neg hj]

theorem accKey_inj {pme row col i j : Nat} (hc : col < 1024) (hj : j < 1024) : accKey pme i j = accKey pme row col ↔ i = row ∧ j = col := by
  unfold accKey
  omega

theorem residentKey_inj {pme u v i j : Nat} (hv : v < 256) (hj : j < 256) : residentKey pme i j = residentKey pme u v ↔ i = u ∧ j = v := by
  unfold residentKey
  omega

/-- R141: an accumulator word after a write to the store. -/
theorem State.accWord_setAcc (s : State) {pme row col i j : Nat} (x : Word) (hc : col < 1024) (hj : j < 1024) :
    (s.setAcc pme row col x).accWord pme i j = if i = row ∧ j = col then x else s.accWord pme i j :=
  (sparseRead_sparseWrite _ _ _ _).trans (if_congr (accKey_inj hc hj) rfl rfl)

theorem State.accWord_setAcc_same (s : State) {pme row col : Nat} (x : Word) : (s.setAcc pme row col x).accWord pme row col = x :=
  (sparseRead_sparseWrite _ _ _ _).trans (if_pos rfl)

theorem State.accWord_setAcc_other (s : State) {pme row col i j : Nat} (x : Word) (hc : col < 1024) (hj : j < 1024) (h : ¬(i = row ∧ j = col)) :
    (s.setAcc pme row col x).accWord pme i j = s.accWord pme i j := (s.accWord_setAcc x hc hj).trans (if_neg h)

/-- The state without what the engines store. -/
def State.bare (s : State) : State := { s with acc := [], resident := [] }

theorem State.setAcc_bare (s : State) (pme row col : Nat) (x : Word) : (s.setAcc pme row col x).bare = s.bare := rfl

/-! ### Blocks and columns of the accumulator store (R140) -/

/-- A row of zeros in the accumulator store. -/
def State.zeroRow (row col : Nat) (pme : Nat) (s : State) : State :=
  (List.range 64).foldl (fun (s : State) c => s.setAcc pme row (col + c) 0) s

theorem State.zeroRow_accWord (s : State) {pme row col i j : Nat} (hcol : col + 64 ≤ 1024) (hj : j < 1024) :
    (s.zeroRow row col pme).accWord pme i j = if i = row ∧ col ≤ j ∧ j < col + 64 then 0 else s.accWord pme i j := by
  have hmiss : ∀ c, c < 64 → ¬(i = row ∧ j = col + c) → ∀ s : State, (s.setAcc pme row (col + c) 0).accWord pme i j = s.accWord pme i j :=
    fun c hc h s => s.accWord_setAcc_other 0 (by omega) hj h
  unfold State.zeroRow
  by_cases hi : i = row
  · subst hi
    have h := foldl_at (fun s : State => s.accWord pme i j) (fun _ => 0) (f := fun s c => s.setAcc pme i (col + c) 0) (key := (col + ·)) j
      (nodup_map_add col (List.nodup_range (n := 64))) (by rintro c - rfl s; exact s.accWord_setAcc_same 0)
      (fun c hc hne => hmiss c (List.mem_range.1 hc) (by omega)) s
    rw [h]
    exact if_congr (by rw [mem_map_add_range]; simp) rfl rfl
  · rw [if_neg (by simp [hi])]
    exact foldl_keeps (fun s : State => s.accWord pme i j) (fun c hc => hmiss c (List.mem_range.1 hc) (by simp [hi])) s

theorem State.zeroBlock_eq (s : State) (pme row col : Nat) :
    s.zeroBlock pme row col = (List.range 64).foldl (fun s r => s.zeroRow (row + r) col pme) s := rfl

/-- R140: what `acz` leaves in its block. -/
theorem State.zeroBlock_accWord (s : State) {pme row col i j : Nat} (hcol : col + 64 ≤ 1024) (hj : j < 1024) :
    (s.zeroBlock pme row col).accWord pme i j = if row ≤ i ∧ i < row + 64 ∧ col ≤ j ∧ j < col + 64 then 0 else s.accWord pme i j := by
  have h := foldl_at (fun s : State => s.accWord pme i j) (fun w => if col ≤ j ∧ j < col + 64 then 0 else w)
    (f := fun s r => s.zeroRow (row + r) col pme) (key := (row + ·)) i (nodup_map_add row (List.nodup_range (n := 64)))
    (fun r _ hr s => (s.zeroRow_accWord hcol hj).trans (if_congr (by simp [hr]) rfl rfl))
    (fun r _ hr s => (s.zeroRow_accWord hcol hj).trans (if_neg fun e => hr e.1.symm)) s
  rw [State.zeroBlock_eq, h, ← ite_and]
  exact if_congr (by rw [mem_map_add_range, and_assoc]) rfl rfl

theorem State.zeroBlock_bare (s : State) (pme row col : Nat) : (s.zeroBlock pme row col).bare = s.bare :=
  foldl_keeps State.bare (fun _ _ s => foldl_keeps State.bare (fun _ _ _ => State.setAcc_bare _ _ _ _ _) s) s

/-- R140: what `acwr` leaves in its column. -/
theorem accWord_acwr (s : State) {pme row col i j : Nat} (mask : Lanes) (x : Wide) (hc : col < 1024) (hj : j < 1024) :
    ((members mask).foldl (fun (s : State) l => s.setAcc pme (row + l) col (lane x l)) s).accWord pme i j =
      if row ≤ i ∧ i < row + 64 ∧ j = col ∧ mask.getLsbD (i - row) = true then lane x (i - row) else s.accWord pme i j := by
  by_cases hcol : j = col
  · subst hcol
    refine (foldl_at (fun s : State => s.accWord pme i j) (fun _ => lane x (i - row)) (key := (row + ·)) i
      (nodup_map_add _ (members_nodup _)) ?_ ?_ s).trans (if_congr (by rw [mem_map_add_members]; simp) rfl rfl)
    · rintro l - rfl s
      rw [Nat.add_sub_cancel_left]
      exact s.accWord_setAcc_same _
    · intro l _ hne s
      exact s.accWord_setAcc_other _ hc hj (by omega)
  · rw [if_neg (by simp [hcol])]
    exact foldl_keeps (fun s : State => s.accWord pme i j) (fun l _ s => s.accWord_setAcc_other _ hc hj (by simp [hcol])) s

theorem bare_acwr (s : State) (pme row col : Nat) (mask : Lanes) (x : Wide) :
    ((members mask).foldl (fun (s : State) l => s.setAcc pme (row + l) col (lane x l)) s).bare = s.bare :=
  foldl_keeps State.bare (fun _ _ _ => State.setAcc_bare _ _ _ _ _) s

/-! ### Passes (R124, R132, R138, R139) -/

theorem PassRun.put_fst (x : PassRun) (pme row col owner : Nat) (r : Word × BitVec 6) : (x.put pme row col owner r).1 = x.1.setAcc pme row col r.1 := rfl

/-- R132: an `mma` pass writes accumulator words and nothing else. -/
theorem runMma_keeps {α : Type} {read : State → α} (h : ∀ s pme row col x, read (State.setAcc s pme row col x) = read s) (pme : Nat)
    (ms : List (PmeReq × Member)) (s : State) : read (runMma pme ms s).1 = read s :=
  foldl_keeps (fun x : PassRun => read x.1) (fun _ _ x => foldl_keeps (fun x : PassRun => read x.1) (fun _ _ x =>
    foldl_keeps (fun x : PassRun => read x.1) (fun _ _ _ => h _ _ _ _ _) x) x) (s, [])

/-- R139: an `mmd` pass writes accumulator words and nothing else. -/
theorem runMmd_keeps {α : Type} {read : State → α} (h : ∀ s pme row col x, read (State.setAcc s pme row col x) = read s) (pme : Nat)
    (ms : List (PmeReq × Member)) (s : State) : read (runMmd pme ms s).1 = read s :=
  foldl_keeps (fun x : PassRun => read x.1) (fun _ _ x => foldl_keeps (fun x : PassRun => read x.1) (fun _ _ x =>
    foldl_keeps (fun x : PassRun => read x.1) (fun _ _ _ => (h _ _ _ _ _).trans (h _ _ _ _ _)) x) x) (s, [])

/-- R138: an `mmd.ld` pass writes the resident buffer and nothing else. -/
theorem runMmdLd_keeps {α : Type} {read : State → α} (h : ∀ (s : State) l, read { s with resident := l } = read s) (pme : Nat)
    (ms : List (PmeReq × Member)) (s : State) : read (runMmdLd pme ms s).1 = read s := by
  refine foldl_keeps (fun x : PassRun => read x.1) (fun _ _ x => ?_) (s, [])
  refine foldl_keeps (fun x : PassRun => read x.1) (fun _ _ x => ?_) x
  refine foldl_keeps (fun x : PassRun => read x.1) (fun _ _ x => ?_) x
  exact h x.1 _

/-- R124: a pass changes what the engines store, and nothing else. -/
theorem runPass_bare (pme : Nat) (ms : List (PmeReq × Member)) (s : State) : (runPass pme ms s).1.bare = s.bare := by
  cases ms with
  | nil => rfl
  | cons m ms =>
    unfold runPass
    simp only
    split
    · exact runMma_keeps State.setAcc_bare _ _ _
    · exact runMma_keeps State.setAcc_bare _ _ _
    · exact runMmdLd_keeps (fun _ _ => rfl) _ _ _
    · exact runMmd_keeps State.setAcc_bare _ _ _

/-- R131, R132: the word that the pass of a gang of one leaves in an element of its tile. -/
def Member.passWord (m : Member) (r : PmeReq) (i j : Nat) (old : Word) : Word :=
  (accumulate m.block m.fmode (passDraw [(r, m)] m.block i j) old (contribution (m.pColumn i) (m.qColumn j))).1

/-- R132: the step of the pass of a gang of one at an element. -/
def Member.passStep (m : Member) (r : PmeReq) (pme l : Nat) (x : PassRun) (j : Nat) : PassRun :=
  x.put pme (m.row0 + l) (m.col0 + j) m.pos (accumulate m.block m.fmode (passDraw [(r, m)] m.block l j)
    (x.1.accWord pme (m.row0 + l) (m.col0 + j)) (contribution (m.pColumn l) (m.qColumn j)))

theorem Member.passStep_fst (m : Member) (r : PmeReq) (pme l : Nat) (x : PassRun) (j : Nat) : (m.passStep r pme l x j).1 =
    x.1.setAcc pme (m.row0 + l) (m.col0 + j) (m.passWord r l j (x.1.accWord pme (m.row0 + l) (m.col0 + j))) := rfl

/-- R132: the steps of the pass of a gang of one in a lane. -/
def Member.passLane (m : Member) (r : PmeReq) (pme : Nat) (x : PassRun) (l : Nat) : PassRun := (List.range 64).foldl (m.passStep r pme l) x

theorem runMma_one {m : Member} (r : PmeReq) (h : m.pos = 0) (pme : Nat) (s : State) :
    runMma pme [(r, m)] s = (members m.mask).foldl (m.passLane r pme) (s, []) := by
  have hq : ∀ j, j < 64 → (allLanes.map (fun l => m.qColumn l)).getD j [] = m.qColumn j := fun j hj => by
    simp [allLanes, Config.gwidth, hj]
  have hlen : (allLanes.map (fun l => m.qColumn l)).length = 64 := by simp [allLanes, Config.gwidth]
  simp only [runMma, List.flatMap_cons, List.flatMap_nil, List.append_nil, List.foldl_cons, List.foldl_nil, h, Nat.mul_zero, Nat.zero_add, hlen]
  refine List.foldl_ext _ _ _ fun x l _ => ?_
  refine List.foldl_ext _ _ _ fun x j hj => ?_
  rw [hq j (List.mem_range.1 hj), Member.passStep, h]

theorem Member.passLane_accWord (m : Member) (r : PmeReq) {pme i j l : Nat} (hcol : m.col0 + 64 ≤ 1024) (hj : j < 1024) (x : PassRun) :
    (m.passLane r pme x l).1.accWord pme i j =
      if i = m.row0 + l ∧ m.col0 ≤ j ∧ j < m.col0 + 64 then m.passWord r (i - m.row0) (j - m.col0) (x.1.accWord pme i j) else x.1.accWord pme i j := by
  have hmiss : ∀ c, c < 64 → ¬(i = m.row0 + l ∧ j = m.col0 + c) → ∀ x : PassRun, (m.passStep r pme l x c).1.accWord pme i j = x.1.accWord pme i j :=
    fun c hc h x => (congrArg (fun t : State => t.accWord pme i j) (m.passStep_fst r pme l x c)).trans (x.1.accWord_setAcc_other _ (by omega) hj h)
  unfold Member.passLane
  by_cases hi : i = m.row0 + l
  · have h := foldl_at (fun x : PassRun => x.1.accWord pme i j) (m.passWord r (i - m.row0) (j - m.col0)) (f := m.passStep r pme l)
      (key := (m.col0 + ·)) j (nodup_map_add m.col0 (List.nodup_range (n := 64)))
      (by rintro c - rfl x
          rw [hi, Nat.add_sub_cancel_left, Nat.add_sub_cancel_left, m.passStep_fst]
          exact x.1.accWord_setAcc_same _)
      (fun c hc hne => hmiss c (List.mem_range.1 hc) (by omega)) x
    rw [h]
    exact if_congr (by rw [mem_map_add_range]; simp [hi]) rfl rfl
  · rw [if_neg (by simp [hi])]
    exact foldl_keeps (fun x : PassRun => x.1.accWord pme i j) (fun c hc => hmiss c (List.mem_range.1 hc) (by simp [hi])) x

/-- R131, R132: what a pass of a gang of one leaves in the accumulator store. -/
theorem runMma_accWord {m : Member} (r : PmeReq) (h : m.pos = 0) {pme i j : Nat} (hcol : m.col0 + 64 ≤ 1024) (hj : j < 1024) (s : State) :
    (runMma pme [(r, m)] s).1.accWord pme i j =
      if m.row0 ≤ i ∧ i < m.row0 + 64 ∧ m.col0 ≤ j ∧ j < m.col0 + 64 ∧ m.mask.getLsbD (i - m.row0) = true then
        m.passWord r (i - m.row0) (j - m.col0) (s.accWord pme i j)
      else s.accWord pme i j := by
  have hfold := foldl_at (fun x : PassRun => x.1.accWord pme i j)
    (fun w => if m.col0 ≤ j ∧ j < m.col0 + 64 then m.passWord r (i - m.row0) (j - m.col0) w else w) (f := m.passLane r pme) (key := (m.row0 + ·)) i
    (nodup_map_add m.row0 (members_nodup m.mask)) (fun l _ hl x => (m.passLane_accWord r hcol hj x).trans (if_congr (by simp [hl]) rfl rfl))
    (fun l _ hl x => (m.passLane_accWord r hcol hj x).trans (if_neg fun e => hl e.1.symm)) (s, [])
  rw [runMma_one r h, hfold, ← ite_and]
  exact if_congr (by rw [mem_map_add_members]; tauto) rfl rfl

/-- R139: `mmd` leaves every word outside its two tiles. -/
theorem runMmd_accWord {m : Member} (r : PmeReq) (h : m.pos = 0) {pme i j : Nat} (hcol : m.col0 + 64 ≤ 1024) (hj : j < 1024) (s : State)
    (h0 : ¬(m.row0 ≤ i ∧ i < m.row0 + formatDepth m.block.pfmt false ∧ m.col0 ≤ j ∧ j < m.col0 + 64))
    (h1 : ¬(m.drow ≤ i ∧ i < m.drow + formatDepth m.block.pfmt false ∧ m.col0 ≤ j ∧ j < m.col0 + 64)) :
    (runMmd pme [(r, m)] s).1.accWord pme i j = s.accWord pme i j := by
  unfold runMmd
  simp only [List.foldl_cons, List.foldl_nil]
  refine foldl_keeps (fun x : PassRun => x.1.accWord pme i j) (fun l hl x => ?_) (s, [])
  have hl64 := (mem_members.1 hl).1
  refine foldl_keeps (fun x : PassRun => x.1.accWord pme i j) (fun k hk x => ?_) x
  have hk := List.mem_range.1 hk
  simp only [PassRun.put_fst, h]
  exact (State.accWord_setAcc_other _ _ (by omega) hj (by omega)).trans (State.accWord_setAcc_other _ _ (by omega) hj (by omega))

/-- R138: the word that `mmd.ld` makes of an accumulator word. -/
def residentWord (w : Word) : BitVec 16 := BitVec.ofNat 16 (Fmt.bf16.round ⟨0, false, false, 0⟩ (Fmt.f32.decode w.toNat)).1

/-- R138: the step of the `mmd.ld` pass of a gang of one at an element. -/
def Member.loadStep (m : Member) (pme u : Nat) (x : PassRun) (v : Nat) : PassRun :=
  let y := Fmt.f32.decode (x.1.accWord pme (m.row0 + u) (m.col0 + v)).toNat
  let r := Fmt.bf16.round ⟨0, false, false, 0⟩ y
  let fl := r.2 ||| y.sig
  ({ x.1 with resident := sparseWrite x.1.resident (residentKey pme u v) (BitVec.ofNat 16 r.1) }, if fl = 0 then x.2 else (m.pos, fl) :: x.2)

/-- R138: the steps of the `mmd.ld` pass of a gang of one in a lane. -/
def Member.loadLane (m : Member) (pme : Nat) (x : PassRun) (u : Nat) : PassRun := (List.range 64).foldl (m.loadStep pme u) x

theorem runMmdLd_one {m : Member} (r : PmeReq) (h : m.pos = 0) (pme : Nat) (s : State) :
    runMmdLd pme [(r, m)] s = allLanes.foldl (m.loadLane pme) (s, []) := by
  unfold runMmdLd
  generalize allLanes = lanes
  rw [List.foldl_cons, List.foldl_nil]
  simp only [List.length_singleton, Nat.mul_one]
  refine List.foldl_ext _ _ _ fun x u _ => ?_
  refine List.foldl_ext _ _ _ fun x v _ => ?_
  rw [Member.loadStep, h, Nat.mul_zero, Nat.zero_add]

/-- The accumulator store and a word of the resident buffer. -/
def PassRun.loads (pme u v : Nat) (x : PassRun) : List (Nat × BitVec 32) × BitVec 16 := (x.1.acc, sparseRead x.1.resident (residentKey pme u v))

/-- R138: what a word of the resident buffer becomes as an accumulator word is loaded into it. -/
def loaded (pme row col : Nat) (x : List (Nat × BitVec 32) × BitVec 16) : List (Nat × BitVec 32) × BitVec 16 :=
  (x.1, residentWord (sparseRead x.1 (accKey pme row col)))

theorem Member.loadStep_loads (m : Member) {pme u v i j : Nat} (hv : v < 64) (hj : j < 64) (x : PassRun) : (m.loadStep pme u x v).loads pme i j =
    if i = u ∧ j = v then loaded pme (m.row0 + u) (m.col0 + v) (x.loads pme i j) else x.loads pme i j := by
  have h := (sparseRead_sparseWrite x.1.resident (residentKey pme u v) (residentWord (x.1.accWord pme (m.row0 + u) (m.col0 + v)))
    (residentKey pme i j)).trans (if_congr (residentKey_inj (by omega) (by omega)) rfl rfl)
  exact (congrArg (Prod.mk x.1.acc) h).trans (apply_ite (Prod.mk x.1.acc) _ _ _)

theorem Member.loadLane_loads (m : Member) {pme u i j : Nat} (hj : j < 64) (x : PassRun) : (m.loadLane pme x u).loads pme i j =
    if i = u then loaded pme (m.row0 + u) (m.col0 + j) (x.loads pme i j) else x.loads pme i j := by
  unfold Member.loadLane
  by_cases hi : i = u
  · have h := foldl_at (PassRun.loads pme i j) (loaded pme (m.row0 + u) (m.col0 + j)) (f := m.loadStep pme u) (key := id) (l := List.range 64) j
      (by rw [List.map_id]; exact List.nodup_range)
      (by rintro v hv rfl x; exact (m.loadStep_loads (List.mem_range.1 hv) hj x).trans (if_pos ⟨hi, rfl⟩))
      (fun v hv e x => (m.loadStep_loads (List.mem_range.1 hv) hj x).trans (if_neg fun h => e h.2.symm)) x
    rw [h, List.map_id, if_pos (List.mem_range.2 hj), if_pos hi]
  · rw [if_neg hi]
    exact foldl_keeps (PassRun.loads pme i j) (fun v hv x => (m.loadStep_loads (List.mem_range.1 hv) hj x).trans (if_neg fun h => hi h.1)) x

/-- R138: what `mmd.ld` of a gang of one leaves in the resident buffer. -/
theorem runMmdLd_loads {m : Member} (r : PmeReq) (h : m.pos = 0) {pme u v : Nat} (hu : u < 64) (hv : v < 64) (s : State) :
    (runMmdLd pme [(r, m)] s).loads pme u v = (s.acc, residentWord (s.accWord pme (m.row0 + u) (m.col0 + v))) := by
  have hfold := foldl_at (PassRun.loads pme u v) (loaded pme (m.row0 + u) (m.col0 + v)) (f := m.loadLane pme) (key := id) (l := allLanes) u
    (by rw [List.map_id]; exact List.nodup_range)
    (by rintro l - rfl x; exact (m.loadLane_loads hv x).trans (if_pos rfl))
    (fun l _ e x => (m.loadLane_loads hv x).trans (if_neg fun h => e h.symm)) (s, [])
  rw [runMmdLd_one r h, hfold, List.map_id]
  exact if_pos (List.mem_range.2 hu)

end Sys2Proof.Machine
end

section
/-! PROOF. O28, O60: what a result of an engine leaves of groups and images. -/

namespace Sys2Proof.Machine

/-! ### Images (R271) -/

/-- A write of an image changes memory, with the halos and the marks of its sectors, and nothing else. -/
def Imaged (s t : State) : Prop := t = { s with mem := t.mem, poison := t.poison, failing := t.failing, halos := t.halos }

theorem Imaged.refl (s : State) : Imaged s s := rfl
theorem Imaged.trans {s t u : State} (h : Imaged s t) (k : Imaged t u) : Imaged s u := by
  unfold Imaged at *
  rw [k, h]
theorem Imaged.writePhysical {s t : State} (h : Imaged s t) (pa : Nat) (bs : List Byte) : Imaged s (t.writePhysical pa bs) := h.trans rfl
theorem Imaged.congr {s t : State} {α : Type} (read : State → α) (h : Imaged s t) :
    read t = read { s with mem := t.mem, poison := t.poison, failing := t.failing, halos := t.halos } := congrArg read h
theorem Imaged.g {s t : State} (h : Imaged s t) : t.g = s.g := h.congr State.g
theorem Imaged.others {s t : State} (h : Imaged s t) : t.others = s.others := h.congr State.others
theorem Imaged.pme {s t : State} (h : Imaged s t) : t.pme = s.pme := h.congr State.pme
theorem Imaged.acc {s t : State} (h : Imaged s t) : t.acc = s.acc := h.congr State.acc
theorem Imaged.resident {s t : State} (h : Imaged s t) : t.resident = s.resident := h.congr State.resident
theorem Imaged.mailboxes {s t : State} (h : Imaged s t) : t.mailboxes = s.mailboxes := h.congr State.mailboxes
theorem Imaged.group {s t : State} (h : Imaged s t) (uid : Nat) : t.group uid = s.group uid := h.congr (fun t => State.group t uid)

theorem State.mirrorBits_imaged (s : State) (uid off : Nat) (fl : DWord) : Imaged s (s.mirrorBits uid off fl) := by
  unfold State.mirrorBits
  repeat' split
  · exact .refl s
  · exact .refl s
  · exact (Imaged.refl s).writePhysical _ _
  · exact .refl s

theorem State.mirror_imaged (s : State) (uid : Nat) (d : Dest) (m : Lanes) (x : DWord) : Imaged s (s.mirror uid d m x) := by
  unfold State.mirror
  split
  · exact .refl s
  · split
    · exact .refl s
    · next g _ pa _ =>
      simp only
      split
      · cases d with
        | none => exact .refl s
        | v n pair =>
          cases pair
          · exact (((Imaged.refl s).writePhysical _ _).writePhysical _ _).writePhysical _ _
          · exact (((((Imaged.refl s).writePhysical _ _).writePhysical _ _).writePhysical _ _).writePhysical _ _ |>.writePhysical _ _).writePhysical _ _
        | s n => exact (Imaged.refl s).writePhysical _ _
        | a n => exact (Imaged.refl s).writePhysical _ _
        | q n => exact ((Imaged.refl s).writePhysical _ _).writePhysical _ _
      · split
        · cases d with
          | v n pair =>
            cases pair
            · exact (Imaged.refl s).writePhysical _ _
            · exact ((Imaged.refl s).writePhysical _ _).writePhysical _ _
          | none => exact .refl s
          | s n => exact .refl s
          | a n => exact .refl s
          | q n => exact .refl s
        · exact .refl s

/-! ### Changes of a group that leave alone what decides over its images -/

/-- The group stays the group that it was, and its streams stand where they stood. -/
structure Steady (f : Group → Group) : Prop where
  id : ∀ g, (f g).id = g.id
  ended : ∀ g, (f g).ended = g.ended
  trapRegs : ∀ g, (f g).trapRegs = g.trapRegs
  stopped : ∀ g, (f g).stopped = g.stopped
  spilled : ∀ g, (f g).spilled = g.spilled
  slot0 : ∀ g, (f g).slot0 = g.slot0
  slot1 : ∀ g, (f g).slot1 = g.slot1

theorem Steady.comp {f h : Group → Group} (hf : Steady f) (hh : Steady h) : Steady (fun g => h (f g)) :=
  ⟨fun g => (hh.id _).trans (hf.id g), fun g => (hh.ended _).trans (hf.ended g), fun g => (hh.trapRegs _).trans (hf.trapRegs g),
    fun g => (hh.stopped _).trans (hf.stopped g), fun g => (hh.spilled _).trans (hf.spilled g), fun g => (hh.slot0 _).trans (hf.slot0 g),
    fun g => (hh.slot1 _).trans (hf.slot1 g)⟩

/-- A change of the groups of one uid. -/
theorem Steady.only {f : Group → Group} (hf : Steady f) (uid : Nat) : Steady (fun g => if g.id.uid = uid then f g else g) := by
  constructor <;> intro g <;> split
  · exact hf.id g
  · rfl
  · exact hf.ended g
  · rfl
  · exact hf.trapRegs g
  · rfl
  · exact hf.stopped g
  · rfl
  · exact hf.spilled g
  · rfl
  · exact hf.slot0 g
  · rfl
  · exact hf.slot1 g
  · rfl

theorem Steady.slot {f : Group → Group} (hf : Steady f) (g : Group) (p : Port) : (f g).slot p = g.slot p := Group.slot_eq (hf.slot0 g) (hf.slot1 g)
theorem Steady.slotMask {f : Group → Group} (hf : Steady f) (g : Group) (p : Port) : (f g).slotMask p = g.slotMask p := by
  unfold Group.slotMask
  rw [hf.slot]

@[simp] theorem Group.noteOutside_regs (g : Group) (fl : DWord) : (g.noteOutside fl).regs = g.regs := by unfold Group.noteOutside; split <;> rfl
@[simp] theorem Group.noteOutside_modes (g : Group) (fl : DWord) : (g.noteOutside fl).modes = g.modes := by unfold Group.noteOutside; split <;> rfl
@[simp] theorem Group.completeFlight_regs (g : Group) (n : Nat) : (g.completeFlight n).regs = g.regs := rfl
@[simp] theorem Group.completeFlight_modes (g : Group) (n : Nat) : (g.completeFlight n).modes = g.modes := rfl

theorem steady_noteOutside (fl : DWord) : Steady (fun g => g.noteOutside fl) := by
  constructor <;> intro g <;> unfold Group.noteOutside <;> split <;> rfl

theorem steady_flags (fl : DWord) : Steady (fun g => (g.raiseFlags fl).noteOutside fl) :=
  .comp (f := fun g => g.raiseFlags fl) ⟨fun _ => rfl, fun _ => rfl, fun _ => rfl, fun _ => rfl, fun _ => rfl, fun _ => rfl, fun _ => rfl⟩
    (steady_noteOutside fl)

theorem steady_sticky (fl : DWord) : Steady (fun g => g.raiseSticky fl) :=
  ⟨fun _ => rfl, fun _ => rfl, fun _ => rfl, fun _ => rfl, fun _ => rfl, fun _ => rfl, fun _ => rfl⟩

theorem steady_landed (n : Nat) (vs ss : List Nat) (w : Bool) : Steady (fun g => g.landed n vs ss w) :=
  ⟨fun _ => rfl, fun _ => rfl, fun _ => rfl, fun _ => rfl, fun _ => rfl, fun _ => rfl, fun _ => rfl⟩

theorem steady_setV (n : Nat) (x : Wide) : Steady (fun g => g.setV n x) :=
  ⟨fun _ => rfl, fun _ => rfl, fun _ => rfl, fun _ => rfl, fun _ => rfl, fun _ => rfl, fun _ => rfl⟩

theorem steady_setLanes (n : Nat) (m : Lanes) (f : Nat → Word) : Steady (fun g => g.setLanes n m f) :=
  ⟨fun _ => rfl, fun _ => rfl, fun _ => rfl, fun _ => rfl, fun _ => rfl, fun _ => rfl, fun _ => rfl⟩

theorem steady_completeFlight (n : Nat) : Steady (fun g => g.completeFlight n) :=
  ⟨fun _ => rfl, fun _ => rfl, fun _ => rfl, fun _ => rfl, fun _ => rfl, fun _ => rfl, fun _ => rfl⟩

/-! ### Groups of a uid -/

/-- The group at the issue port is the first of its uid. -/
theorem State.group_port {s : State} (h : s.g.id.present = true) : s.group s.g.id.uid = some s.g := by
  unfold State.group State.groups
  rw [if_pos h]
  exact List.find?_cons_of_pos (beq_self_eq_true _)

theorem State.modGroup_g (s : State) {uid : Nat} (h : uid = s.g.id.uid) (f : Group → Group) : (s.modGroup uid f).g = f s.g := if_pos h.symm

theorem State.modGroup_groups (s : State) (uid : Nat) {f : Group → Group} (hf : Steady f) :
    (s.modGroup uid f).groups = s.groups.map (fun g => if g.id.uid = uid then f g else g) := by
  have hid : (s.modGroup uid f).g.id = s.g.id := (hf.only uid).id s.g
  unfold State.groups
  rw [List.map_append, hid]
  congr 1
  split <;> rfl

theorem State.modGroup_modGroup (s : State) (uid : Nat) {f : Group → Group} (hf : Steady f) (h : Group → Group) :
    (s.modGroup uid f).modGroup uid h = s.modGroup uid (fun g => h (f g)) := by
  have hone : ∀ g : Group, (fun g => if g.id.uid = uid then h g else g) (if g.id.uid = uid then f g else g) =
      if g.id.uid = uid then h (f g) else g := by
    intro g
    by_cases hg : g.id.uid = uid
    · simp [hg, hf.id]
    · simp [hg]
  unfold State.modGroup
  simp only [List.map_map, Function.comp_def, hone]

/-- R271: a steady change of groups puts no group into a handler's hands, and takes none from them. -/
theorem State.inHandler_modGroup (s : State) (uid : Nat) {f : Group → Group} (hf : Steady f) {g h : Group} (hg : h.id = g.id) :
    (s.modGroup uid f).inHandler h = s.inHandler g := by
  have hk := hf.only uid
  unfold State.inHandler
  rw [s.modGroup_groups uid hf, List.any_map, hg]
  congr 1
  funext u
  simp only [Function.comp]
  rw [hk.id u, hk.ended u, hk.trapRegs u]

/-- R271: no handler run has any group in hand. -/
def State.Unhandled (s : State) : Prop := ∀ g ∈ s.groups, s.inHandler g = false

theorem State.Unhandled.modGroup {s : State} (h : s.Unhandled) (uid : Nat) {f : Group → Group} (hf : Steady f) : (s.modGroup uid f).Unhandled := by
  intro u hu
  rw [s.modGroup_groups uid hf] at hu
  obtain ⟨g, hg, rfl⟩ := List.mem_map.1 hu
  exact (s.inHandler_modGroup uid hf ((hf.only uid).id g)).trans (h g hg)

/-- R271: where no handler run has a group in hand, flags go into no image. -/
theorem State.mirrorBits_unhandled {s : State} (h : s.Unhandled) (uid off : Nat) (fl : DWord) : s.mirrorBits uid off fl = s := by
  unfold State.mirrorBits
  split
  · rfl
  · next g hg =>
    split
    · rfl
    · rw [h g (List.mem_of_find?_eq_some hg)]
      rfl

/-! ### The group at the issue port, with its registers in its own hands -/

/-- The group at the issue port runs, and no image of it is written. -/
structure State.AtHand (s : State) : Prop where
  present : s.g.id.present = true
  running : s.g.ended = false
  unhandled : s.inHandler s.g = false
  unstopped : s.g.stopped = false
  unspilled : s.g.spilled = false

theorem State.AtHand.modGroup {s : State} (h : s.AtHand) {uid : Nat} {f : Group → Group} (hf : Steady f) : (s.modGroup uid f).AtHand := by
  have hk := hf.only uid
  exact ⟨(congrArg Ident.present (hk.id s.g)).trans h.present, (hk.ended s.g).trans h.running,
    (s.inHandler_modGroup uid hf (hk.id s.g)).trans h.unhandled, (hk.stopped s.g).trans h.unstopped, (hk.spilled s.g).trans h.unspilled⟩

theorem State.AtHand.mirror {s : State} (h : s.AtHand) (d : Dest) (m : Lanes) (x : DWord) : s.mirror s.g.id.uid d m x = s := by
  unfold State.mirror
  rw [State.group_port h.present]
  simp only [h.unhandled, h.unstopped, h.unspilled, Bool.or_self, Bool.false_eq_true, if_false]
  split <;> rfl

theorem State.AtHand.mirrorBits {s : State} (h : s.AtHand) (off : Nat) (fl : DWord) : s.mirrorBits s.g.id.uid off fl = s := by
  unfold State.mirrorBits
  rw [State.group_port h.present]
  simp only [h.unhandled, Bool.false_eq_true, if_false]
  split <;> rfl

theorem State.modGroup_uid (s : State) (uid : Nat) {f : Group → Group} (hf : Steady f) : (s.modGroup uid f).g.id.uid = s.g.id.uid :=
  congrArg Ident.uid ((hf.only uid).id s.g)

/-- R104, R115: flags that a result raises. -/
theorem State.AtHand.engineFlags {s : State} (h : s.AtHand) (fl : DWord) :
    s.engineFlags s.g.id.uid fl = s.modGroup s.g.id.uid (fun g => (g.raiseFlags fl).noteOutside fl) := by
  unfold State.engineFlags State.flagsFor
  rw [State.group_port h.present]
  simp only [h.running, Bool.false_eq_true, if_false]
  have hm := (h.modGroup (uid := s.g.id.uid) (steady_flags fl)).mirrorBits 0xE8 fl
  rwa [s.modGroup_uid _ (steady_flags fl)] at hm

theorem State.AtHand.stickyFor {s : State} (h : s.AtHand) (fl : DWord) :
    s.stickyFor s.g.id.uid fl = s.modGroup s.g.id.uid (fun g => g.raiseSticky fl) := by
  have hm := (h.modGroup (uid := s.g.id.uid) (steady_sticky fl)).mirrorBits 0xF0 fl
  rwa [s.modGroup_uid _ (steady_sticky fl)] at hm

/-- R115: a result of the group at the issue port, before its image. -/
theorem State.resultTo_port {s : State} (hp : s.g.id.present = true) (he : s.g.ended = false) {r : PmeReq} (hr : r.grp = s.g.id.uid) (n : Nat)
    (m : Lanes) (f : Group → Group) : s.resultTo r n m f =
      (s.modGroup s.g.id.uid (fun g => (f g).landed r.serial [n] [] (decide (m = BitVec.allOnes 64)))).mirror s.g.id.uid (.v n false) m 0 := by
  unfold State.resultTo
  rw [hr, State.group_port hp]
  simp only [he, Bool.false_eq_true, if_false]

/-- R115: a result of the group at the issue port. -/
theorem State.AtHand.resultTo {s : State} (h : s.AtHand) {r : PmeReq} (hr : r.grp = s.g.id.uid) (n : Nat) (m : Lanes) {f : Group → Group}
    (hf : Steady f) :
    s.resultTo r n m f = s.modGroup s.g.id.uid (fun g => (f g).landed r.serial [n] [] (decide (m = BitVec.allOnes 64))) := by
  have hl := hf.comp (steady_landed r.serial [n] [] (decide (m = BitVec.allOnes 64)))
  have hm := (h.modGroup (uid := s.g.id.uid) hl).mirror (.v n false) m 0
  rw [s.modGroup_uid _ hl] at hm
  rw [State.resultTo_port h.present h.running hr, hm]

/-! ### The end of a request (R115) -/

theorem Group.completeFlight_done (g : Group) (n : Nat) : ∀ h ∈ (g.completeFlight n).inflight, h.serial = n → h.done = true := by
  intro h hh hn
  obtain ⟨x, -, rfl⟩ := List.mem_map.1 (List.mem_of_mem_filter hh)
  by_cases hx : x.serial = n
  · simp only [hx, if_true]
  · simp only [hx, if_false] at hn

theorem State.requestDone_pme (s : State) (r : PmeReq) : (s.requestDone r).pme = s.pme.filter (fun x => x.id != r.id) := rfl
theorem State.requestDone_acc (s : State) (r : PmeReq) : (s.requestDone r).acc = s.acc := rfl
theorem State.requestDone_bufs (s : State) (r : PmeReq) : (s.requestDone r).bufs = s.bufs := rfl

theorem State.requestDone_regs (s : State) (r : PmeReq) : (s.requestDone r).g.regs = s.g.regs := apply_ite Group.regs _ _ _ |>.trans (ite_self _)

theorem State.requestDone_g {s : State} {r : PmeReq} (hr : r.grp = s.g.id.uid) : (s.requestDone r).g = s.g.completeFlight r.serial := if_pos hr.symm

theorem State.requestDone_finished {s : State} {r : PmeReq} (hr : r.grp = s.g.id.uid) : Claims.Finished (s.requestDone r) r.id r.serial := by
  refine ⟨fun x hx => ?_, ?_⟩
  · exact bne_iff_ne.1 (List.mem_filter.1 hx).2
  · rw [State.requestDone_g hr]
    exact s.g.completeFlight_done r.serial

theorem foldl_requestDone_pme (l : List PmeReq) (s : State) :
    (l.foldl State.requestDone s).pme = s.pme.filter (fun y => l.all (fun x => y.id != x.id)) := by
  induction l generalizing s with
  | nil => exact (List.filter_eq_self.2 fun _ _ => rfl).symm
  | cons r l ih =>
    rw [List.foldl_cons, ih, State.requestDone_pme, List.filter_filter]
    congr 1
    funext y
    exact Bool.and_comm _ _

end Sys2Proof.Machine
end

section
/-! PROOF. O28, O60: the arbiter. -/

namespace Sys2Proof.Machine

/-! ### Sorted lists -/

theorem insertBy_eq {α : Type} (le : α → α → Bool) (x : α) (l : List α) : insertBy le x l = l.orderedInsert (fun a b => le a b = true) x := by
  induction l with
  | nil => rfl
  | cons y l ih => rw [insertBy, List.orderedInsert_cons, ih]

theorem sortBy_eq {α : Type} (le : α → α → Bool) (l : List α) : sortBy le l = l.insertionSort (fun a b => le a b = true) := by
  induction l with
  | nil => rfl
  | cons x l ih => rw [List.insertionSort_cons, ← ih, ← insertBy_eq]; rfl

theorem mem_sortBy {α : Type} {le : α → α → Bool} {l : List α} {x : α} : x ∈ sortBy le l ↔ x ∈ l := by
  rw [sortBy_eq]
  exact List.mem_insertionSort _

theorem sortBy_pairwise {α : Type} {le : α → α → Bool} (total : ∀ a b, le a b = true ∨ le b a = true)
    (trans : ∀ a b c, le a b = true → le b c = true → le a c = true) (l : List α) : (sortBy le l).Pairwise (fun a b => le a b = true) := by
  have : Std.Total (fun a b => le a b = true) := ⟨total⟩
  have : IsTrans α (fun a b => le a b = true) := ⟨trans⟩
  rw [sortBy_eq]
  exact List.pairwise_insertionSort _ l

/-- The first element of a sorted list comes before each. -/
theorem head_before {α : Type} {le : α → α → Bool} (refl : ∀ a, le a a = true) {l : List α} {u w : α}
    (h : l.Pairwise (fun a b => le a b = true)) (hu : l.head? = some u) (hw : w ∈ l) : le u w = true := by
  cases l with
  | nil => cases hu
  | cons a l =>
    obtain rfl : a = u := Option.some.inj hu
    rcases List.mem_cons.1 hw with rfl | hw
    · exact refl w
    · exact (List.pairwise_cons.1 h).1 w hw

/-! ### The order of the arbiter (R143) -/

theorem unitBefore_iff (a b : List PmeReq) : unitBefore a b = true ↔ (32 ≤ unitGrants a ∧ unitGrants b < 32) ∨
    ((32 ≤ unitGrants a ↔ 32 ≤ unitGrants b) ∧ ((unitGrants a < 32 ∧ unitLevel b < unitLevel a) ∨
      ((32 ≤ unitGrants a ∨ unitLevel a = unitLevel b) ∧ unitAge a ≤ unitAge b))) := by
  unfold unitBefore
  by_cases ha : 32 ≤ unitGrants a <;> by_cases hb : 32 ≤ unitGrants b
  · simp [ha, hb, Nat.not_lt.2 ha]
  · simp [ha, hb, Nat.lt_of_not_le hb]
  · simp [ha, hb, Nat.not_lt.2 hb]
  · by_cases hl : unitLevel a = unitLevel b
    · simp [ha, hb, hl]
    · simp [ha, hb, hl, Nat.lt_of_not_le ha]

theorem unitBefore_refl (a : List PmeReq) : unitBefore a a = true := by
  rw [unitBefore_iff]
  omega

theorem unitBefore_total (a b : List PmeReq) : unitBefore a b = true ∨ unitBefore b a = true := by
  rw [unitBefore_iff, unitBefore_iff]
  omega

theorem unitBefore_trans (a b c : List PmeReq) (h : unitBefore a b = true) (k : unitBefore b c = true) : unitBefore a c = true := by
  rw [unitBefore_iff] at *
  omega

theorem unitGrants_one (a : PmeReq) : unitGrants [a] = min 32 a.grants := rfl
theorem unitLevel_one (a : PmeReq) : unitLevel [a] = a.level.toNat := Nat.zero_max _
theorem unitAge_one (a : PmeReq) : unitAge [a] = a.order := Nat.zero_max _

/-- R143: what puts one request strictly ahead of another. -/
theorem unitBefore_ahead {a b : PmeReq} (h : (32 ≤ a.grants ∧ b.grants < 32) ∨ ((32 ≤ a.grants ↔ 32 ≤ b.grants) ∧
    ((a.grants < 32 ∧ b.level.toNat < a.level.toNat) ∨ ((32 ≤ a.grants ∨ a.level.toNat = b.level.toNat) ∧ a.order < b.order)))) :
    unitBefore [a] [b] = true ∧ unitBefore [b] [a] = false := by
  rw [← Bool.not_eq_true, unitBefore_iff, unitBefore_iff]
  simp only [unitGrants_one, unitLevel_one, unitAge_one]
  omega

/-! ### The next unit (R143) -/

/-- R143: the units of a PME that may be granted, in the order of the arbiter. -/
def State.waitingUnits (s : State) (pme : Nat) : List (List PmeReq) := sortBy unitBefore (((s.ungranted pme).map s.unitOf).filter s.grantable)

theorem State.mem_waitingUnits {s : State} {pme : Nat} {u : List PmeReq} :
    u ∈ s.waitingUnits pme ↔ (∃ r ∈ s.ungranted pme, s.unitOf r = u) ∧ s.grantable u = true := by
  rw [State.waitingUnits, mem_sortBy, List.mem_filter, List.mem_map]

theorem State.waitingUnits_sorted (s : State) (pme : Nat) : (s.waitingUnits pme).Pairwise (fun a b => unitBefore a b = true) :=
  sortBy_pairwise unitBefore_total unitBefore_trans _

/-- R143: what the arbiter grants may be granted, has its arrays free, and comes before each unit of which that holds or which has seen
32 grants. -/
theorem State.nextUnit_first {s : State} {pme : Nat} {u : List PmeReq} (h : s.nextUnit pme = some u) :
    u ∈ s.waitingUnits pme ∧ s.arraysFree u = true ∧
      ∀ w ∈ s.waitingUnits pme, s.arraysFree w = true ∨ 32 ≤ unitGrants w → unitBefore u w = true := by
  have hsorted := s.waitingUnits_sorted pme
  unfold State.nextUnit at h
  change (match (s.waitingUnits pme).head? with
    | none => none
    | some u => if 32 ≤ unitGrants u then (if s.arraysFree u then some u else none) else ((s.waitingUnits pme).filter s.arraysFree).head?) = some u at h
  split at h
  · cases h
  · next v hv =>
    split at h
    · split at h
      · next hfree =>
        obtain rfl : v = u := Option.some.inj h
        exact ⟨List.mem_of_head? hv, hfree, fun w hw _ => head_before unitBefore_refl hsorted hv hw⟩
      · cases h
    · next hv32 =>
      obtain ⟨hu, hfree⟩ := List.mem_filter.1 (List.mem_of_head? h)
      refine ⟨hu, hfree, fun w hw hor => ?_⟩
      rcases hor with hw' | hw32
      · exact head_before unitBefore_refl (hsorted.sublist List.filter_sublist) h (List.mem_filter.2 ⟨hw, hw'⟩)
      · have hb := head_before unitBefore_refl hsorted hv hw
        rw [unitBefore_iff] at hb
        omega

/-! ### A grant (R143) -/

/-- R143: the requests of the device once a unit of a PME has been granted. -/
def State.granting (s : State) (pme : Nat) (unit : List PmeReq) : List PmeReq :=
  s.pme.filter (fun r => r.granted) ++ unit.map (fun r => { r with granted := true }) ++
    (s.pme.filter (fun r => !(unit.any (fun x => x.id == r.id)) && !r.granted)).map (fun r =>
      if r.pme = pme then { r with grants := r.grants + 1 } else r)

theorem State.mem_granting_unit {s : State} {pme : Nat} {unit : List PmeReq} {r : PmeReq} (h : r ∈ unit) :
    { r with granted := true } ∈ s.granting pme unit :=
  List.mem_append_left _ (List.mem_append_right _ (List.mem_map_of_mem h))

theorem State.mem_granting_granted {s : State} {pme : Nat} {unit : List PmeReq} {r : PmeReq} (h : r ∈ s.pme) (hg : r.granted = true) :
    r ∈ s.granting pme unit := List.mem_append_left _ (List.mem_append_left _ (List.mem_filter.2 ⟨h, hg⟩))

theorem State.mem_granting_aged {s : State} {pme : Nat} {unit : List PmeReq} {r : PmeReq} (h : r ∈ s.pme) (hg : r.granted = false)
    (hp : r.pme = pme) (hu : ∀ x ∈ unit, x.id ≠ r.id) : { r with grants := r.grants + 1 } ∈ s.granting pme unit := by
  refine List.mem_append_right _ (List.mem_map.2 ⟨r, List.mem_filter.2 ⟨h, ?_⟩, if_pos hp⟩)
  have hany : unit.any (fun x => x.id == r.id) = false := List.any_eq_false.2 fun x hx => by simp [hu x hx]
  rw [hany, hg]
  rfl

/-- R282: an event that a debug grid logs changes memory and what is recorded, and nothing else. -/
def Logged (s t : State) : Prop := ∃ m rs, t = { s with mem := m, recorders := rs }

theorem Logged.refl (s : State) : Logged s s := ⟨_, _, rfl⟩
theorem Logged.trans {s t u : State} : Logged s t → Logged t u → Logged s u := by
  rintro ⟨m, rs, rfl⟩ ⟨n, qs, rfl⟩
  exact ⟨n, qs, rfl⟩
theorem Logged.foldl {β : Type} {f : State → β → State} (h : ∀ s b, Logged s (f s b)) (l : List β) (s : State) : Logged s (l.foldl f s) := by
  induction l generalizing s with
  | nil => exact .refl s
  | cons b l ih => exact (h s b).trans (ih _)

theorem State.putLog_logged (s : State) (task : BitVec 40) (x : Nat) : Logged s (s.putLog task x) := by
  unfold State.putLog
  split
  · exact .refl s
  · exact ⟨_, _, rfl⟩

theorem State.logIn_logged (s : State) (d : DebugBlock) (addr kind : Nat) (atom wr : Bool) (task : BitVec 40) (pc : Nat) (contents : List Byte) :
    Logged s (s.logIn d addr kind atom wr task pc contents) := by
  unfold State.logIn
  exact ((s.putLog_logged _ _).trans (.foldl (fun s c => (s.putLog_logged _ _).trans (State.putLog_logged _ _ _)) _ _)).trans ⟨_, _, rfl⟩

theorem State.logTask_logged (s : State) (about : BitVec 40) (addr kind : Nat) (task : BitVec 40) (pc : Nat) (contents : List Byte) :
    Logged s (s.logTask about addr kind task pc contents) := by
  refine .foldl (fun t d => ?_) _ s
  split
  · exact t.logIn_logged _ _ _ _ _ _ _ _
  · exact .refl t

/-- R282: a grant enters the logs of the grid of its first request. -/
def State.noteGrant (s : State) (pme : Nat) (unit : List PmeReq) : State :=
  match unit with
  | [] => s
  | r :: _ => match s.group r.grp with
    | none => s
    | some g => s.logTask g.id.task pme 2 g.id.task (((g.inflight.find? (fun f => f.serial == r.serial)).map (fun f => f.pc.toNat)).getD 0) []

theorem State.noteGrant_logged (s : State) (pme : Nat) (unit : List PmeReq) : Logged s (s.noteGrant pme unit) := by
  unfold State.noteGrant
  split
  · exact .refl s
  · split
    · exact .refl s
    · exact s.logTask_logged _ _ _ _ _ _

theorem State.noteGrant_unrecorded {s : State} (h : s.recorders = []) (pme : Nat) (unit : List PmeReq) : s.noteGrant pme unit = s := by
  unfold State.noteGrant
  split
  · rfl
  · split
    · rfl
    · exact State.logTask_unrecorded h _ _ _ _ _ _

/-- R143: `PME_GRANT` of the next unit. -/
theorem pmeGrant_grants {s : State} {pme : Nat} {unit : List PmeReq} (h : s.nextUnit pme = some unit) :
    exec (.pmeGrant pme) s = .next (State.noteGrant { s with pme := s.granting pme unit } pme unit) := by
  change execPmeGrant pme s = _
  unfold execPmeGrant
  rw [h]
  cases unit <;> rfl

/-- R143: the only request that waits at a PME is the next that it grants, its arrays being free. -/
theorem State.nextUnit_only {s : State} {pme : Nat} {r : PmeReq} (hr : s.ungranted pme = [r]) (hu : s.unitOf r = [r])
    (hg : s.grantable [r] = true) (hf : s.arraysFree [r] = true) : s.nextUnit pme = some [r] := by
  unfold State.nextUnit
  simp [hr, hu, hg, hf, sortBy, insertBy]

end Sys2Proof.Machine
end

section
/-! PROOF. O28, O60: passes and engine commands complete. -/

namespace Sys2Proof.Machine

/-! ### Passes complete (R132) -/

/-- What the flags of a pass, and the end of its requests, leave alone; where no handler run has a group in hand, memory too. -/
structure Flagged (s t : State) : Prop where
  acc : t.acc = s.acc
  resident : t.resident = s.resident
  regs : t.g.regs = s.g.regs
  quiet : s.Unhandled → t.mem = s.mem ∧ t.Unhandled

theorem Flagged.refl (s : State) : Flagged s s := ⟨rfl, rfl, rfl, fun h => ⟨rfl, h⟩⟩
theorem Flagged.trans {s t u : State} (h : Flagged s t) (k : Flagged t u) : Flagged s u where
  acc := k.acc.trans h.acc
  resident := k.resident.trans h.resident
  regs := k.regs.trans h.regs
  quiet hs := ⟨(k.quiet (h.quiet hs).2).1.trans (h.quiet hs).1, (k.quiet (h.quiet hs).2).2⟩

theorem Flagged.foldl {β : Type} {f : State → β → State} (h : ∀ s b, Flagged s (f s b)) (l : List β) (s : State) : Flagged s (l.foldl f s) := by
  induction l generalizing s with
  | nil => exact .refl s
  | cons b l ih => exact (h s b).trans (ih _)

theorem State.engineFlags_flagged (s : State) (uid : Nat) (fl : DWord) : Flagged s (s.engineFlags uid fl) := by
  unfold State.engineFlags
  split
  · exact .refl s
  · split
    · exact .refl s
    · have hi := (s.modGroup uid (fun g => (g.raiseFlags fl).noteOutside fl)).mirrorBits_imaged uid 0xE8 fl
      refine ⟨hi.acc, hi.resident, ?_, fun hs => ?_⟩
      · refine (congrArg Group.regs hi.g).trans ?_
        simp only [State.modGroup]
        split
        · exact Group.noteOutside_regs _ _
        · rfl
      · have hu := hs.modGroup uid (steady_flags fl)
        unfold State.flagsFor
        rw [State.mirrorBits_unhandled hu]
        exact ⟨rfl, hu⟩

theorem State.requestDone_flagged (s : State) (r : PmeReq) : Flagged s (s.requestDone r) :=
  ⟨rfl, rfl, s.requestDone_regs r, fun hs =>
    ⟨rfl, State.Unhandled.modGroup (s := { s with pme := s.pme.filter (fun x => x.id != r.id) }) hs r.grp (steady_completeFlight r.serial)⟩⟩

/-- R132: what `PASS_COMPLETE` leaves behind its pass. -/
theorem passComplete_leaves {s : State} {pme : Nat} {r : PmeReq} (hr : s.pme.find? (fun x => x.id == r.id && x.pme == pme) = some r)
    (hm : r.member?.isSome = true) (ht : s.turnOf (s.unitOf r) = true) :
    ∃ t, exec (.passComplete pme r.id) s = .next t ∧ Flagged (runPass pme (unitMembers (s.unitOf r)) s).1 t ∧
      ∀ x ∈ s.unitOf r, ∀ y ∈ t.pme, y.id ≠ x.id := by
  have hgo : (r.member?.isNone || !(s.turnOf (s.unitOf r))) = false := by rw [ht, ← Option.not_isSome, hm]; rfl
  refine ⟨_, rfl, ?_, fun x hx y hy => ?_⟩
  · simp only [hr, hgo, Bool.false_eq_true, if_false]
    exact (Flagged.foldl (fun s m => s.engineFlags_flagged _ _) _ _).trans (.foldl State.requestDone_flagged _ _)
  · simp only [hr, hgo, Bool.false_eq_true, if_false] at hy
    rw [foldl_requestDone_pme] at hy
    exact bne_iff_ne.1 (List.all_eq_true.1 (List.mem_filter.1 hy).2 x hx)

/-- R271: what a pass writes puts no group into a handler's hands. -/
theorem State.Unhandled.of_bare {s t : State} (h : s.Unhandled) (e : t.bare = s.bare) : t.Unhandled := by
  have hk : ∀ u : State, u.bare.Unhandled ↔ u.Unhandled := fun _ => Iff.rfl
  rw [← hk, e, hk]
  exact h

theorem Flagged.accWord {s t : State} (h : Flagged s t) (pme i j : Nat) : t.accWord pme i j = s.accWord pme i j :=
  congrArg (fun l => sparseRead l (accKey pme i j)) h.acc

theorem unitMembers_one {r : PmeReq} {m : Member} (h : r.member? = some m) : unitMembers [r] = [(r, m)] := by
  simp [unitMembers, h, sortBy, insertBy]

/-- R124: the pass of a gang of one, by its operation. -/
theorem runPass_one {r : PmeReq} {m : Member} (pme : Nat) (s : State) :
    (m.op = .mma ∨ m.op = .mmaSp → runPass pme [(r, m)] s = runMma pme [(r, m)] s) ∧
    (m.op = .mmdLd → runPass pme [(r, m)] s = runMmdLd pme [(r, m)] s) ∧
    (m.op = .mmd → runPass pme [(r, m)] s = runMmd pme [(r, m)] s) := by
  refine ⟨?_, fun h => ?_, fun h => ?_⟩
  · rintro (h | h) <;> rw [runPass, h]
  · rw [runPass, h]
  · rw [runPass, h]

/-! ### Engine commands complete (R115, R119, R140) -/

/-- R140: a `drain` that has words to write waits, and a pass completes otherwise. -/
def PmeCmd.waits : PmeCmd → Bool
  | .drain _ _ _ _ pos _ => decide (pos < 4096)
  | .pass .. => true
  | _ => false

theorem execEngineCommandComplete_eq {s : State} {pme : Nat} {r : PmeReq} {f : InFlight} (h : Claims.request s pme r.id r f)
    (hw : r.cmd.waits = false) : exec (.engineCommandComplete pme r.id) s = .next ((s.engineEffect r f).requestDone r) := by
  obtain ⟨hr, hp, hg, hf, ht⟩ := h
  have hbind : (s.group r.grp).bind (fun g => g.inflight.find? (fun f => f.serial == r.serial)) = some f := by
    rw [hg, State.group_port hp]
    exact hf
  change execEngineCommandComplete pme r.id s = _
  unfold execEngineCommandComplete
  simp only [hr, hbind, ht]
  generalize hc : r.cmd = c at hw
  cases c with
  | drain row col spad turned pos after => rw [PmeCmd.waits] at hw; simp only [hw]; rfl
  | pass gang gidx count m => cases hw
  | result | acz | acrd | acwr => rfl

theorem atHand_of_request {s : State} {pme : Nat} {r : PmeReq} {f : InFlight} (h : Claims.request s pme r.id r f) (he : s.g.ended = false)
    (hh : s.inHandler s.g = false) (ht : s.g.stopped = false) (hl : s.g.spilled = false) : s.AtHand := by
  obtain ⟨-, hp, -, -, -⟩ := h
  exact ⟨hp, he, hh, ht, hl⟩

/-- R141: what a command that only writes accumulator words leaves. -/
theorem requestDone_of_bare {s t : State} {r : PmeReq} (h : t.bare = s.bare) (hr : r.grp = s.g.id.uid) :
    (t.requestDone r).mem = s.mem ∧ (t.requestDone r).g.regs = s.g.regs ∧ Claims.Finished (t.requestDone r) r.id r.serial :=
  ⟨show t.bare.mem = s.bare.mem from congrArg State.mem h, (t.requestDone_regs r).trans (congrArg (fun u => u.g.regs) h),
    State.requestDone_finished (hr.trans (congrArg (fun u : State => u.g.id.uid) h).symm)⟩

/-- R115: what a command that only changes its group leaves. -/
theorem requestDone_of_modGroup {s : State} {r : PmeReq} (hr : r.grp = s.g.id.uid) {F : Group → Group} (hF : Steady F) :
    let t := (s.modGroup s.g.id.uid F).requestDone r
    t.mem = s.mem ∧ t.acc = s.acc ∧ Claims.Finished t r.id r.serial ∧ t.g = (F s.g).completeFlight r.serial := by
  have hu : r.grp = (s.modGroup s.g.id.uid F).g.id.uid := hr.trans (s.modGroup_uid _ hF).symm
  refine ⟨rfl, rfl, State.requestDone_finished hu, ?_⟩
  rw [State.requestDone_g hu, State.modGroup_g _ rfl]

theorem Group.v_congr {g h : Group} (e : g.regs = h.regs) (n : Nat) : g.v n = h.v n := congrArg (fun r : Regs => r.v.getD n 0) e

/-- R115: a register as a result enters its group. -/
def Group.take (serial n : Nat) (m : Lanes) (f : Group → Group) (g : Group) : Group := (f g).landed serial [n] [] (decide (m = BitVec.allOnes 64))

theorem steady_take (serial n : Nat) (m : Lanes) {f : Group → Group} (hf : Steady f) : Steady (Group.take serial n m f) := hf.comp (steady_landed _ _ _ _)

/-- R140: `acrd` completes. -/
theorem acrd_completes {s : State} {r : PmeReq} {f : InFlight} (h : s.AtHand) (hr : r.grp = s.g.id.uid) {d row col : Nat} {mask : Lanes}
    (hc : r.cmd = .acrd d row col mask) (hd : d < 128) :
    let t := (s.engineEffect r f).requestDone r
    t.mem = s.mem ∧ t.acc = s.acc ∧ Claims.Finished t r.id r.serial ∧
      (∀ l, l < 64 → lane (t.g.v d) l = if mask.getLsbD l then s.accWord r.pme (row + l) col else lane (s.g.v d) l) ∧ ∀ k, k ≠ d → t.g.v k = s.g.v k := by
  have hf := steady_setLanes d mask (fun l => s.accWord r.pme (row + l) col)
  have he : s.engineEffect r f = s.modGroup s.g.id.uid (Group.take r.serial d mask (fun g => g.setLanes d mask (fun l => s.accWord r.pme (row + l) col))) := by
    unfold State.engineEffect
    rw [hc]
    exact h.resultTo hr d mask hf
  rw [he]
  obtain ⟨hmem, hacc, hfin, hg⟩ := requestDone_of_modGroup (s := s) hr (steady_take r.serial d mask hf)
  have hv : ∀ k, ((s.modGroup s.g.id.uid (Group.take r.serial d mask (fun g => g.setLanes d mask (fun l => s.accWord r.pme (row + l) col)))).requestDone r).g.v k =
      (s.g.setLanes d mask (fun l => s.accWord r.pme (row + l) col)).v k := fun k => Group.v_congr (by rw [hg]; rfl) k
  refine ⟨hmem, hacc, hfin, fun l hl => ?_, fun k hk => ?_⟩
  · rw [hv, Group.lane_setLanes _ _ _ _ _ _ hd hl]
    simp
  · rw [hv, Group.setLanes, Group.v_setV _ _ _ _ hd, if_neg hk]

end Sys2Proof.Machine
end

section
/-! PROOF. O28, O60: results of whole registers, and drains. -/

namespace Sys2Proof.Machine

/-! ### Whole-register results (R115, R119) -/

/-- R115: the registers of a result as they enter their group. -/
def Group.takeAll (serial : Nat) (regs : List (Nat × Wide)) (g : Group) : Group :=
  regs.foldl (fun g x => g.take serial x.1 (BitVec.allOnes 64) (fun g => g.setV x.1 x.2)) g

/-- R115, R119: a result as it enters its group: its registers, its flags, and STICKY.GOVF where a guard overflow is to set it. -/
def Group.results (serial : Nat) (regs : List (Nat × Wide)) (fl : DWord) (govf : Bool) (g : Group) : Group :=
  let g := ((g.takeAll serial regs).raiseFlags fl).noteOutside fl
  if govf then g.raiseSticky stickyGOVF else g

theorem steady_takeAll (serial : Nat) (regs : List (Nat × Wide)) : Steady (Group.takeAll serial regs) := by
  induction regs with
  | nil => exact ⟨fun _ => rfl, fun _ => rfl, fun _ => rfl, fun _ => rfl, fun _ => rfl, fun _ => rfl, fun _ => rfl⟩
  | cons x regs ih => exact (steady_take serial x.1 _ (steady_setV x.1 x.2)).comp ih

theorem steady_results (serial : Nat) (regs : List (Nat × Wide)) (fl : DWord) (govf : Bool) : Steady (Group.results serial regs fl govf) := by
  have h := (steady_takeAll serial regs).comp (steady_flags fl)
  cases govf with
  | false => exact h
  | true => exact h.comp (steady_sticky stickyGOVF)

theorem Group.takeAll_modes (serial : Nat) (regs : List (Nat × Wide)) (g : Group) : (g.takeAll serial regs).modes = g.modes := by
  induction regs generalizing g with
  | nil => rfl
  | cons x regs ih => exact ih _

theorem Group.results_regs (serial : Nat) (regs : List (Nat × Wide)) (fl : DWord) (govf : Bool) (g : Group) :
    (g.results serial regs fl govf).regs = (g.takeAll serial regs).regs := by
  cases govf <;> exact Group.noteOutside_regs _ _

theorem Group.results_modes (serial : Nat) (regs : List (Nat × Wide)) (fl : DWord) (govf : Bool) (g : Group) :
    (g.results serial regs fl govf).modes = { g.modes with
      fflags := g.modes.fflags ||| fl
      sticky := if govf then g.modes.sticky ||| stickyGOVF else g.modes.sticky } := by
  cases govf <;> simp [Group.results, Group.raiseSticky, Group.raiseFlags, Group.takeAll_modes]

theorem State.modGroup_id (s : State) (uid : Nat) : s.modGroup uid (fun g => g) = s := by
  simp [State.modGroup]

/-- R115: the registers of a result come back. -/
theorem State.AtHand.takeAll {s : State} (h : s.AtHand) {r : PmeReq} (hr : r.grp = s.g.id.uid) (regs : List (Nat × Wide)) :
    regs.foldl (fun (s : State) x => s.resultTo r x.1 (BitVec.allOnes 64) (fun g => g.setV x.1 x.2)) s =
      s.modGroup s.g.id.uid (Group.takeAll r.serial regs) := by
  induction regs generalizing s with
  | nil => exact (s.modGroup_id _).symm
  | cons x regs ih =>
    have hx := steady_setV x.1 x.2
    have ht := steady_take r.serial x.1 (BitVec.allOnes 64) hx
    have hu := s.modGroup_uid s.g.id.uid ht
    rw [List.foldl_cons, h.resultTo hr x.1 _ hx]
    refine (ih (h.modGroup ht) (hr.trans hu.symm)).trans ?_
    rw [hu]
    exact s.modGroup_modGroup _ ht _

/-- R115, R119: a result enters its group, with its flags, and traps where it is to. -/
theorem State.AtHand.results {s : State} (h : s.AtHand) {r : PmeReq} (hr : r.grp = s.g.id.uid) {regs : List (Nat × Wide)} {fl : DWord}
    {govf trap mul : Bool} (hc : r.cmd = .result regs fl govf trap mul) (f : InFlight) :
    s.engineEffect r f = (let t := s.modGroup s.g.id.uid (Group.results r.serial regs fl (govf && !trap))
      if trap then t.guardTrap r.grp f else t) := by
  have ht := steady_takeAll r.serial regs
  have hfl := ht.comp (steady_flags fl)
  have hflags : (s.modGroup s.g.id.uid (Group.takeAll r.serial regs)).engineFlags s.g.id.uid fl =
      s.modGroup s.g.id.uid (Group.results r.serial regs fl false) := by
    have e := (h.modGroup (uid := s.g.id.uid) ht).engineFlags fl
    rw [s.modGroup_uid _ ht] at e
    exact e.trans (s.modGroup_modGroup _ ht _)
  have hres := steady_results r.serial regs fl false
  have hh := h.modGroup (uid := s.g.id.uid) hres
  have hu := s.modGroup_uid s.g.id.uid hres
  have hgroup := State.group_port hh.present
  rw [hu] at hgroup
  have hsticky : (s.modGroup s.g.id.uid (Group.results r.serial regs fl false)).stickyFor s.g.id.uid stickyGOVF =
      s.modGroup s.g.id.uid (Group.results r.serial regs fl true) := by
    have e := hh.stickyFor stickyGOVF
    rw [hu] at e
    exact e.trans (s.modGroup_modGroup _ hres _)
  unfold State.engineEffect
  rw [hc, hr]
  simp only [h.takeAll hr, hflags, hgroup, Option.map_some, Option.getD_some, hh.running, Bool.not_false, Bool.and_true]
  cases govf <;> cases trap <;> simp [hsticky]

/-- R119: the slot whose path holds some lanes. -/
def Group.holder (g : Group) (lanes : Lanes) : Port :=
  if g.slotMask .slot1 &&& lanes ≠ 0 ∧ g.slotMask .slot0 &&& lanes = 0 then .slot1 else .slot0

theorem Group.holder_hitter (g : Group) (lanes : Lanes) : g.holder lanes ≠ .setter := by
  unfold Group.holder
  split
  · exact Port.noConfusion
  · exact Port.noConfusion

/-- R119: the trap word of a guard overflow. -/
def guardWord (f : InFlight) (next : DWord) (order : Nat) : TrapWord where
  cause := Cause.guardOvf
  kind := 2
  chain := false
  pc := f.pc
  mask := f.lanes
  records := [(lowest f.lanes, Cause.guardOvf, 0, false)]
  detail := []
  next := next
  instr := f.pc
  order := order

theorem State.select_same {s : State} {uid : Nat} (h : s.g.id.uid = uid) (p : Port) : s.select uid p = { s with port := p } := if_pos h

/-- Acting at a port of the group that stands at the issue port. -/
theorem State.visit_port {s : State} {p : Port} {f : State → State} (h : (f { s with port := p }).g.id.uid = s.g.id.uid) :
    s.visit s.g.id.uid p f = { f { s with port := p } with port := s.port } := by
  rw [State.visit, State.select_same rfl, State.select_same h]

/-- R119: the group as it holds the trap of a guard overflow. -/
def Group.guarded (f : InFlight) (order : Nat) (g : Group) : Group :=
  g.setSlot (g.holder f.lanes) { (g.slot (g.holder f.lanes)).switch with
    trap := some (guardWord f (g.pcAt (g.holder f.lanes)) order), wait := .trapped }

/-- R119: GUARD_OVF on the completed `pmul` of the group at the port. -/
theorem State.AtHand.guardTrap {s : State} (h : s.AtHand) (hk : s.g.id.kind = .ordinary) (f : InFlight) :
    s.guardTrap s.g.id.uid f = { s with nextTrap := s.nextTrap + 1, g := s.g.guarded f s.nextTrap } := by
  unfold Group.guarded
  have hp := s.g.holder_hitter f.lanes
  unfold State.guardTrap
  rw [State.group_port h.present]
  simp only [h.running, Bool.false_eq_true, if_false]
  change s.visit s.g.id.uid (s.g.holder f.lanes) (fun t => t.hold (s.g.holder f.lanes)
    (guardWord f (t.g.pcAt (s.g.holder f.lanes)) 0)) = _
  generalize s.g.holder f.lanes = p at hp
  have hh := State.hold_slot (s := { s with port := p }) (guardWord f (s.g.pcAt p) 0) hk hp
  refine (State.visit_port ((congrArg (fun t : State => t.g.id.uid) hh).trans ?_)).trans (congrArg (fun t : State => { t with port := s.port }) hh)
  exact congrArg Ident.uid (Group.setSlot_id _ _ _)

/-! ### A result of one register, and of two (R115, R119) -/

/-- R115: a result of one register completes. -/
theorem result_completes {s : State} {r : PmeReq} {f : InFlight} (h : s.AtHand) (hr : r.grp = s.g.id.uid) {d : Nat} {x : Wide} {fl : DWord} {mul : Bool}
    (hc : r.cmd = .result [(d, x)] fl false false mul) (hd : d < 128) :
    let t := (s.engineEffect r f).requestDone r
    t.mem = s.mem ∧ t.acc = s.acc ∧ Claims.Finished t r.id r.serial ∧ t.g.v d = x ∧ (∀ k, k ≠ d → t.g.v k = s.g.v k) ∧
      t.g.modes = { s.g.modes with fflags := s.g.modes.fflags ||| fl } := by
  rw [h.results hr hc f]
  obtain ⟨hmem, hacc, hfin, hg⟩ := requestDone_of_modGroup (s := s) hr (steady_results r.serial [(d, x)] fl false)
  have hv : ∀ k, ((s.modGroup s.g.id.uid (Group.results r.serial [(d, x)] fl false)).requestDone r).g.v k = (s.g.setV d x).v k := fun k =>
    Group.v_congr (by rw [hg, Group.completeFlight_regs, Group.results_regs]; rfl) k
  refine ⟨hmem, hacc, hfin, ?_, fun k hk => ?_, ?_⟩
  · exact (hv d).trans ((Group.v_setV _ _ _ _ hd).trans (if_pos rfl))
  · exact (hv k).trans ((Group.v_setV _ _ _ _ hd).trans (if_neg hk))
  · exact (congrArg Group.modes hg).trans (Group.results_modes _ _ _ _ _)

theorem Steady.holder {f : Group → Group} (hf : Steady f) (g : Group) (lanes : Lanes) : (f g).holder lanes = g.holder lanes := by
  unfold Group.holder
  rw [hf.slotMask, hf.slotMask]

theorem Steady.pcAt {f : Group → Group} (hf : Steady f) (g : Group) {p : Port} (h : p ≠ .setter) : (f g).pcAt p = g.pcAt p := by
  rw [Group.pcAt_hitter _ _ h, Group.pcAt_hitter _ _ h, hf.slot]

/-- R119: the trap of a guard overflow, in the slot that holds the lanes of its `pmul`. -/
theorem Group.guarded_holds {G : Group → Group} (hG : Steady G) (f : InFlight) (order serial : Nat) (g : Group) :
    let h := ((G g).guarded f order).completeFlight serial
    h.heldAt (g.holder f.lanes) = some (guardWord f (g.pcAt (g.holder f.lanes)) order) ∧ h.waitAt (g.holder f.lanes) = .trapped := by
  have hp := g.holder_hitter f.lanes
  have hslot : (((G g).guarded f order).completeFlight serial).slot (g.holder f.lanes) =
      { (g.slot (g.holder f.lanes)).switch with trap := some (guardWord f (g.pcAt (g.holder f.lanes)) order), wait := .trapped } := by
    rw [(steady_completeFlight serial).slot, Group.guarded, hG.holder, Group.slot_setSlot_same _ _ _ hp, hG.slot, hG.pcAt g hp]
  constructor
  · rw [Group.heldAt_hitter _ hp, hslot]
  · rw [Group.waitAt_hitter _ hp, hslot]

/-- R119: a result of a group that has a trap of its own to take, or none. -/
theorem State.AtHand.resultDone {s : State} (h : s.AtHand) (hk : s.g.id.kind = .ordinary) {r : PmeReq} (hr : r.grp = s.g.id.uid)
    {regs : List (Nat × Wide)} {fl : DWord} {govf trap mul : Bool} (hc : r.cmd = .result regs fl govf trap mul) (f : InFlight) :
    let G := s.g.results r.serial regs fl (govf && !trap)
    let t := (s.engineEffect r f).requestDone r
    t.mem = s.mem ∧ t.acc = s.acc ∧ Claims.Finished t r.id r.serial ∧
      t.g = (if trap then G.guarded f s.nextTrap else G).completeFlight r.serial := by
  have hG := steady_results r.serial regs fl (govf && !trap)
  have hu := s.modGroup_uid s.g.id.uid hG
  have hg := State.modGroup_g s rfl (Group.results r.serial regs fl (govf && !trap))
  rw [h.results hr hc f]
  cases trap with
  | false => exact requestDone_of_modGroup hr hG
  | true =>
    have ht := (h.modGroup (uid := s.g.id.uid) hG).guardTrap ((congrArg Ident.kind (congrArg Group.id hg)).trans ((congrArg Ident.kind (hG.id s.g)).trans hk)) f
    rw [hu, hg] at ht
    simp only [if_true, hr, ht]
    have hr' : r.grp = ((s.g.results r.serial regs fl (govf && !true)).guarded f s.nextTrap).id.uid := by
      rw [hr, Group.guarded, Group.setSlot_id, hG.id]
    exact ⟨rfl, rfl, State.requestDone_finished hr', State.requestDone_g hr'⟩

/-- R115, R119: a result of two registers completes, with its trap or without. -/
theorem pairResult_completes {s : State} {r : PmeReq} {f : InFlight} (h : s.AtHand) (hr : r.grp = s.g.id.uid) (hk : s.g.id.kind = .ordinary)
    {d : Nat} {x y : Wide} {fl : DWord} {govf trap mul : Bool} (hc : r.cmd = .result [(d, x), (d + 1, y)] fl govf trap mul) (hd : d + 1 < 128) :
    let t := (s.engineEffect r f).requestDone r
    t.mem = s.mem ∧ t.acc = s.acc ∧ Claims.Finished t r.id r.serial ∧ t.g.v d = x ∧ t.g.v (d + 1) = y ∧
      (∀ k, k ≠ d → k ≠ d + 1 → t.g.v k = s.g.v k) ∧ t.g.regs.s = s.g.regs.s ∧ t.g.regs.p = s.g.regs.p ∧
      t.g.modes = { s.g.modes with
        fflags := s.g.modes.fflags ||| fl
        sticky := if govf && !trap then s.g.modes.sticky ||| stickyGOVF else s.g.modes.sticky } ∧
      (trap = false → t.g.slot0 = s.g.slot0 ∧ t.g.slot1 = s.g.slot1) ∧
      (trap = true → t.g.heldAt (s.g.holder f.lanes) = some (guardWord f (s.g.pcAt (s.g.holder f.lanes)) s.nextTrap) ∧
        t.g.waitAt (s.g.holder f.lanes) = .trapped) := by
  have hG := steady_results r.serial [(d, x), (d + 1, y)] fl (govf && !trap)
  obtain ⟨hmem, hacc, hfin, hg⟩ := h.resultDone hk hr hc f
  have hregs : ((s.engineEffect r f).requestDone r).g.regs = ((s.g.setV d x).setV (d + 1) y).regs := by
    rw [hg, Group.completeFlight_regs]
    have hres : (s.g.results r.serial [(d, x), (d + 1, y)] fl (govf && !trap)).regs = ((s.g.setV d x).setV (d + 1) y).regs := by
      rw [Group.results_regs]
      rfl
    cases trap
    · exact hres
    · exact (Group.setSlot_regs _ _ _).trans hres
  have hmodes : ((s.engineEffect r f).requestDone r).g.modes = (s.g.results r.serial [(d, x), (d + 1, y)] fl (govf && !trap)).modes := by
    rw [hg, Group.completeFlight_modes]
    cases trap
    · rfl
    · exact Group.setSlot_modes _ _ _
  have hv := fun k => (Group.v_congr hregs k).trans (Group.v_setV _ _ k y hd)
  have hvd := fun k => (Group.v_setV s.g d k x (by omega))
  refine ⟨hmem, hacc, hfin, ?_, ?_, fun k h0 h1 => ?_, (congrArg Regs.s hregs).trans rfl, (congrArg Regs.p hregs).trans rfl,
    hmodes.trans (Group.results_modes _ _ _ _ _), ?_, ?_⟩
  · rw [hv, if_neg (by omega), hvd, if_pos rfl]
  · rw [hv, if_pos rfl]
  · rw [hv, if_neg h1, hvd, if_neg h0]
  · rintro rfl
    rw [hg]
    exact ⟨hG.slot0 s.g, hG.slot1 s.g⟩
  · rintro rfl
    rw [hg]
    exact Group.guarded_holds hG f s.nextTrap r.serial s.g

/-! ### Drains (R140, R142, R213) -/

/-- R140, R213: a `drain` writes its next word to its group's leaf buffer. -/
theorem drain_writes {s : State} {r : PmeReq} {row col spad i j : Nat} {turned : Bool} {after : List Nat} (hp : s.g.id.present = true)
    (hr : r.grp = s.g.id.uid) (ht : s.turnOf [r] = true) (hc : r.cmd = .drain row col spad turned (64 * i + j) after) (hi : i < 64) (hj : j < 64)
    (hcopies : ∀ c ∈ s.copies, c.id ≠ r.id) (hfind : s.pme.find? (fun x => x.id == r.id) = some r) (hout : ∀ e ∈ s.g.outq, e.id ∉ after)
    (hrel : s.released s.g 1 = true) :
    ∃ t b, exec (.engineAccess r.id) s = .next t ∧ t.mem = s.mem ∧ t.acc = s.acc ∧ t.g = s.g ∧ t.bufs = s.bufs ++ [b] ∧
      b.node = .grp s.g.id.uid ∧ b.size = 4 ∧ b.serial = r.serial ∧ b.tag = some (s.g.tag 1) ∧
      b.loc = .spad s.g.id.team (spad + if turned then 256 * j + 4 * i else 256 * i + 4 * j) ∧
      b.data = (s.accWord r.pme (row + i) (col + j)).zeroExtend 64 ∧
      t.pme.find? (fun x => x.id == r.id) = some { r with cmd := .drain row col spad turned (64 * i + j + 1) after } := by
  have hnocopy : s.copies.find? (fun c => c.id == r.id) = none := List.find?_eq_none.2 fun c hc => by simp [hcopies c hc]
  have hfree : s.g.outq.any (fun e => after.contains e.id) = false := List.any_eq_false.2 fun e he => by simp [hout e he]
  have hword : drainWord row col spad turned (64 * i + j) =
      (row + i, col + j, spad + if turned then 256 * j + 4 * i else 256 * i + 4 * j) := by
    have hdiv : (64 * i + j) / 64 = i := by omega
    have hmod : (64 * i + j) % 64 = j := by omega
    simp only [drainWord, hdiv, hmod]
  have hgo : (decide (4096 ≤ 64 * i + j) || s.g.outq.any (fun e => after.contains e.id) || !(s.released s.g 1)) = false := by
    rw [decide_eq_false (by omega), hfree, hrel]
    rfl
  have hgrp : s.group r.grp = some s.g := hr ▸ State.group_port hp
  have hstep : exec (.engineAccess r.id) s = .next { s.bufferWrite s.g r.serial
      (.spad s.g.id.team (spad + if turned then 256 * j + 4 * i else 256 * i + 4 * j)) 0 4
      ((s.accWord r.pme (row + i) (col + j)).zeroExtend 64) false (some (s.g.tag 1)) with
      pme := updateWhere (fun x => x.id == r.id) (fun x => { x with cmd := .drain row col spad turned (64 * i + j + 1) after }) s.pme } := by
    change execEngineAccess r.id s = _
    unfold execEngineAccess State.drainStep
    simp only [hnocopy, hfind, hc, ht, if_true, hgrp, hgo, hword, Bool.false_eq_true, if_false]
    rfl
  refine ⟨_, _, hstep, rfl, rfl, rfl, rfl, rfl, rfl, rfl, rfl, rfl, rfl, ?_⟩
  have hupdate := find?_updateWhere s.pme (fun x => x.id == r.id)
    (fun x => { x with cmd := .drain row col spad turned (64 * i + j + 1) after }) (fun _ h => h)
  rw [hfind] at hupdate
  exact hupdate

end Sys2Proof.Machine
end

section
/-! PROOF. O28: the obligation. -/

namespace Sys2Proof.Machine

/-- R143: a grant leaves memory, accumulators and groups alone; what it grants and what waits on stand in the table. -/
theorem pmeGrant_works {s : State} {pme : Nat} {unit : List PmeReq} (h : s.nextUnit pme = some unit) (hr : s.recorders = []) :
    ∃ t, exec (.pmeGrant pme) s = .next t ∧ t.mem = s.mem ∧ t.acc = s.acc ∧ t.g = s.g ∧ t.others = s.others ∧
      (∀ r ∈ unit, { r with granted := true } ∈ t.pme) ∧
      (∀ r ∈ s.pme, r.granted = false → r.pme = pme → (∀ x ∈ unit, x.id ≠ r.id) → { r with grants := r.grants + 1 } ∈ t.pme) := by
  refine ⟨{ s with pme := s.granting pme unit }, ?_, rfl, rfl, rfl, rfl, fun _ => State.mem_granting_unit, fun _ => State.mem_granting_aged⟩
  exact (pmeGrant_grants h).trans (congrArg Host.Outcome.next (State.noteGrant_unrecorded (s := { s with pme := s.granting pme unit }) hr pme unit))

/-- R143: the next unit against each other one that waits. -/
theorem nextUnit_works {s : State} {pme : Nat} {unit : List PmeReq} (h : s.nextUnit pme = some unit) :
    s.grantable unit = true ∧ s.arraysFree unit = true ∧ ∀ r ∈ s.ungranted pme, s.grantable (s.unitOf r) = true →
      (s.arraysFree (s.unitOf r) = true ∨ 32 ≤ unitGrants (s.unitOf r)) → unitBefore unit (s.unitOf r) = true := by
  obtain ⟨hwait, hfree, hfirst⟩ := State.nextUnit_first h
  exact ⟨(State.mem_waitingUnits.1 hwait).2, hfree, fun r hr hg => hfirst _ (State.mem_waitingUnits.2 ⟨⟨r, hr, rfl⟩, hg⟩)⟩

/-- R124, R132, R138, R139: a granted pass of a gang of one. -/
theorem passComplete_works {s : State} {r : PmeReq} {m : Member} {pme : Nat} (hr : s.pme.find? (fun x => x.id == r.id && x.pme == pme) = some r)
    (hm : r.member? = some m) (hu : s.unitOf r = [r]) (ht : s.turnOf [r] = true) (hpos : m.pos = 0) (hcol : m.col0 + 64 ≤ 1024)
    (hh : s.Unhandled) :
    ∃ t, exec (.passComplete pme r.id) s = .next t ∧ t.mem = s.mem ∧ (∀ x ∈ t.pme, x.id ≠ r.id) ∧ t.g.regs = s.g.regs ∧
      (m.op = .mma ∨ m.op = .mmaSp → t.resident = s.resident ∧
        ∀ row col, row < 1024 → col < 1024 → t.accWord pme row col =
          if m.row0 ≤ row ∧ row < m.row0 + 64 ∧ m.col0 ≤ col ∧ col < m.col0 + 64 ∧ m.mask.getLsbD (row - m.row0) = true then
            m.passWord r (row - m.row0) (col - m.col0) (s.accWord pme row col)
          else s.accWord pme row col) ∧
      (m.op = .mmdLd → t.acc = s.acc ∧ ∀ u v, u < 64 → v < 64 →
        sparseRead t.resident (residentKey pme u v) = residentWord (s.accWord pme (m.row0 + u) (m.col0 + v))) ∧
      (m.op = .mmd → t.resident = s.resident ∧ ∀ row col, row < 1024 → col < 1024 →
        (let depth := formatDepth m.block.pfmt false
         ¬(m.row0 ≤ row ∧ row < m.row0 + depth ∧ m.col0 ≤ col ∧ col < m.col0 + 64) →
         ¬(m.drow ≤ row ∧ row < m.drow + depth ∧ m.col0 ≤ col ∧ col < m.col0 + 64) → t.accWord pme row col = s.accWord pme row col)) := by
  obtain ⟨t, hexec, hflag, hgone⟩ := passComplete_leaves hr (by rw [hm]; rfl) (hu ▸ ht)
  rw [hu, unitMembers_one hm] at hflag
  rw [hu] at hgone
  have hbare := runPass_bare pme [(r, m)] s
  obtain ⟨hmma, hld, hmmd⟩ := runPass_one (r := r) (m := m) pme s
  refine ⟨t, hexec, ?_, fun y hy => hgone r (List.mem_singleton.2 rfl) y hy, hflag.regs.trans (congrArg (fun u => u.g.regs) hbare),
    fun hop => ?_, fun hop => ?_, fun hop => ?_⟩
  · exact (hflag.quiet (hh.of_bare hbare)).1.trans (show (runPass pme [(r, m)] s).1.bare.mem = s.bare.mem from congrArg State.mem hbare)
  · rw [hmma hop] at hflag
    exact ⟨hflag.resident.trans (runMma_keeps (read := State.resident) (fun _ _ _ _ _ => rfl) _ _ _),
      fun row col _ hc => (hflag.accWord pme row col).trans (runMma_accWord r hpos hcol hc s)⟩
  · rw [hld hop] at hflag
    refine ⟨hflag.acc.trans (runMmdLd_keeps (read := State.acc) (fun _ _ => rfl) _ _ _), fun u v hu hv => ?_⟩
    rw [hflag.resident]
    exact congrArg Prod.snd (runMmdLd_loads r hpos (pme := pme) hu hv s)
  · rw [hmmd hop] at hflag
    exact ⟨hflag.resident.trans (runMmd_keeps (read := State.resident) (fun _ _ _ _ _ => rfl) _ _ _),
      fun row col _ hc h0 h1 => (hflag.accWord pme row col).trans (runMmd_accWord r hpos hcol hc s h0 h1)⟩

/-- R271: no handler run has a group of the module in hand. -/
theorem unhandled_of {s : State} (h : s.inHandler s.g = false) (ho : ∀ g ∈ s.others, s.inHandler g = false) : s.Unhandled := by
  intro g hg
  rcases List.mem_append.1 hg with hg | hg
  · split at hg
    · rw [List.mem_singleton.1 hg]
      exact h
    · cases hg
  · exact ho g hg

/-- R115, R140: what ENGINE_COMMAND_COMPLETE leaves where its command only writes accumulator words. -/
theorem engineStore_works {s : State} {r : PmeReq} {f : InFlight} (h : Claims.request s r.pme r.id r f)
    (hw : r.cmd.waits = false) (hb : (s.engineEffect r f).bare = s.bare) {word : Nat → Nat → Word}
    (ha : ∀ i j, i < 1024 → j < 1024 → (s.engineEffect r f).accWord r.pme i j = word i j) :
    ∃ t, exec (.engineCommandComplete r.pme r.id) s = .next t ∧ t.mem = s.mem ∧ t.g.regs = s.g.regs ∧ Claims.Finished t r.id r.serial ∧
      ∀ i j, i < 1024 → j < 1024 → t.accWord r.pme i j = word i j := by
  obtain ⟨-, -, hgrp, -, -⟩ := id h
  obtain ⟨hmem, hregs, hfin⟩ := requestDone_of_bare hb hgrp
  exact ⟨_, execEngineCommandComplete_eq h hw, hmem, hregs, hfin, ha⟩

/-- Settles O28: a grant is the first unit of a sorted list, a pass and a block command are folds of which one step writes each word, and a
result enters a group whose registers are in its own hands. -/
theorem engineWorks : Obligations.EngineWorks := by
  unfold Obligations.EngineWorks
  refine ⟨⟨fun s pme unit => pmeGrant_works, ?_, ?_, ?_, fun s pme unit => nextUnit_works⟩, ?_, ?_⟩
  · exact fun a b ha hb hl => unitBefore_ahead (.inr ⟨by omega, .inl ⟨ha, hl⟩⟩)
  · exact fun a b ha hb => unitBefore_ahead (.inl ⟨ha, hb⟩)
  · intro a b hs hl ho
    refine unitBefore_ahead (.inr ⟨hs, .inr ⟨?_, ho⟩⟩)
    rcases Nat.lt_or_ge a.grants 32 with ha | ha
    · exact .inr (congrArg BitVec.toNat (hl ha))
    · exact .inl ha
  · exact fun s r m pme hr hm hu ht hpos _ hcol hh ho => passComplete_works hr hm hu ht hpos hcol (unhandled_of hh ho)
  · rintro s r f _ hq rfl he hh hst hsp
    have hhand := atHand_of_request hq he hh hst hsp
    obtain ⟨-, hpres, hgrp, -, hturn⟩ := id hq
    refine ⟨?_, ?_, ?_, ?_, ?_, ?_, ?_⟩
    · intro row col hc _ hcol
      have he : s.engineEffect r f = s.zeroBlock r.pme row col := by rw [State.engineEffect, hc]
      exact engineStore_works hq (by rw [hc]; rfl) ((congrArg State.bare he).trans (s.zeroBlock_bare _ _ _))
        (fun i j _ hj => (congrArg (fun t : State => t.accWord r.pme i j) he).trans (s.zeroBlock_accWord hcol hj))
    · intro row col mask x hc _ hcol
      have he : s.engineEffect r f = (members mask).foldl (fun (s : State) l => s.setAcc r.pme (row + l) col (lane x l)) s := by
        rw [State.engineEffect, hc]
      exact engineStore_works hq (by rw [hc]; rfl) ((congrArg State.bare he).trans (bare_acwr s _ _ _ _ _))
        (fun i j _ hj => (congrArg (fun t : State => t.accWord r.pme i j) he).trans (accWord_acwr s mask x hcol hj))
    · intro d row col mask hc hd
      obtain ⟨hmem, hacc, hfin, hread, hother⟩ := acrd_completes (f := f) hhand hgrp hc hd
      exact ⟨_, execEngineCommandComplete_eq hq (by rw [hc]; rfl), hmem, hacc, hfin, hread, hother⟩
    · intro row col spad turned i j after hc hi hj hcopies hfind hout hrel
      exact drain_writes hpres hgrp hturn hc hi hj hcopies hfind hout hrel
    · intro row col spad turned pos after hc hpos
      have he : s.engineEffect r f = s := by rw [State.engineEffect, hc]
      have hw : r.cmd.waits = false := by rw [hc]; exact decide_eq_false (by omega)
      obtain ⟨hmem, hregs, hfin⟩ := requestDone_of_bare (t := s.engineEffect r f) (congrArg State.bare he) hgrp
      exact ⟨_, execEngineCommandComplete_eq hq hw, hmem,
        (State.requestDone_acc _ r).trans (congrArg State.acc he), hregs, (State.requestDone_bufs _ r).trans (congrArg State.bufs he), hfin⟩
    · intro d x fl mul hc hd
      exact ⟨_, execEngineCommandComplete_eq hq (by rw [hc]; rfl), result_completes hhand hgrp hc hd⟩
    · intro d x y fl govf trap mul hc hd hk
      obtain ⟨hmem, hacc, hfin, hx, hy, hv, hs, hpr, hmodes, hslots, htrap⟩ := pairResult_completes (f := f) hhand hgrp hk hc hd
      refine ⟨_, execEngineCommandComplete_eq hq (by rw [hc]; rfl), hmem, hacc, hfin, hx, hy, hv, hs, hpr, hmodes, hslots, fun e => ?_⟩
      exact ⟨_, (htrap e).1, rfl, rfl, rfl, rfl, rfl, (htrap e).2⟩

end Sys2Proof.Machine
end

section
/-! PROOF. O60: engine and mailbox happenings complete. -/

namespace Sys2Proof.Machine

/-! ### The engine's happenings (R115, R132, R143) -/

/-- R143: the only request that waits at a PME is granted, its arrays being free. -/
theorem pmeGrant_only {s : State} {pme : Nat} {r : PmeReq} (hr : s.ungranted pme = [r]) (hu : s.unitOf r = [r]) (hc : r.checked = true)
    (hd : r.dispatched = true) (ho : ∀ x ∈ s.pme, x.grp = r.grp → x.granted = true ∨ r.order ≤ x.order) (hf : s.arraysFree [r] = true) :
    ∃ t, exec (.pmeGrant pme) s = .next t ∧ { r with granted := true } ∈ t.pme ∧ (∀ x ∈ s.pme, x.granted = true → x ∈ t.pme) ∧ t.acc = s.acc ∧
      t.g.regs = s.g.regs := by
  have hnone : s.pme.any (fun x => x.grp == r.grp && !x.granted && decide (x.order < r.order)) = false := by
    refine List.any_eq_false.2 fun x hx => ?_
    by_cases hg : x.grp = r.grp
    · rcases ho x hx hg with h | h
      · simp [h]
      · simp [Nat.not_lt.2 h]
    · simp [hg]
  have hgrant : s.grantable [r] = true := by simp [State.grantable, hc, hd, hnone]
  have hlog := State.noteGrant_logged { s with pme := s.granting pme [r] } pme [r]
  refine ⟨_, pmeGrant_grants (State.nextUnit_only hr hu hgrant hf), ?_⟩
  obtain ⟨m, rs, e⟩ := hlog
  rw [e]
  exact ⟨State.mem_granting_unit List.mem_cons_self, fun _ => State.mem_granting_granted, rfl, rfl⟩

/-- R132: a granted pass whose turn it is completes. -/
theorem passComplete_any {s : State} {pme : Nat} {r : PmeReq} (hr : s.pme.find? (fun x => x.id == r.id && x.pme == pme) = some r)
    (hm : r.member?.isSome = true) (ht : s.turnOf (s.unitOf r) = true) :
    ∃ t, exec (.passComplete pme r.id) s = .next t ∧ t.acc = (runPass pme (unitMembers (s.unitOf r)) s).1.acc ∧ t.g.regs = s.g.regs ∧
      ∀ x ∈ s.unitOf r, ∀ y ∈ t.pme, y.id ≠ x.id := by
  obtain ⟨t, hexec, hflag, hgone⟩ := passComplete_leaves hr hm ht
  have hg : (runPass pme (unitMembers (s.unitOf r)) s).1.bare.g = s.bare.g := congrArg State.g (runPass_bare _ _ _)
  exact ⟨t, hexec, hflag.acc, hflag.regs.trans (congrArg Group.regs hg), hgone⟩

theorem State.engineFlags_id (s : State) (uid : Nat) (fl : DWord) : (s.engineFlags uid fl).g.id = s.g.id := by
  unfold State.engineFlags
  split
  · rfl
  · split
    · rfl
    · exact (congrArg Group.id (State.mirrorBits_imaged _ uid 0xE8 fl).g).trans (((steady_flags fl).only uid).id s.g)

/-- R115: a result of one register completes, whatever images it goes into. -/
theorem result_registers {s : State} {pme : Nat} {r : PmeReq} {f : InFlight} (h : Claims.request s pme r.id r f) (he : s.g.ended = false)
    {d : Nat} {x : Wide} {mul : Bool} (hc : r.cmd = .result [(d, x)] 0 false false mul) (hd : d < 128) :
    ∃ t, exec (.engineCommandComplete pme r.id) s = .next t ∧ t.g.v d = x ∧ (∀ k, k ≠ d → t.g.v k = s.g.v k) ∧
      Claims.Finished t r.id r.serial := by
  obtain ⟨-, hp, hgrp, -, -⟩ := id h
  have hsteady := steady_take r.serial d (BitVec.allOnes 64) (steady_setV d x)
  have himage := (s.modGroup s.g.id.uid (Group.take r.serial d (BitVec.allOnes 64) (fun g => g.setV d x))).mirror_imaged s.g.id.uid (.v d false)
    (BitVec.allOnes 64) 0
  have hresult := State.resultTo_port hp he hgrp d (BitVec.allOnes 64) (fun g => g.setV d x)
  have heffect : s.engineEffect r f = (s.resultTo r d (BitVec.allOnes 64) (fun g => g.setV d x)).engineFlags r.grp 0 := by
    rw [State.engineEffect, hc]
    rfl
  have hg : (s.resultTo r d (BitVec.allOnes 64) (fun g => g.setV d x)).g = Group.take r.serial d (BitVec.allOnes 64) (fun g => g.setV d x) s.g := by
    rw [hresult]
    exact himage.g.trans (s.modGroup_g rfl _)
  have huid : (s.engineEffect r f).g.id.uid = s.g.id.uid := by
    rw [heffect, State.engineFlags_id, hg, hsteady.id]
  have hregs : ((s.engineEffect r f).requestDone r).g.regs = (s.g.setV d x).regs := by
    rw [State.requestDone_regs, heffect, (State.engineFlags_flagged _ _ _).regs, hg]
    rfl
  have hv := fun k => (Group.v_congr hregs k).trans (Group.v_setV s.g d k x hd)
  exact ⟨_, execEngineCommandComplete_eq h (by rw [hc]; rfl), (hv d).trans (if_pos rfl), fun k hk => (hv k).trans (if_neg hk),
    State.requestDone_finished (hgrp.trans huid.symm)⟩

/-! ### Bytes of a header (R306, R309) -/

theorem ofBytes_drop (k : Nat) (l : List Byte) : ofBytes l / 256 ^ k = ofBytes (l.drop k) := by
  induction k generalizing l with
  | zero => simp
  | succ k ih =>
    cases l with
    | nil => simp [ofBytes]
    | cons b l =>
      rw [List.drop_succ_cons, ← ih, Nat.pow_succ', ← Nat.div_div_eq_div_mul, ofBytes]
      congr 1
      have := b.isLt
      omega

theorem ofBytes_take (k : Nat) (l : List Byte) : ofBytes l % 256 ^ k = ofBytes (l.take k) := by
  induction k generalizing l with
  | zero => simp [ofBytes, Nat.mod_one]
  | succ k ih =>
    cases l with
    | nil => simp [ofBytes]
    | cons b l =>
      rw [List.take_succ_cons, ofBytes, ofBytes, ← ih, Nat.pow_succ', Nat.mod_mul]
      have := b.isLt
      have h1 : (b.toNat + 256 * ofBytes l) % 256 = b.toNat := by omega
      have h2 : (b.toNat + 256 * ofBytes l) / 256 = ofBytes l := by omega
      rw [h1, h2]

/-- R306: a word of the header of a message. -/
theorem header_word {l : List Byte} (h : 16 ≤ l.length) {k : Nat} (hk : k < 4) :
    bitsOf (ofBytes (l.take 16)) (32 * k + 31) (32 * k) = ofBytes ((List.range 4).map (fun i => l.getD (4 * k + i) 0)) := by
  have hpow : 2 ^ (32 * k) = 256 ^ (4 * k) := by rw [show 32 * k = 8 * (4 * k) by omega, Nat.pow_mul]
  have hwidth : 2 ^ (32 * k + 31 + 1 - 32 * k) = 256 ^ 4 := by rw [show 32 * k + 31 + 1 - 32 * k = 32 by omega]; rfl
  rw [bitsOf, hwidth, hpow, ofBytes_drop, ofBytes_take]
  congr 1
  refine List.ext_getElem? fun i => ?_
  by_cases hi : i < 4
  · have hlt : 4 * k + i < l.length := by omega
    simp [List.getElem?_drop, hi, show 4 * k + i < 16 by omega, hlt]
  · simp [hi]

theorem State.length_spadBytes (s : State) (g : Group) (off n : Nat) : (s.spadBytes g off n).length = n := by simp [State.spadBytes]

/-! ### Mailboxes (R309, R310) -/

theorem State.mailbox_name (s : State) (die : BitVec 4) (num : BitVec 8) : (s.mailbox die num).die = die ∧ (s.mailbox die num).num = num := by
  unfold State.mailbox
  cases h : s.mailboxes.find? (fun m => m.named die num) with
  | none => exact ⟨rfl, rfl⟩
  | some m => simpa [Mailbox.named] using List.find?_some h

theorem find?_only {α : Type} {p : α → Bool} {x : α} (h : p x = true) : [x].find? p = some x := List.find?_cons_of_pos h

theorem Mailbox.named_self (m : Mailbox) : m.named m.die m.num = true := by simp [Mailbox.named]

/-- A mailbox that has been put back. -/
theorem State.mailbox_setMailbox (s : State) {m : Mailbox} {die : BitVec 4} {num : BitVec 8} (hd : m.die = die) (hn : m.num = num) :
    (s.setMailbox m).mailbox die num = m := by
  subst hd hn
  unfold State.mailbox State.setMailbox
  simp only
  split
  · next h =>
    rw [find?_updateWhere s.mailboxes (fun x => x.named m.die m.num) (fun _ => m) fun _ _ => m.named_self]
    obtain ⟨x, hx, hnamed⟩ := List.any_eq_true.1 h
    obtain ⟨y, hy⟩ := Option.isSome_iff_exists.1
      (List.find?_isSome.2 ⟨x, hx, hnamed⟩ : (s.mailboxes.find? (fun x => x.named m.die m.num)).isSome = true)
    rw [hy]
    rfl
  · next h =>
    have hnone : s.mailboxes.find? (fun x => x.named m.die m.num) = none :=
      List.find?_eq_none.2 fun x hx hnamed => h (List.any_eq_true.2 ⟨x, hx, hnamed⟩)
    rw [List.find?_append, hnone, Option.none_or, find?_only (p := fun x : Mailbox => x.named m.die m.num) m.named_self]
    rfl

/-- R309: judging an action leaves the name and the commands of its mailbox. -/
theorem Mailbox.judge_keeps (m : Mailbox) (task : BitVec 40) (len step gen status : Nat) :
    (m.judge task len step gen status).1.die = m.die ∧ (m.judge task len step gen status).1.num = m.num ∧
      (m.judge task len step gen status).1.cmds = m.cmds := by
  unfold Mailbox.judge
  repeat' split
  all_goals exact ⟨rfl, rfl, rfl⟩

/-- R308: the only command at a mailbox is the first of its stream. -/
theorem MboxCmd.isFirst_only (c : MboxCmd) : c.isFirst [c] = true := by simp [MboxCmd.isFirst]

/-- R309: what VSERVE_PERFORM of the only command at a mailbox does. -/
theorem vservePerform_serves {s : State} {die : BitVec 4} {mbox : BitVec 8} {c : MboxCmd} (hcmds : (s.mailbox die mbox).cmds = [c])
    (hserve : c.serve = true) (hopen : (s.mailbox die mbox).opened = none) (hobs : (s.mailbox die mbox).obs = []) (hp : s.g.id.present = true)
    (hg : c.grp = s.g.id.uid) (hmay : s.mayServe c s.g = true) :
    exec (.vservePerform die mbox) s = .next (s.serve (s.mailbox die mbox) c s.g) := by
  have hgrp : s.group c.grp = some s.g := hg ▸ State.group_port hp
  change execVservePerform die mbox s = _
  unfold execVservePerform
  simp only [hcmds, hopen, hobs, Option.isSome_none, List.length_nil, Bool.false_or]
  rw [if_neg (by simp), find?_only (by simp [hserve, c.isFirst_only, hgrp, hmay])]
  simp only [hgrp]

/-- R309: the group of a `vserve` that has performed. -/
theorem State.mailboxDone_g {s : State} {c : MboxCmd} {n : Nat} (hg : c.grp = s.g.id.uid) (he : s.g.ended = false) (hd : c.dest = .s n) (x : DWord) :
    (s.mailboxDone c x).g.regs = (s.g.setS n x).regs := by
  unfold State.mailboxDone
  refine (congrArg Group.regs (State.mirror_imaged _ _ _ _ _).g).trans ?_
  rw [State.modGroup_g _ hg, hd]
  simp only [he, Bool.false_eq_true, if_false]
  rfl

theorem State.mailboxDone_mailbox (s : State) (c : MboxCmd) (x : DWord) (die : BitVec 4) (num : BitVec 8) :
    (s.mailboxDone c x).mailbox die num = s.mailbox die num := by
  unfold State.mailboxDone State.mailbox
  rw [(State.mirror_imaged _ _ _ _ _).mailboxes]
  rfl

/-- R306, R309: a `vserve` judges the header of its action, and leaves the queue of its mailbox. -/
theorem State.serve_eq (s : State) (m : Mailbox) (c : MboxCmd) (g : Group) :
    let h := Claims.headerAt s g c.off
    ∃ m', s.serve m c g = (s.setMailbox m').mailboxDone c (BitVec.ofNat 64 (m.judge c.task h.len h.step h.gen h.status).2) ∧
      m'.die = m.die ∧ m'.num = m.num ∧ m'.cmds = m.cmds.erase c := by
  have hlen : 16 ≤ (s.spadBytes g c.off 4096).length := by rw [State.length_spadBytes]; omega
  have h0 : bitsOf (ofBytes ((s.spadBytes g c.off 4096).take 16)) 31 0 = (Claims.headerAt s g c.off).len := header_word hlen (k := 0) (by omega)
  have h1 : bitsOf (ofBytes ((s.spadBytes g c.off 4096).take 16)) 63 32 = (Claims.headerAt s g c.off).step := header_word hlen (k := 1) (by omega)
  have h2 : bitsOf (ofBytes ((s.spadBytes g c.off 4096).take 16)) 95 64 = (Claims.headerAt s g c.off).gen := header_word hlen (k := 2) (by omega)
  have h3 : bitsOf (ofBytes ((s.spadBytes g c.off 4096).take 16)) 127 96 = (Claims.headerAt s g c.off).status := header_word hlen (k := 3) (by omega)
  obtain ⟨hdie, hnum, hcmds⟩ := m.judge_keeps c.task (Claims.headerAt s g c.off).len (Claims.headerAt s g c.off).step
    (Claims.headerAt s g c.off).gen (Claims.headerAt s g c.off).status
  unfold State.serve
  simp only [h0, h1, h2, h3]
  refine ⟨_, rfl, ?_⟩
  split
  · exact ⟨hdie, hnum, congrArg (fun l : List MboxCmd => l.erase c) hcmds⟩
  · exact ⟨hdie, hnum, congrArg (fun l : List MboxCmd => l.erase c) hcmds⟩

/-- R309: VSERVE_PERFORM of the only command at a mailbox with no open step. -/
theorem vservePerform_only {s : State} {die : BitVec 4} {mbox : BitVec 8} {c : MboxCmd} {n : Nat} (hcmds : (s.mailbox die mbox).cmds = [c])
    (hserve : c.serve = true) (hopen : (s.mailbox die mbox).opened = none) (hobs : (s.mailbox die mbox).obs = []) (hp : s.g.id.present = true)
    (hg : c.grp = s.g.id.uid) (he : s.g.ended = false) (hmay : s.mayServe c s.g = true) (hd : c.dest = .s n) (hn : n < 64) :
    let h := Claims.headerAt s s.g c.off
    ∃ t, exec (.vservePerform die mbox) s = .next t ∧ (t.mailbox die mbox).cmds = [] ∧
      t.g.s n = BitVec.ofNat 64 ((s.mailbox die mbox).judge c.task h.len h.step h.gen h.status).2 ∧ ∀ k, k ≠ n → t.g.s k = s.g.s k := by
  obtain ⟨hdie, hnum⟩ := s.mailbox_name die mbox
  obtain ⟨m', hserved, hdie', hnum', hcmds'⟩ := s.serve_eq (s.mailbox die mbox) c s.g
  refine ⟨_, vservePerform_serves hcmds hserve hopen hobs hp hg hmay, ?_⟩
  have hregs := State.mailboxDone_g (s := s.setMailbox m') (c := c) hg he hd
    (BitVec.ofNat 64 ((s.mailbox die mbox).judge c.task (Claims.headerAt s s.g c.off).len (Claims.headerAt s s.g c.off).step
      (Claims.headerAt s s.g c.off).gen (Claims.headerAt s s.g c.off).status).2)
  rw [hserved]
  have hwrites := writesS_setS (s := s) hn hregs
  refine ⟨?_, hwrites.value, hwrites.rest⟩
  rw [State.mailboxDone_mailbox, State.mailbox_setMailbox _ (hdie'.trans hdie) (hnum'.trans hnum), hcmds', hcmds]
  simp

/-! ### `vcatch` (R310) -/

theorem State.spadPut_frame (g : Group) (serial : Nat) (n off : Nat) (bs : List Byte) (s : State) :
    (State.spadPut g serial off n bs s).mailboxes = s.mailboxes ∧ (State.spadPut g serial off n bs s).g = s.g := by
  induction n generalizing off bs s with
  | zero => exact ⟨rfl, rfl⟩
  | succ n ih =>
    unfold State.spadPut
    cases bs with
    | nil => exact ⟨rfl, rfl⟩
    | cons b rest =>
      simp only
      split
      · exact ih _ _ _
      · exact ih _ _ _

theorem Group.updateFlight_done (g : Group) (n : Nat) :
    ∀ f ∈ (g.updateFlight n (fun f => { f with done := true })).inflight, f.serial = n → f.done = true := by
  intro f hf hn
  obtain ⟨x, -, rfl⟩ := List.mem_map.1 hf
  by_cases hx : (x.serial == n) = true
  · simp only [hx, if_true]
  · simp only [hx, Bool.false_eq_true, if_false] at hn
    exact absurd (beq_iff_eq.2 hn) hx

/-- R310: the owner of a mailbox takes its first observation. -/
theorem Mailbox.take_first {m : Mailbox} {task : BitVec 40} {x : Message} {obs : List Message} (ho : m.owner = some task) (hm : m.obs = x :: obs) :
    m.take task = some ({ m with obs := obs }, x) := by
  simp [Mailbox.take, ho, hm]

/-- R310: a `vcatch` has performed: its mailbox is put back and its counter may fall. -/
def State.caught (s : State) (m : Mailbox) (c : MboxCmd) : State :=
  (s.setMailbox m).modGroup c.grp (fun g => g.updateFlight c.serial (fun f => { f with done := true }))

theorem State.caught_g (s : State) {m : Mailbox} {c : MboxCmd} (h : c.grp = s.g.id.uid) :
    (s.caught m c).g = s.g.updateFlight c.serial (fun f => { f with done := true }) := State.modGroup_g (s.setMailbox m) h _

theorem State.caught_mailbox (s : State) {m : Mailbox} {c : MboxCmd} {die : BitVec 4} {num : BitVec 8} (hd : m.die = die) (hn : m.num = num) :
    (s.caught m c).mailbox die num = m := s.mailbox_setMailbox hd hn

theorem State.mailbox_congr {s t : State} (h : s.mailboxes = t.mailboxes) (die : BitVec 4) (num : BitVec 8) : s.mailbox die num = t.mailbox die num := by
  unfold State.mailbox
  rw [h]

theorem State.logTask_g (s : State) (about : BitVec 40) (addr kind : Nat) (task : BitVec 40) (pc : Nat) (contents : List Byte) :
    (s.logTask about addr kind task pc contents).g = s.g := by
  obtain ⟨_, _, e⟩ := s.logTask_logged about addr kind task pc contents
  rw [e]

/-- R310: VCATCH_PERFORM of the only command at a mailbox with an observation. -/
theorem vcatchPerform_only {s : State} {die : BitVec 4} {mbox : BitVec 8} {c : MboxCmd} {x : Message} {obs : List Message}
    (hcmds : (s.mailbox die mbox).cmds = [c]) (hserve : c.serve = false) (hown : (s.mailbox die mbox).owner = some c.task)
    (hobs : (s.mailbox die mbox).obs = x :: obs) (hp : s.g.id.present = true) (hg : c.grp = s.g.id.uid) (hout : ∀ e ∈ s.g.outq, e.id ∉ c.after) :
    ∃ t, exec (.vcatchPerform die mbox) s = .next t ∧ (t.mailbox die mbox).cmds = [] ∧ (t.mailbox die mbox).obs = obs ∧
      t.g.regs = s.g.regs ∧ ∀ f ∈ t.g.inflight, f.serial = c.serial → f.done = true := by
  have hgrp : s.group c.grp = some s.g := hg ▸ State.group_port hp
  have htake := Mailbox.take_first hown hobs
  obtain ⟨hdie, hnum⟩ := s.mailbox_name die mbox
  have hexec : exec (.vcatchPerform die mbox) s = .next (State.spadPut s.g c.serial c.off 4096 x.bytes
      ((s.logTask s.g.id.task (die.toNat * 256 + mbox.toNat) 4 s.g.id.task 0 x.bytes).caught
        { s.mailbox die mbox with obs := obs, cmds := [c].erase c } c)) := by
    change execVcatchPerform die mbox s = _
    unfold execVcatchPerform
    simp only [hcmds]
    rw [find?_only (by simp [hserve, c.isFirst_only, hgrp, htake]; exact hout)]
    simp only [htake, hgrp]
    rw [hcmds]
    rfl
  have hlog := s.logTask_g s.g.id.task (die.toNat * 256 + mbox.toNat) 4 s.g.id.task 0 x.bytes
  refine ⟨_, hexec, ?_⟩
  generalize s.logTask s.g.id.task (die.toNat * 256 + mbox.toNat) 4 s.g.id.task 0 x.bytes = u at hlog
  have hcaught := u.caught_g (m := { s.mailbox die mbox with obs := obs, cmds := [c].erase c }) (hg.trans (congrArg (fun g : Group => g.id.uid) hlog.symm))
  have hmail := u.caught_mailbox (m := { s.mailbox die mbox with obs := obs, cmds := [c].erase c }) (c := c) hdie hnum
  obtain ⟨hbox, hgroup⟩ := State.spadPut_frame s.g c.serial 4096 c.off x.bytes (u.caught { s.mailbox die mbox with obs := obs, cmds := [c].erase c } c)
  rw [hlog] at hcaught
  rw [State.mailbox_congr hbox, hmail, hgroup, hcaught]
  exact ⟨by simp, rfl, rfl, s.g.updateFlight_done c.serial⟩

end Sys2Proof.Machine
end

section
/-! PROOF. O60: window, ring and queue-register happenings complete. -/

namespace Sys2Proof.Machine

/-! ### A merged value at home (R171, R238) -/

/-- What a write at home leaves alone of the groups and the windows. -/
structure Homed (s t : State) : Prop where
  g : t.g = s.g
  others : t.others = s.others
  windows : t.windows = s.windows
  contribs : t.contribs = s.contribs

theorem Homed.refl (s : State) : Homed s s := ⟨rfl, rfl, rfl, rfl⟩
theorem Homed.trans {s t u : State} (h : Homed s t) (k : Homed t u) : Homed s u :=
  ⟨k.g.trans h.g, k.others.trans h.others, k.windows.trans h.windows, k.contribs.trans h.contribs⟩

theorem State.noteClean_homed (s : State) (root va : Nat) (b : Bool) : Homed s (s.noteClean root va b) := by
  unfold State.noteClean
  split
  · exact .refl s
  · split
    · exact .refl s
    · simp only
      split
      · exact ⟨rfl, rfl, rfl, rfl⟩
      · split
        · exact ⟨rfl, rfl, rfl, rfl⟩
        · exact .refl s

theorem foldl_noteClean_homed (l : List (Nat × Nat)) (f : Nat × Nat → Bool) (s : State) :
    Homed s (l.foldl (fun t x => t.noteClean x.1 x.2 (f x)) s) := by
  induction l generalizing s with
  | nil => exact .refl s
  | cons x l ih => exact (s.noteClean_homed _ _ _).trans (ih _)

/-- R171: a part of a good sector is written. -/
theorem State.sectorWritten_good {s : State} {k : Nat} (hp : sectorOf k ∉ s.poison) (hf : sectorOf k ∉ s.failing) (grp : Nat) (l : Loc) (va : Nat) :
    s.sectorWritten grp l va k false = s.renew (fun x => x == sectorOf k) (fun _ => false) := by
  simp [State.sectorWritten, hp, hf]

/-- R185: with no page on the move a write goes to one place. -/
theorem State.alsoNew_still {s : State} (h : s.migs = []) (k : Nat) : s.alsoNew k = s := by simp [State.alsoNew, h]

/-- R171, R185: a write of a part of a good sector of device memory, with no page on the move. -/
theorem State.arrive_good {s : State} {k : Nat} (hp : sectorOf k ∉ s.poison) (hf : sectorOf k ∉ s.failing) (hm : s.migs = []) (grp va n v : Nat) :
    Homed s (s.arrive grp (.mem k) va n v false) ∧ (s.arrive grp (.mem k) va n v false).mem = Memory.writeBytes s.mem k (toBytes n v) := by
  unfold State.arrive State.noting
  simp only [State.keyOf]
  rw [State.homeWrite_mem, State.sectorWritten_good (s := { s with mem := Memory.writeBytes s.mem k (toBytes n v) }) hp hf]
  rw [State.alsoNew_still (s := State.renew { s with mem := Memory.writeBytes s.mem k (toBytes n v) } _ _) hm]
  exact ⟨Homed.trans (t := State.renew { s with mem := Memory.writeBytes s.mem k (toBytes n v) } (fun x => x == sectorOf k) (fun _ => false))
    ⟨rfl, rfl, rfl, rfl⟩ (foldl_noteClean_homed _ (fun x => s.cleanAt x.1 x.2) _), foldl_noteClean_mem _ (fun x => s.cleanAt x.1 x.2) _⟩

theorem toBytes_mod (n v : Nat) : toBytes n (v % 256 ^ n) = toBytes n v := by
  induction n generalizing v with
  | zero => rfl
  | succ n ih =>
    have hdiv : v % 256 ^ (n + 1) / 256 = v / 256 % 256 ^ n := by rw [Nat.pow_succ', Nat.mod_mul_right_div_self]
    have hlow : v % 256 ^ (n + 1) % 256 = v % 256 := Nat.mod_mod_of_dvd _ (Dvd.intro_left (256 ^ n) (Nat.pow_succ 256 n).symm)
    have hbyte : BitVec.ofNat 8 (v % 256 ^ (n + 1)) = BitVec.ofNat 8 v := by
      apply BitVec.eq_of_toNat_eq
      rw [BitVec.toNat_ofNat, BitVec.toNat_ofNat]
      exact hlow
    rw [toBytes, toBytes, hdiv, ih, hbyte]

/-- R171, R225: a merged value reaches a good sector of HOME's memory. -/
theorem State.homeMerge_writes {s : State} {w : Window} {c : Contribution} {x : Target} {k off : Nat} (hhome : w.home = s.module.toNat)
    (hx : s.translate none c.root ((w.base + off : Nat) : Int) .read = .ok x) (hloc : x.loc = .mem k) (hmig : x.mig = false)
    (hp : k / 32 ∉ s.poison) (hf : k / 32 ∉ s.failing) (hm : s.migs = []) (ht : s.tracked = []) (v : Nat) :
    ∃ t, s.homeMerge w (some c) off v = some t ∧ Homed s t ∧ t.mem = Memory.writeBytes s.mem k (toBytes w.element v) := by
  have hmove : s.moveHolds x = false := by rw [State.moveHolds, hmig, State.lineHeld_still hm, Bool.or_self]
  have hmerge : s.homeMerge w (some c) off v = some (((s.observe none (.mem k) (w.base + off) 0 true false).homeArrive c.grp (.mem k) (w.base + off)
      w.element v false).setTags (.mem k) w.element none) := by
    unfold State.homeMerge
    simp only [hhome, ne_eq, not_true_eq_false, if_false, hx, hmove, hloc, State.preparePage, State.writeHeld_still hm ht, Option.map_some,
      Option.getD_some, Bool.false_eq_true]
  obtain ⟨ds, hobs⟩ := s.observe_outside (.mem k) (w.base + off) 0 true false
  obtain ⟨hframe, hmem⟩ := State.arrive_good (s := { s with recorders := ds }) (k := k) hp hf hm c.grp (w.base + off) w.element v
  have hraise := congrArg Prod.fst (State.homeRaise_untracked (s := { s with recorders := ds }) ht c.grp (.mem k) (w.base + off) w.element v false)
  refine ⟨_, hmerge, ?_⟩
  rw [hobs, State.homeArrive, hraise]
  exact ⟨⟨hframe.g, hframe.others, hframe.windows, hframe.contribs⟩, hmem⟩

/-! ### Epochs (R238, R239) -/

/-- R238: this module's contribution is all that an epoch holds of which no other member's has come. -/
theorem State.epochInputs_own (s : State) {w : Window} (h : w.arrived = []) (c : Contribution) (off : Nat) :
    s.epochInputs w (some c) off = [(s.module.toNat, c.data.toNat)] := by
  simp [State.epochInputs, h, sortBy, insertBy]

theorem State.modWindow_only {s : State} {w : Window} (h : s.windows = [w]) (f : Window → Window) :
    s.modWindow w.id f = { s with windows := [f w] } := by
  simp [State.modWindow, updateWhere, h]

/-- R238, R239: an epoch to which every other member is absent merges this module's contribution. -/
theorem State.mergeEpoch_own {s t : State} {w : Window} {c : Contribution} (hw : s.windows = [w]) (hc : s.contribs = [c]) (hb : c.base = w.base)
    (hsize : c.off < w.size) (halign : c.off % w.element = 0) (harr : w.arrived = [])
    (habs : ∀ m, w.first ≤ m → m < w.first + w.nmem → m ≠ s.module.toNat → m ∈ w.absent)
    (hmerge : s.homeMerge w (some c) c.off (c.data.toNat % 256 ^ w.element) = some t) (hframe : Homed s t) :
    ∃ u, s.mergeEpoch w c.off false = u ∧ u.mem = t.mem ∧ u.g = t.g ∧ u.others = t.others ∧ u.contribs = [] ∧
      u.windows.map (fun v => v.epochs) = [w.epochs + 1] := by
  have hown : s.contribs.find? (fun x => x.base == w.base && x.off == c.off) = some c := by simp [hc, hb]
  have hfull : ((List.range w.nmem).map (w.first + ·)).all (fun m =>
      [(s.module.toNat, c.data.toNat)].any (fun x => x.1 == m) || w.absent.contains m) = true := by
    refine List.all_eq_true.2 fun m hm => ?_
    obtain ⟨hlo, hhi⟩ := mem_map_add_range.1 hm
    by_cases hme : m = s.module.toNat
    · simp [hme]
    · simp [habs m hlo hhi hme]
  refine ⟨_, rfl, ?_⟩
  unfold State.mergeEpoch
  simp only [hown, s.epochInputs_own harr, hfull, Bool.or_true, Bool.not_true, Bool.false_eq_true, or_false]
  rw [if_neg (by omega)]
  simp only [List.foldl_nil, hmerge]
  have htw : t.windows = [w] := hframe.windows.trans hw
  rw [State.modWindow_only (s := { t with contribs := t.contribs.filter (fun x => !(x.base == w.base && x.off == c.off)) }) htw]
  refine ⟨rfl, rfl, rfl, ?_, rfl⟩
  rw [hframe.contribs, hc]
  simp [hb]

/-- R238, R239: EPOCH_MERGE of this module's contribution, every other member being absent. -/
theorem epochMerge_own {s : State} {w : Window} {c : Contribution} {k : Nat} (hw : s.windows = [w]) (hbase : w.base < 2 ^ 64) (hc : s.contribs = [c])
    (hb : c.base = w.base) (hsize : c.off < w.size) (halign : c.off % w.element = 0) (harr : w.arrived = []) (hhome : w.home = s.module.toNat)
    (habs : ∀ m, w.first ≤ m → m < w.first + w.nmem → m ≠ s.module.toNat → m ∈ w.absent)
    (hx : ∃ x : Target, s.translate none c.root ((w.base + c.off : Nat) : Int) .read = .ok x ∧ x.loc = .mem k ∧ x.mig = false)
    (hp : k / 32 ∉ s.poison) (hf : k / 32 ∉ s.failing) (hm : s.migs = []) (ht : s.tracked = []) (hwf : Memory.wf s.mem = true) :
    ∃ t, exec (.epochMerge (BitVec.ofNat 64 w.base) c.off []) s = .next t ∧ Claims.Writes s t k w.element c.data.toNat ∧ t.contribs = [] ∧
      t.g = s.g ∧ t.others = s.others ∧ t.windows.map (fun v => v.epochs) = [w.epochs + 1] := by
  obtain ⟨x, hx, hloc, hmig⟩ := hx
  obtain ⟨t, hmerge, hframe, hmem⟩ := State.homeMerge_writes hhome hx hloc hmig hp hf hm ht (c.data.toNat % 256 ^ w.element)
  obtain ⟨u, hu, humem, hug, huo, huc, huw⟩ := State.mergeEpoch_own hw hc hb hsize halign harr habs hmerge hframe
  have hfind : s.windows.find? (fun v => v.base == (BitVec.ofNat 64 w.base).toNat && decide (c.off < v.size)) = some w := by
    rw [hw, BitVec.toNat_ofNat, Nat.mod_eq_of_lt hbase]
    exact find?_only (by simp [hsize])
  have hsame : s.modWindow w.id (fun _ => w) = s := by rw [State.modWindow_only hw, ← hw]
  have hexec : exec (.epochMerge (BitVec.ofNat 64 w.base) c.off []) s = .next u := by
    change execEpochMerge _ c.off [] s = _
    unfold execEpochMerge
    rw [hfind]
    simp only [List.foldl_nil, hsame, hu]
  refine ⟨u, hexec, writes_of_mem hwf ?_, huc, hug.trans hframe.g, huo.trans hframe.others, huw⟩
  rw [humem, hmem, toBytes_mod]

/-! ### Members and chunks (R239, R242) -/

/-- R239: MEMBER_ABSENT of another module. -/
theorem memberAbsent_other {s : State} {w : Window} {m : Nat} (hw : s.windows = [w]) (hc : s.colls = []) (hme : m ≠ s.module.toNat)
    (hlo : w.first ≤ m) (hhi : m < w.first + w.nmem) (habs : m ∉ w.absent) :
    exec (.memberAbsent m) s = .next { s with windows := [{ w with absent := w.absent ++ [m] }] } := by
  change execMemberAbsent m s = _
  unfold execMemberAbsent
  simp only [hw, hc, List.map_cons, List.map_nil]
  rw [if_pos ⟨hlo, hhi, hme, by simpa using habs⟩, ← hc]

/-- R242: CHUNK_HOP of a chunk that starts at this member. -/
theorem chunkHop_first {s : State} {c : Collective} {chunk m : Nat} (hf : s.colls.find? (fun x => x.id == c.id) = some c) (hk : chunk < c.nmem)
    (hhead : (c.route chunk).head? = some s.module.toNat) (hlast : (c.route chunk).getLast? ≠ some s.module.toNat)
    (hwritten : ∀ y ∈ c.written, y.1 ≠ chunk) (hpassed : ∀ p ∈ s.passed, p.coll = c.id → p.chunk ≠ chunk)
    (hnext : c.nextLive s.module.toNat = some m) (hm : m ≠ s.module.toNat) :
    let out := (List.range c.chunk).map (fun e => s.hop c chunk e none)
    exec (.chunkHop c.id chunk [] []) s = .next { s with passed := s.passed ++
      [{ coll := c.id, chunk := chunk, next := m, data := out, contributed := [s.module.toNat] }] } := by
  have hw : c.written.any (fun w => w.1 == chunk) = false := List.any_eq_false.2 fun y hy => by simp [hwritten y hy]
  have hp : s.passed.any (fun p => p.coll == c.id && p.chunk == chunk) = false := List.any_eq_false.2 fun p hp => by
    by_cases hid : p.coll = c.id
    · simp [hpassed p hp hid]
    · simp [hid]
  have hstranded : s.stranded c chunk [] [] = none := List.find?_eq_none.2 fun p hp => by
    by_cases hid : p.coll = c.id
    · simp [hpassed p hp hid]
    · simp [hid]
  have hmine : s.module.toNat ∈ c.route chunk := List.mem_of_head? hhead
  change execChunkHop c.id chunk [] [] s = _
  unfold execChunkHop
  simp only [hf, hstranded]
  rw [if_neg (Nat.ne_of_lt hk), if_neg (by simp [hmine, hw, State.handled, hp, hhead, Nat.not_lt.2 (Nat.le_of_lt hk)])]
  simp [hlast, State.passOn, hnext, hm]

/-! ### Registers of a queue pair (R321, R323, R325) -/

/-- R321, R323: a write of HQTAIL of a pair in RUNNING. -/
theorem State.writeTail_running {s : State} (h : s.bootStage = 3) (n : BitVec 4) (v : BitVec 64) : s.writeTail n v = s.modPair n (fun p =>
    if v.getLsbD 63 then { p with tail := v.setWidth 12, stall := false, take := (v.setWidth 12).toNat % p.sqSize }
    else { p with tail := v.setWidth 12 }) := by
  rw [State.writeTail, if_neg (not_not.2 h)]

/-- The pair of a number as a change of it leaves it. -/
theorem State.pair_modPair_found {s : State} {n : BitVec 4} {p : QueuePair} (h : s.pairs.find? (fun q => q.num == n.toNat) = some p)
    {f : QueuePair → QueuePair} (hf : ∀ p, (f p).num = p.num) : (s.modPair n f).pair n = f p := by
  have hpair : s.pair n = p := by rw [State.pair, h]; rfl
  rw [State.pair_modPair s n f hf ⟨p, List.mem_of_find?_eq_some h, by simpa using List.find?_some h⟩, hpair]

theorem State.field_modPair {α : Type} (field : QueuePair → α) {s : State} {n : BitVec 4} {p : QueuePair}
    (h : s.pairs.find? (fun q => q.num == n.toNat) = some p) {f : QueuePair → QueuePair} (hf : ∀ p, (f p).num = p.num) :
    field ((s.modPair n f).pair n) = field (f p) := congrArg field (State.pair_modPair_found h hf)

/-- R321: REGISTER_WRITE of the first register of a pair. -/
theorem registerWrite_sqb (s : State) (n : BitVec 4) (v : BitVec 64) :
    exec (.registerWrite (0x8_0000_0000_0000 + 0x100 * n.toNat) v) s = .next (s.modPair n (fun p => { p with sqb := v })) := by
  have hn := n.isLt
  generalize haddr : 0x8_0000_0000_0000 + 0x100 * n.toNat = addr
  have hoff : addr - 0x8_0000_0000_0000 = 0x100 * n.toNat := by omega
  have hpair : BitVec.ofNat 4 (0x100 * n.toNat / 256) = n := by
    rw [Nat.mul_div_cancel_left _ (by omega), BitVec.ofNat_toNat, BitVec.setWidth_eq]
  have hreg : 0x100 * n.toNat % 256 = 0 := by omega
  change execRegisterWrite addr v s = _
  unfold execRegisterWrite
  simp only [hoff, hpair, hreg]
  rw [if_neg (by omega)]

/-- R321, R323, R325: writes of the registers of a queue pair. -/
theorem pairRegisters_written {s : State} {n : BitVec 4} {p : QueuePair} (v : BitVec 64) (hp : s.pairs.find? (fun q => q.num == n.toNat) = some p)
    (hb : s.bootStage = 3) :
    (v.getLsbD 63 = false → ∃ t, exec (.hqtailDoorbell n v) s = .next t ∧ t = { s with pairs := t.pairs } ∧
      t.pair n = { p with tail := v.setWidth 12 }) ∧
    (v.getLsbD 63 = true → ∃ t, exec (.hqtailResync n v) s = .next t ∧ t = { s with pairs := t.pairs } ∧ (t.pair n).stall = false ∧
      (t.pair n).tail = v.setWidth 12 ∧ (t.pair n).sub = p.sub) ∧
    (∃ t, exec (.hqheadWrite n v) s = .next t ∧ t = { s with pairs := t.pairs } ∧ (t.pair n).head = v.setWidth 12) ∧
    (∃ t, exec (.registerWrite (0x8_0000_0000_0000 + 0x100 * n.toNat) v) s = .next t ∧ t = { s with pairs := t.pairs } ∧
      t.pair n = { p with sqb := v }) := by
  have htail := State.writeTail_running hb n v
  refine ⟨fun h => ⟨_, rfl, ?_⟩, fun h => ⟨_, rfl, ?_⟩, ⟨_, rfl, rfl, ?_⟩, ⟨_, registerWrite_sqb s n v, rfl, ?_⟩⟩
  · simp only [h, Bool.false_eq_true, if_false] at htail
    rw [htail]
    exact ⟨rfl, State.pair_modPair_found hp fun _ => rfl⟩
  · simp only [h, if_true] at htail
    rw [htail]
    exact ⟨rfl, State.field_modPair QueuePair.stall hp fun _ => rfl, State.field_modPair QueuePair.tail hp fun _ => rfl,
      State.field_modPair QueuePair.sub hp fun _ => rfl⟩
  · exact State.field_modPair QueuePair.head hp fun _ => rfl
  · exact State.pair_modPair_found hp fun _ => rfl

/-- Settles O60: each happening finds the request, the command or the contribution that the statement names, and its effect is written out by the
lemma of that happening. -/
theorem happeningsComplete : Obligations.HappeningsComplete := by
  unfold Obligations.HappeningsComplete
  refine ⟨?_, ?_, ?_, ?_, ?_, ?_, ?_, ?_, ?_, ?_⟩
  · exact fun s pme r hr hu hc hd ho hf => pmeGrant_only hr hu hc hd ho hf
  · exact fun s pme r hr hm ht => passComplete_any hr hm ht
  · exact fun s pme d x mul r f h he hc hd => result_registers h he hc hd
  · exact fun s die mbox c n hcmds hserve hopen hobs hp hg he hmay hd hn => vservePerform_only hcmds hserve hopen hobs hp hg he hmay hd hn
  · exact fun s die mbox c x obs hcmds hserve hown hobs hp hg hout => vcatchPerform_only hcmds hserve hown hobs hp hg hout
  · exact fun s w c k hw hbase hc hb hsize halign harr hhome habs hx hp hf hm ht hwf =>
      epochMerge_own hw hbase hc hb hsize halign harr hhome habs hx hp hf hm ht hwf
  · exact fun s w m hw hc hme hlo hhi habs => memberAbsent_other hw hc hme hlo hhi habs
  · exact fun s c chunk m hf hk hhead hlast hwritten hpassed hnext hm => chunkHop_first hf hk hhead hlast hwritten hpassed hnext hm
  · exact fun s l => rfl
  · exact fun s n v p hp hb => pairRegisters_written v hp hb

end Sys2Proof.Machine
end

section
/-! PROOF. O29: gang-wide commands as they issue: the first member of a gang, and a gang of one. -/

namespace Sys2Proof.Machine

/-! ### What stops no gang-wide command (R126-R129, R134-R139) -/

/-- R426: what the group at the port brings to a gang-wide command: its handle, the format block there, and its operand registers. -/
def State.gangMember (s : State) (op : PassOp) (d : BitVec 7) (a b : BitVec 8) (np nq : Nat) : Member :=
  s.member op (handleOf (s.g.s d.toNat)) (blockOf (Claims.blockNumber s op (handleOf (s.g.s d.toNat)))) (s.g.regsFrom a.toNat np)
    (s.g.regsFrom b.toNat nq) (s.g.absorbFrom a.toNat np) (s.g.absorbFrom b.toNat nq)

theorem exec_gangForm {i : Instr} {op : PassOp} {d : BitVec 7} {a b : BitVec 8} {np nq : Nat}
    (hf : Claims.gangForm i = some (op, d, a, b, np, nq)) (s : State) : exec i s = .next (s.gangWide i op d a b np nq) := by
  unfold Claims.gangForm at hf
  split at hf <;> cases hf <;> rfl

/-- R429: `mmd.ld` reads no format block. -/
theorem blockOf_blockNumber (s : State) (op : PassOp) (h : Handle) : (if op = .mmdLd then noBlock else blockOf
    (if op = .mmdLd then 0 else ofBytes (s.spadBytes s.g h.spad 64))) = blockOf (Claims.blockNumber s op h) := by
  unfold Claims.blockNumber
  split <;> rfl

/-- A check that is made for some commands alone. -/
theorem decide_and_false {q : Prop} [Decidable q] {b : Bool} (h : q → b = false) : (decide q && b) = false := by
  by_cases hq : q
  · rw [h hq, Bool.and_false]
  · rw [decide_eq_false hq, Bool.false_and]

/-- R134: a gang-wide command that nothing stops comes to its pairing. -/
theorem gangWide_posts {i : Instr} {s : State} {op : PassOp} {d : BitVec 7} {a b : BitVec 8} {np nq : Nat} (h : Clear i s)
    (hg : Claims.GangClear s op (handleOf (s.g.s d.toNat)) ((List.range np).map (fun k => s.g.v (a.toNat + k)))) :
    s.gangWide i op d a b np nq = s.settle i (usesOf (s.g.streamAt s.port) i) (s.postPass i (s.gangMember op d a b np nq)) := by
  have hblock := decide_and_false fun ho => congrArg (!·) (hg.block ho)
  have hfull : s.g.counterFull 4 = false := Group.counterFull_false hg.counter
  have htable : ¬16 ≤ s.reserved (clusterOf s.g.id.core) := Nat.not_le.2 hg.table
  unfold State.gangWide
  rw [issue_of_clear h]
  simp only [blockOf_blockNumber, hg.handle, hg.reads, Bool.and_false, Bool.or_self, Bool.false_eq_true, if_false, decide_and_false hg.tiles]
  rw [← Claims.blockNumber]
  simp only [hblock, Group.regsFrom, decide_and_false hg.sparse, hfull, htable, Bool.false_eq_true, if_false, decide_false, Bool.or_self]
  rfl

/-! ### The first member, and a gang of one (R126) -/

/-- R79, R126: a slot that waits at an instruction which has issued stands at it, and the step has changed what its act did. -/
theorem settle_wait_stands {i : Instr} {s : State} (u : Uses) {w : Wait} (t : State) (hp : s.port ≠ .setter) (hw : w.parksGroup = false) :
    let v := s.settle i u (.wait w t)
    v = t.onGroup (fun _ => v.g) ∧ v.g.regs = t.g.regs ∧ v.g.pairs = t.g.pairs ∧ v.g.waitAt s.port = w ∧ v.g.pcAt s.port = t.g.pcAt s.port := by
  have hg : (s.settle i u (.wait w t)) = t.onGroup (fun g => ((g.popAll s.port u.pops).park s.port u w).setSlot s.port
      { ((g.popAll s.port u.pops).park s.port u w).slot s.port with held := s.g.poppedBy s.port u }) := by
    unfold State.settle
    cases hport : s.port with
    | setter => exact absurd hport hp
    | slot0 => simp [hw]
    | slot1 => simp [hw]
  intro v
  have hv : v = _ := hg
  rw [hv]
  generalize s.port = p at hp
  have hpops : ∀ g : Group, (g.popAll p u.pops).slot p = g.slot p := fun g =>
    Group.slot_eq (Group.popAll_slot0 _ _ _) (Group.popAll_slot1 _ _ _)
  have hpark : ∀ g : Group, (g.park p u w).regs = g.regs ∧ (g.park p u w).pairs = g.pairs ∧ (g.park p u w).slot p =
      { (if g.isMember p u then g.slot p else (g.slot p).switch) with wait := w } := by
    intro g
    cases p with
    | setter => exact absurd rfl hp
    | slot0 => exact ⟨rfl, rfl, rfl⟩
    | slot1 => exact ⟨rfl, rfl, rfl⟩
  obtain ⟨hregs, hpairs, hslot⟩ := hpark (t.g.popAll p u.pops)
  refine ⟨rfl, ?_, ?_, ?_, ?_⟩
  · simp [hregs]
  · simp [hpairs]
  · rw [Group.waitAt_hitter _ hp, State.onGroup_g, Group.slot_setSlot_same _ _ _ hp, hslot]
  · rw [Group.pcAt_hitter _ _ hp, Group.pcAt_hitter _ _ hp, State.onGroup_g, Group.slot_setSlot_same _ _ _ hp, hslot, hpops]
    split <;> rfl

/-- R126, R134: the request of a gang-wide command is posted, and its member counts a pairing. -/
def State.posting (s : State) (m : Member) : State :=
  (s.post (.pass s.g.id.gang s.g.id.gidx.toNat (s.g.pairs + 1) m) .none (s.g.maskAt s.port) false).onGroup (fun g =>
    { g with pairs := s.g.pairs + 1 })

/-- The request that it posts. -/
def State.passRequest (s : State) (m : Member) : PmeReq where
  id := s.nextUid
  pme := clusterOf s.g.id.core
  grp := s.g.id.uid
  team := s.g.id.team
  serial := s.g.serial
  core := s.g.id.core
  level := s.g.modes.prioLevel
  order := s.nextUid
  grants := 0
  granted := false
  checked := true
  dispatched := false
  cmd := .pass s.g.id.gang s.g.id.gidx.toNat (s.g.pairs + 1) m

theorem State.posting_pme (s : State) (m : Member) : (s.posting m).pme = s.pme ++ [s.passRequest m] := rfl

/-- R115, R126, R134: what a step leaves that posts the request of a gang-wide command: the request, checked or not, and its pairing. -/
structure PostsPass (s t : State) (m : Member) (checked : Bool) : Prop where
  mem : t.mem = s.mem
  acc : t.acc = s.acc
  regs : t.g.regs = s.g.regs
  pairs : t.g.pairs = s.g.pairs + 1
  request : { s.passRequest m with checked := checked } ∈ t.pme

/-- R126: the request of the first member, which stays unchecked. -/
def State.postingFirst (s : State) (m : Member) : State :=
  { s.posting m with
    pme := (s.posting m).pme.map (fun r => if r.id = s.nextUid then { r with checked := false } else r)
    g := { (s.posting m).g with serial := (s.posting m).g.serial + 1 } }

/-- R126, R132: the request of a gang of one, which is checked, and its draw. -/
def State.postingAlone (s : State) (m : Member) : State :=
  { s.posting m with
    pme := (s.posting m).pme.map (fun (r : PmeReq) => match r.cmd with
      | .pass a b c _ => if a = s.g.id.gang ∧ b = s.g.id.gidx.toNat ∧ c = s.g.pairs + 1 then { r with checked := true } else r
      | _ => r) }.onGroup (fun g => if decide (m.block.rnd = 5) && decide (m.op ≠ PassOp.mmdLd) then g.countDraw s.port else g)

theorem State.passRequest_mem_posting (s : State) (m : Member) : s.passRequest m ∈ (s.posting m).pme :=
  List.mem_append_right _ (List.mem_singleton.2 rfl)

/-- R99, R132: under stochastic rounding the draw is counted, but for a replay. -/
theorem State.postingAlone_rngctr (s : State) (m : Member) : (s.postingAlone m).g.modes.rngctr =
    if decide (m.block.rnd = 5) && decide (m.op ≠ PassOp.mmdLd) && (s.g.slot s.port).replay.isNone then s.g.modes.rngctr + 1
    else s.g.modes.rngctr := by
  have hslot : (s.posting m).g.slot s.port = s.g.slot s.port := by cases s.port <;> rfl
  unfold State.postingAlone
  rw [State.onGroup_g]
  cases decide (m.block.rnd = 5) && decide (m.op ≠ PassOp.mmdLd) with
  | false => rfl
  | true =>
    simp only [if_true, Bool.true_and, Group.countDraw]
    rw [hslot]
    cases (s.g.slot s.port).replay <;> rfl

/-- R126: the first member of a gang of several waits at its command, its request unchecked. -/
theorem postPass_first {i : Instr} {s : State} {m : Member} (hp : s.port ≠ .setter)
    (hothers : (s.paired s.g.id.gang s.g.id.gidx.toNat (s.g.pairs + 1)).filter (fun r => r.grp != s.g.id.uid) = []) (hsize : 1 < m.size)
    (hgang : m.size ≤ (s.gangGroups s.g.id.gang s.g.id.gidx).length) :
    let t := s.settle i (usesOf (s.g.streamAt s.port) i) (s.postPass i m)
    PostsPass s t m false ∧ t.g.waitAt s.port = .gang (s.g.pairs + 1) ∧ t.g.pcAt s.port = s.g.pcAt s.port := by
  have hact : s.postPass i m = .wait (.gang (s.g.pairs + 1)) (s.postingFirst m) := by
    unfold State.postPass
    simp only [hothers, List.length_nil, Nat.zero_add]
    rw [if_neg (by omega), if_pos hsize]
    rfl
  have hpc : (s.postingFirst m).g.pcAt s.port = s.g.pcAt s.port := by cases s.port <;> rfl
  intro t
  obtain ⟨hv, hregs, hpairs, hwait, hstands⟩ := settle_wait_stands (i := i) (usesOf (s.g.streamAt s.port) i) (w := .gang (s.g.pairs + 1))
    (s.postingFirst m) hp rfl
  rw [← hact] at hv hregs hpairs hwait hstands
  refine ⟨⟨(congrArg State.mem hv :), (congrArg State.acc hv :), hregs, hpairs, ?_⟩, hwait, hstands.trans hpc⟩
  rw [show t.pme = (s.postingFirst m).pme from (congrArg State.pme hv :)]
  exact List.mem_map.2 ⟨_, s.passRequest_mem_posting m, if_pos rfl⟩

/-- R126, R132: the request of a gang of one is checked at once, its draw is counted, and the instruction goes on. -/
theorem postPass_alone {i : Instr} {s : State} {m : Member} (hc : Clear i s)
    (hothers : (s.paired s.g.id.gang s.g.id.gidx.toNat (s.g.pairs + 1)).filter (fun r => r.grp != s.g.id.uid) = []) (hsize : m.size ≤ 1) :
    let t := s.settle i (usesOf (s.g.streamAt s.port) i) (s.postPass i m)
    PostsPass s t m true ∧ Steps i s t ∧ t.g.modes.rngctr =
      if decide (m.block.rnd = 5) && decide (m.op ≠ PassOp.mmdLd) && (s.g.slot s.port).replay.isNone then s.g.modes.rngctr + 1
      else s.g.modes.rngctr := by
  have hact : s.postPass i m = .run (s.postingAlone m) := by
    unfold State.postPass
    simp only [hothers, List.length_nil, Nat.zero_add]
    rw [if_neg (by omega), if_neg (by omega), List.all_nil, if_pos rfl]
    rfl
  have hshape : (s.postingAlone m).g = { (s.posting m).g with modes := (s.postingAlone m).g.modes } := by
    unfold State.postingAlone
    rw [State.onGroup_g]
    split
    · exact Group.countDraw_shape _ _
    · rfl
  have hslot : (s.postingAlone m).g.slot s.port = s.g.slot s.port := by rw [hshape]; cases s.port <;> rfl
  have hpc : (s.postingAlone m).g.pcAt s.port = s.g.pcAt s.port := by rw [hshape]; cases s.port <;> rfl
  intro t
  have ht : t = (s.postingAlone m).onGroup (fun g => s.g.retire g s.port i (usesOf (s.g.streamAt s.port) i) none false) :=
    congrArg (s.settle i (usesOf (s.g.streamAt s.port) i)) hact
  rw [ht]
  refine ⟨⟨rfl, rfl, ?_, ?_, ?_⟩, ?_, ?_⟩
  · rw [State.onGroup_g, Group.retire_regs, hshape]
    rfl
  · rw [State.onGroup_g, Group.retire_pairs, hshape]
    rfl
  · refine List.mem_map.2 ⟨_, s.passRequest_mem_posting m, ?_⟩
    simp [State.passRequest]
  · rw [Steps, State.onGroup_g, Group.retire_pcAt _ _ _ _ _ _ _ (by rw [hslot]; exact hc.here), hpc]
    rfl
  · rw [State.onGroup_g, Group.retire_modes]
    exact State.postingAlone_rngctr s m

/-- R123, R126, R132, R134, R426: a gang-wide command that nothing stops, and for which no partner has posted a request. -/
theorem gangWide_first {i : Instr} {s : State} {op : PassOp} {d : BitVec 7} {a b : BitVec 8} {np nq : Nat}
    (hf : Claims.gangForm i = some (op, d, a, b, np, nq)) (hp : s.port ≠ .setter) (hc : Clear i s) :
    let h := handleOf (s.g.s d.toNat)
    let p := (List.range np).map (fun k => s.g.v (a.toNat + k))
    let q := (List.range nq).map (fun k => s.g.v (b.toNat + k))
    Claims.GangClear s op h p → (s.paired s.g.id.gang s.g.id.gidx.toNat (s.g.pairs + 1)).filter (fun r => r.grp != s.g.id.uid) = [] →
    (1 < s.g.id.gangSize.toNat → s.g.id.gangSize.toNat ≤ (s.gangGroups s.g.id.gang s.g.id.gidx).length) →
    ∃ t m, exec i s = .next t ∧ t.mem = s.mem ∧ t.acc = s.acc ∧ t.g.regs = s.g.regs ∧ t.g.pairs = s.g.pairs + 1 ∧
      (∃ r ∈ t.pme, r.cmd = .pass s.g.id.gang s.g.id.gidx.toNat (s.g.pairs + 1) m ∧ r.grp = s.g.id.uid ∧ r.serial = s.g.serial ∧
        r.checked = decide (s.g.id.gangSize.toNat ≤ 1)) ∧
      m.op = op ∧ m.row0 = h.row0 ∧ m.col0 = h.col0 ∧ m.drow = h.drow ∧ m.p = p ∧ m.q = q ∧ m.mask = s.g.maskAt s.port ∧
      (op ≠ .mmdLd → m.block = blockOf (Claims.blockNumber s op h)) ∧
      (1 < s.g.id.gangSize.toNat → t.g.waitAt s.port = .gang (s.g.pairs + 1) ∧ t.g.pcAt s.port = s.g.pcAt s.port) ∧
      (s.g.id.gangSize.toNat ≤ 1 → Steps i s t ∧
        t.g.modes.rngctr = if decide (m.block.rnd = 5) && decide (op ≠ .mmdLd) && (s.g.slot s.port).replay.isNone
          then s.g.modes.rngctr + 1 else s.g.modes.rngctr) := by
  intro h p q hg hothers hgang
  refine ⟨_, s.gangMember op d a b np nq, (exec_gangForm hf s).trans (congrArg _ (gangWide_posts hc hg)), ?_⟩
  rcases Nat.lt_or_ge 1 s.g.id.gangSize.toNat with hlt | hle
  · obtain ⟨hposts, hwait, hpc⟩ := postPass_first (i := i) (m := s.gangMember op d a b np nq) hp hothers hlt (hgang hlt)
    exact ⟨hposts.mem, hposts.acc, hposts.regs, hposts.pairs,
      ⟨_, hposts.request, rfl, rfl, rfl, (decide_eq_false (Nat.not_le.2 hlt)).symm⟩, rfl, rfl, rfl, rfl, rfl, rfl, rfl, fun _ => rfl,
      fun _ => ⟨hwait, hpc⟩, fun hle => absurd hle (Nat.not_le.2 hlt)⟩
  · obtain ⟨hposts, hsteps, hctr⟩ := postPass_alone (i := i) (m := s.gangMember op d a b np nq) hc hothers hle
    exact ⟨hposts.mem, hposts.acc, hposts.regs, hposts.pairs, ⟨_, hposts.request, rfl, rfl, rfl, (decide_eq_true hle).symm⟩, rfl, rfl, rfl, rfl,
      rfl, rfl, rfl, fun _ => rfl, fun hlt => absurd hle (Nat.not_le.2 hlt), fun _ => ⟨hsteps, hctr⟩⟩

end Sys2Proof.Machine
end

section
/-! PROOF. O29: the members of a gang that stop: a pair that does not agree, and a group that ends beside a member that is held. -/

namespace Sys2Proof.Machine

/-! ### Acting at a port of another group (R126) -/

theorem find?_of_unique {α : Type} {l : List α} {q : α → Bool} {x : α} (hm : x ∈ l) (hq : q x = true) (hu : ∀ y ∈ l, q y = true → y = x) :
    l.find? q = some x := by
  obtain ⟨y, hy⟩ := Option.isSome_iff_exists.1 (List.find?_isSome.2 ⟨x, hm, hq⟩)
  rw [hy, hu y (List.mem_of_find?_eq_some hy) (List.find?_some hy)]

/-- A group that is not at the issue port. -/
theorem State.group_other {s : State} {uid : Nat} (h : s.g.id.uid ≠ uid) : s.group uid = s.others.find? (fun g => g.id.uid == uid) := by
  unfold State.group State.groups
  split
  · exact List.find?_cons_of_neg (by simpa using h)
  · rfl

/-- The state with another group at the issue port, at a port of it. -/
def State.handTo (s : State) (G : Group) (p : Port) : State :=
  { s with g := G, port := p, others := s.g :: s.others.filter (fun h => h.id.uid != G.id.uid) }

/-- Acting at a port of another group puts the group at the issue port back, and the other one too where its record is present. -/
theorem State.visit_other {s : State} {p : Port} {f : State → State} {G H : Group} {n : Nat} (hne : s.g.id.uid ≠ G.id.uid)
    (hhere : s.g.id.present = true) (hown : ∀ h ∈ s.others, h.id.uid ≠ s.g.id.uid)
    (hG : s.others.find? (fun g => g.id.uid == G.id.uid) = some G) (hf : f (s.handTo G p) = { s.handTo G p with g := H, nextTrap := n })
    (hH : H.id = G.id) (hpresent : G.id.present = true) :
    s.visit G.id.uid p f = { s with nextTrap := n, others := H :: s.others.filter (fun h => h.id.uid != G.id.uid) } := by
  have hback : (s.g :: s.others.filter (fun h => h.id.uid != G.id.uid)).filter (fun h => h.id.uid != s.g.id.uid) =
      s.others.filter (fun h => h.id.uid != G.id.uid) := by
    rw [List.filter_cons_of_neg (by simp), List.filter_eq_self]
    intro h hh
    simpa using hown h (List.mem_of_mem_filter hh)
  have hselect : s.select G.id.uid p = s.handTo G p := by
    unfold State.select State.handTo
    simp only [hne, hG, hhere, if_true, if_false]
  rw [State.visit, hselect, hf]
  unfold State.select State.handTo
  rw [if_neg (by rw [hH]; exact Ne.symm hne), List.find?_cons_of_pos (by simp)]
  simp only [hback, hH, hpresent, if_true]

/-! ### A refused trap leaves its group in place (R263) -/

theorem Group.unpop_path (g : Group) (p : Port) : ((g.unpop p).slot p).path = (g.slot p).path := by
  unfold Group.unpop
  split
  · rfl
  · generalize (g.slot p).held = l
    induction l with
    | nil => rfl
    | cons e l ih =>
      rw [List.foldr_cons, Group.unpopOne]
      split
      · refine Eq.trans ?_ ih
        cases p <;> rfl
      · exact ih

@[simp] theorem Group.unpop_pairs (g : Group) (p : Port) : (g.unpop p).pairs = g.pairs :=
  Group.unpop_reads (fun g => g.pairs) p (fun _ _ _ _ => by cases p <;> rfl) g

/-- R263: a slot that stops on a refused trap outside a latch chain stays at its instruction. -/
theorem refuse_stays {s : State} (u : Uses) (c : Cause) (addr : BitVec 64) (out : Bool) (detail : List Byte) (hp : s.port ≠ .setter)
    (hk : s.g.id.kind = .ordinary) (hc : (s.g.slot s.port).chain = none) :
    let t := s.refuse u c addr out detail
    t.g.id = s.g.id ∧ t.g.pairs = s.g.pairs ∧ t.g.pcAt s.port = s.g.pcAt s.port := by
  have hk' : (s.onGroup (fun g => g.unpop s.port)).g.id.kind = .ordinary := by simpa using hk
  intro t
  rw [show t = _ from State.refuse_unchained u c addr out detail hc, State.hold_slot _ hk' hp]
  refine ⟨by simp, by simp, ?_⟩
  rw [Group.pcAt_hitter _ _ hp, Group.pcAt_hitter _ _ hp, Group.slot_setSlot_same _ _ _ hp, ← Group.unpop_path]
  rfl

/-- R263: a group has stopped at a port on a refused trap, and the rest of what is read of it is as it was. -/
def StopsAt (G H : Group) (p : Port) (c : Cause) : Prop :=
  H.id = G.id ∧ H.regs = G.regs ∧ H.modes = G.modes ∧ H.waitAt p = .trapped ∧ H.pcAt p = G.pcAt p ∧
    ∃ w, H.heldAt p = some w ∧ w.cause = c ∧ w.kind = 0 ∧ w.pc = G.pcAt p

/-- R126, R263: another group, whose record is present, is refused at a port of it. -/
theorem visit_refuse_other {s : State} {p : Port} {G : Group} (c : Cause) (hne : s.g.id.uid ≠ G.id.uid) (hhere : s.g.id.present = true)
    (hown : ∀ h ∈ s.others, h.id.uid ≠ s.g.id.uid) (hG : s.others.find? (fun g => g.id.uid == G.id.uid) = some G)
    (hpresent : G.id.present = true) (hp : p ≠ .setter) (hk : G.id.kind = .ordinary) (hc : (G.slot p).chain = none) :
    ∃ n H, s.visit G.id.uid p (fun s => s.refuse {} c) =
        { s with nextTrap := n, others := H :: s.others.filter (fun h => h.id.uid != G.id.uid) } ∧ StopsAt G H p c := by
  obtain ⟨⟨w, hheld, hcause, hkind, hpc, -, -, -, hwait⟩, hframe, hregs, hmodes, -⟩ := refuse_traps (s := s.handTo G p) {} c 0 false [] hk hc
  obtain ⟨hid, -, hstands⟩ := refuse_stays (s := s.handTo G p) {} c 0 false [] hp hk hc
  exact ⟨_, _, State.visit_other (p := p) (f := fun s => s.refuse {} c) hne hhere hown hG hframe hid hpresent, hid, hregs, hmodes, hwait, hstands,
    w, hheld, hcause, hkind, hpc⟩

/-! ### A partner breaks (R126) -/

/-- R126: a group without a request that it has posted: its entry, its flight and its pairing are gone. -/
def Group.withdrawn (r : PmeReq) (g : Group) : Group :=
  { g with
    pairs := r.pairsBefore g.pairs
    outq := g.outq.filter (fun e => decide (e.kind ≠ EntryKind.engine r.id))
    inflight := g.inflight.filter (fun f => match f.kind with
      | .engine q _ => q != r.id
      | _ => true) }

theorem State.dropRequest_eq (s : State) (r : PmeReq) :
    s.dropRequest r = { s with pme := s.pme.filter (fun x => x.id != r.id) }.modGroup r.grp (Group.withdrawn r) := rfl

theorem Group.withdrawn_slot (r : PmeReq) (g : Group) (p : Port) : (g.withdrawn r).slot p = g.slot p := by cases p <;> rfl
theorem Group.withdrawn_pcAt (r : PmeReq) (g : Group) (p : Port) : (g.withdrawn r).pcAt p = g.pcAt p := by cases p <;> rfl
theorem Group.withdrawn_gangPort (r : PmeReq) (g : Group) : (g.withdrawn r).gangPort = g.gangPort := rfl

theorem Group.gangPort_hitter {g : Group} {p : Port} (h : g.gangPort = some p) : p ≠ .setter := by
  rintro rfl
  unfold Group.gangPort at h
  split at h
  · cases h
  · split at h <;> cases h

/-- R126: a request of another group is dropped. -/
theorem State.dropRequest_other {s : State} {r : PmeReq} (h : s.g.id.uid ≠ r.grp) : s.dropRequest r = { s with
    pme := s.pme.filter (fun x => x.id != r.id)
    others := s.others.map (fun g => if g.id.uid = r.grp then g.withdrawn r else g) } := by
  rw [State.dropRequest_eq, State.modGroup]
  simp only [h, if_false]

/-- R126: one member that is held at port `p` breaks. -/
theorem State.breakMembers_one {s : State} {r : PmeReq} {G : Group} {p : Port} (c : Cause) (hg : (s.dropRequest r).group r.grp = some G)
    (hp : G.gangPort = some p) : s.breakMembers c [r] = (s.dropRequest r).visit r.grp p (fun s => s.refuse {} c) := by
  unfold State.breakMembers
  rw [List.foldl_cons, List.foldl_nil]
  simp only [hg, Option.bind_some, hp]

/-- R126: the partner whose record is present stops at its command with the cause, its request gone, and nothing else has changed but the
order of traps. -/
theorem breakMembers_partner {s : State} {r : PmeReq} {G : Group} {p : Port} (hP : Claims.Partner s r G p) (hG : G.id.present = true)
    (c : Cause) :
    let t := s.breakMembers c [r]
    Claims.PartnerTraps t r G p c ∧
      t = { s with pme := s.pme.filter (fun x => x.id != r.id), nextTrap := t.nextTrap, others := t.others } := by
  have hne : s.g.id.uid ≠ r.grp := fun h => hP.own G hP.member (hP.uid.trans h.symm)
  have hid : ∀ g : Group, (if g.id.uid = r.grp then g.withdrawn r else g).id = g.id := fun g => by split <;> rfl
  obtain ⟨d, hd⟩ : ∃ d, d = s.dropRequest r := ⟨_, rfl⟩
  have hdrop := hd.trans (State.dropRequest_other hne)
  have hfind : d.others.find? (fun g => g.id.uid == (G.withdrawn r).id.uid) = some (G.withdrawn r) := by
    rw [hdrop]
    refine find?_of_unique (List.mem_map.2 ⟨G, hP.member, if_pos hP.uid⟩) (beq_self_eq_true _) fun y hy hq => ?_
    obtain ⟨g, hg, rfl⟩ := List.mem_map.1 hy
    rw [hid] at hq
    have hu : g.id.uid = r.grp := (beq_iff_eq.1 hq).trans hP.uid
    rw [if_pos hu, hP.only g hg hu]
  have hown : ∀ h ∈ d.others, h.id.uid ≠ d.g.id.uid := by
    intro h hh
    rw [hdrop] at hh ⊢
    obtain ⟨g, hg, rfl⟩ := List.mem_map.1 hh
    rw [hid]
    exact hP.own g hg
  have hother : d.g.id.uid ≠ (G.withdrawn r).id.uid := by rw [hdrop]; exact fun h => hne (h.trans hP.uid)
  have hhere : d.g.id.present = true := by rw [hdrop]; exact hP.here
  have hgroup : d.group r.grp = some (G.withdrawn r) := hP.uid ▸ (State.group_other hother).trans hfind
  obtain ⟨n, H, hvisit, hHid, hregs, hmodes, hwait, hpc, w, hheld, hcause, hkind, hwpc⟩ := visit_refuse_other c hother hhere hown hfind hG
    (Group.gangPort_hitter hP.held) hP.kind ((congrArg Slot.chain (Group.withdrawn_slot r G p)).trans hP.chain)
  have ht : s.breakMembers c [r] = { d with
      nextTrap := n, others := H :: d.others.filter (fun h => h.id.uid != (G.withdrawn r).id.uid) } := by
    rw [← hvisit, State.breakMembers_one (G := G.withdrawn r) c (hd ▸ hgroup) hP.held, ← hd]
    exact congrArg (fun u => d.visit u p _) hP.uid.symm
  intro t
  rw [show t = _ from ht, hdrop]
  refine ⟨⟨fun x hx => by simpa using (List.mem_filter.1 hx).2, H, List.mem_cons_self, hHid, hregs, hmodes, hwait, ?_, w, hheld, hcause, hkind,
    ?_⟩, rfl⟩
  · exact hpc.trans (Group.withdrawn_pcAt r G p)
  · exact hwpc.trans (Group.withdrawn_pcAt r G p)

/-! ### A pair that does not agree (R126) -/

/-- R126: requests that differ in their operations, their handles or their format blocks do not agree. -/
theorem Member.agrees_false {x y : Member} (h : x.op ≠ y.op ∨ x.row0 ≠ y.row0 ∨ x.col0 ≠ y.col0 ∨ x.drow ≠ y.drow ∨
    { x.block with pscale := 0, qscale := 0 } ≠ { y.block with pscale := 0, qscale := 0 }) : x.agrees y = false := by
  rw [Bool.eq_false_iff]
  intro ha
  simp only [Member.agrees, Bool.and_eq_true, decide_eq_true_eq, beq_iff_eq] at ha
  obtain ⟨⟨⟨⟨hop, hrow⟩, hcol⟩, hdrow⟩, hblock⟩ := ha
  rcases h with h | h | h | h | h
  exacts [h hop, h hrow, h hcol, h hdrow, h hblock]

/-- R126: the last member of a gang of two, whose partner has posted a request that does not agree. -/
theorem postPass_mismatch {i : Instr} {s : State} {m n : Member} {r : PmeReq}
    (hothers : (s.paired s.g.id.gang s.g.id.gidx.toNat (s.g.pairs + 1)).filter (fun x => x.grp != s.g.id.uid) = [r]) (hsize : m.size = 2)
    (hn : r.member? = some n) (hagree : n.agrees m = false) :
    s.postPass i m = .refused (s.breakMembers Cause.mmaMismatch [r]) Cause.mmaMismatch 0 false := by
  unfold State.postPass
  simp only [hothers, List.length_singleton, hsize, List.all_cons, List.all_nil, hn, Option.map_some, Option.getD_some, hagree]
  rw [if_neg (by omega), if_neg (by omega), if_neg (by decide)]

/-- What stands of the partner is read of the requests and the other groups alone. -/
theorem partnerTraps_of_eq {t u : State} {r : PmeReq} {G : Group} {p : Port} {c : Cause} (h : Claims.PartnerTraps u r G p c)
    (hpme : t.pme = u.pme) (hothers : t.others = u.others) : Claims.PartnerTraps t r G p c := by
  unfold Claims.PartnerTraps
  rw [hpme, hothers]
  exact h

/-- The trap of a stream is read of the group and the port at which its instruction began. -/
theorem Trapped.of_eq {s t u : State} {c : Cause} {k : BitVec 2} {addr : BitVec 64} (h : Trapped u t c k addr) (hg : u.g = s.g)
    (hp : u.port = s.port) : Trapped s t c k addr := by
  unfold Trapped at h ⊢
  rwa [hg, hp] at h

/-- R126: a pair that does not agree stops both members with MMA_MISMATCH, where the record of the partner is present. -/
theorem gangWide_mismatch {i : Instr} {s : State} {op : PassOp} {d : BitVec 7} {a b : BitVec 8} {np nq : Nat} {r : PmeReq} {n : Member}
    {G : Group} {p : Port} (hf : Claims.gangForm i = some (op, d, a, b, np, nq)) (hp : s.port ≠ .setter) (hc : Clear i s)
    (hk : s.g.id.kind = .ordinary) (hchain : (s.g.slot s.port).chain = none) :
    let h := handleOf (s.g.s d.toNat)
    let blk := blockOf (Claims.blockNumber s op h)
    Claims.GangClear s op h ((List.range np).map (fun k => s.g.v (a.toNat + k))) → s.g.id.gangSize.toNat = 2 →
    (s.paired s.g.id.gang s.g.id.gidx.toNat (s.g.pairs + 1)).filter (fun x => x.grp != s.g.id.uid) = [r] → r.member? = some n →
    Claims.Partner s r G p → G.id.present = true →
    (n.op ≠ op ∨ n.row0 ≠ h.row0 ∨ n.col0 ≠ h.col0 ∨ n.drow ≠ h.drow ∨
      { n.block with pscale := 0, qscale := 0 } ≠ { blk with pscale := 0, qscale := 0 }) →
    ∃ t, exec i s = .next t ∧ Trapped s t Cause.mmaMismatch 0 0 ∧ Claims.PartnerTraps t r G p Cause.mmaMismatch ∧
      t.pme = s.pme.filter (fun x => x.id != r.id) ∧ t.mem = s.mem ∧ t.acc = s.acc ∧ t.g.regs = s.g.regs ∧ t.g.modes = s.g.modes ∧
      t.g.pairs = s.g.pairs := by
  intro h blk hg hsize hothers hn hP hpresent hdiffer
  obtain ⟨hbroken, hframe⟩ := breakMembers_partner hP hpresent Cause.mmaMismatch
  have hact := postPass_mismatch (i := i) (m := s.gangMember op d a b np nq) hothers hsize hn (Member.agrees_false hdiffer)
  generalize s.breakMembers Cause.mmaMismatch [r] = u at hbroken hframe hact
  have hug : u.g = s.g := (congrArg State.g hframe :)
  have huport : u.port = s.port := (congrArg State.port hframe :)
  obtain ⟨htrap, hrest, hregs, hmodes, -⟩ := refuse_traps (s := u) (usesOf (s.g.streamAt s.port) i) Cause.mmaMismatch 0 false []
    (by rw [hug]; exact hk) (by rw [hug, huport]; exact hchain)
  obtain ⟨-, hpairs, -⟩ := refuse_stays (s := u) (usesOf (s.g.streamAt s.port) i) Cause.mmaMismatch 0 false [] (by rw [huport]; exact hp)
    (by rw [hug]; exact hk) (by rw [hug, huport]; exact hchain)
  refine ⟨u.refuse (usesOf (s.g.streamAt s.port) i) Cause.mmaMismatch 0 false, ?_, htrap.of_eq hug huport, ?_, ?_, ?_, ?_, ?_, ?_, ?_⟩
  · rw [exec_gangForm hf s, gangWide_posts hc hg, hact]
    rfl
  · exact partnerTraps_of_eq hbroken (congrArg State.pme hrest :) (congrArg State.others hrest :)
  · exact (congrArg State.pme hrest :).trans (congrArg State.pme hframe :)
  · exact (congrArg State.mem hrest :).trans (congrArg State.mem hframe :)
  · exact (congrArg State.acc hrest :).trans (congrArg State.acc hframe :)
  · rw [hregs, hug]
  · rw [hmodes, hug]
  · rw [hpairs, hug]

/-! ### A group of a gang ends (R126, R395) -/

theorem Group.settlePaths_done {g : Group} (h : g.resettle = none) (n : Nat) : g.settlePaths n = g := by
  cases n with
  | zero => rfl
  | succ n => simp only [Group.settlePaths, h]

/-- R70: with both slots free and nothing on the stack there is no path to settle. -/
theorem Group.resettle_empty {g : Group} (h0 : g.slot0.path = none) (h1 : g.slot1.path = none) (hs : g.stack = []) : g.resettle = none := by
  simp [Group.resettle, Group.fillSlot, Group.givesUp, Group.slot, h0, h1, hs, dueRecord, popPath]

/-- R68, R395: a group of which some lanes have exited, before its paths settle. -/
def Group.without (g : Group) (m : Lanes) : Group :=
  { g with
    exited := g.exited ||| m
    slot0 := (g.slot0.without (g.exited ||| m)).getD Slot.empty
    slot1 := (g.slot1.without (g.exited ||| m)).getD Slot.empty }

theorem Group.exitLanes_eq (g : Group) (m : Lanes) : g.exitLanes m = (g.without m).settlePaths pathMoves := by
  unfold Group.exitLanes Group.without
  cases h0 : g.slot0.without (g.exited ||| m) <;> cases h1 : g.slot1.without (g.exited ||| m) <;>
    simp [Group.slot, Group.setSlot, Group.freeSlot, h0, h1]

/-- No path is left in a slot of which some lanes have exited. -/
def Slot.leftFree (x : Slot) (e : Lanes) : Prop := ((x.without e).getD Slot.empty).path = none

theorem Slot.leftFree_of_free {x : Slot} (h : x.path = none) (e : Lanes) : x.leftFree e := by simp [Slot.leftFree, Slot.without, h]

/-- R68: all lanes of the path of a slot exit, which is in no replay. -/
theorem Slot.leftFree_of_exit {g : Group} {p : Port} (hp : p ≠ .setter) (hr : (g.slot p).replay = none) :
    (g.slot p).leftFree (g.exited ||| g.maskAt p) := by
  rw [Group.maskAt_hitter _ _ hp]
  cases h : (g.slot p).path with
  | none => exact Slot.leftFree_of_free h _
  | some q =>
    have hgone : q.mask &&& ~~~(g.exited ||| q.mask) = 0 := by
      ext j hj
      cases he : g.exited[j] <;> cases hq : q.mask[j] <;> simp [he, hq]
    simp [Slot.leftFree, Slot.without, h, hr, hgone, Slot.empty]

/-- R68, R395: lanes exit that leave no path in either slot and nothing waits: the group keeps its record, and no lane is left. -/
theorem Group.exitLanes_none {g : Group} {m : Lanes} (h0 : g.slot0.leftFree (g.exited ||| m)) (h1 : g.slot1.leftFree (g.exited ||| m))
    (hs : g.stack = []) : (g.exitLanes m).noLane = true ∧ (g.exitLanes m).id = g.id := by
  rw [Group.exitLanes_eq, Group.settlePaths_done (Group.resettle_empty (g := g.without m) h0 h1 hs)]
  exact ⟨by simpa [Group.noLane, Group.slotPaths] using ⟨h0, h1⟩, rfl⟩

/-- R68, R395: the lanes of the only path of a group exit. -/
theorem Group.exitLanes_last {g : Group} {p : Port} (hp : p ≠ .setter) (hother : (g.slot (otherSlot p)).path = none) (hs : g.stack = [])
    (hr : (g.slot p).replay = none) : (g.exitLanes (g.maskAt p)).noLane = true ∧ (g.exitLanes (g.maskAt p)).id = g.id := by
  have hown := Slot.leftFree_of_exit hp hr
  have hfree := Slot.leftFree_of_free hother (g.exited ||| g.maskAt p)
  cases p with
  | setter => exact absurd rfl hp
  | slot0 => exact Group.exitLanes_none hown hfree hs
  | slot1 => exact Group.exitLanes_none hfree hown hs

/-- R126: the requests for which the end of a group breaks the partners that are held. -/
theorem State.leaveGang_eq (s : State) (g : Group) : s.leaveGang g = s.breakMembers Cause.gangBroken
    (s.pme.filter (fun x => Claims.ofGang g x && !x.checked && x.grp != g.id.uid)) := by
  refine congrArg (fun l => s.breakMembers Cause.gangBroken l) (List.filter_congr fun x _ => ?_)
  unfold Claims.ofGang
  cases x.cmd <;> rfl

/-- R126, R395: the group at the port ends beside a partner that is held, whose record is present. -/
theorem endGroup_partner {s : State} {r : PmeReq} {G : Group} {p : Port} (hP : Claims.Partner s r G p) (hG : G.id.present = true)
    (hr : s.pme.filter (fun x => Claims.ofGang s.g x && !x.checked && x.grp != s.g.id.uid) = [r]) :
    let t := s.endGroup s.g.id.uid
    t.g.ended = true ∧ t.mem = s.mem ∧ Claims.PartnerTraps t r G p Cause.gangBroken := by
  obtain ⟨⟨hgone, H, hH, hid, hstops⟩, hframe⟩ := breakMembers_partner hP hG Cause.gangBroken
  have hleave : s.leaveGang s.g = s.breakMembers Cause.gangBroken [r] := by rw [State.leaveGang_eq, hr]
  generalize s.breakMembers Cause.gangBroken [r] = u at hgone hH hframe hleave
  have hug : u.g = s.g := (congrArg State.g hframe :)
  intro t
  have ht : t = (({ u with
      images := u.images.filter (fun k => some k != s.g.id.image)
      pme := u.pme.filter (fun r => !(r.grp == s.g.id.uid && !r.checked)) } : State).modGroup s.g.id.uid Group.finish).dropLighters := by
    change s.endGroup _ = _
    unfold State.endGroup
    simp only [State.group_port hP.here, hleave]
  rw [ht]
  refine ⟨?_, (congrArg State.mem hframe :), fun x hx => hgone x (List.mem_of_mem_filter hx), H, List.mem_map.2 ⟨H, hH, ?_⟩, hid, hstops⟩
  · exact congrArg Group.ended (if_pos (congrArg (fun g : Group => g.id.uid) hug))
  · exact if_neg (by rw [hid]; exact hP.own G hP.member)

/-- R126, R395: where a group of a gang ends, the partner that is held at its command stops with GANG_BROKEN, where its record is present. -/
theorem exit_breaks_gang {s : State} {r : PmeReq} {G : Group} {p : Port} (hp : s.port ≠ .setter) (hc : Clear .exit s)
    (hk : s.g.id.kind = .ordinary) (hP : Claims.Partner s r G p) (hG : G.id.present = true)
    (hr : s.pme.filter (fun x => Claims.ofGang s.g x && !x.checked && x.grp != s.g.id.uid) = [r])
    (hother : (s.g.slot (otherSlot s.port)).path = none) (hstack : s.g.stack = []) (hreplay : (s.g.slot s.port).replay = none) :
    ∃ t, exec .exit s = .next t ∧ t.g.ended = true ∧ t.mem = s.mem ∧ Claims.PartnerTraps t r G p Cause.gangBroken := by
  obtain ⟨hlast, hid⟩ := Group.exitLanes_last hp hother hstack hreplay
  obtain ⟨u, hu⟩ : ∃ u, u = s.onGroup (fun g => g.exitLanes (g.maskAt s.port)) := ⟨_, rfl⟩
  have huid : u.g.id = s.g.id := by rw [hu]; exact hid
  have hothers : u.others = s.others := by rw [hu]; rfl
  have hPu : Claims.Partner u r G p := by
    refine ⟨?_, ?_, ?_, hP.uid, ?_, hP.held, hP.kind, hP.chain⟩
    · rw [huid]; exact hP.here
    · rw [huid, hothers]; exact hP.own
    · rw [hothers]; exact hP.member
    · rw [hothers]; exact hP.only
  have hru : u.pme.filter (fun x => Claims.ofGang u.g x && !x.checked && x.grp != u.g.id.uid) = [r] := by
    rw [← hr, show u.pme = s.pme by rw [hu]; rfl]
    unfold Claims.ofGang
    rw [huid]
  obtain ⟨hended, hmem, hbroken⟩ := endGroup_partner hPu hG hru
  refine ⟨(u.endGroup u.g.id.uid).onGroup (fun g => s.g.retire g s.port .exit (usesOf (s.g.streamAt s.port) .exit) none true), ?_, ?_, ?_, ?_⟩
  · rw [exec_exit]
    unfold execExit
    rw [issue_of_clear hc]
    simp only [hk, ne_eq, not_true_eq_false, if_false]
    rw [hu]
    cases hport : s.port with
    | setter => exact absurd hport hp
    | slot0 =>
      rw [hport] at hlast
      simp only [State.onGroup_g, hlast, if_true, State.settle, hport]
    | slot1 =>
      rw [hport] at hlast
      simp only [State.onGroup_g, hlast, if_true, State.settle, hport]
  · rw [State.onGroup_g, Group.retire_ended]
    exact hended
  · exact hmem.trans (by rw [hu]; rfl)
  · exact partnerTraps_of_eq hbroken rfl rfl

end Sys2Proof.Machine
end

section
/-! PROOF. O29: `mmc` writes the kept values and their indices, or is Illegal Instruction. -/

namespace Sys2Proof.Machine

/-! ### A run of registers (R146) -/

/-- The lanes of a mask take `f r` in each of `n` registers from a register. -/
def Group.setRun (g : Group) (d n : Nat) (m : Lanes) (f : Nat → Nat → Word) : Group :=
  (List.range n).foldl (fun g r => g.setLanes (d + r) m (f r)) g

theorem Group.onlyRegs_setRun (g : Group) (d n : Nat) (m : Lanes) (f : Nat → Nat → Word) : OnlyRegs g (g.setRun d n m f) := by
  unfold Group.setRun
  induction List.range n generalizing g with
  | nil => exact onlyRegs_refl g
  | cons r l ih => exact (onlyRegs_setLanes g (d + r) m (f r)).trans (ih _)

/-- What no lane write of the run changes. -/
theorem Group.setRun_keeps {α : Type} (read : Group → α) {d n : Nat} {m : Lanes} {f : Nat → Nat → Word}
    (h : ∀ g : Group, ∀ r < n, read (g.setLanes (d + r) m (f r)) = read g) (g : Group) : read (g.setRun d n m f) = read g :=
  foldl_keeps read (fun r hr g => h g r (List.mem_range.1 hr)) g

theorem Group.v_setRun_other {d n k : Nat} {m : Lanes} {f : Nat → Nat → Word} (h : d + n ≤ 128) (hk : k < d ∨ d + n ≤ k) (g : Group) :
    (g.setRun d n m f).v k = g.v k :=
  Group.setRun_keeps (fun g => g.v k) (fun g r hr => by
    rw [Group.setLanes, Group.v_setV _ _ _ _ (by omega), if_neg (by omega)]) g

theorem Group.lane_setRun {d n r l : Nat} {m : Lanes} {f : Nat → Nat → Word} (h : d + n ≤ 128) (hr : r < n) (hl : l < 64) (g : Group) :
    lane ((g.setRun d n m f).v (d + r)) l = if m.getLsbD l then f r l else lane (g.v (d + r)) l := by
  refine (foldl_at (fun g : Group => lane (g.v (d + r)) l) (fun x => if m.getLsbD l then f r l else x) (key := fun c => c) r
    (by simpa using List.nodup_range) (fun c hc hcr g => ?_) (fun c hc hcr g => ?_) g).trans (if_pos (by simpa using hr))
  · obtain rfl : c = r := hcr
    rw [Group.lane_setLanes _ _ _ _ _ _ (by omega) hl]
    simp
  · rw [Group.lane_setLanes _ _ _ _ _ _ (by have := List.mem_range.1 hc; omega) hl, if_neg (by rintro ⟨h, -⟩; exact hcr (by simpa using h.symm))]

/-! ### `mmc` (R136, R428) -/

theorem mmc_legal {d : BitVec 7} {a b : BitVec 8} {st : Stream} (h : (Instr.mmc d a b).legalIn st = true) : d.toNat ≤ 116 := by
  simp only [Instr.legalIn, Bool.and_eq_true, decide_eq_true_eq] at h
  obtain ⟨-, ⟨hd, -⟩, -⟩ := h
  exact hd

/-- R358, R428: a format code that is no engine code is Illegal Instruction, ahead of every other trap. -/
theorem mmc_illegal {d : BitVec 7} {a b : BitVec 8} {s : State} (hheld : s.held = false)
    (hlegal : (Instr.mmc d a b).legalIn (s.g.streamAt s.port) = true) (hwait : s.mustWait (usesOf (s.g.streamAt s.port) (.mmc d a b)) = false)
    (hk : s.g.id.kind = .ordinary) (hchain : (s.g.slot s.port).chain = none) (hfmt : engineFormat (s.g.operand32 s.port b) = none) :
    ∃ t, exec (.mmc d a b) s = .next t ∧ Trapped s t Cause.illegal 0 0 ∧ t.mem = s.mem ∧ t.g.regs = s.g.regs ∧ t.g.modes = s.g.modes := by
  obtain ⟨htrap, hframe, hregs, hmodes, -⟩ := refuse_traps (usesOf (s.g.streamAt s.port) (.mmc d a b)) Cause.illegal 0 false [] hk hchain
  refine ⟨_, ?_, htrap, (congrArg State.mem hframe :), hregs, hmodes⟩
  rw [exec_mmc]
  simp [execMmc, hheld, hlegal, hfmt, hwait]

/-- R136, R428: `mmc` with a format code of the engine writes twelve registers. -/
theorem mmc_compresses {d : BitVec 7} {a b : BitVec 8} {s : State} {w : Nat × Nat × Nat} (hc : Clear (.mmc d a b) s)
    (hfmt : engineFormat (s.g.operand32 s.port b) = some w) :
    ∃ t, exec (.mmc d a b) s = .next t ∧ OnlyGroup s t ∧ Steps (.mmc d a b) s t ∧ t.g.modes = s.g.modes ∧ t.g.regs.p = s.g.regs.p ∧
      t.g.regs.s = s.g.regs.s ∧ (∀ k, k < d.toNat ∨ d.toNat + 12 ≤ k → t.g.v k = s.g.v k) ∧
      ∀ r, r < 12 → ∀ l, l < 64 → lane (t.g.v (d.toNat + r)) l = if (s.g.maskAt s.port).getLsbD l
        then compressedWord (typeOf (BitVec.ofNat 6 (s.g.operand32 s.port b))) ((List.range 16).map (fun k => s.g.v (a.toNat + k))) w.1 l r
        else lane (s.g.v (d.toNat + r)) l := by
  obtain ⟨w, lo, hi⟩ := w
  have hd : d.toNat + 12 ≤ 128 := by have := mmc_legal hc.legal; omega
  obtain ⟨g, hg⟩ : ∃ g, g = s.g.setRun d.toNat 12 (s.g.maskAt s.port) (fun r l => compressedWord
    (typeOf (BitVec.ofNat 6 (s.g.operand32 s.port b))) ((List.range 16).map (fun k => s.g.v (a.toNat + k))) w l r) := ⟨_, rfl⟩
  have honly : OnlyRegs s.g g := hg ▸ Group.onlyRegs_setRun _ _ _ _ _
  obtain ⟨hretires, -, hsteps, hregs, hmodes⟩ := settle_run_retires hc honly.eq
  have hv : ∀ k, (s.settle (.mmc d a b) (usesOf (s.g.streamAt s.port) (.mmc d a b)) (.run { s with g := g })).g.v k = g.v k := fun k => by
    unfold Group.v
    rw [hregs]
  refine ⟨_, ?_, hretires.only, hsteps, hmodes.trans ?_, (congrArg Regs.p hregs).trans ?_, (congrArg Regs.s hregs).trans ?_, fun k hk => ?_,
    fun r hr l hl => ?_⟩
  · rw [exec_mmc]
    simp only [execMmc, hfmt, Option.isSome_some, Bool.or_true, if_true]
    rw [issue_of_clear hc]
    simp only [hfmt]
    rw [hg]
    rfl
  · rw [hg]; exact Group.setRun_keeps (fun g => g.modes) (fun _ _ _ => rfl) _
  · rw [hg]; exact Group.setRun_keeps (fun g => g.regs.p) (fun _ _ _ => rfl) _
  · rw [hg]; exact Group.setRun_keeps (fun g => g.regs.s) (fun _ _ _ => rfl) _
  · rw [hv, hg]; exact Group.v_setRun_other hd hk _
  · rw [hv, hg]; exact Group.lane_setRun hd hr hl _

end Sys2Proof.Machine
end

section
/-! PROOF. O29: the refutation, by a partner whose record is not present. -/

namespace Sys2Proof.Machine

/-- A member of gang 9 that is held at its gang-wide command. Its record stands among the other groups and is not present. -/
def absentMember : Group := { Group.launch with
  id := { Ident.none with uid := 2, gang := 9, present := false }
  slot0 := { Slot.empty with wait := .gang 1 } }

/-- Its request, which no partner has checked. -/
def absentRequest : PmeReq where
  id := 7
  pme := 0
  grp := 2
  team := 0
  serial := 0
  core := 0
  level := 0
  order := 1
  grants := 0
  granted := false
  checked := false
  dispatched := false
  cmd := .pass 9 0 1 (State.reset.member .mma (handleOf 0) noBlock [] [] [] [])

/-- The other member of the gang, whose only path stands at an `exit`. -/
def besideAbsent : State := { State.reset with
  g := { Group.launch with
    id := { Ident.none with uid := 1, gang := 9, present := true }
    slot0 := { Slot.empty with path := some { pc := 0x4000_0000, mask := BitVec.allOnes 64, rejoin := none, waiting := false } } }
  others := [absentMember]
  pme := [absentRequest] }

theorem besideAbsent_clear : Clear .exit besideAbsent where
  here := by decide +kernel
  legal := by decide +kernel
  chain := by decide +kernel
  allotted := by decide +kernel
  latched := by decide +kernel
  queued := by decide +kernel
  single := by decide +kernel
  free := by decide +kernel
  unheld := by decide +kernel
  copies := by decide +kernel

theorem besideAbsent_partner : Claims.Partner besideAbsent absentRequest absentMember .slot0 where
  here := rfl
  own := by decide +kernel
  member := by decide +kernel
  uid := rfl
  only := by decide +kernel
  held := rfl
  kind := rfl
  chain := rfl

/-- R126, R395: its `exit` ends the group at the issue port, and the member that breaks, whose record is not present, is not put back. -/
theorem besideAbsent_exits : ∃ t, exec .exit besideAbsent = .next t ∧ t.others = [] := ⟨_, rfl, by decide +kernel⟩

/-- Refutes O29: `Claims.Partner` does not ask that the record of the partner is present, and acting at a port of another group puts back the
record that stood there only where it is. Beside a partner that is not present, `exit` leaves no group that could have stopped. For partners
that are present both clauses hold (`gangWide_mismatch`, `exit_breaks_gang`), as do the other clauses (`gangWide_first`, `mmc_illegal`,
`mmc_compresses`). -/
theorem not_gangCommandsIssue : ¬Obligations.GangCommandsIssue := by
  unfold Obligations.GangCommandsIssue
  rintro ⟨-, ⟨-, hbroken⟩, -⟩
  obtain ⟨t, ht, -, -, -, H, hmem, -⟩ := hbroken besideAbsent absentRequest absentMember .slot0 (by decide) besideAbsent_clear rfl
    besideAbsent_partner (by decide +kernel) rfl rfl rfl
  obtain ⟨u, hu, hnone⟩ := besideAbsent_exits
  obtain rfl : t = u := by simpa [hu] using ht.symm
  rw [hnone] at hmem
  exact List.not_mem_nil hmem

end Sys2Proof.Machine
end

section
/-! PROOF. O4: the instructions that write a pair. -/

namespace Sys2Proof.Machine

/-! ### Pairs (R145, R364, R385, R435, R471) -/

theorem ofInt_sub (n : Nat) (x y : Int) : BitVec.ofInt n (x - y) = BitVec.ofInt n x - BitVec.ofInt n y := by
  rw [Int.sub_eq_add_neg, BitVec.ofInt_add, BitVec.ofInt_neg, BitVec.sub_eq_add_neg]

/-- R145: an instruction that writes a pair with an even number, in the lanes of the path. -/
theorem pair_written {i : Instr} {s : State} {d : BitVec 7} {f : Group → Port → Nat → DWord} (h : Clear i s) (hd : even7 d = true)
    (hi : exec i s = .next (s.pairOp i d f)) :
    ∃ t, exec i s = .next t ∧ Retires s t ∧ Steps i s t ∧ Pops i s t ∧ WritesPair s t d.toNat (f s.g s.port) ∧ t.g.modes = s.g.modes := by
  obtain ⟨hretires, hpops, hsteps, hregs, hmodes⟩ := pairOp_spec d f h
  exact ⟨_, hi, hretires, hsteps, hpops, writesPair_setPair (succ_lt_of_even7 hd) hregs, hmodes⟩

/-- R364, R435, R471: the pairs of an instruction that may issue in a hitter stream have even numbers. -/
theorem even7_of_pairLegal {st : Stream} {d : BitVec 7} {x y z : Bool} (h : (st != .setter && (even7 d && x && y && z)) = true) : even7 d = true := by
  simp only [Bool.and_eq_true] at h
  exact h.2.1.1.1

/-- R364, R435, R471: the 64-bit integer instructions on pairs. -/
theorem pairValue_written {i : Instr} {s : State} {n : Nat} {f : Group → Port → Nat → DWord} (hv : Claims.pairValue i = some (n, f)) (h : Clear i s) :
    ∃ t, exec i s = .next t ∧ Retires s t ∧ Steps i s t ∧ Pops i s t ∧ WritesPair s t n (f s.g s.port) ∧ t.g.modes = s.g.modes := by
  unfold Claims.pairValue at hv
  split at hv
  case h_1 d a b =>
    obtain ⟨rfl, rfl⟩ := Prod.mk.inj (Option.some.inj hv)
    refine pair_written (f := fun g p j => BitVec.ofInt 64 ((g.pair p a j).toInt + (g.pair p b j).toInt)) h (even7_of_pairLegal h.legal) ?_
    simp only [BitVec.ofInt_add, BitVec.ofInt_toInt]
    rfl
  case h_2 d a b =>
    obtain ⟨rfl, rfl⟩ := Prod.mk.inj (Option.some.inj hv)
    refine pair_written (f := fun g p j => BitVec.ofInt 64 ((g.pair p a j).toInt - (g.pair p b j).toInt)) h (even7_of_pairLegal h.legal) ?_
    simp only [ofInt_sub, BitVec.ofInt_toInt]
    rfl
  case h_3 d a b =>
    obtain ⟨rfl, rfl⟩ := Prod.mk.inj (Option.some.inj hv)
    refine pair_written (f := fun g p j => BitVec.ofInt 64 ((g.pair p a j).toInt * (g.pair p b j).toInt)) h (even7_of_pairLegal h.legal) ?_
    simp only [BitVec.ofInt_mul, BitVec.ofInt_toInt]
    rfl
  case h_4 => cases hv

/-! ### Conversions to a 64-bit type (R385, R386) -/

/-- R385: what `cvt` makes of a lane, with its flags. -/
def Group.converted (g : Group) (p : Port) (a c f : BitVec 6) (j : Nat) : Nat × BitVec 6 :=
  cvtOf (typeOf f) (typeOf c) (g.fmode p) (g.rounding p j 0) (g.typed a.toNat j (is64Type c))

/-- R385, R386: the group after `cvt` to a 64-bit type: the pair, then the flags and the draw of an instruction with flags. -/
def Group.cvtPair (g : Group) (p : Port) (d a c f : BitVec 6) : Group :=
  (g.setPair d.toNat (g.maskAt p) (fun j => BitVec.ofNat 64 (g.converted p a c f j).1)).flagged p 0 true
    (g.drawing p && roundingPair (typeOf f) (typeOf c)) (fun j => (0, (g.converted p a c f j).2))

theorem Group.setPair_slot (g : Group) (n : Nat) (m : Lanes) (f : Nat → DWord) (p : Port) : (g.setPair n m f).slot p = g.slot p :=
  Group.slot_eq rfl rfl

theorem Group.setPair_maskAt (g : Group) (n : Nat) (m : Lanes) (f : Nat → DWord) (p : Port) : (g.setPair n m f).maskAt p = g.maskAt p := by
  cases p <;> rfl

theorem Group.cvtPair_shape (g : Group) (p : Port) (d a c f : BitVec 6) : OnlyRegs g (g.cvtPair p d a c f) :=
  (onlyRegs_setPair _ _ _ _).trans (Group.flagged_shape _ _ _ _ _ _)

theorem exec_cvt_pair {d a c f : BitVec 6} {s : State} (hf : is64Type f = true) (h : Clear (.cvt d a c f) s) :
    exec (.cvt d a c f) s = .next (s.settle (.cvt d a c f) (usesOf (s.g.streamAt s.port) (.cvt d a c f))
      (.run { s with g := s.g.cvtPair s.port d a c f })) := by
  rw [exec_cvt, execCvt]
  simp only [hf, if_true]
  rw [issue_of_clear h, Group.cvtPair, Group.flagged, Group.setPair_maskAt]
  rfl

/-- R385, R386: `cvt` to a 64-bit type. -/
theorem cvt_pair_written {d a c f : BitVec 6} {s : State} (hf : is64Type f = true) (h : Clear (.cvt d a c f) s) :
    ∃ t, exec (.cvt d a c f) s = .next t ∧ Retires s t ∧ Steps (.cvt d a c f) s t ∧
      WritesPair s t d.toNat (fun j => BitVec.ofNat 64 (s.g.converted s.port a c f j).1) ∧
      t.g.modes = { s.g.modes with
        fflags := s.g.modes.fflags ||| laneFlags (s.g.maskAt s.port) (fun j => (s.g.converted s.port a c f j).2)
        rngctr := if s.g.drawing s.port && roundingPair (typeOf f) (typeOf c) && (s.g.slot s.port).replay.isNone
          then s.g.modes.rngctr + 1 else s.g.modes.rngctr } := by
  obtain ⟨hretires, -, hsteps, hregs, hmodes⟩ := settle_run_retires h (s.g.cvtPair_shape s.port d a c f).eq
  have hlt : d.toNat + 1 < 128 := by omega
  rw [Group.cvtPair, Group.flagged_regs] at hregs
  rw [Group.cvtPair, Group.flagged_modes, Group.setPair_maskAt, Group.setPair_slot] at hmodes
  exact ⟨_, exec_cvt_pair hf h, hretires, hsteps, writesPair_setPair hlt hregs, hmodes⟩

/-- Settles O4: the integer instructions by the rule for pairs, `cvt` by that rule and the one for flags. -/
theorem pairResults : Obligations.PairResults := by
  unfold Obligations.PairResults
  exact ⟨fun i s d f hv _ h => pairValue_written hv h, fun d a c f s hf _ h => cvt_pair_written hf h⟩

end Sys2Proof.Machine
end

section
/-! PROOF. O56: the words that the reference pages write out. -/

namespace Sys2Proof.Machine

/-- Settles O56: the decoder, run on each word. -/
theorem wordsDecode : Obligations.WordsDecode := by
  unfold Obligations.WordsDecode
  decide

end Sys2Proof.Machine
end

section
/-! PROOF. O22: what a performing access of the group at the issue port leaves alone; the fences that perform with it. -/

namespace Sys2Proof.Machine

/-! ### A write of device memory (R171, R185, R199) -/

/-- R199: what a write makes of a page's mark stands in the regions. -/
theorem State.noteClean_regions (s : State) (root va : Nat) (b : Bool) : ∃ rs, s.noteClean root va b = { s with regions := rs } := by
  unfold State.noteClean
  split
  · exact ⟨s.regions, rfl⟩
  · split
    · exact ⟨s.regions, rfl⟩
    · simp only
      split
      · exact ⟨_, rfl⟩
      · split
        · exact ⟨_, rfl⟩
        · exact ⟨s.regions, rfl⟩

theorem foldl_noteClean_regions (l : List (Nat × Nat)) (f : Nat × Nat → Bool) (s : State) :
    ∃ rs, l.foldl (fun t x => t.noteClean x.1 x.2 (f x)) s = { s with regions := rs } := by
  induction l generalizing s with
  | nil => exact ⟨s.regions, rfl⟩
  | cons x l ih =>
    obtain ⟨rs, hx⟩ := s.noteClean_regions x.1 x.2 (f x)
    obtain ⟨qs, hl⟩ := ih { s with regions := rs }
    exact ⟨qs, by rw [List.foldl_cons, hx, hl]⟩

/-- R171, R185: a write of a part of a good sector, with no page on the move and no tracked block: memory, halos and marks of pages change. -/
theorem State.homeArrive_good {s : State} {k : Nat} (hp : sectorOf k ∉ s.poison) (hf : sectorOf k ∉ s.failing) (hm : s.migs = [])
    (ht : s.tracked = []) (grp va n v : Nat) :
    ∃ hs ps fs rs, s.homeArrive grp (.mem k) va n v false =
      { s with mem := Memory.writeBytes s.mem k (toBytes n v), halos := hs, poison := ps, failing := fs, regions := rs } := by
  have harrive : s.homeArrive grp (.mem k) va n v false = s.arrive grp (.mem k) va n v false :=
    congrArg Prod.fst (State.homeRaise_untracked ht grp (.mem k) va n v false)
  let w := State.renew { s with mem := Memory.writeBytes s.mem k (toBytes n v) } (fun x => x == sectorOf k) (fun _ => false)
  obtain ⟨rs, hclean⟩ := foldl_noteClean_regions (s.regionBytes (.mem k)) (fun x => s.cleanAt x.1 x.2) w
  refine ⟨w.halos, w.poison, w.failing, rs, ?_⟩
  rw [harrive, State.arrive, State.noting]
  simp only [State.keyOf]
  rw [State.homeWrite_mem, State.sectorWritten_good (s := { s with mem := Memory.writeBytes s.mem k (toBytes n v) }) hp hf,
    State.alsoNew_still (s := w) hm, hclean]
  rfl

/-- R4: a number as the home values hold it. -/
theorem State.homeRead_mem (s : State) (k n : Nat) : s.homeRead (.mem k) n = Memory.readNat s.mem k n := by
  rw [State.homeRead, Memory.readNat]
  congr 1
  have hbytes : ∀ a, (List.range' a n).map (fun i => s.homeByte ((Loc.mem k).add i)) = Memory.readBytes s.mem (k + a) n := by
    induction n with
    | zero => exact fun _ => rfl
    | succ n ih => exact fun a => congrArg (Memory.read s.mem (k + a) :: ·) (ih (a + 1))
  rw [List.range_eq_range', hbytes 0, Nat.add_zero]

/-! ### What a performing access leaves alone -/

/-- An access of the group at the issue port performs: the group stays who it is, with its registers, in no other hands than before; the buffers,
the teams and the other groups stay. -/
structure Performs (s t : State) : Prop where
  id : t.g.id = s.g.id
  regs : t.g.regs = s.g.regs
  hands : t.inHandler t.g = s.inHandler s.g
  bufs : t.bufs = s.bufs
  teams : t.teams = s.teams
  others : Claims.OthersStay s t s.g.id.uid

theorem Performs.refl (s : State) : Performs s s := ⟨rfl, rfl, rfl, rfl, rfl, fun _ h _ => h⟩

theorem Performs.trans {s t u : State} (h : Performs s t) (k : Performs t u) : Performs s u where
  id := k.id.trans h.id
  regs := k.regs.trans h.regs
  hands := k.hands.trans h.hands
  bufs := k.bufs.trans h.bufs
  teams := k.teams.trans h.teams
  others := fun x hx hne => k.others x (h.others x hx hne) (by rwa [h.id])

theorem Performs.uid {s t : State} (h : Performs s t) : t.g.id.uid = s.g.id.uid := congrArg Ident.uid h.id

/-- A steady change of the group that leaves its registers alone. -/
theorem performs_modGroup (s : State) {f : Group → Group} (hf : Steady f) (hr : (f s.g).regs = s.g.regs) :
    Performs s (s.modGroup s.g.id.uid f) := by
  have hg := s.modGroup_g rfl f
  refine ⟨?_, ?_, ?_, rfl, rfl, fun x hx hne => List.mem_map.2 ⟨x, hx, if_neg hne⟩⟩
  · rw [hg, hf.id]
  · rw [hg, hr]
  · exact s.inHandler_modGroup _ hf (by rw [hg, hf.id])

/-- The group at the issue port is there, and no handler run has its registers in hand. -/
structure State.InHand (s : State) : Prop where
  present : s.g.id.present = true
  unhandled : s.inHandler s.g = false

theorem State.InHand.of_performs {s t : State} (h : s.InHand) (k : Performs s t) : t.InHand :=
  ⟨(congrArg Ident.present k.id).trans h.present, k.hands.trans h.unhandled⟩

theorem State.InHand.mirrorBits {s : State} (h : s.InHand) (off : Nat) (fl : DWord) : s.mirrorBits s.g.id.uid off fl = s := by
  unfold State.mirrorBits
  rw [State.group_port h.present]
  simp only [h.unhandled, Bool.false_eq_true, if_false]
  split <;> rfl

theorem State.InHand.mirrorStep {s : State} (h : s.InHand) (p : Port) (d : Dest) (m : Lanes) : s.mirrorStep s.g.id.uid p d m = s := by
  unfold State.mirrorStep
  rw [State.group_port h.present]
  simp only [h.unhandled, Bool.false_eq_true, if_false]
  split <;> rfl

theorem State.InHand.stickyFor {s : State} (h : s.InHand) (fl : DWord) :
    s.stickyFor s.g.id.uid fl = s.modGroup s.g.id.uid (fun g => g.raiseSticky fl) := by
  have hm := (h.of_performs (performs_modGroup s (steady_sticky fl) rfl)).mirrorBits 0xF0 fl
  rwa [s.modGroup_uid _ (steady_sticky fl)] at hm

/-! ### Acquire points (R218) -/

/-- R218: some of the synchronising writes that an acquire point finds are mismatched with it. -/
def Group.mismatch (g : Group) (acq : Option (BitVec 3)) (tags : List Tag) : Bool := acq.any (fun sc => tags.any (fun t => !(g.matched sc t)))

/-- R218: the group with STICKY.SCOPE set, where a mismatch is found. -/
def Group.withScope (found : Bool) (g : Group) : Group := if found then g.raiseSticky stickySCOPE else g

theorem steady_withScope (b : Bool) : Steady (Group.withScope b) := by
  cases b with
  | false => exact ⟨fun _ => rfl, fun _ => rfl, fun _ => rfl, fun _ => rfl, fun _ => rfl, fun _ => rfl, fun _ => rfl⟩
  | true => exact steady_sticky stickySCOPE

@[simp] theorem Group.withScope_id (b : Bool) (g : Group) : (g.withScope b).id = g.id := (steady_withScope b).id g
@[simp] theorem Group.withScope_regs (b : Bool) (g : Group) : (g.withScope b).regs = g.regs := by cases b <;> rfl
@[simp] theorem Group.withScope_outq (b : Bool) (g : Group) : (g.withScope b).outq = g.outq := by cases b <;> rfl
@[simp] theorem Group.withScope_inflight (b : Bool) (g : Group) : (g.withScope b).inflight = g.inflight := by cases b <;> rfl
@[simp] theorem Group.withScope_readTags (b : Bool) (g : Group) : (g.withScope b).readTags = g.readTags := by cases b <;> rfl

/-- R104: STICKY.SCOPE is set. -/
def Group.hasScope (g : Group) : Prop := g.modes.sticky &&& stickySCOPE = stickySCOPE

theorem Group.hasScope_raised (g : Group) : (g.withScope true).hasScope := by
  have h (x y : DWord) : (x ||| y) &&& y = y := by ext i; simp +contextual
  exact h _ _

theorem Group.hasScope_withScope {g : Group} (h : g.hasScope) (b : Bool) : (g.withScope b).hasScope := by
  cases b with
  | false => exact h
  | true => exact g.hasScope_raised

/-- Who a group is decides which tags it is matched with. -/
theorem Group.matched_congr {g h : Group} (e : h.id = g.id) : h.matched = g.matched := by
  funext sc t
  rw [Group.matched, Group.matched, Group.narrowest, Group.narrowest, e]

theorem State.InHand.acquirePoint {s : State} (h : s.InHand) (g : Group) (acq : Option (BitVec 3)) (tags : List Tag) :
    s.acquirePoint s.g.id.uid g acq tags = s.modGroup s.g.id.uid (Group.withScope (g.mismatch acq tags)) := by
  have hsame : s = s.modGroup s.g.id.uid (Group.withScope false) := (s.modGroup_id s.g.id.uid).symm
  cases acq with
  | none => exact hsame
  | some sc =>
    cases hb : tags.any (fun t => !(g.matched sc t)) with
    | false => simpa [State.acquirePoint, Group.mismatch, hb] using hsame
    | true => simp only [State.acquirePoint, Group.mismatch, hb, if_true, Option.any_some]; exact h.stickyFor stickySCOPE

/-! ### The entry that leaves (R219) -/

/-- R219: an entry behind one that has left: an acquire point is overtaken where that one was ordered after it. -/
def Entry.behind (e x : Entry) : Entry := if e.weak.contains x.id then { x with overtaken := true } else x

theorem Group.leaves_outq (g : Group) (e : Entry) : (g.leaves e).outq = (g.outq.filter (fun x => x.id != e.id)).map e.behind := rfl

@[simp] theorem Entry.behind_id (e x : Entry) : (e.behind x).id = x.id := by unfold Entry.behind; split <;> rfl
@[simp] theorem Entry.behind_kind (e x : Entry) : (e.behind x).kind = x.kind := by unfold Entry.behind; split <;> rfl
@[simp] theorem Entry.behind_after (e x : Entry) : (e.behind x).after = x.after := by unfold Entry.behind; split <;> rfl
@[simp] theorem Entry.behind_acq (e x : Entry) : (e.behind x).acq = x.acq := by unfold Entry.behind; split <;> rfl
@[simp] theorem Entry.behind_serial (e x : Entry) : (e.behind x).serial = x.serial := by unfold Entry.behind; split <;> rfl
@[simp] theorem Entry.behind_setter (e x : Entry) : (e.behind x).setter = x.setter := by unfold Entry.behind; split <;> rfl
@[simp] theorem Entry.behind_mask (e x : Entry) : (e.behind x).mask = x.mask := by unfold Entry.behind; split <;> rfl

@[simp] theorem Group.leaves_readTags (g : Group) (e : Entry) : (g.leaves e).readTags = g.readTags := rfl

/-- The numbers of the entries of a group. -/
def Group.ids (g : Group) : List Nat := g.outq.map (fun x => x.id)

theorem Group.ids_leaves (g : Group) (e : Entry) : (g.leaves e).ids = g.ids.filter (fun i => i != e.id) := by
  rw [Group.ids, Group.leaves_outq, Group.ids, List.map_map, List.filter_map]
  exact List.map_congr_left fun x _ => e.behind_id x

theorem steady_leaves (e : Entry) : Steady (fun g => g.leaves e) :=
  ⟨fun _ => rfl, fun _ => rfl, fun _ => rfl, fun _ => rfl, fun _ => rfl, fun _ => rfl, fun _ => rfl⟩

/-! ### Fences whose reads have all performed (R219) -/

/-- R219: the tags of the synchronising writes that the path of a fence has read before it. -/
def Group.fenceTags (g : Group) (x : Entry) : List Tag := (g.readTags.filter (fun t => g.readBefore t x)).map (fun t => t.tag)

/-- R218, R219: a fence finds a mismatched write among those. -/
def Group.fenceFinds (g : Group) (x : Entry) : Bool := g.mismatch x.acq (g.fenceTags x)

/-- R219: the group after one of its fences has performed. -/
def Group.fenced (g : Group) (x : Entry) : Group := (g.withScope (g.fenceFinds x)).leaves x

/-- R219: a fence of the groups of a uid performs. -/
def State.fenceNext (uid : Nat) (s : State) (x : Entry) : State :=
  match s.group uid with
  | some g => s.fenceOne uid g x
  | none => s

theorem State.fencesDue_eq {s : State} (h : s.g.id.present = true) :
    s.fencesDue s.g.id.uid = s.g.dueFences.foldl (State.fenceNext s.g.id.uid) s := by
  unfold State.fencesDue
  rw [State.group_port h]
  rfl

theorem State.InHand.fenceNext {s : State} (h : s.InHand) (x : Entry) :
    s.fenceNext s.g.id.uid x = s.modGroup s.g.id.uid (fun g => (g.withScope (s.g.fenceFinds x)).leaves x) := by
  have hone : s.fenceNext s.g.id.uid x = s.fenceOne s.g.id.uid s.g x := by
    unfold State.fenceNext
    rw [State.group_port h.present]
  rw [hone, ← s.modGroup_modGroup s.g.id.uid (steady_withScope (s.g.fenceFinds x)) (fun g => g.leaves x), Group.fenceFinds,
    ← h.acquirePoint s.g x.acq (s.g.fenceTags x)]
  rfl

/-- R219: fences perform one after another. -/
theorem State.InHand.foldl_fenceNext {s : State} (h : s.InHand) (l : List Entry) :
    let t := l.foldl (State.fenceNext s.g.id.uid) s
    Performs s t ∧ t.mem = s.mem ∧ t.g = l.foldl Group.fenced s.g := by
  induction l generalizing s with
  | nil => exact ⟨.refl s, rfl, rfl⟩
  | cons x l ih =>
    have hone := performs_modGroup s ((steady_withScope (s.g.fenceFinds x)).comp (steady_leaves x)) (Group.withScope_regs _ _)
    rw [← h.fenceNext x] at hone
    have hg : (s.fenceNext s.g.id.uid x).g = s.g.fenced x := by
      rw [h.fenceNext x]
      exact s.modGroup_g rfl _
    have hmem : (s.fenceNext s.g.id.uid x).mem = s.mem := by rw [h.fenceNext x]; rfl
    obtain ⟨hrest, hmrest, hgrest⟩ := ih (h.of_performs hone)
    rw [hone.uid] at hrest hmrest hgrest
    exact ⟨hone.trans hrest, hmrest.trans hmem, by rw [List.foldl_cons, hgrest, hg, List.foldl_cons]⟩

@[simp] theorem Group.fenced_id (g : Group) (x : Entry) : (g.fenced x).id = g.id := Group.withScope_id _ _
@[simp] theorem Group.fenced_inflight (g : Group) (x : Entry) : (g.fenced x).inflight = g.inflight := Group.withScope_inflight _ _
@[simp] theorem Group.fenced_readTags (g : Group) (x : Entry) : (g.fenced x).readTags = g.readTags := Group.withScope_readTags _ _

/-- A fence finds what it finds, whichever fence has performed before it. -/
theorem Group.fenceFinds_fenced (g : Group) (x : Entry) : (g.fenced x).fenceFinds = g.fenceFinds := by
  funext y
  have hbefore (t : ReadTag) : (g.fenced x).readBefore t y = g.readBefore t y := rfl
  simp only [Group.fenceFinds, Group.mismatch, Group.fenceTags, Group.matched_congr (g.fenced_id x), Group.fenced_readTags, hbefore]

theorem Group.hasScope_fenced {g : Group} (h : g.hasScope) (x : Entry) : (g.fenced x).hasScope := Group.hasScope_withScope h _

theorem Group.foldl_fenced_inflight (l : List Entry) (g : Group) : (l.foldl Group.fenced g).inflight = g.inflight := by
  induction l generalizing g with
  | nil => rfl
  | cons x l ih => exact (ih _).trans (g.fenced_inflight x)

theorem Group.foldl_fenced_ids (l : List Entry) (g : Group) :
    (l.foldl Group.fenced g).ids = g.ids.filter (fun i => !(l.any (fun x => x.id == i))) := by
  induction l generalizing g with
  | nil => exact (List.filter_eq_self.2 fun _ _ => rfl).symm
  | cons x l ih =>
    have hone : (g.fenced x).ids = g.ids.filter (fun i => i != x.id) := by
      rw [Group.fenced, Group.ids_leaves, Group.ids, Group.withScope_outq, Group.ids]
    rw [List.foldl_cons, ih, hone, List.filter_filter]
    refine List.filter_congr fun i _ => ?_
    rw [List.any_cons, Bool.not_or, Bool.and_comm, bne, Bool.beq_comm]

theorem Group.foldl_fenced_hasScope (l : List Entry) {g : Group} (h : g.hasScope) : (l.foldl Group.fenced g).hasScope := by
  induction l generalizing g with
  | nil => exact h
  | cons x l ih => exact ih (Group.hasScope_fenced h x)

/-- R218: of several fences, one that finds a mismatched write sets STICKY.SCOPE. -/
theorem Group.foldl_fenced_finds {l : List Entry} {x : Entry} (hx : x ∈ l) {g : Group} (hf : g.fenceFinds x = true) :
    (l.foldl Group.fenced g).hasScope := by
  induction l generalizing g with
  | nil => cases hx
  | cons y l ih =>
    rcases List.mem_cons.1 hx with rfl | hl
    · refine Group.foldl_fenced_hasScope l ?_
      rw [Group.fenced, hf]
      exact g.hasScope_raised
    · exact ih hl (by rw [Group.fenceFinds_fenced, hf])

end Sys2Proof.Machine
end

section
/-! PROOF. O22: what becomes of the stream that an atomic holds. -/

namespace Sys2Proof.Machine

/-! ### A parked stream goes on (R79, R184, R263) -/

/-- Of a group its streams alone change: not who it is, its registers and modes, its accesses, nor what its handler works on. -/
structure StreamsOnly (g h : Group) : Prop where
  id : h.id = g.id
  regs : h.regs = g.regs
  modes : h.modes = g.modes
  outq : h.outq = g.outq
  inflight : h.inflight = g.inflight
  ended : h.ended = g.ended
  trapRegs : h.trapRegs = g.trapRegs

theorem StreamsOnly.refl (g : Group) : StreamsOnly g g := ⟨rfl, rfl, rfl, rfl, rfl, rfl, rfl⟩

theorem StreamsOnly.trans {g h k : Group} (a : StreamsOnly g h) (b : StreamsOnly h k) : StreamsOnly g k :=
  ⟨b.id.trans a.id, b.regs.trans a.regs, b.modes.trans a.modes, b.outq.trans a.outq, b.inflight.trans a.inflight, b.ended.trans a.ended,
    b.trapRegs.trans a.trapRegs⟩

theorem streamsOnly_setSlot (g : Group) (p : Port) (x : Slot) : StreamsOnly g (g.setSlot p x) := by constructor <;> simp
theorem streamsOnly_popAll (g : Group) (p : Port) (ns : List Nat) : StreamsOnly g (g.popAll p ns) := by constructor <;> simp
theorem streamsOnly_retire (g : Group) (p : Port) (i : Instr) : StreamsOnly g (g.retire g p i {} none false) := by constructor <;> simp

theorem streamsOnly_park (g : Group) (p : Port) (u : Uses) (w : Wait) : StreamsOnly g (g.park p u w) := by
  cases p with
  | setter => exact ⟨rfl, rfl, rfl, rfl, rfl, rfl, rfl⟩
  | slot0 => simp only [Group.park]; exact streamsOnly_setSlot _ _ _
  | slot1 => simp only [Group.park]; exact streamsOnly_setSlot _ _ _

/-- A parked stream of the group at the issue port goes on, or stops on a trap: of the group its streams alone change, and memory, buffers, teams
and the other groups stay. -/
structure Resumes (s t : State) : Prop where
  mem : t.mem = s.mem
  bufs : t.bufs = s.bufs
  teams : t.teams = s.teams
  others : t.others = s.others
  group : StreamsOnly s.g t.g

theorem Resumes.refl (s : State) : Resumes s s := ⟨rfl, rfl, rfl, rfl, .refl s.g⟩

theorem Resumes.trans {s t u : State} (h : Resumes s t) (k : Resumes t u) : Resumes s u :=
  ⟨k.mem.trans h.mem, k.bufs.trans h.bufs, k.teams.trans h.teams, k.others.trans h.others, h.group.trans k.group⟩

/-- A change of the group's streams. -/
theorem resumes_of_group {s : State} {g : Group} (h : StreamsOnly s.g g) : Resumes s { s with g := g } := ⟨rfl, rfl, rfl, rfl, h⟩

/-- R271: who has the group at the issue port in hand, by what the handler runs are and work on. -/
theorem State.inHandler_congr {s t : State} (hid : t.g.id = s.g.id) (hended : t.g.ended = s.g.ended) (htrap : t.g.trapRegs = s.g.trapRegs)
    (hothers : t.others = s.others) : t.inHandler t.g = s.inHandler s.g := by
  unfold State.inHandler State.groups
  rw [hid, hothers]
  cases s.g.id.present with
  | false => rfl
  | true => simp only [if_true, List.any_append, List.any_cons, List.any_nil, hid, hended, htrap]

theorem Resumes.performs {s t : State} (h : Resumes s t) : Performs s t where
  id := h.group.id
  regs := h.group.regs
  hands := State.inHandler_congr h.group.id h.group.ended h.group.trapRegs h.others
  bufs := h.bufs
  teams := h.teams
  others := fun _ hx _ => h.others ▸ hx

/-- R264, R273: a stream stops on a trap. -/
theorem resumes_hold (s : State) (p : Port) (w : TrapWord) : Resumes s (s.hold p w) := by
  cases hk : s.g.id.kind with
  | ordinary =>
    by_cases hp : p = .setter
    · rw [hp, State.hold_setter _ hk]
      exact ⟨rfl, rfl, rfl, rfl, rfl, rfl, rfl, rfl, rfl, rfl, rfl⟩
    · rw [State.hold_slot _ hk hp]
      exact ⟨rfl, rfl, rfl, rfl, streamsOnly_setSlot _ _ _⟩
  | handler =>
    simp only [State.hold, hk]
    exact ⟨rfl, rfl, rfl, rfl, streamsOnly_setSlot _ _ _⟩
  | mcheck =>
    simp only [State.hold, hk]
    exact ⟨rfl, rfl, rfl, rfl, streamsOnly_setSlot _ _ _⟩

/-- R80: what names no operand reads no latch. -/
theorem Group.isMember_nop (g : Group) (p : Port) : g.isMember p {} = false := by
  unfold Group.isMember
  split <;> rfl

/-- R263: a lane fault of an instruction that has issued already. -/
theorem resumes_laneFault (s0 s : State) (i : Instr) (recs : List (Nat × Cause × BitVec 64 × Bool)) : Resumes s (s0.laneFault s i {} recs) := by
  have hslot (x : Slot) : StreamsOnly s.g ((s.g.popAll s0.port []).setSlot s0.port x) := (streamsOnly_popAll _ _ _).trans (streamsOnly_setSlot _ _ _)
  have hgroup (x : Slot) (n m : Nat) : StreamsOnly s.g { (s.g.popAll s0.port []).setSlot s0.port x with serial := n, ready := m } :=
    (hslot x).trans ⟨rfl, rfl, rfl, rfl, rfl, rfl, rfl⟩
  unfold State.laneFault
  cases hc : (s0.g.slot s0.port).chain with
  | none =>
    simp only [hc]
    exact (resumes_of_group (hgroup _ _ _)).trans (resumes_hold _ _ _)
  | some c =>
    simp only [hc, Group.isMember_nop, Bool.false_eq_true, if_false]
    exact (resumes_of_group (hgroup _ _ _)).trans (resumes_hold _ _ _)

/-- R79: the group parks as a whole. -/
theorem resumes_switchOut {s t : State} (h : Resumes s t) : Resumes s (t.onGroup t.switchOut) :=
  h.trans ⟨rfl, rfl, rfl, rfl, rfl, rfl, rfl, rfl, rfl, rfl, rfl⟩

/-- R79, R184: the lanes that a page move stops. -/
theorem resumes_migrating (s0 s : State) (i : Instr) (lanes : Lanes) : Resumes s (s0.migrating s i {} lanes) := by
  have hpark : StreamsOnly s.g ((s.g.popAll s0.port []).park s0.port {} .migrating) := (streamsOnly_popAll _ _ _).trans (streamsOnly_park _ _ _ _)
  have hslot (x : Slot) (n : Nat) : StreamsOnly s.g { ((s.g.popAll s0.port []).park s0.port {} .migrating).setSlot s0.port x with serial := n } :=
    hpark.trans ((streamsOnly_setSlot _ s0.port x).trans ⟨rfl, rfl, rfl, rfl, rfl, rfl, rfl⟩)
  simp only [State.migrating]
  exact resumes_switchOut (resumes_of_group (hslot _ _))

/-- Acting at a port of the group at the issue port. -/
theorem Resumes.visit {s : State} {p : Port} {f : State → State} {g : Group} (hg : g.id = s.g.id)
    (h : Resumes { s with port := p, g := g } (f { s with port := p })) : Resumes { s with g := g } (s.visit s.g.id.uid p f) := by
  rw [State.visit_port (congrArg Ident.uid (h.group.id.trans hg))]
  exact ⟨h.mem, h.bufs, h.teams, h.others, h.group⟩

/-! ### The end of an atomic that holds its stream (R196, R197) -/

/-- R197: the instruction of a serial in flight holds its stream no more. -/
def Group.unheld (serial : Nat) (wide : Bool) (got : List Got) (fl : BitVec 64) (g : Group) : Group :=
  g.updateFlight serial (fun f => { f with kind := .atom wide got fl none })

/-- R196, R197: the stream that an atomic holds goes on: its lanes that a page move stops wait, those that were refused fail, and without such lanes
the atomic retires. -/
def State.unhold (serial : Nat) (p : Port) (wide : Bool) (got : List Got) (fl : BitVec 64) (h : AtomHold) (s : State) : State :=
  let s := s.onGroup (Group.unheld serial wide got fl)
  let first := s.onGroup (fun g => { g with modes := h.modes })
  let recs := sortBy (fun x y => decide (x.1 ≤ y.1)) h.recs
  if h.mig ≠ 0 then first.migrating s .nop {} (lanesOf (fun j => h.mig.getLsbD j || recs.any (fun x => x.1 == j)))
  else if recs.isEmpty then s.onGroup (fun g => g.retire g p .nop {} none false)
  else first.laneFault s .nop {} recs

theorem resumes_unhold (serial : Nat) (p : Port) (wide : Bool) (got : List Got) (fl : BitVec 64) (h : AtomHold) (s : State) :
    Resumes (s.onGroup (Group.unheld serial wide got fl)) (s.unhold serial p wide got fl h) := by
  unfold State.unhold
  dsimp only
  split
  · exact resumes_migrating _ _ _ _
  · split
    · exact resumes_of_group (streamsOnly_retire _ _ _)
    · exact resumes_laneFault _ _ _ _

theorem performs_unheld (s : State) (serial : Nat) (wide : Bool) (got : List Got) (fl : BitVec 64) :
    Performs s (s.onGroup (Group.unheld serial wide got fl)) :=
  ⟨rfl, rfl, State.inHandler_congr rfl rfl rfl rfl, rfl, rfl, fun _ h _ => h⟩

/-- R196, R197: an atomic that holds its stream settles, or nothing happens: what has returned of it stays, and of the group its streams change. -/
theorem State.InHand.atomicSettled {s : State} (h : s.InHand) (serial : Nat) :
    s.atomicSettled s.g.id.uid serial = s ∨
    ∃ f ∈ s.g.inflight, f.serial = serial ∧ ∃ wide got fl hold, f.kind = .atom wide got fl hold ∧
      Resumes (s.onGroup (Group.unheld serial wide got fl)) (s.atomicSettled s.g.id.uid serial) := by
  unfold State.atomicSettled
  rw [State.group_port h.present]
  simp only [Option.bind_some]
  cases hf : s.g.inflight.find? (fun f => f.serial == serial) with
  | none => exact .inl rfl
  | some f =>
    simp only [Option.map_some]
    split
    · next w got fl hold p hkind hport =>
      split
      · exact .inl rfl
      · refine .inr ⟨f, List.mem_of_find?_eq_some hf, by simpa using List.find?_some hf, w, got, fl, some hold, hkind, ?_⟩
        have hvisit : Resumes (s.onGroup (Group.unheld serial w got fl)) (s.visit s.g.id.uid p (State.unhold serial p w got fl hold)) :=
          Resumes.visit rfl (resumes_unhold serial p w got fl hold { s with port := p })
        have hperf := (performs_unheld s serial w got fl).trans hvisit.performs
        have hmirror := (h.of_performs hperf).mirrorStep p .none 0
        rw [hperf.uid] at hmirror
        exact hmirror.symm ▸ hvisit
    · exact .inl rfl
end Sys2Proof.Machine
end

section
/-! PROOF. O22: atomics perform, and what each of their operations makes of two values. -/

namespace Sys2Proof.Machine

/-! ### What has returned (R172) -/

/-- R172: the value of an entry as its instruction in flight gathers it. -/
def Entry.got (e : Entry) (v : Nat) : Got := { lane := e.lane, byteOff := e.byteOff, size := e.size, data := BitVec.ofNat 64 v }

/-- R172: an entry's value is the last that its instruction has gathered. -/
theorem gathers_gotFor {t : State} {g : Group} {e : Entry} {v : Nat} {fl : BitVec 6}
    (h : t.g.inflight = (g.gotFor e.serial (e.got v) fl).inflight) : Claims.Gathers t e v := by
  intro f hf hs
  rw [h] at hf
  obtain ⟨x, -, rfl⟩ := List.mem_map.1 hf
  by_cases hx : x.serial = e.serial
  · have hbeq : (x.serial == e.serial) = true := beq_iff_eq.2 hx
    simp only [hbeq, if_true]
    constructor
    · intro ty got d a hk
      cases hkind : x.kind <;> rw [hkind] at hk <;> cases hk
      exact List.getLast?_concat
    · intro w got fl hold hk
      cases hkind : x.kind <;> rw [hkind] at hk <;> cases hk
      exact List.getLast?_concat
  · have hbeq : (x.serial == e.serial) = false := beq_eq_false_iff_ne.2 hx
    simp only [hbeq, Bool.false_eq_true, if_false] at hs
    exact absurd hs hx

/-- R197: the instruction keeps what it has gathered when its stream goes on. -/
theorem gathers_unheld {s t : State} {e : Entry} {v : Nat} (h : Claims.Gathers s e v) {f : InFlight} (hf : f ∈ s.g.inflight)
    (hs : f.serial = e.serial) {w : Bool} {got : List Got} {fl : BitVec 64} {hold : Option AtomHold} (hk : f.kind = .atom w got fl hold)
    (ht : t.g.inflight = (s.g.unheld e.serial w got fl).inflight) : Claims.Gathers t e v := by
  have hlast := (h f hf hs).2 w got fl hold hk
  intro y hy hys
  rw [ht] at hy
  obtain ⟨x, hx, rfl⟩ := List.mem_map.1 hy
  by_cases hxs : x.serial = e.serial
  · have hbeq : (x.serial == e.serial) = true := beq_iff_eq.2 hxs
    simp only [hbeq, if_true]
    refine ⟨fun _ _ _ _ hne => (nomatch hne), fun _ _ _ _ heq => ?_⟩
    cases heq
    exact hlast
  · have hbeq : (x.serial == e.serial) = false := beq_eq_false_iff_ne.2 hxs
    simp only [hbeq, Bool.false_eq_true, if_false] at hys
    exact absurd hys hxs

/-! ### The read and the write at home (R213, R216) -/

/-- The group after an atomic has performed: its entry has left, with what it has read and gathered. -/
def Group.atomicDone (e : Entry) (tags : List Tag) (v : Nat) (fl : BitVec 6) (g : Group) : Group :=
  ((g.leaves e).noteTags e tags).gotFor e.serial (e.got v) fl

theorem steady_noteTags (e : Entry) (tags : List Tag) : Steady (fun g => g.noteTags e tags) :=
  ⟨fun _ => rfl, fun _ => rfl, fun _ => rfl, fun _ => rfl, fun _ => rfl, fun _ => rfl, fun _ => rfl⟩

theorem steady_gotFor (serial : Nat) (x : Got) (fl : BitVec 6) : Steady (fun g => g.gotFor serial x fl) :=
  ⟨fun _ => rfl, fun _ => rfl, fun _ => rfl, fun _ => rfl, fun _ => rfl, fun _ => rfl, fun _ => rfl⟩

theorem steady_atomicDone (e : Entry) (tags : List Tag) (v : Nat) (fl : BitVec 6) : Steady (Group.atomicDone e tags v fl) :=
  ((steady_leaves e).comp (steady_noteTags e tags)).comp (steady_gotFor e.serial (e.got v) fl)

/-- R213: an access that no debug block records is not noted. -/
theorem State.observeAccess_unrecorded {s : State} (h : s.recorders = []) (uid serial : Nat) (l : Loc) (va : Nat) (wr atom : Bool) :
    s.observeAccess uid serial l va wr atom = s := by
  unfold State.observeAccess
  split
  · rfl
  · simp only [State.observe, h, List.filter_nil, List.foldl_nil]
    split <;> rfl

/-- A write of a good sector of device memory leaves the groups, the buffers and the teams alone. -/
theorem performs_homeArrive {s : State} {k : Nat} (hp : sectorOf k ∉ s.poison) (hf : sectorOf k ∉ s.failing) (hm : s.migs = []) (ht : s.tracked = [])
    (grp va n v : Nat) :
    let t := s.homeArrive grp (.mem k) va n v false
    Performs s t ∧ t.g = s.g ∧ t.mem = Memory.writeBytes s.mem k (toBytes n v) := by
  obtain ⟨hs, ps, fs, rs, h⟩ := State.homeArrive_good hp hf hm ht grp va n v
  rw [h]
  exact ⟨⟨rfl, rfl, rfl, rfl, rfl, fun _ h _ => h⟩, rfl, rfl⟩

/-- An atomic on plain memory has nothing to wait for and nothing to note: its group has its registers in hand, its sector is good, nothing records, tracks or
moves. -/
structure OnPlainMemory (s : State) (k : Nat) : Prop where
  inHand : s.InHand
  unrecorded : s.recorders = []
  untracked : s.tracked = []
  sound : sectorOf k ∉ s.poison
  readable : sectorOf k ∉ s.failing
  still : s.migs = []

/-- R216: the tag that a release leaves at the bytes that its entry writes. -/
def State.releaseTag (s : State) (g : Group) (e : Entry) : State :=
  match e.rel with
  | some sc => s.setTags e.loc e.size (some (g.tag sc))
  | none => s

theorem State.releaseTag_eq (s : State) (g : Group) (e : Entry) : s.releaseTag g e = { s with homeTags := (s.releaseTag g e).homeTags } := by
  unfold State.releaseTag
  split <;> rfl

theorem performs_releaseTag (s : State) (g : Group) (e : Entry) : Performs s (s.releaseTag g e) := by
  rw [State.releaseTag_eq]
  exact ⟨rfl, rfl, rfl, rfl, rfl, fun _ hx _ => hx⟩

/-- R213, R216: an atomic on plain memory writes a new value at home, with or without a tag of its own. -/
theorem State.atomicAt_writes {s : State} {e : Entry} {k : Nat} (h : OnPlainMemory s k) (hl : e.loc = .mem k) {old x : Nat} {fl : BitVec 6}
    (hold : s.homeRead e.loc e.size = old) (hup : e.kind.update old e.data e.data2 = some (x, fl)) :
    let tags := (s.unitVia s.g e.loc e.size).2
    ∃ w, s.atomicAt s.g e = w.modGroup s.g.id.uid (Group.atomicDone e tags old fl) ∧ Performs s w ∧
      w.g = s.g.withScope (s.g.mismatch e.acq tags) ∧ w.mem = Memory.writeBytes s.mem k (toBytes e.size x) := by
  intro tags
  let u := s.modGroup s.g.id.uid (Group.withScope (s.g.mismatch e.acq tags))
  have hu : Performs s u := performs_modGroup s (steady_withScope _) (Group.withScope_regs _ _)
  have hug : u.g = s.g.withScope (s.g.mismatch e.acq tags) := s.modGroup_g rfl _
  obtain ⟨harrive, hg, hmem⟩ := performs_homeArrive (s := u) h.sound h.readable h.still h.untracked s.g.id.uid e.va e.size x
  rw [← hl] at harrive hg hmem
  let w := u.homeArrive s.g.id.uid e.loc e.va e.size x false
  have hwg : (w.releaseTag s.g e).g = w.g := by rw [State.releaseTag_eq]
  have hwm : (w.releaseTag s.g e).mem = w.mem := by rw [State.releaseTag_eq]
  refine ⟨w.releaseTag s.g e, ?_, hu.trans (harrive.trans (performs_releaseTag w s.g e)), hwg.trans (hg.trans hug), hwm.trans hmem⟩
  simp only [State.atomicAt, hold, hup, State.observeAccess_unrecorded h.unrecorded, h.inHand.acquirePoint]
  rfl

/-- R213: an atomic that writes nothing, a `cas` that finds another value. -/
theorem State.atomicAt_reads {s : State} {e : Entry} {k : Nat} (h : OnPlainMemory s k) {old : Nat} (hold : s.homeRead e.loc e.size = old)
    (hup : e.kind.update old e.data e.data2 = none) :
    let tags := (s.unitVia s.g e.loc e.size).2
    ∃ w, s.atomicAt s.g e = w.modGroup s.g.id.uid (Group.atomicDone e tags old 0) ∧ Performs s w ∧
      w.g = s.g.withScope (s.g.mismatch e.acq tags) ∧ w.mem = s.mem := by
  intro tags
  refine ⟨s.modGroup s.g.id.uid (Group.withScope (s.g.mismatch e.acq tags)), ?_, performs_modGroup s (steady_withScope _) (Group.withScope_regs _ _),
    s.modGroup_g rfl _, rfl⟩
  simp only [State.atomicAt, hold, hup, State.observeAccess_unrecorded h.unrecorded, h.inHand.acquirePoint]
  rfl

/-- The group after an atomic on plain memory has performed, whose operation raises some flags. -/
def Group.afterAtomic (s : State) (e : Entry) (v : Nat) (fl : BitVec 6) : Group :=
  let tags := (s.unitVia s.g e.loc e.size).2
  (s.g.withScope (s.g.mismatch e.acq tags)).atomicDone e tags v fl

/-- R213, R216: the read, the computation and the write of an atomic on plain memory. -/
theorem State.atomicAt_plain {s : State} {e : Entry} {k : Nat} (h : OnPlainMemory s k) (hl : e.loc = .mem k) :
    let old := Memory.readNat s.mem k e.size
    let t := s.atomicAt s.g e
    Performs s t ∧ (∃ fl, t.g = Group.afterAtomic s e old fl) ∧
      (∀ x fl, e.kind.update old e.data e.data2 = some (x, fl) → t.mem = Memory.writeBytes s.mem k (toBytes e.size x)) ∧
      (e.kind.update old e.data e.data2 = none → t.mem = s.mem) := by
  intro old t
  have hold : s.homeRead e.loc e.size = old := by rw [hl, State.homeRead_mem]
  have hdone {w : State} {fl : BitVec 6} (hw : Performs s w) (hwg : w.g = s.g.withScope (s.g.mismatch e.acq (s.unitVia s.g e.loc e.size).2))
      (ht : t = w.modGroup s.g.id.uid (Group.atomicDone e (s.unitVia s.g e.loc e.size).2 old fl)) :
      Performs s t ∧ (∃ fl, t.g = Group.afterAtomic s e old fl) ∧ t.mem = w.mem := by
    have hlast := performs_modGroup w (steady_atomicDone e (s.unitVia s.g e.loc e.size).2 old fl) rfl
    rw [hw.uid] at hlast
    rw [ht]
    exact ⟨hw.trans hlast, ⟨fl, by rw [w.modGroup_g hw.uid.symm, hwg]; rfl⟩, rfl⟩
  cases hup : e.kind.update old e.data e.data2 with
  | none =>
    obtain ⟨w, ht, hw, hwg, hmem⟩ := State.atomicAt_reads h hold hup
    obtain ⟨hp, hg, htm⟩ := hdone hw hwg ht
    exact ⟨hp, hg, (fun _ _ hne => nomatch hne), fun _ => htm.trans hmem⟩
  | some y =>
    obtain ⟨w, ht, hw, hwg, hmem⟩ := State.atomicAt_writes h hl hold hup
    obtain ⟨hp, hg, htm⟩ := hdone hw hwg ht
    refine ⟨hp, hg, fun x fl heq => ?_, (fun hne => nomatch hne)⟩
    obtain rfl := Option.some.inj heq
    exact htm.trans hmem

/-- R213, R185: an atomic on plain memory that waits for nothing performs on the home values. -/
theorem State.atomicHome_plain {s : State} {e : Entry} {k : Nat} (h : OnPlainMemory s k) (hl : e.loc = .mem k) : s.atomicHome s.g e = s.atomicAt s.g e := by
  unfold State.atomicHome
  split
  · rfl
  · simp only [hl, State.writeHeld_still h.still h.untracked, Bool.false_eq_true, if_false]

/-! ### The fences that perform with the atomic (R219) -/

theorem Group.afterAtomic_id (s : State) (e : Entry) (v : Nat) (fl : BitVec 6) : (Group.afterAtomic s e v fl).id = s.g.id :=
  ((steady_atomicDone _ _ _ _).id _).trans (Group.withScope_id _ _)

theorem Group.afterAtomic_outq (s : State) (e : Entry) (v : Nat) (fl : BitVec 6) : (Group.afterAtomic s e v fl).outq = (s.g.leaves e).outq := by
  simp only [Group.afterAtomic, Group.atomicDone, Group.gotFor, Group.updateFlight, Group.noteTags, Group.leaves_outq, Group.withScope_outq]

theorem Group.afterAtomic_ids (s : State) (e : Entry) (v : Nat) (fl : BitVec 6) :
    (Group.afterAtomic s e v fl).ids = s.g.ids.filter (fun i => i != e.id) := by
  rw [Group.ids, Group.afterAtomic_outq]
  exact s.g.ids_leaves e

/-- R219: the fences that the last read leaves behind. -/
theorem Group.dueFences_afterAtomic (s : State) (e : Entry) (v : Nat) (fl : BitVec 6) :
    (Group.afterAtomic s e v fl).dueFences = (Claims.lastReadOf s e).map e.behind := by
  rw [Group.dueFences, Group.afterAtomic_outq, Group.leaves_outq, List.filter_map, List.filter_filter, Claims.lastReadOf]
  congr 1
  refine List.filter_congr fun x _ => ?_
  simp only [Function.comp, Entry.behind_kind, Entry.behind_after, List.any_map, Entry.behind_id, List.any_filter]
  cases decide (x.kind = .fence) <;> cases (x.id != e.id) <;> simp

/-- R218: every tag that the atomic reads is known of its path afterwards. -/
theorem Group.mem_readTags_noteTags {g : Group} {e : Entry} {tags : List Tag} {y : Tag} (hy : y ∈ tags) :
    ∃ r ∈ (g.noteTags e tags).readTags, r.serial ≤ e.serial ∧ r.setter = e.setter ∧ r.mask = e.mask ∧ r.tag = y := by
  by_cases hk : g.readTags.any (fun r => decide (r.serial ≤ e.serial) && r.setter == e.setter && decide (r.mask = e.mask) && decide (r.tag = y)) = true
  · obtain ⟨r, hr, hall⟩ := List.any_eq_true.1 hk
    simp only [Bool.and_eq_true, decide_eq_true_eq, beq_iff_eq] at hall
    obtain ⟨⟨⟨hserial, hsetter⟩, hmask⟩, htag⟩ := hall
    exact ⟨r, List.mem_append_left _ hr, hserial, hsetter, hmask, htag⟩
  · refine ⟨⟨e.serial, e.setter, e.mask, y⟩, List.mem_append_right _ (List.mem_map.2 ⟨y, List.mem_filter.2 ⟨hy, ?_⟩, rfl⟩), le_rfl, rfl, rfl, rfl⟩
    simpa using hk

/-- A fence finds a mismatched write that is known of its path. -/
theorem Group.fenceFinds_of_mem {g : Group} {x : Entry} {sc : BitVec 3} {r : ReadTag} (hacq : x.acq = some sc) (hr : r ∈ g.readTags)
    (hb : g.readBefore r x = true) (hm : g.matched sc r.tag = false) : g.fenceFinds x = true := by
  rw [Group.fenceFinds, hacq]
  refine List.any_eq_true.2 ⟨r.tag, List.mem_map.2 ⟨r, List.mem_filter.2 ⟨hr, hb⟩, rfl⟩, ?_⟩
  rw [hm]; rfl

/-- What an entry reads in a window of another module carries no tag, and what it reads elsewhere is what the buffers of its path hold. -/
theorem State.readEntry_tags {s : State} {g : Group} {e : Entry} {y : Tag} (hy : y ∈ (s.readEntry g e).2) : y ∈ (s.unitVia g e.loc e.size).2 := by
  unfold State.readEntry at hy
  split at hy
  · cases hy
  · exact hy

/-- R218, R219: where a read before a fence returned a mismatched write, the fence finds it after the atomic. -/
theorem Group.fenceFinds_afterAtomic {s : State} {e x : Entry} {v : Nat} {fl : BitVec 6} {sc : BitVec 3} (hacq : x.acq = some sc)
    (h : (∃ r ∈ s.g.readTags, s.g.readBefore r x = true ∧ s.g.matched sc r.tag = false) ∨
      (e.serial < x.serial ∧ onPath e.setter e.mask x.setter x.mask = true ∧ ∃ y ∈ (s.readEntry s.g e).2, s.g.matched sc y = false)) :
    (Group.afterAtomic s e v fl).fenceFinds (e.behind x) = true := by
  have hmatched : (Group.afterAtomic s e v fl).matched = s.g.matched := Group.matched_congr (Group.afterAtomic_id s e v fl)
  have hbefore (r : ReadTag) : (Group.afterAtomic s e v fl).readBefore r (e.behind x) = s.g.readBefore r x := by
    simp only [Group.readBefore, Entry.behind_serial, Entry.behind_setter, Entry.behind_mask]
  rcases h with ⟨r, hr, hb, hm⟩ | ⟨hserial, hpath, y, hy, hm⟩
  · refine Group.fenceFinds_of_mem (r := r) (by rw [Entry.behind_acq, hacq]) (List.mem_append_left _ ?_) (by rw [hbefore, hb]) (by rw [hmatched, hm])
    rwa [Group.leaves_readTags, Group.withScope_readTags]
  · obtain ⟨r, hr, hrs, hset, hmask, htag⟩ := Group.mem_readTags_noteTags
      (g := (s.g.withScope (s.g.mismatch e.acq (s.unitVia s.g e.loc e.size).2)).leaves e) (e := e) (State.readEntry_tags hy)
    refine Group.fenceFinds_of_mem (r := r) (by rw [Entry.behind_acq, hacq]) hr ?_ (by rw [hmatched, htag, hm])
    rw [hbefore, Group.readBefore, hset, hmask, hpath, Bool.and_true]
    exact decide_eq_true (lt_of_le_of_lt hrs hserial)

/-- R219: the entry of the atomic leaves, and with it the fences whose last read it was. -/
theorem readLeft_afterAtomic {s t : State} {e : Entry} {v : Nat} {fl : BitVec 6}
    (hq : t.g.outq = ((Group.afterAtomic s e v fl).dueFences.foldl Group.fenced (Group.afterAtomic s e v fl)).outq)
    (hm : t.g.modes = ((Group.afterAtomic s e v fl).dueFences.foldl Group.fenced (Group.afterAtomic s e v fl)).modes) : Claims.ReadLeft s t e := by
  constructor
  · have hids : t.g.ids = s.g.ids.filter (fun i => i != e.id && !((Claims.lastReadOf s e).any (fun x => x.id == i))) := by
      rw [Group.ids, hq]
      refine (Group.foldl_fenced_ids _ _).trans ?_
      rw [Group.afterAtomic_ids, List.filter_filter, Group.dueFences_afterAtomic]
      refine List.filter_congr fun i _ => ?_
      rw [Bool.and_comm, List.any_map]
      simp only [Function.comp_def, Entry.behind_id]
    exact hids
  · intro x hx sc hacq hfinds
    rw [hm]
    refine Group.foldl_fenced_finds (x := e.behind x) ?_ (Group.fenceFinds_afterAtomic hacq hfinds)
    rw [Group.dueFences_afterAtomic]
    exact List.mem_map_of_mem hx

/-! ### The whole step -/

/-- R213, R219: an atomic on plain memory has performed, and with it the fences whose last read it was. -/
theorem performAtomic_plain {s : State} {e : Entry} {k : Nat} (hr : Claims.Ready s e) (h : OnPlainMemory s k) (hl : e.loc = .mem k)
    (hwin : e.win = none) (hkind : e.kind.isAtomic = true) (hrel : s.releaseMay s.g e = true)
    (hread : s.g.mayRead e (s.readEntry s.g e).2 = true) (hinh : s.inheritMay s.g e (s.readEntry s.g e).2 = true)
    (hclear : s.pathClear s.g e.loc e.size = true) :
    let old := Memory.readNat s.mem k e.size
    ∃ t, exec (.performAtomic e.id) s = .next t ∧
      (∀ x fl, e.kind.update old e.data e.data2 = some (x, fl) → t.mem = Memory.writeBytes s.mem k (toBytes e.size x)) ∧
      (e.kind.update old e.data e.data2 = none → t.mem = s.mem) ∧
      t.bufs = s.bufs ∧ t.teams = s.teams ∧ Claims.OthersStay s t s.g.id.uid ∧ t.g.regs = s.g.regs ∧ Claims.ReadLeft s t e ∧
      Claims.Gathers t e old := by
  intro old
  obtain ⟨-, hfound, hmay⟩ := hr
  let u := s.atomicAt s.g e
  let w := u.fencesDue s.g.id.uid
  have hexec : exec (.performAtomic e.id) s = .next (w.atomicSettled s.g.id.uid e.serial) := by
    rw [exec_performAtomic, execPerformAtomic, hfound]
    simp only [hkind, hmay, hrel, hread, hclear, hinh, State.contribute, hwin, Bool.and_self, Bool.not_true, Bool.false_eq_true, if_false, if_true,
      State.atomicHome_plain h hl]
    rfl
  obtain ⟨hu, ⟨fl, hug⟩, hwrites, hkeeps⟩ := State.atomicAt_plain h hl
  have huhand := h.inHand.of_performs hu
  obtain ⟨hfences, hwmem, hwg⟩ := huhand.foldl_fenceNext u.g.dueFences
  rw [← State.fencesDue_eq huhand.present, hu.uid] at hfences hwmem hwg
  have hw : Performs s w := hu.trans hfences
  have hwmem : w.mem = u.mem := hwmem
  have hwg : w.g = (Group.afterAtomic s e old fl).dueFences.foldl Group.fenced (Group.afterAtomic s e old fl) := by rw [← hug]; exact hwg
  have hgathers : Claims.Gathers w e old := by
    refine gathers_gotFor (fl := fl) (g := ((s.g.withScope (s.g.mismatch e.acq (s.unitVia s.g e.loc e.size).2)).leaves e).noteTags e
      (s.unitVia s.g e.loc e.size).2) ?_
    rw [hwg, Group.foldl_fenced_inflight]
    rfl
  have hsettled := (h.inHand.of_performs hw).atomicSettled e.serial
  rw [hw.uid] at hsettled
  refine ⟨_, hexec, ?_⟩
  rcases hsettled with hsame | ⟨f, hf, hserial, wide, got, flags, hold, hk, hres⟩
  · rw [hsame]
    exact ⟨fun x fl hx => hwmem.trans (hwrites x fl hx), fun hx => hwmem.trans (hkeeps hx), hw.bufs, hw.teams, hw.others, hw.regs,
      readLeft_afterAtomic (congrArg Group.outq hwg) (congrArg Group.modes hwg), hgathers⟩
  · have hall := hw.trans ((performs_unheld w e.serial wide got flags).trans hres.performs)
    have hmem : (w.atomicSettled s.g.id.uid e.serial).mem = u.mem := hres.mem.trans hwmem
    have houtq : (w.atomicSettled s.g.id.uid e.serial).g.outq = w.g.outq := hres.group.outq
    have hmodes : (w.atomicSettled s.g.id.uid e.serial).g.modes = w.g.modes := hres.group.modes
    exact ⟨fun x fl hx => hmem.trans (hwrites x fl hx), fun hx => hmem.trans (hkeeps hx), hall.bufs, hall.teams, hall.others, hall.regs,
      readLeft_afterAtomic (houtq.trans (congrArg Group.outq hwg)) (hmodes.trans (congrArg Group.modes hwg)),
      gathers_unheld hgathers hf hserial hk hres.group.inflight⟩

/-! ### The operations (R228, R229) -/

/-- R3: a number as a signed one of `n` bits. -/
theorem sextOf_eq_toInt {n : Nat} (hn : 0 < n) (x : Nat) : sextOf x n = (BitVec.ofNat n x).toInt := by
  have hpow : 2 ^ n = 2 * 2 ^ (n - 1) := by rw [← Nat.pow_succ', Nat.succ_eq_add_one, Nat.sub_add_cancel hn]
  rw [sextOf, BitVec.toInt_eq_toNat_cond, BitVec.toNat_ofNat]
  by_cases h : x % 2 ^ n < 2 ^ (n - 1)
  · rw [if_pos h, if_pos (by omega)]
  · rw [if_neg h, if_neg (by omega)]

/-- R228: the bits of an integer type of atomics. -/
def atomicBits (ty : BitVec 2) : Nat := if ty.toNat < 2 then 32 else 64

theorem atomicBits_pos (ty : BitVec 2) : 0 < atomicBits ty := by unfold atomicBits; split <;> decide

/-- R228: a number as a value of an integer type of atomics, signed or unsigned. -/
def atomicValue (ty : BitVec 2) (x : Nat) : Int :=
  if decide (ty.toNat % 2 = 0) then sextOf x (atomicBits ty) else ((x % 2 ^ atomicBits ty : Nat) : Int)

/-- R229: the minima and maxima of atomics compare as the type. -/
theorem atomicValue_lt {ty : BitVec 2} {a b : Nat} (ha : a < 2 ^ atomicBits ty) (hb : b < 2 ^ atomicBits ty) :
    atomicValue ty a < atomicValue ty b ↔
      if ty.toNat % 2 = 0 then (BitVec.ofNat (atomicBits ty) a).toInt < (BitVec.ofNat (atomicBits ty) b).toInt else a < b := by
  unfold atomicValue
  by_cases hs : ty.toNat % 2 = 0
  · simp only [hs, decide_true, if_true, sextOf_eq_toInt (atomicBits_pos ty)]
  · simp only [hs, decide_false, Bool.false_eq_true, if_false, Nat.mod_eq_of_lt ha, Nat.mod_eq_of_lt hb, Int.ofNat_lt]

section
variable (ty : BitVec 2) (fm : DWord) (dr : Word) (x y : Nat)

theorem atomicNew_add : atomicNew 0 ty fm dr x y = ((x + y) % 2 ^ atomicBits ty, 0) := rfl
theorem atomicNew_min : atomicNew 1 ty fm dr x y = (if atomicValue ty y < atomicValue ty x then y else x, 0) := rfl
theorem atomicNew_max : atomicNew 2 ty fm dr x y = (if atomicValue ty x < atomicValue ty y then y else x, 0) := rfl
theorem atomicNew_and : atomicNew 3 ty fm dr x y = (Nat.land x y, 0) := rfl
theorem atomicNew_or : atomicNew 4 ty fm dr x y = (Nat.lor x y, 0) := rfl
theorem atomicNew_xor : atomicNew 5 ty fm dr x y = (Nat.xor x y, 0) := rfl
theorem atomicNew_exchange : atomicNew 6 ty fm dr x y = (y, 0) := rfl

/-- R229: the codes of the integer operations. -/
theorem integerOp_cases : ∀ {o : BitVec 3}, o ≠ 7 → o = 0 ∨ o = 1 ∨ o = 2 ∨ o = 3 ∨ o = 4 ∨ o = 5 ∨ o = 6 := by decide

/-- R229: an integer operation raises no flag. -/
theorem atomicNew_quiet {o : BitVec 3} (ho : o ≠ 7) : (atomicNew o ty fm dr x y).2 = 0 := by
  rcases integerOp_cases ho with rfl | rfl | rfl | rfl | rfl | rfl | rfl
  · rw [atomicNew_add]
  · rw [atomicNew_min]
  · rw [atomicNew_max]
  · rw [atomicNew_and]
  · rw [atomicNew_or]
  · rw [atomicNew_xor]
  · rw [atomicNew_exchange]

end

/-- R228, R229: what each integer operation makes of an old value and an operand. -/
theorem atomicNew_integer (ty : BitVec 2) (fm : DWord) (dr : Word) {x y : Nat} (hx : x < 2 ^ atomicBits ty) (hy : y < 2 ^ atomicBits ty) :
    let less := fun (a b : Nat) =>
      if ty.toNat % 2 = 0 then (BitVec.ofNat (atomicBits ty) a).toInt < (BitVec.ofNat (atomicBits ty) b).toInt else a < b
    let op := fun (o : BitVec 3) => (atomicNew o ty fm dr x y).1
    op 0 = (x + y) % 2 ^ atomicBits ty ∧ (less y x → op 1 = y) ∧ (¬less y x → op 1 = x) ∧ (less x y → op 2 = y) ∧ (¬less x y → op 2 = x) ∧
    op 3 = Nat.land x y ∧ op 4 = Nat.lor x y ∧ op 5 = Nat.xor x y ∧ op 6 = y ∧ ∀ o : BitVec 3, o ≠ 7 → (atomicNew o ty fm dr x y).2 = 0 := by
  intro less op
  have hmin : op 1 = if atomicValue ty y < atomicValue ty x then y else x := congrArg Prod.fst (atomicNew_min ty fm dr x y)
  have hmax : op 2 = if atomicValue ty x < atomicValue ty y then y else x := congrArg Prod.fst (atomicNew_max ty fm dr x y)
  refine ⟨congrArg Prod.fst (atomicNew_add ty fm dr x y), fun h => ?_, fun h => ?_, fun h => ?_, fun h => ?_,
    congrArg Prod.fst (atomicNew_and ty fm dr x y), congrArg Prod.fst (atomicNew_or ty fm dr x y), congrArg Prod.fst (atomicNew_xor ty fm dr x y),
    congrArg Prod.fst (atomicNew_exchange ty fm dr x y), fun o ho => atomicNew_quiet ty fm dr x y ho⟩
  · exact hmin.trans (if_pos ((atomicValue_lt hy hx).2 h))
  · exact hmin.trans (if_neg fun hv => h ((atomicValue_lt hy hx).1 hv))
  · exact hmax.trans (if_pos ((atomicValue_lt hx hy).2 h))
  · exact hmax.trans (if_neg fun hv => h ((atomicValue_lt hx hy).1 hv))

/-- Settles O22: an atomic performs as `performAtomic_plain` says, with the operations of `atomicNew`. -/
theorem atomicsPerform : Obligations.AtomicsPerform := by
  unfold Obligations.AtomicsPerform
  refine ⟨fun s e k hr hun hwf hwin hl hrel hread hinh hclear hp hf hm => ?_, fun ty fm dr x y hx hy => atomicNew_integer ty fm dr hx hy,
    fun fm dr x y _ _ => ⟨rfl, rfl, rfl⟩⟩
  obtain ⟨hrecorders, htracked, hhands⟩ := hun
  have hplain : OnPlainMemory s k := ⟨⟨hr.here, hhands⟩, hrecorders, htracked, hp, hf, hm⟩
  constructor
  · intro op ty fmode draw hkind
    obtain ⟨t, ht, hwrites, -, hrest⟩ := performAtomic_plain hr hplain hl hwin (by rw [hkind]; rfl) hrel hread hinh hclear
    exact ⟨t, ht, writes_of_mem hwf (hwrites _ _ (by rw [hkind]; rfl)), hrest⟩
  · intro ty hkind
    obtain ⟨t, ht, hwrites, hkeeps, hrest⟩ := performAtomic_plain hr hplain hl hwin (by rw [hkind]; rfl) hrel hread hinh hclear
    refine ⟨t, ht, ?_, hrest⟩
    split
    · next heq => exact writes_of_mem hwf (hwrites _ 0 (by rw [hkind]; exact if_pos heq))
    · next hne => exact hkeeps (by rw [hkind]; exact if_neg hne)

end Sys2Proof.Machine
end

section
/-! PROOF. O14: every encoded instruction is an attempt to issue, and what the checks before its own leave when they refuse it or park it. -/

namespace Sys2Proof.Machine

/-- R358: the answer is that of an attempt to issue `i`, whatever its own act. -/
def Attempts (i : Instr) (s : State) (a : Answer) : Prop := ∃ act, a = .next (s.issue i act)

theorem attempts_issue {i : Instr} {s : State} (act : State → Act) : Attempts i s (.next (s.issue i act)) := ⟨act, rfl⟩

theorem attempts_plain {i : Instr} {s : State} (f : Group → Port → Group) : Attempts i s (.next (s.plain i f)) := attempts_issue _

theorem attempts_laneOp {i : Instr} {s : State} (d : BitVec 7) (w : Bool) (f : Group → Port → Nat → Word) :
    Attempts i s (.next (s.laneOp i d w f)) := attempts_issue _

theorem attempts_laneFlagOp {i : Instr} {s : State} (d : BitVec 7) (w draws : Bool) (f : Group → Port → Nat → Word × BitVec 6) :
    Attempts i s (.next (s.laneFlagOp i d w draws f)) := attempts_issue _

theorem attempts_predOp {i : Instr} {s : State} (d : Nat) (f : Group → Port → Nat → Bool × BitVec 6) :
    Attempts i s (.next (s.predOp i d f)) := attempts_issue _

theorem attempts_engine {i : Instr} {s : State} (trap : State → Option Cause) (cmd : State → PmeCmd) (dest : Dest) (hold : State → Bool) :
    Attempts i s (.next (s.engine i trap cmd dest hold)) := attempts_issue _

theorem attempts_both {i : Instr} {s : State} (d : BitVec 7) (w : Bool) (a b : BitVec 8) (f : Word → Word → Word)
    (f64 : DWord → DWord → DWord) : Attempts i s (.next (s.both i d w a b f f64)) := by
  unfold State.both
  split
  · exact attempts_plain _
  · exact attempts_laneOp _ _ _

theorem attempts_mov {d : BitVec 7} {w : Bool} {a : BitVec 8} {s : State} : Attempts (.mov d w a) s (execMov d w a s) := by
  unfold execMov
  split
  · exact attempts_plain _
  · exact attempts_laneOp _ _ _

theorem attempts_cvt {d a t f : BitVec 6} {s : State} : Attempts (.cvt d a t f) s (execCvt d a t f s) := by
  unfold execCvt
  dsimp only
  split
  · exact attempts_issue _
  · exact attempts_laneFlagOp _ _ _ _

theorem attempts_short {i : Instr} {s : State} (d : BitVec 6) (sc : BitVec 5) (f : Word → Word → Word) : Attempts i s (.next (s.short i d sc f)) := by
  unfold State.short State.binary
  exact attempts_laneOp _ _ _

theorem attempts_packed {i : Instr} {s : State} (op : PackedOp) (d a b f : BitVec 6) : Attempts i s (.next (s.packed i op d a b f)) := by
  unfold State.packed
  exact attempts_laneFlagOp _ _ _ _

/-- R358: every encoded instruction but `mmc` is an attempt to issue. -/
theorem exec_attempts {i : Instr} (h : i.isEncoded = true) (hm : ∀ d a b, i ≠ .mmc d a b) (s : State) : Attempts i s (exec i s) := by
  cases i
  case mmc d a b => exact absurd rfl (hm d a b)
  case mov => exact attempts_mov
  case cvt => exact attempts_cvt
  case add | and | mul | or | shl | shr | sub | xor => exact attempts_both _ _ _ _ _ _
  case addPair | mulPair | subPair | addWide | subWide | movS | movHi | nop | prio | rdst => exact attempts_plain _
  case add16 | and16 | minS3216 | maxS3216 | mul16 | or16 | shl16 | shr16 | sub16 | xor16 => exact attempts_short _ _ _
  case xadd | xmul | xfma | xmax | xmin => exact attempts_packed _ _ _ _ _
  case abs | brev | clz | mov16 | neg | not | popc
      | bfxS32 | bfxZ32 | cmpS32V | cmpZ32V | minS32 | minZ32 | maxS32 | maxZ32 | mulhS32 | mulhZ32 | sar
      | bcast | bfi | fsh | movi | movh | sel | shflIdx | shflUp | shflDn | shflXor => exact attempts_laneOp _ _ _
  case dqnt | lred | madS32 | madZ32 | qnt | rng | scan
      | fadd | fadd16 | fsub | fsub16 | fmul | fmul16 | faddH | fsubH | fmulH | ffma | ffmaH
      | fmin | fmin16 | fmax | fmax16 | fminH | fmaxH | fcmpF32V | fcmpF16V | fcmpBf16V => exact attempts_laneFlagOp _ _ _ _
  case cmpS32P | cmpZ32P | elect | voteBall | voteAny | voteAll | voteEq | fcmpF32P | fcmpF16P | fcmpBf16P => exact attempts_predOp _ _
  case acrd | acwr | acz | drain | drainT | extrS32 | extrS64 | pmul | pmulUns | packS32 | packZ32 | packRevS32 | packRevZ32 =>
    exact attempts_engine _ _ _ _
  case acquire | atom | barArv | barWait | br | call | cancel | cas | echo | eret | eretEnd | exit | fence | gset | gth | jmp | join
      | kvfork | kvskip | kvrel | kvx | kvxW | launch | litscan | movPush | release | replay | ret | sct | setrj | shmap | shlit | shfade
      | spawn | stm | trap | vserve | vcatch | vpoll | wait | wrst | yield | cpy | cpyg | mma | mmaSp | mmd | mmdLd
      | cexp | clog | csin | catan | csqrt | crsq | crcp | ctanh | ld | ldAcq | ldq | ldqAcq | lds | ldsAcq | st | stRel | sts | stsRel =>
    exact attempts_issue _
  -- the happenings, which are not encoded
  all_goals exact absurd h Bool.false_ne_true

theorem held_eq_false {s : State} (h : s.port = .setter ∨ s.g.holdsIssue s.port = false) : s.held = false := by
  rcases h with h | h <;> simp [State.held, h]

/-- R358: an attempt that the checks refuse. -/
theorem issue_refuses {i : Instr} {s : State} {c : Cause} (act : State → Act) (hh : s.held = false)
    (hc : s.preTrap i (usesOf (s.g.streamAt s.port) i) = some c) : s.issue i act = s.refuse (usesOf (s.g.streamAt s.port) i) c := by
  rw [State.issue, hh, if_neg Bool.false_ne_true, hc]

/-- R172, R358: an attempt that the scoreboard parks. -/
theorem issue_parks {i : Instr} {s : State} (act : State → Act) (hh : s.held = false)
    (hc : s.preTrap i (usesOf (s.g.streamAt s.port) i) = none) (hw : s.mustWait (usesOf (s.g.streamAt s.port) i) = true) :
    s.issue i act = s.settle i (usesOf (s.g.streamAt s.port) i) .later := by
  rw [State.issue, hh, if_neg Bool.false_ne_true, hc]
  exact if_pos hw

/-- R80: outside a latch chain, an instruction without a lane result ends no run. -/
theorem goesOn_unchained {i : Instr} {s : State} {u : Uses} (hc : (s.g.slot s.port).chain = none) (hu : u.lane = false) : s.goesOn i u = false := by
  have hw : s.g.writtenAfter s.port u = 0 := by simp [Group.writtenAfter, Group.isMember_unchained hc, hu]
  rw [State.goesOn, if_pos hw]

/-- R357: outside a latch chain, an instruction without a lane result is Illegal Instruction only where its stream does not accept it. -/
theorem illegal_of_preTrap {i : Instr} {s : State} {u : Uses} (hc : (s.g.slot s.port).chain = none) (hu : u.lane = false)
    (h : s.preTrap i u = some Cause.illegal) : i.legalIn (s.g.streamAt s.port) = false := by
  by_contra hl
  rw [State.preTrap, if_neg hl, goesOn_unchained hc hu, Bool.and_false, if_neg Bool.false_ne_true] at h
  repeat' split at h
  all_goals exact absurd h (by decide)

/-- R358: an encoded instruction that the checks refuse; `mmc`, which judges its format before the others, names a format that is one. -/
theorem exec_refuses {i : Instr} {s : State} {c : Cause} (h : i.isEncoded = true) (hh : s.held = false)
    (hm : ∀ d a b, i = .mmc d a b → c = Cause.illegal ∨ (engineFormat (s.g.operand32 s.port b)).isSome = true)
    (hchain : (s.g.slot s.port).chain = none) (hc : s.preTrap i (usesOf (s.g.streamAt s.port) i) = some c) :
    exec i s = .next (s.refuse (usesOf (s.g.streamAt s.port) i) c) := by
  by_cases hi : ∃ d a b, i = .mmc d a b
  · obtain ⟨d, a, b, rfl⟩ := hi
    have hformat : (!(Instr.mmc d a b).legalIn (s.g.streamAt s.port) || (engineFormat (s.g.operand32 s.port b)).isSome) = true := by
      rcases hm d a b rfl with rfl | hf
      · rw [illegal_of_preTrap hchain rfl hc]; rfl
      · rw [hf, Bool.or_true]
    rw [exec_mmc, execMmc, Bool.or_assoc, hformat, Bool.or_true, if_pos rfl, issue_refuses _ hh hc]
  · obtain ⟨act, e⟩ := exec_attempts h (fun d a b he => hi ⟨d, a, b, he⟩) s
    rw [e, issue_refuses _ hh hc]

/-- R172: an encoded instruction that names what is still to come. -/
theorem exec_parks {i : Instr} {s : State} (h : i.isEncoded = true) (hh : s.held = false)
    (hc : s.preTrap i (usesOf (s.g.streamAt s.port) i) = none) (hw : s.mustWait (usesOf (s.g.streamAt s.port) i) = true) :
    exec i s = .next (s.settle i (usesOf (s.g.streamAt s.port) i) .later) := by
  by_cases hi : ∃ d a b, i = .mmc d a b
  · obtain ⟨d, a, b, rfl⟩ := hi
    rw [exec_mmc, execMmc]
    split
    · rw [issue_parks _ hh hc hw]
    · rfl
  · obtain ⟨act, e⟩ := exec_attempts h (fun d a b he => hi ⟨d, a, b, he⟩) s
    rw [e, issue_parks _ hh hc hw]

/-- R64, R264: what a refused trap outside a latch chain leaves of the queues, and the number that it takes. -/
theorem refuse_queues {s : State} (u : Uses) (c : Cause) (addr : BitVec 64) (out : Bool) (detail : List Byte)
    (hk : s.g.id.kind = .ordinary) (hc : (s.g.slot s.port).chain = none) :
    (s.refuse u c addr out detail).g.queues = (s.g.unpop s.port).queues ∧ (s.refuse u c addr out detail).nextTrap = s.nextTrap + 1 := by
  have hk' : (s.onGroup (fun g => g.unpop s.port)).g.id.kind = .ordinary := by simpa using hk
  rw [State.refuse_unchained u c addr out detail hc]
  by_cases hp : s.port = .setter
  · rw [hp] at hk' ⊢
    rw [State.hold_setter _ hk']
    exact ⟨rfl, rfl⟩
  · rw [State.hold_slot _ hk' hp]
    exact ⟨Group.setSlot_queues _ _ _, rfl⟩

/-- R79, R172: a stream that parks at an instruction which has not issued. -/
theorem settle_later (i : Instr) (u : Uses) (s : State) :
    let t := s.settle i u .later
    OnlyGroup s t ∧ t.g.waitAt s.port = .other ∧ t.g.regs = s.g.regs ∧ t.g.modes = s.g.modes ∧
      t.g.queues = s.g.queues ∧ t.g.outq = s.g.outq ∧ t.g.inflight = s.g.inflight ∧ t.g.pcAt s.port = s.g.pcAt s.port := by
  intro t
  have ht : t = s.onGroup (fun g => g.park s.port u .other) := rfl
  have hpath : ∀ x : Slot, (if s.g.isMember s.port u then x else x.switch).path = x.path := fun x => by split <;> rfl
  cases hp : s.port with
  | setter => rw [ht, hp]; exact ⟨rfl, rfl, rfl, rfl, rfl, rfl, rfl, rfl⟩
  | slot0 =>
    rw [hp] at ht hpath
    rw [ht]
    refine ⟨rfl, rfl, rfl, rfl, rfl, rfl, rfl, ?_⟩
    simp [Group.pcAt, Group.park, Group.setSlot, Group.slot, hpath]
  | slot1 =>
    rw [hp] at ht hpath
    rw [ht]
    refine ⟨rfl, rfl, rfl, rfl, rfl, rfl, rfl, ?_⟩
    simp [Group.pcAt, Group.park, Group.setSlot, Group.slot, hpath]

/-- Settles O14: every encoded instruction begins with the same checks, which refuse it or park its stream. -/
theorem checksBeforeIssue : Obligations.ChecksBeforeIssue := by
  unfold Obligations.ChecksBeforeIssue
  refine ⟨fun i s c h hk hh hm hchain hc => ?_, fun i s h hc hh hw => ?_⟩
  · have hchain : (s.g.slot s.port).chain = none := hchain.elim (fun hp => by rw [hp]; rfl) id
    obtain ⟨htrap, hframe, hregs, hmodes, houtq, hflight, -⟩ := refuse_traps (usesOf (s.g.streamAt s.port) i) c 0 false [] hk hchain
    obtain ⟨hqueues, hnext⟩ := refuse_queues (usesOf (s.g.streamAt s.port) i) c 0 false [] hk hchain
    refine ⟨_, exec_refuses h (held_eq_false hh) hm hchain hc, htrap, hregs, hmodes, hqueues, fun hheld => ?_, houtq, hflight, ?_, ?_, ?_, ?_, hnext⟩
    · rw [hqueues, Group.unpop_nothing _ _ hheld]
    all_goals rw [hframe]
  · exact ⟨_, exec_parks h (held_eq_false hh) hc hw, settle_later i _ s⟩

end Sys2Proof.Machine
end

section
/-! PROOF. O25: `cpy` and `cpyg` as they issue, and the byte order of a copy. -/

namespace Sys2Proof.Machine

/-- R180: the instructions of the copy form. -/
theorem exec_copyForm {i : Instr} {gather : Bool} {a b : BitVec 8} (h : Claims.copyForm i = some (gather, a, b)) (s : State) :
    exec i s = .next (s.copy i gather a b) := by
  unfold Claims.copyForm at h
  split at h
  · cases h
    rfl
  · cases h
    rfl
  · exact absurd h (by simp)

/-- R178, R180: the command that a copy instruction makes of its descriptor. -/
def State.newCopy (s : State) (gather : Bool) (d : CopyDesc) (base : Nat) : CopyCmd where
  id := s.nextUid
  grp := s.g.id.uid
  team := s.g.id.team
  serial := s.g.serial
  engine := (dieOf s.g.id.core).toNat * 3 + clusterOf s.g.id.core % 16 % 3
  gather := gather
  root := s.g.id.root
  desc := d
  base := base
  pos := 0
  holding := none
  fault := none
  dispatched := false
  after := if d.rel then s.g.releaseAfter s.port else []

/-- The list of copy commands plays no part in what an instruction that issues leaves of its group. -/
theorem started_with_copies {i : Instr} {s u : State} (l : List CopyCmd) (h : Claims.Started i s u) : Claims.Started i s { u with copies := l } :=
  ⟨⟨h.memory, h.others, h.id, h.regs, h.stack, h.queues, h.steps⟩, h.regions⟩

/-- R178-R181: a copy instruction with a descriptor that breaks no limit. -/
theorem copy_issues {i : Instr} {s : State} {gather : Bool} {a b : BitVec 8} (hi : Claims.copyForm i = some (gather, a, b)) (h : Clear i s) :
    let off := s.g.operandFull s.port a
    let x := ofBytes (s.spadBytes s.g off 256)
    off % 64 = 0 ∧ off + 256 ≤ s.windowSize s.g → s.g.pendingOn s.port (.spad s.g.id.team off) 256 = false →
    copyDescOk x (copyDescOf x) gather (s.windowSize s.g) = true → s.g.counter 2 < 255 →
    ∃ t e, exec i s = .next t ∧ Claims.Started i s t ∧ t.g.modes = s.g.modes ∧
      t.copies = s.copies ++ [s.newCopy gather (copyDescOf x) (s.g.operand64 s.port b).toNat] ∧
      Claims.Flies s t (some 2) (.copy s.nextUid) .none 0 false ∧ t.g.outq = s.g.outq ++ [e] ∧ e.kind = .engine s.nextUid ∧ e.rel = none := by
  intro off x hin hpend hok hc
  have hbad : ¬(off % 64 ≠ 0 ∨ s.windowSize s.g < off + 256) := by omega
  have hcopy : s.copy i gather a b = s.settle i (usesOf (s.g.streamAt s.port) i) (.run { s with
      nextUid := s.nextUid + 2
      copies := s.copies ++ [s.newCopy gather (copyDescOf x) (s.g.operand64 s.port b).toNat]
      g := { s.g with outq := s.g.outq ++ [s.g.engineEntry s.port (s.nextUid + 1) s.nextUid
          (if (copyDescOf x).acq then s.g.acquireAfter s.port else [])] }.addFlight
        (s.g.launched s.port (some 2) (.copy s.nextUid) .none 0 false) }) := by
    unfold State.copy
    rw [issue_of_clear h]
    simp only [if_neg hbad, hpend, hok, Group.counterFull_false hc, Bool.not_true, Bool.false_eq_true, if_false, off, x]
    rfl
  have hsends : Sends s { s with
      nextUid := s.nextUid + 2
      g := { s.g with outq := s.g.outq ++ [s.g.engineEntry s.port (s.nextUid + 1) s.nextUid
          (if (copyDescOf x).acq then s.g.acquireAfter s.port else [])] }.addFlight
        (s.g.launched s.port (some 2) (.copy s.nextUid) .none 0 false) }
      [s.g.engineEntry s.port (s.nextUid + 1) s.nextUid (if (copyDescOf x).acq then s.g.acquireAfter s.port else [])]
      [s.g.launched s.port (some 2) (.copy s.nextUid) .none 0 false] := rfl
  obtain ⟨hstarted, hmodes, houtq, hflight⟩ := settle_run_started h hsends
  exact ⟨_, _, (exec_copyForm hi s).trans (congrArg _ hcopy), started_with_copies _ hstarted, hmodes, rfl, flies_launched hflight, houtq, rfl, rfl⟩

/-- R179, R181: a copy instruction whose descriptor is off its place or breaks a limit. -/
theorem copy_refused {i : Instr} {s : State} {gather : Bool} {a b : BitVec 8} (hi : Claims.copyForm i = some (gather, a, b)) (h : Clear i s)
    (hk : s.g.id.kind = .ordinary) (hchain : (s.g.slot s.port).chain = none) :
    let off := s.g.operandFull s.port a
    let x := ofBytes (s.spadBytes s.g off 256)
    let inside := off % 64 = 0 ∧ off + 256 ≤ s.windowSize s.g
    (¬inside ∨ s.g.pendingOn s.port (.spad s.g.id.team off) 256 = false ∧ copyDescOk x (copyDescOf x) gather (s.windowSize s.g) = false) →
    ∃ t, exec i s = .next t ∧ Trapped s t Cause.copyDesc 0 0 ∧ t.copies = s.copies ∧ t.g.regs = s.g.regs := by
  intro off x inside hbad
  have hcopy : s.copy i gather a b = s.refuse (usesOf (s.g.streamAt s.port) i) Cause.copyDesc 0 false [] := by
    unfold State.copy
    rw [issue_of_clear h]
    by_cases hin : inside
    · obtain ⟨hpend, hok⟩ := hbad.resolve_left (not_not_intro hin)
      have hplace : ¬(off % 64 ≠ 0 ∨ s.windowSize s.g < off + 256) := by
        obtain ⟨h1, h2⟩ := hin
        omega
      simp only [if_neg hplace, hpend, hok, Bool.not_false, Bool.false_eq_true, if_false, if_true, off, x]
      rfl
    · have hplace : off % 64 ≠ 0 ∨ s.windowSize s.g < off + 256 := by
        by_contra hn
        exact hin (by omega)
      simp only [if_pos hplace, off]
      rfl
  obtain ⟨htrap, hframe, hregs, -⟩ := refuse_traps (usesOf (s.g.streamAt s.port) i) Cause.copyDesc 0 false [] hk hchain
  exact ⟨_, (exec_copyForm hi s).trans (congrArg _ hcopy), htrap, by rw [hframe], hregs⟩

/-- R180: the visit ordinals of two dimensions: the first runs fastest. -/
theorem tupleOf_two {c0 c1 i j : Nat} (x y : Int × Int) (hi : i < c0) (hj : j < c1) : tupleOf [(c0, x), (c1, y)] (j * c0 + i) = [i, j] := by
  have hmod : (j * c0 + i) % c0 = i := by rw [Nat.mul_comm, Nat.mul_add_mod, Nat.mod_eq_of_lt hi]
  have hdiv : (j * c0 + i) / c0 = j := by rw [Nat.mul_comm, Nat.mul_add_div (by omega), Nat.div_eq_of_lt hi, Nat.add_zero]
  simp only [tupleOf, hmod, hdiv, Nat.mod_eq_of_lt hj]

/-- R180: a copy of rows reads and writes byte `i` of row `j` at its strides. -/
theorem copy_rows (s : State) {c : CopyCmd} {c0 c1 : Nat} {ss ds : Int} (hg : c.gather = false) (hd : c.desc.dims = [(c0, 0, 0), (c1, ss, ds)])
    (hsrc : c.desc.srcSp = false) (hdst : c.desc.dstSp = false) {i j : Nat} (hi : i < c0) (hj : j < c1) :
    s.sourceOf c (j * c0 + i) = .ok (((c.desc.src.toNat + c.base) % 2 ^ 56 : Nat) + i + j * ss) ∧
      c.destOf (j * c0 + i) = ((c.desc.dst.toNat + c.base) % 2 ^ 56 : Nat) + i + j * ds := by
  have ht := tupleOf_two (0, 0) (ss, ds) hi hj
  constructor
  · simp [State.sourceOf, hg, hd, hsrc, ht, strideSum, CopyCmd.based]
  · simp [CopyCmd.destOf, hg, hd, hdst, ht, strideSum, CopyCmd.based]

/-- Settles O25: a copy instruction makes its command or is refused, and the bytes of a copy of rows. -/
theorem copiesIssue : Obligations.CopiesIssue := by
  unfold Obligations.CopiesIssue
  refine ⟨fun i s gather a b hi h => ⟨fun hin hpend hok hc => ?_, fun hk hchain hbad => ?_⟩,
    fun s c c0 c1 ss ds hg hd hsrc hdst i j hi hj => copy_rows s hg hd hsrc hdst hi hj⟩
  · obtain ⟨t, e, hexec, hstarted, hmodes, hcopies, hflies, houtq, hkind, hrel⟩ := copy_issues hi h hin hpend hok hc
    exact ⟨t, _, e, hexec, hstarted, hmodes, hcopies, rfl, rfl, rfl, rfl, rfl, rfl, rfl, rfl, rfl, rfl, rfl, hflies, houtq, hkind, hrel⟩
  · exact copy_refused hi h hk (hchain.elim (fun hp => by rw [hp]; rfl) id) hbad

end Sys2Proof.Machine
end

section
/-! PROOF. O26: engine commands are dispatched, and copy commands read and write their bytes and complete. -/

namespace Sys2Proof.Machine

theorem length_updateWhere {α : Type} (p : α → Bool) (f : α → α) (l : List α) : (updateWhere p f l).length = l.length := List.length_map _

/-- What was changed satisfies what the change gives. -/
theorem updateWhere_gives {α : Type} {p : α → Bool} {f : α → α} {l : List α} {Q : α → Prop} (hf : ∀ x, Q (f x)) (hp : ∀ x ∈ l, p x = false → Q x) :
    ∀ x ∈ updateWhere p f l, Q x := by
  intro x hx
  obtain ⟨y, hy, rfl⟩ := List.mem_map.1 hx
  split
  · exact hf y
  · next h => exact hp y hy (eq_false_of_ne_true h)

theorem State.groups_find_port {s : State} {p : Group → Bool} (h : s.g.id.present = true) (hp : p s.g = true) : s.groups.find? p = some s.g := by
  rw [State.groups, if_pos h]
  exact List.find?_cons_of_pos hp

/-- R213: nothing in the out-queue is what an entry is ordered after. -/
theorem Group.entryReady_of {g : Group} {e : Entry} (h : ∀ x ∈ g.outq, x.id ∉ e.after ∧ x.id ∉ e.weak) : g.entryReady e = true := by
  simpa [Group.entryReady] using h

/-- R18: copy commands as `DISPATCH` leaves them: those of an id come last, and are dispatched. -/
def dispatched (cmd : Nat) (l : List CopyCmd) : List CopyCmd :=
  l.filter (fun c => c.id != cmd) ++ (l.filter (fun c => c.id == cmd)).map (fun c => { c with dispatched := true })

theorem length_dispatched (cmd : Nat) (l : List CopyCmd) : (dispatched cmd l).length = l.length := by
  rw [dispatched, List.length_append, List.length_map, Nat.add_comm]
  exact (List.length_eq_length_filter_add (fun c : CopyCmd => c.id == cmd)).symm

theorem dispatched_gives {cmd : Nat} {l : List CopyCmd} : ∀ c ∈ dispatched cmd l, c.id = cmd → c.dispatched = true := by
  intro c hc hid
  rcases List.mem_append.1 hc with h | h
  · have hne := (List.mem_filter.1 h).2
    simp [hid] at hne
  · obtain ⟨x, -, rfl⟩ := List.mem_map.1 h
    rfl

/-- R213, R222: an engine command at the head of its order goes to its engine. -/
theorem dispatch_hands_over {s : State} {e : Entry} {cmd : Nat} (hpresent : s.g.id.present = true) (he : e ∈ s.g.outq)
    (hfind : s.g.outq.find? (fun x => x.id == e.id) = some e) (hkind : e.kind = .engine cmd)
    (hready : ∀ x ∈ s.g.outq, x.id ∉ e.after ∧ x.id ∉ e.weak) :
    exec (.dispatch e.id) s = .next ({ s with
      copies := dispatched cmd s.copies
      pme := updateWhere (fun r => r.id == cmd) (fun r => { r with dispatched := true }) s.pme }.modGroup s.g.id.uid
        (fun g => { g with outq := g.outq.filter (fun x => x.id != e.id) })) := by
  have hgroup : s.groups.find? (fun g => g.outq.any (fun x => x.id == e.id)) = some s.g :=
    State.groups_find_port hpresent (List.any_eq_true.2 ⟨e, he, beq_self_eq_true _⟩)
  rw [exec_dispatch, execDispatch]
  simp only [hgroup, hfind, hkind, Group.entryReady_of hready, if_true]
  rfl

/-- R180, R213: the next access of a copy that its engine may go on with. -/
theorem engineAccess_copy {s : State} {c : CopyCmd} (hfind : s.copies.find? (fun x => x.id == c.id) = some c) (hd : c.dispatched = true)
    (hf : c.fault = none) (hpos : c.pos < tuples c.desc.dims) (ht : s.engineTurn c = true) :
    exec (.engineAccess c.id) s = .next (match c.holding with
      | some b => s.copyWrite c b
      | none => s.copyRead c) := by
  have hover : c.over = false := by simp [CopyCmd.over, hf, hpos]
  rw [exec_engineAccess, execEngineAccess]
  simp only [hfind, State.copyAccess, hd, hover, ht, Bool.not_true, Bool.or_self, Bool.false_eq_true, if_false] <;> rfl

theorem State.find_modCopy {s : State} {c : CopyCmd} (f : CopyCmd → CopyCmd) (hf : ∀ x, (f x).id = x.id)
    (hfind : s.copies.find? (fun x => x.id == c.id) = some c) : (s.modCopy c.id f).copies.find? (fun x => x.id == c.id) = some (f c) := by
  have h := find?_updateWhere s.copies (fun x => x.id == c.id) f (fun x hx => by rw [hf]; exact hx)
  rw [hfind] at h
  exact h

theorem State.sawIndex_unrecorded {s : State} (h : s.recorders = []) (c : CopyCmd) : s.sawIndex c = s := by
  unfold State.sawIndex
  split
  · rfl
  · dsimp only
    split
    · exact State.observeAccess_unrecorded h _ _ _ _ _ _
    · rfl

/-- R180: the engine reads a byte, which it then holds. -/
theorem copyRead_holds {s : State} {c : CopyCmd} {addr : Int} {l : Loc} {mig : Bool} (hr : s.recorders = []) (ha : s.sourceOf c c.pos = .ok addr)
    (hb : s.engineByte c c.desc.srcSp addr .read = .ok (l, mig)) :
    s.copyRead c = s.modCopy c.id (fun x => { x with holding := some (s.readFor c.grp addr.toNat l) }) := by
  simp only [State.copyRead, ha, hb, State.sawIndex_unrecorded hr, State.observeAccess_unrecorded hr]

/-- R182: the engine records the fault of a read. -/
theorem copyRead_faults {s : State} {c : CopyCmd} {addr at_ : Int} {cause : Cause} (ha : s.sourceOf c c.pos = .ok addr)
    (hb : s.engineByte c c.desc.srcSp addr .read = .error (cause, at_)) :
    s.copyRead c = s.modCopy c.id (fun x => { x with fault := some (cause, at_, x.pos) }) := by
  simp only [State.copyRead, ha, hb]

/-- R196: a byte away from dark pages is written at once. -/
theorem State.preparePage_lit {s : State} {l : Loc} (h : Claims.isLit s l) (n data : Nat) : s.preparePage l n data = .granted s := by
  unfold State.preparePage
  split
  · next root va =>
    rw [show s.darkPage root va = none from h]
  · rfl

/-- R180, R213, R217: the engine writes the byte that it holds into the leaf buffer of the copy's group. -/
theorem copyWrite_buffers {s : State} {c : CopyCmd} {b : Byte} {l : Loc} {g : Group} (hr : s.recorders = [])
    (hb : s.engineByte c c.desc.dstSp (c.destOf c.pos) .write = .ok (l, false)) (hg : s.group c.grp = some g)
    (hrel : c.desc.rel = true → (∀ e ∈ g.outq, e.id ∉ c.after) ∧ s.released g c.desc.scope.toNat = true) (hl : Claims.isLit s l) :
    s.copyWrite c b = (s.bufferWrite g c.serial l (c.destOf c.pos).toNat 1 (b.zeroExtend 64) (c.covers c.pos (c.destOf c.pos))
      (if c.desc.rel then some (g.tag c.desc.scope) else none)).modCopy c.id (fun c => { c with pos := c.pos + 1, holding := none }) := by
  have hgo : (c.desc.rel && (g.outq.any (fun e => c.after.contains e.id) || !(s.released g c.desc.scope.toNat))) = false := by
    cases h : c.desc.rel with
    | false => rfl
    | true =>
      obtain ⟨hafter, hreleased⟩ := hrel h
      simpa [hreleased] using hafter
  simp only [State.copyWrite, hb, hg, hgo, Bool.or_self, Bool.false_eq_true, if_false, State.preparePage_lit hl]
  rw [State.observeAccess_unrecorded (s := s.bufferWrite _ _ _ _ _ _ _ _) hr]

/-- R182: the fault that a copy posts as it completes. -/
def CopyCmd.posts (c : CopyCmd) : List CopyFault :=
  match c.fault with
  | some (cause, addr, n) => [{ grp := c.grp, serial := c.serial, cause := cause, addr := addr, ordinal := n }]
  | none => []

theorem CopyCmd.length_posts (c : CopyCmd) : c.posts.length = if c.fault.isSome then 1 else 0 := by
  unfold CopyCmd.posts
  cases c.fault <;> rfl

/-- R175, R182: a copy that has nothing more to do completes. -/
theorem copyComplete_ends {s : State} {c : CopyCmd} (hfind : s.copies.find? (fun x => x.id == c.id) = some c) (hd : c.dispatched = true)
    (ho : c.over = true) : exec (.copyComplete c.id) s = .next ({ s with
      copies := s.copies.filter (fun x => x.id != c.id), faults := s.faults ++ c.posts }.modGroup c.grp
        (fun g => g.updateFlight c.serial (fun f => { f with done := true }))) := by
  rw [exec_copyComplete, execCopyComplete]
  simp only [hfind, hd, ho, Bool.not_true, Bool.or_self, Bool.false_eq_true, if_false]
  rfl

/-- Settles O26: a copy is dispatched, moves a byte in two steps or records the fault of its access, and completes. -/
theorem copiesMove : Obligations.CopiesMove := by
  unfold Obligations.CopiesMove
  refine ⟨fun s e cmd hpresent he hfind hkind hready => ?_, fun s c hfind hd hf hpos ht hr => ⟨?_, ?_, ?_⟩, fun s c hfind hd ho hgrp => ?_⟩
  · refine ⟨_, dispatch_hands_over hpresent he hfind hkind hready, rfl, ?_, ?_, dispatched_gives, length_dispatched _ _, ?_, length_updateWhere _ _ _⟩
    · rw [State.modGroup_g _ rfl]
    · rw [State.modGroup_g _ rfl]
    · exact updateWhere_gives (fun _ _ => rfl) (fun _ _ hne hs => absurd hs (ne_of_beq_false hne))
  · intro addr l mig hhold ha hb
    have hexec := engineAccess_copy hfind hd hf hpos ht
    rw [hhold] at hexec
    exact ⟨_, hexec.trans (congrArg _ (copyRead_holds hr ha hb)), rfl, rfl, rfl, rfl, State.find_modCopy _ (fun _ => rfl) hfind⟩
  · intro b l g hhold hb hg hrel hl
    have hexec := engineAccess_copy hfind hd hf hpos ht
    rw [hhold] at hexec
    exact ⟨_, _, hexec.trans (congrArg _ (copyWrite_buffers hr hb hg hrel hl)), rfl, rfl, rfl, rfl, rfl, rfl, rfl, rfl, rfl, rfl,
      State.find_modCopy _ (fun _ => rfl) hfind⟩
  · intro addr cause at_ hhold ha hb
    have hexec := engineAccess_copy hfind hd hf hpos ht
    rw [hhold] at hexec
    exact ⟨_, hexec.trans (congrArg _ (copyRead_faults ha hb)), rfl, rfl, State.find_modCopy _ (fun _ => rfl) hfind⟩
  · refine ⟨_, copyComplete_ends hfind hd ho, rfl, ?_, rfl, ?_, ?_, ?_⟩
    · rw [State.modGroup_g]
      · rfl
      · exact hgrp.symm
    · rw [State.modGroup_g]
      · exact Group.updateFlight_done _ _
      · exact hgrp.symm
    · exact List.length_append.trans (congrArg _ c.length_posts)
    · intro cause addr n hfault
      refine ⟨⟨c.grp, c.serial, cause, addr, n⟩, List.mem_append_right _ ?_, rfl, rfl, rfl, rfl, rfl⟩
      rw [CopyCmd.posts, hfault]
      exact List.mem_singleton_self _

end Sys2Proof.Machine
end

section
/-! PROOF. O49: bytes that the host, Ethernet and NVMe bring in and take out. -/

namespace Sys2Proof.Machine

/-! ### Bytes that enter (R170) -/

/-- R171, R185: a write of good sectors, of a part or the whole of one, with no page on the move and no tracked block. -/
theorem State.homeArrive_sound {s : State} (hs : s.Sound) (hm : s.migs = []) (ht : s.tracked = []) (grp k va n v : Nat) (full : Bool) :
    ∃ hs rs, s.homeArrive grp (.mem k) va n v full =
      { s with mem := Memory.writeBytes s.mem k (toBytes n v), halos := hs, regions := rs } := by
  have harrive : s.homeArrive grp (.mem k) va n v full = s.arrive grp (.mem k) va n v full :=
    congrArg Prod.fst (State.homeRaise_untracked ht grp (.mem k) va n v full)
  let w := State.renew { s with mem := Memory.writeBytes s.mem k (toBytes n v) } (fun x => x == sectorOf k)
    (fun x => if full then x == sectorOf k else false)
  obtain ⟨rs, hclean⟩ := foldl_noteClean_regions (s.regionBytes (.mem k)) (fun x => s.cleanAt x.1 x.2) w
  have hw : State.Sound { s with mem := Memory.writeBytes s.mem k (toBytes n v) } := hs
  refine ⟨w.halos, rs, ?_⟩
  rw [harrive, State.arrive, State.noting]
  simp only [State.keyOf]
  rw [State.homeWrite_mem, State.sectorWritten_sound hw, State.alsoNew_still (s := w) hm, hclean]
  obtain ⟨hp, hf⟩ := hs
  simp [w, State.renew, hp, hf]

/-- The bytes of device memory, the halos, the tags and the marks of pages are all that differs. -/
def BroughtIn (s t : State) (mem : Mem) : Prop :=
  ∃ hs rs ts, t = { s with mem := mem, halos := hs, regions := rs, homeTags := ts }

/-- R170: one byte of a transfer of `total` bytes enters, by its number. -/
def State.enterByte (addr total : Nat) (s : State) (x : Nat × Byte) : Option State :=
  let a := addr + x.1
  if (tierOf a).isNone then some s
  else if s.writeHeld (.mem a) 1 x.2.toNat then none
  else
    let full := decide (addr ≤ a / 32 * 32) && decide (a / 32 * 32 + 32 ≤ addr + total)
    some ((s.homeArrive 0 (.mem a) 0 1 x.2.toNat full).setTags (.mem a) 1 none)

theorem State.enter_eq (s : State) (addr : Nat) (bytes : List Byte) :
    s.enter addr bytes = foldWaiting (State.enterByte addr bytes.length) ((List.range' 0 bytes.length).zip bytes) s := by
  rw [← List.range_eq_range']
  rfl

theorem State.enterByte_good {s : State} (hs : s.Sound) (hm : s.migs = []) (ht : s.tracked = []) {addr i : Nat} (total : Nat) (b : Byte)
    (h : (tierOf (addr + i)).isSome = true) : ∃ xs rs, s.enterByte addr total (i, b) =
      some (State.setTags { s with mem := Memory.write s.mem (addr + i) b, halos := xs, regions := rs } (.mem (addr + i)) 1 none) := by
  obtain ⟨xs, rs, harrive⟩ := State.homeArrive_sound hs hm ht 0 (addr + i) 0 1 b.toNat
    (decide (addr ≤ (addr + i) / 32 * 32) && decide ((addr + i) / 32 * 32 + 32 ≤ addr + total))
  have hin : (tierOf (addr + i)).isNone = false := Option.isNone_eq_false_iff.2 h
  have hbyte : toBytes 1 b.toNat = [b] := by simp [toBytes]
  refine ⟨xs, rs, ?_⟩
  rw [State.enterByte]
  simp only [hin, State.writeHeld_still hm ht, Bool.false_eq_true, if_false, harrive, hbyte]
  rfl

/-- R170: bytes that enter good memory, from the `i`-th of a transfer on. -/
theorem foldWaiting_enter {s : State} (hs : s.Sound) (hm : s.migs = []) (ht : s.tracked = []) (addr total : Nat) (bytes : List Byte) (i : Nat)
    (h : ∀ k, addr + i ≤ k → k < addr + i + bytes.length → (tierOf k).isSome = true) :
    ∃ t, foldWaiting (State.enterByte addr total) ((List.range' i bytes.length).zip bytes) s = some t ∧
      BroughtIn s t (Memory.writeBytes s.mem (addr + i) bytes) := by
  induction bytes generalizing s i with
  | nil => exact ⟨s, rfl, s.halos, s.regions, s.homeTags, rfl⟩
  | cons b bytes ih =>
    obtain ⟨xs, rs, hbyte⟩ := State.enterByte_good hs hm ht total b (h (addr + i) le_rfl (by simp))
    let u := State.setTags { s with mem := Memory.write s.mem (addr + i) b, halos := xs, regions := rs } (.mem (addr + i)) 1 none
    obtain ⟨t, hfold, ys, qs, ts, rfl⟩ := ih (s := u) hs hm ht (i + 1) (fun k hlo hhi => h k (by omega) (by simp; omega))
    refine ⟨_, ?_, ys, qs, ts, rfl⟩
    rw [List.length_cons, List.range'_succ, List.zip_cons_cons, foldWaiting_cons, hbyte]
    exact hfold

theorem State.enter_good {s : State} (hs : s.Sound) (hm : s.migs = []) (ht : s.tracked = []) (addr : Nat) (bytes : List Byte)
    (h : ∀ k, addr ≤ k → k < addr + bytes.length → (tierOf k).isSome = true) :
    ∃ t, s.enter addr bytes = some t ∧ BroughtIn s t (Memory.writeBytes s.mem addr bytes) := by
  rw [State.enter_eq]
  exact foldWaiting_enter hs hm ht addr bytes.length bytes 0 h

/-- R282: without debug blocks an access of the outside leaves no trace. -/
theorem State.outsideAccess_unrecorded {s : State} (h : s.recorders = []) (addr n : Nat) (wr : Bool) : s.outsideAccess addr n wr = s := by
  refine List.foldl_fixed' (fun x => ?_) _
  unfold State.observe
  simp only [h, List.filter_nil, List.foldl_nil]
  split <;> rfl

theorem State.logHost_unrecorded {s : State} (h : s.recorders = []) (addr n : Nat) : s.logHost addr n = s := by
  rw [State.logHost, State.outsideAccess_unrecorded h]
  refine List.foldl_fixed' (fun x => ?_) _
  simp only [h, List.filter_nil, List.foldl_nil]

theorem BroughtIn.entered {s t : State} {addr : Nat} {bytes : List Byte} (wf : Memory.wf s.mem = true)
    (h : BroughtIn s t (Memory.writeBytes s.mem addr bytes)) : Claims.Entered s t addr bytes := by
  obtain ⟨hs, rs, ts, rfl⟩ := h
  refine ⟨rfl, rfl, rfl, fun k => ?_⟩
  show Memory.read (Memory.writeBytes s.mem addr bytes) k = _
  by_cases hin : addr ≤ k ∧ k < addr + bytes.length
  · have hlt : k - addr < bytes.length := by omega
    rw [if_pos hin, Memory.read_writeBytes wf, if_pos hin.1, List.getD_eq_getElem _ _ hlt, List.getD_eq_getElem _ _ hlt]
  · rw [if_neg hin, Memory.read_writeBytes_outside wf]
    omega

theorem transfer_enters {i : Instr} {s : State} {addr : Nat} {bytes : List Byte}
    (hi : i = .hostMemoryWrite addr bytes ∨ ∃ port, i = .ethernetReceive port addr bytes) (wf : Memory.wf s.mem = true) (hs : s.Sound)
    (hm : s.migs = []) (ht : s.tracked = []) (hr : s.recorders = [])
    (h : ∀ k, addr ≤ k → k < addr + bytes.length → (tierOf k).isSome = true) : ∃ t, exec i s = .next t ∧ Claims.Entered s t addr bytes := by
  obtain ⟨t, henter, hin⟩ := State.enter_good hs hm ht addr bytes h
  have htr : t.recorders = [] := by
    obtain ⟨_, _, _, rfl⟩ := hin
    exact hr
  refine ⟨t, ?_, hin.entered wf⟩
  rcases hi with rfl | ⟨port, rfl⟩
  · show execHostMemoryWrite addr bytes s = _
    rw [execHostMemoryWrite, henter, Option.map_some, State.logHost_unrecorded htr, Option.getD_some]
  · show execEthernetReceive port addr bytes s = _
    rw [execEthernetReceive, henter, Option.map_some, State.outsideAccess_unrecorded htr, Option.getD_some]

/-! ### Bytes that leave (R170, R281) -/

theorem State.outsideAccess_records (s : State) (addr n : Nat) (wr : Bool) : ∃ ds, s.outsideAccess addr n wr = { s with recorders := ds } :=
  foldl_recorders (fun t x => t.observe_outside (.mem (32 * x)) 0 0 wr false) _ s

theorem mem_runSectors {addr n x : Nat} : x ∈ runSectors addr n ↔ addr < 32 * x + 32 ∧ 32 * x < addr + n ∧ n ≠ 0 := by
  unfold runSectors
  split
  · next h => simp [h]
  · next h =>
    simp only [List.mem_map, List.mem_range]
    constructor
    · rintro ⟨y, hy, rfl⟩
      omega
    · rintro ⟨hlo, hhi, -⟩
      exact ⟨x - addr / 32, by omega, by omega⟩

/-- What has left the module, the pages on NVMe and the moves under way: an error record touches none of them. -/
structure LinkStays (s t : State) : Prop where
  outward : t.outward = s.outward
  migs : t.migs = s.migs
  nvme : t.nvme = s.nvme

theorem LinkStays.refl (s : State) : LinkStays s s := ⟨rfl, rfl, rfl⟩
theorem LinkStays.trans {s t u : State} (h : LinkStays s t) (k : LinkStays t u) : LinkStays s u :=
  ⟨k.outward.trans h.outward, k.migs.trans h.migs, k.nvme.trans h.nvme⟩

theorem State.postRecord_link (s : State) (die : BitVec 4) (r : Nat) : LinkStays s (s.postRecord die r).1 := by
  unfold State.postRecord
  generalize toBytes 32 r = bs
  split
  · exact .refl s
  · split
    · exact .refl s
    · simp only
      generalize (if 2 ^ 31 ≤ _ then 0 else _) = n
      split <;> exact ⟨rfl, rfl, rfl⟩

theorem State.stickyFor_link (s : State) (uid : Nat) (fl : DWord) : LinkStays s (s.stickyFor uid fl) := by
  unfold State.stickyFor State.mirrorBits
  split
  · exact ⟨rfl, rfl, rfl⟩
  · split
    · exact ⟨rfl, rfl, rfl⟩
    · split <;> exact ⟨rfl, rfl, rfl⟩

/-- R281: a memory-error record leaves the links alone. -/
theorem State.memoryError_link (s : State) (grp : Nat) (ty : BitVec 8) (va pa key : Nat) : LinkStays s (s.memoryError grp ty va pa key) := by
  unfold State.memoryError
  split
  · exact s.postRecord_link _ _
  · simp only
    have h (die : BitVec 4) (r : Nat) := (s.postRecord_link die r).trans ((s.postRecord die r).1.stickyFor_link grp stickyMEMERR)
    split
    · exact h _ _
    · exact (h _ _).trans ⟨rfl, rfl, rfl⟩

/-- R281: a transfer in whose sectors no halo fails carries all its bytes. -/
theorem State.leaveModule_good {s : State} {addr len : Nat} (way : Way) (h : ∀ x ∈ runSectors addr len, s.haloBad x = false) :
    ∃ ds, s.leaveModule way addr len = { s with recorders := ds, outward := s.outward ++
      [{ way := way, addr := addr, bytes := Memory.readBytes s.mem addr len, haloErr := false }] } := by
  have hbad : (runSectors addr len).find? (fun x => s.haloBad x) = none :=
    List.find?_eq_none.2 fun x hx => by simp [h x hx]
  obtain ⟨ds, hobs⟩ := s.outsideAccess_records addr len false
  refine ⟨ds, ?_⟩
  unfold State.leaveModule
  simp only [hbad, hobs, Option.isSome_none]

/-- R281: a transfer stops before the first sector whose halo fails. -/
theorem State.leaveModule_stops {s : State} {addr len k : Nat} (way : Way)
    (h : (runSectors addr len).find? (fun x => s.haloBad x) = some k) :
    (s.leaveModule way addr len).outward = s.outward ++
      [{ way := way, addr := addr, bytes := Memory.readBytes s.mem addr (32 * k - addr), haloErr := true }] := by
  unfold State.leaveModule
  simp only [h, Option.isSome_some]
  exact (State.memoryError_link _ _ _ _ _ _).outward

/-- Of a list in which one element alone satisfies a predicate, the search gives that element. -/
theorem find?_of_only {α : Type} {p : α → Bool} {l : List α} {k : α} (hk : p k = true) (honly : ∀ j, p j = true → j = k) (hmem : k ∈ l) :
    l.find? p = some k := by
  cases hf : l.find? p with
  | none => exact absurd hk (by simpa using List.find?_eq_none.1 hf k hmem)
  | some j => rw [honly j (List.find?_some hf)]

theorem transfer_leaves {i : Instr} {s : State} {addr len : Nat} {eth : Bool}
    (hi : eth = false ∧ i = .hostMemoryRead addr len ∨ eth = true ∧ ∃ port, i = .ethernetSend port addr len) :
    exec i s = .next (s.leaveModule (if eth then .ethernet else .host) addr len) := by
  rcases hi with ⟨rfl, rfl⟩ | ⟨rfl, port, rfl⟩ <;> rfl

/-! ### A page that goes out to NVMe (R170, R281) -/

theorem State.migrationErrors_link (s : State) (m : Migration) (ty : BitVec 8) (l : List Nat) : LinkStays s (s.migrationErrors m ty l) := by
  unfold State.migrationErrors
  induction l generalizing s with
  | nil => exact .refl s
  | cons x l ih =>
    rw [List.foldl_cons]
    refine LinkStays.trans ?_ (ih _)
    split
    · exact s.memoryError_link _ _ _ _ _
    · exact .refl s

/-- R184: the switch of an entry ends its move. -/
theorem State.switchLeaf_link (s : State) (m : Migration) (pte : Nat) :
    (s.switchLeaf m pte).outward = s.outward ∧ (s.switchLeaf m pte).nvme = s.nvme ∧
      (s.switchLeaf m pte).migs = s.migs.filter (fun x => x.id != m.id) := ⟨rfl, rfl, rfl⟩

/-- R171: where every sector is good, an engine reads the whole of a page. -/
theorem State.unreadable_sound {s : State} (hs : s.Sound) (m : Migration) : s.unreadable m = [] := by
  obtain ⟨hp, hf⟩ := hs
  simp [State.unreadable, hp, hf]

/-- The sectors of the old page whose halo fails. -/
def State.badHalos (s : State) (m : Migration) : List Nat :=
  (s.halos.map Prod.fst).filter (fun x => (m.offsetOf (32 * x)).isSome && s.haloBad x)

/-- R184: the switch-over of a settled page to NVMe, by the sectors that fail. -/
theorem exec_switchover_out {s : State} {m : Migration} (hm : s.migs = [m]) (hb : m.cmd.block = none) (hn : m.cmd.newTier = 3)
    (hv : s.fromNvme m = false) (hu : s.pageUnsettled m = false) :
    let pte := Memory.readNat s.mem m.pte 8
    let left := s.leftFor m.oldPhys (!(s.badHalos m).isEmpty)
    exec (.migrationSwitchover m.id) s = .next (
      if (s.badHalos m).isEmpty && (s.unreadable m).isEmpty then (left.moveOut m).switchLeaf m (newLeaf pte m.cmd)
      else ((left.migrationErrors m 2 (s.badHalos m)).migrationErrors m 3 (s.unreadable m)).switchLeaf m (pte - (if bitAt pte 5 then 32 else 0))) := by
  have hfind : s.migs.find? (fun x => x.id == m.id) = some m := by simp [hm]
  show execMigrationSwitchover m.id s = _
  unfold execMigrationSwitchover
  simp only [hfind, hb, hv, hn, hu, Bool.false_eq_true, if_false, if_true, State.badHalos]
  rfl

theorem switchover_out_good {s : State} {m : Migration} (hm : s.migs = [m]) (hb : m.cmd.block = none) (hn : m.cmd.newTier = 3)
    (hv : s.fromNvme m = false) (hu : s.pageUnsettled m = false) (hgood : ∀ k, s.haloBad k = true → m.offsetOf (32 * k) = none) (hs : s.Sound) :
    ∃ t, exec (.migrationSwitchover m.id) s = .next t ∧ t.migs = [] ∧
      t.outward = s.outward ++ [{ way := .nvme, addr := m.oldPhys, bytes := [], haloErr := false }] := by
  have hnobad : s.badHalos m = [] := by
    refine List.filter_eq_nil_iff.2 fun x _ hx => ?_
    obtain ⟨hhere, hbad⟩ := (Bool.and_eq_true _ _).mp hx
    rw [hgood x hbad] at hhere
    exact Bool.noConfusion hhere
  have hread := State.unreadable_sound hs m
  refine ⟨_, exec_switchover_out hm hb hn hv hu, ?_⟩
  simp only [hnobad, hread, List.isEmpty_nil, Bool.and_self, if_true, Bool.not_true]
  obtain ⟨hout, -, hmigs⟩ := ((s.leftFor m.oldPhys false).moveOut m).switchLeaf_link m (newLeaf (Memory.readNat s.mem m.pte 8) m.cmd)
  refine ⟨hmigs.trans ?_, hout⟩
  show s.migs.filter _ = []
  simp [hm]

theorem switchover_out_stops {s : State} {m : Migration} (hm : s.migs = [m]) (hb : m.cmd.block = none) (hn : m.cmd.newTier = 3)
    (hv : s.fromNvme m = false) (hu : s.pageUnsettled m = false) {k : Nat} (hk : k ∈ s.halos.map Prod.fst) (hbad : s.haloBad k = true)
    (hin : (m.offsetOf (32 * k)).isSome = true) :
    ∃ t, exec (.migrationSwitchover m.id) s = .next t ∧ t.migs = [] ∧ t.nvme = s.nvme ∧
      t.outward = s.outward ++ [{ way := .nvme, addr := m.oldPhys, bytes := [], haloErr := true }] := by
  have hsome : (s.badHalos m).isEmpty = false := by
    refine List.isEmpty_eq_false_iff.2 (List.ne_nil_of_mem (a := k) (List.mem_filter.2 ⟨hk, ?_⟩))
    simp [hin, hbad]
  refine ⟨_, exec_switchover_out hm hb hn hv hu, ?_⟩
  simp only [hsome, Bool.false_and, Bool.false_eq_true, if_false, Bool.not_false]
  generalize hleft : (s.leftFor m.oldPhys true).migrationErrors m 2 (s.badHalos m) = u
  have hlink : LinkStays (s.leftFor m.oldPhys true) (u.migrationErrors m 3 (s.unreadable m)) :=
    (hleft ▸ State.migrationErrors_link _ _ _ _).trans (State.migrationErrors_link _ _ _ _)
  obtain ⟨hout, hnvme, hmigs⟩ := (u.migrationErrors m 3 (s.unreadable m)).switchLeaf_link m
    (Memory.readNat s.mem m.pte 8 - (if bitAt (Memory.readNat s.mem m.pte 8) 5 then 32 else 0))
  refine ⟨hmigs.trans ?_, hnvme.trans hlink.nvme, hout.trans hlink.outward⟩
  rw [hlink.migs]
  show s.migs.filter _ = []
  simp [hm]

/-- Settles O49: bytes that enter are written one by one; a transfer out carries what lies before the first sector whose halo fails; a page stays
where one of its halos fails. -/
theorem dataEntersAndLeaves : Obligations.DataEntersAndLeaves := by
  unfold Obligations.DataEntersAndLeaves
  refine ⟨fun i s addr bytes hi wf hp hf hm ht hr h => transfer_enters hi wf ⟨hp, hf⟩ hm ht hr h, fun i s addr len eth hi => ⟨?_, ?_⟩,
    fun s m hm hb hn hv hu => ⟨fun hgood hp hf => switchover_out_good hm hb hn hv hu hgood ⟨hp, hf⟩,
      fun k hk hbad hin => switchover_out_stops hm hb hn hv hu hk hbad hin⟩⟩
  · intro hgood
    have hrun : ∀ x ∈ runSectors addr len, s.haloBad x = false := by
      intro x hx
      obtain ⟨hlo, hhi, -⟩ := mem_runSectors.1 hx
      by_contra hbad
      have := hgood x (Bool.eq_true_of_not_eq_false hbad)
      omega
    obtain ⟨ds, hleave⟩ := State.leaveModule_good (if eth then .ethernet else .host) hrun
    refine ⟨_, transfer_leaves hi, ?_⟩
    rw [hleave]
  · intro k hk honly hlo hhi
    exact ⟨_, transfer_leaves hi, State.leaveModule_stops _ (find?_of_only hk honly (mem_runSectors.2 (by omega)))⟩

end Sys2Proof.Machine
end

section
/-! PROOF. O45: what the host commands over translations, pools, regions, handlers, rings and quotes leave. -/

namespace Sys2Proof.Machine

/-! ### INVALIDATE and POOL_ADD (R166, R485) -/

theorem invalidate_succeeds {n : BitVec 4} {s : State} {e : Submission} (h : Claims.Submitted s n 5 e) :
    Claims.Succeeds (.invalidate n) s n e 0 (fun t => t = { s with pairs := t.pairs, completions := t.completions, tlb := t.tlb } ∧
      ∀ x, x ∈ t.tlb ↔ x ∈ s.tlb ∧ ¬(x.root = e.arg0 ∧ (e.arg1 = 0 ∨ x.base ≤ e.arg1 ∧ e.arg1 < x.base + x.leaf.size))) := by
  let stale := fun (x : TlbEntry) => x.root == e.arg0 && (e.arg1 == 0 || (decide (x.base ≤ e.arg1) && decide (e.arg1 < x.base + x.leaf.size)))
  refine succeeds_of h (t := s.dropTlb stale) rfl rfl rfl rfl fun ps cs => ⟨rfl, fun x => ?_⟩
  show x ∈ s.tlb.filter _ ↔ _
  have hstale : stale x = true ↔ x.root = e.arg0 ∧ (e.arg1 = 0 ∨ x.base ≤ e.arg1 ∧ e.arg1 < x.base + x.leaf.size) := by simp [stale]
  rw [List.mem_filter, Bool.not_eq_true', ← Bool.not_eq_true, hstale]

/-- A pool that is set anew stands first in the list; the others stay. -/
theorem find?_setPool (l : List Pool) (q : Pool) {num m : BitVec 8} (hq : q.num = num) :
    (q :: l.filter (fun p => !(decide (p.num = num)))).find? (fun p => decide (p.num = m)) =
      if m = num then some q else l.find? (fun p => decide (p.num = m)) := by
  by_cases hm : m = num
  · rw [if_pos hm, List.find?_cons_of_pos (by simp [hq, hm])]
  · rw [if_neg hm, List.find?_cons_of_neg (by simp [hq, Ne.symm hm]), List.find?_filter]
    congr 1
    funext p
    by_cases hp : p.num = m
    · simp [hp, hm]
    · simp [hp]

/-- The pool of a number, empty where the module has none. -/
def State.poolOr (s : State) (num : BitVec 8) : Pool :=
  (s.pools.find? (fun p => decide (p.num = num))).getD { num := num, code := none, free := [] }

theorem State.poolOr_num (s : State) (num : BitVec 8) : (s.poolOr num).num = num := by
  unfold State.poolOr
  cases hp : s.pools.find? (fun p => decide (p.num = num)) with
  | none => rfl
  | some p => simpa using List.find?_some hp

theorem State.poolOr_free (s : State) (num : BitVec 8) :
    (s.poolOr num).free = ((s.pools.find? (fun p => decide (p.num = num))).map (fun p => p.free)).getD [] := by
  unfold State.poolOr
  cases s.pools.find? (fun p => decide (p.num = num)) <;> rfl

/-- R485: the pages of a pool have one code of device memory. -/
theorem State.poolOr_code {s : State} {num : BitVec 8} {code : BitVec 3} (h : ∀ p ∈ s.pools, p.num = num → ∀ c, p.code = some c → c = code) :
    (s.poolOr num).code.any (fun c => decide (c ≠ code)) = false := by
  unfold State.poolOr
  cases hp : s.pools.find? (fun p => decide (p.num = num)) with
  | none => rfl
  | some p =>
    have hcode := h p (List.mem_of_find?_eq_some hp) (by simpa using List.find?_some hp)
    cases hc : p.code with
    | none => simp [hc]
    | some c => simp [hc, hcode c hc]

theorem poolAdd_succeeds {n : BitVec 4} {s : State} {e : Submission} (h : Claims.Submitted s n 6 e) (h0 : e.arg0 < 2048)
    (h1 : e.arg1 % 65536 = 0) (hin : inMemory e.arg1 65536 = true)
    (hcode : ∀ p ∈ s.pools, p.num = BitVec.ofNat 8 e.arg0 → ∀ c, p.code = some c → c = BitVec.ofNat 3 (e.arg0 / 256)) :
    Claims.Succeeds (.poolAdd n) s n e 0 (fun t =>
      t = { s with pairs := t.pairs, completions := t.completions, pools := t.pools } ∧
      (t.pools.find? (fun p => decide (p.num = BitVec.ofNat 8 e.arg0))).map (fun p => p.free) =
        some (((s.pools.find? (fun p => decide (p.num = BitVec.ofNat 8 e.arg0))).map (fun p => p.free)).getD [] ++ [e.arg1]) ∧
      ∀ m, m ≠ BitVec.ofNat 8 e.arg0 →
        t.pools.find? (fun p => decide (p.num = m)) = s.pools.find? (fun p => decide (p.num = m))) := by
  have hnum : BitVec.ofNat 8 (bitsOf e.arg0 7 0) = BitVec.ofNat 8 e.arg0 := by
    apply BitVec.eq_of_toNat_eq
    simp [bitsOf]
  have hbits : BitVec.ofNat 3 (bitsOf e.arg0 10 8) = BitVec.ofNat 3 (e.arg0 / 256) := by
    apply BitVec.eq_of_toNat_eq
    simp [bitsOf]
  have hbig : e.arg0 / 2048 = 0 := by omega
  generalize hq : BitVec.ofNat 8 e.arg0 = num at *
  let hbm := decide (tierOf e.arg1 = some 0)
  let q : Pool := { s.poolOr num with
    code := if hbm then some (BitVec.ofNat 3 (e.arg0 / 256)) else (s.poolOr num).code, free := (s.poolOr num).free ++ [e.arg1] }
  have hqn : q.num = num := s.poolOr_num num
  refine succeeds_of h (t := { s with pools := q :: s.pools.filter (fun p => !(decide (p.num = num))) }) rfl ?_ rfl rfl
    (fun ps cs => ⟨rfl, ?_, fun m hm => ?_⟩)
  · have hany := State.poolOr_code hcode
    simp only [hnum, hbits, ← State.poolOr.eq_def, hbig, h1, hin, hany, Bool.and_false, Bool.false_eq_true, Bool.true_eq_false, ne_eq,
      not_true_eq_false, or_self, if_false]
    rfl
  · show ((q :: s.pools.filter (fun p => !(decide (p.num = num)))).find? (fun p => decide (p.num = num))).map (fun p => p.free) = _
    rw [find?_setPool s.pools q hqn, if_pos rfl, ← State.poolOr_free]
    rfl
  · exact (find?_setPool s.pools q hqn).trans (if_neg hm)

/-! ### REGION_DEL (R190, R483) -/

theorem regionDel_succeeds {n : BitVec 4} {s : State} {e : Submission} {r : Region} {pool : Pool} (h : Claims.Submitted s n 7 e)
    (hr : s.regions = [r]) (h0 : r.root = e.arg0) (h1 : r.base = e.arg1) (hg : r.gone = false) (hb : s.regionBusy r = false)
    (hp : s.pools.find? (fun p => decide (p.num = r.pool)) = some pool) :
    Claims.Succeeds (.regionDel n) s n e 0 (fun t => t.mem = s.mem ∧ t.regions = [] ∧
      (t.pools.find? (fun p => decide (p.num = r.pool))).map (fun p => p.free) = some (pool.free ++ r.lit.map LitPage.phys) ∧
      ∀ x ∈ t.tlb, x.root = r.root → r.base + r.size ≤ x.base ∨ x.base + x.leaf.size ≤ r.base) := by
  have hfind : s.regions.find? (fun q => q.root == e.arg0 && q.base == e.arg1 && (!q.gone || q.deleter == some n.toNat)) = some r := by
    simp [hr, h0, h1, hg]
  have hbusy : (s.closeRegion r).regionBusy r = false := hb
  refine succeeds_of h (t := (s.closeRegion r).freeRegion { r with gone := true }) rfl ?_ rfl rfl (fun ps cs => ⟨rfl, ?_, ?_, fun x hx hroot => ?_⟩)
  · simp only [hfind, hg, Bool.false_eq_true, if_false, hbusy]
  · show (updateWhere (fun q => q.same r && !q.gone) (fun q => { q with gone := true }) s.regions).filter
      (fun q => !(q.same { r with gone := true } && q.gone)) = []
    simp [hr, updateWhere, Region.same, hg]
  · show ((s.pools.map (fun p => if p.num = r.pool then { p with free := p.free ++ r.lit.map LitPage.phys } else p)).find?
      (fun p => decide (p.num = r.pool))).map (fun p => p.free) = _
    have hfree := find?_updateWhere s.pools (fun p => decide (p.num = r.pool)) (fun p => { p with free := p.free ++ r.lit.map LitPage.phys })
      (fun p hp => hp)
    simp only [updateWhere, decide_eq_true_eq] at hfree
    rw [hfree, hp]
    rfl
  · obtain ⟨-, hout⟩ := List.mem_filter.1 (show x ∈ s.tlb.filter _ from hx)
    simp only [hroot, beq_self_eq_true, Bool.true_and, Bool.not_eq_true', Bool.and_eq_false_iff, decide_eq_false_iff_not, not_lt] at hout
    exact hout

theorem regionDel_refuses {n : BitVec 4} {s : State} {e : Submission} (h : Claims.Submitted s n 7 e) (hr : s.regions = []) :
    Claims.Refuses (.regionDel n) s n e := by
  refine refuses_of h rfl ?_
  simp only [hr, List.find?_nil]

/-! ### HANDLER_SET (R270) -/

/-- R270: the kernels of a core's handlers, and their address space. -/
structure HandledBy (c : CoreCtl) (root : Nat) (handler mcheck : DWord) : Prop where
  root : c.root = root
  handler : c.handler = handler
  mcheck : c.mcheck = mcheck

theorem State.setHandler_cores (s : State) (core : BitVec 10) (root : Nat) (x y : DWord) :
    ∃ cs, s.setHandler core root x y = { s with cores := cs } := by
  unfold State.setHandler
  split <;> exact ⟨_, rfl⟩

/-- The record of a core after HANDLER_SET has reached it. -/
theorem State.coreCtl_setHandler (s : State) (core : BitVec 10) (root : Nat) (x y : DWord) :
    ∃ c, (s.setHandler core root x y).coreCtl core = some c ∧ HandledBy c root x y := by
  unfold State.setHandler
  cases hc : s.coreCtl core with
  | none =>
    have hfind : s.cores.find? (fun c => c.core == core) = none := hc
    refine ⟨{ core := core, root := root, handler := x, mcheck := y, notices := [], halted := false, mcheckCause := none, mcheckGroup := none },
      ?_, rfl, rfl, rfl⟩
    simp [State.coreCtl, hfind]
  | some c =>
    have hfind : s.cores.find? (fun c => c.core == core) = some c := hc
    have hset := find?_updateWhere s.cores (fun c => c.core == core) (fun c => { c with root := root, handler := x, mcheck := y }) (fun c hc => hc)
    rw [hfind] at hset
    simp only [updateWhere, beq_iff_eq] at hset
    exact ⟨_, hset, rfl, rfl, rfl⟩

theorem State.coreCtl_setHandler_other (s : State) {core m : BitVec 10} (h : core ≠ m) (root : Nat) (x y : DWord) :
    (s.setHandler core root x y).coreCtl m = s.coreCtl m := by
  unfold State.setHandler
  split
  · have hset := find?_updateWhere_other s.cores (fun c => c.core == core) (fun c => c.core == m)
      (fun c => { c with root := root, handler := x, mcheck := y }) (fun c hc => by simp [eq_of_beq hc, h])
    simp only [updateWhere, beq_iff_eq] at hset
    exact hset
  · simp [State.coreCtl, h]

/-- R322: HANDLER_SET at some cores. -/
def State.setHandlers (s : State) (cores : List Nat) (root : Nat) (x y : DWord) : State :=
  cores.foldl (fun (s : State) c => s.setHandler (BitVec.ofNat 10 c) root x y) s

theorem State.setHandlers_cores (s : State) (cores : List Nat) (root : Nat) (x y : DWord) :
    ∃ cs, s.setHandlers cores root x y = { s with cores := cs } := by
  induction cores generalizing s with
  | nil => exact ⟨s.cores, rfl⟩
  | cons c cores ih =>
    obtain ⟨cs, hcs⟩ := s.setHandler_cores (BitVec.ofNat 10 c) root x y
    obtain ⟨ds, hds⟩ := ih { s with cores := cs }
    refine ⟨ds, ?_⟩
    rw [State.setHandlers, List.foldl_cons, hcs]
    exact hds

theorem State.coreCtl_setHandlers_other (s : State) {cores : List Nat} {m : BitVec 10} (h : ∀ c ∈ cores, BitVec.ofNat 10 c ≠ m) (root : Nat)
    (x y : DWord) : (s.setHandlers cores root x y).coreCtl m = s.coreCtl m := by
  induction cores generalizing s with
  | nil => rfl
  | cons c cores ih =>
    exact (ih _ (fun d hd => h d (List.mem_cons_of_mem _ hd))).trans (s.coreCtl_setHandler_other (h c List.mem_cons_self) root x y)

theorem State.coreCtl_setHandlers (s : State) {cores : List Nat} {m : BitVec 10} (h : ∃ c ∈ cores, BitVec.ofNat 10 c = m) (root : Nat)
    (x y : DWord) : ∃ d, (s.setHandlers cores root x y).coreCtl m = some d ∧ HandledBy d root x y := by
  induction cores generalizing s with
  | nil => simp at h
  | cons c cores ih =>
    by_cases hlater : ∃ d ∈ cores, BitVec.ofNat 10 d = m
    · exact ih _ hlater
    · have hc : BitVec.ofNat 10 c = m := by
        obtain ⟨d, hd, hm⟩ := h
        rcases List.mem_cons.1 hd with rfl | hd
        · exact hm
        · exact absurd ⟨d, hd, hm⟩ hlater
      obtain ⟨d, hd, hby⟩ := s.coreCtl_setHandler m root x y
      refine ⟨d, ?_, hby⟩
      rw [State.setHandlers, List.foldl_cons, hc]
      exact ((s.setHandler m root x y).coreCtl_setHandlers_other (fun d hd hm => hlater ⟨d, hd, hm⟩) root x y).trans hd

theorem handlerSet_succeeds {n : BitVec 4} {s : State} {e : Submission} (h : Claims.Submitted s n 0xB e) (hin : inMemory e.arg0 32 = true)
    (hx : s.physical e.arg0 32 < 2 ^ 192) (hc : e.arg1 < 1024 ∨ e.arg1 = 0xFFFF) :
    Claims.Succeeds (.handlerSet n) s n e 0 (fun t => t.mem = s.mem ∧ t.g = s.g ∧ t.others = s.others ∧
      ∀ core : BitVec 10, (e.arg1 = 0xFFFF ∨ e.arg1 = core.toNat →
        ∃ c, t.coreCtl core = some c ∧ c.root = s.physical e.arg0 32 % 2 ^ 64 ∧
          c.handler = BitVec.ofNat 64 (s.physical e.arg0 32 / 2 ^ 64) ∧ c.mcheck = BitVec.ofNat 64 (s.physical e.arg0 32 / 2 ^ 128)) ∧
        (e.arg1 ≠ 0xFFFF → e.arg1 ≠ core.toNat → t.coreCtl core = s.coreCtl core)) := by
  generalize hrec : s.physical e.arg0 32 = x at *
  have hroot : bitsOf x 63 0 = x % 2 ^ 64 := by simp [bitsOf]
  have hhandler : BitVec.ofNat 64 (bitsOf x 127 64) = BitVec.ofNat 64 (x / 2 ^ 64) := by
    apply BitVec.eq_of_toNat_eq
    simp [bitsOf]
  have hmcheck : BitVec.ofNat 64 (bitsOf x 191 128) = BitVec.ofNat 64 (x / 2 ^ 128) := by
    apply BitVec.eq_of_toNat_eq
    simp [bitsOf]
  have hzero : bitsOf x 255 192 = 0 := by rw [bitsOf, Nat.div_eq_of_lt hx, Nat.zero_mod]
  let cores := if e.arg1 = 0xFFFF then List.range 1024 else [e.arg1]
  obtain ⟨cs, ht⟩ := s.setHandlers_cores cores (x % 2 ^ 64) (BitVec.ofNat 64 (x / 2 ^ 64)) (BitVec.ofNat 64 (x / 2 ^ 128))
  refine succeeds_of h (t := s.setHandlers cores _ _ _) rfl ?_ (congrArg State.pairs ht :) (congrArg State.completions ht :) (fun _ _ =>
    ⟨(congrArg State.mem ht :), (congrArg State.g ht :), (congrArg State.others ht :), fun core => ⟨fun hcore => ?_, fun hall hone => ?_⟩⟩)
  · have hnum : ¬(1024 ≤ e.arg1 ∧ e.arg1 ≠ 0xFFFF) := by omega
    simp only [hrec, hin, hzero, hnum, hroot, hhandler, hmcheck, Bool.true_eq_false, ne_eq, not_true_eq_false, or_self, if_false]
    rfl
  · have hmem : ∃ c ∈ cores, BitVec.ofNat 10 c = core := by
      refine ⟨core.toNat, ?_, BitVec.eq_of_toNat_eq (by rw [BitVec.toNat_ofNat, Nat.mod_eq_of_lt core.isLt])⟩
      by_cases hall : e.arg1 = 0xFFFF
      · simpa only [cores, if_pos hall, List.mem_range] using core.isLt
      · simp only [cores, if_neg hall, List.mem_singleton]
        exact (hcore.resolve_left hall).symm
    obtain ⟨c, hctl, hby⟩ := s.coreCtl_setHandlers hmem (x % 2 ^ 64) (BitVec.ofNat 64 (x / 2 ^ 64)) (BitVec.ofNat 64 (x / 2 ^ 128))
    exact ⟨c, hctl, hby.root, hby.handler, hby.mcheck⟩
  · refine s.coreCtl_setHandlers_other (cores := cores) (fun c hc hm => ?_) _ _ _
    simp only [cores, if_neg hall, List.mem_singleton] at hc
    subst hc hm
    refine hone ?_
    rw [BitVec.toNat_ofNat]
    omega

/-! ### CTX_POOL (R273, R484) -/

theorem ctxPool_succeeds {n : BitVec 4} {s : State} {e : Submission} {x : Nat} (hx : s.physical e.arg0 64 = x) (h : Claims.Submitted s n 0x11 e)
    (hin : inMemory e.arg0 64 = true) (h1 : e.arg1 = 0) (hlt : x < 2 ^ 224) (hrsv : x / 2 ^ 128 % 2 ^ 32 = 0) (himg : x / 2 ^ 160 % 2 ^ 32 ≠ 0)
    (hv : x / 2 ^ 64 % 65536 = 0) (hp : x % 65536 = 0) (ht : tierOf (x % 2 ^ 64) = some 0 ∨ tierOf (x % 2 ^ 64) = some 1)
    (hidle : ∀ g ∈ s.groups, g.id.kind = .ordinary → g.ended = true) :
    Claims.Succeeds (.ctxPool n) s n e 0 (fun t =>
      t = { s with pairs := t.pairs, completions := t.completions, ctxPool := t.ctxPool, images := [], saves := [] } ∧
      t.ctxPool = some { pbase := x % 2 ^ 64, vbase := BitVec.ofNat 64 (x / 2 ^ 64), nimg := x / 2 ^ 160 % 2 ^ 32, nsave := x / 2 ^ 192 }) := by
  have hpbase : bitsOf x 63 0 = x % 2 ^ 64 := by simp [bitsOf]
  have hvbase : BitVec.ofNat 64 (bitsOf x 127 64) = BitVec.ofNat 64 (x / 2 ^ 64) := by
    apply BitVec.eq_of_toNat_eq
    simp [bitsOf]
  have hnsave : bitsOf x 223 192 = x / 2 ^ 192 := by
    refine Nat.mod_eq_of_lt ?_
    rw [Nat.div_lt_iff_lt_mul (by positivity), ← pow_add]
    exact hlt
  have hhigh : bitsOf x 511 224 = 0 := by rw [bitsOf, Nat.div_eq_of_lt hlt, Nat.zero_mod]
  have hmid : bitsOf x 159 128 = 0 := hrsv
  have hvmod : (BitVec.ofNat 64 (x / 2 ^ 64)).toNat % 65536 = 0 := by
    rw [BitVec.toNat_ofNat, Nat.mod_mod_of_dvd _ (by norm_num)]
    exact hv
  have hpmod : x % 2 ^ 64 % 65536 = 0 := by
    rw [Nat.mod_mod_of_dvd _ (by norm_num)]
    exact hp
  have htier : (tierOf (x % 2 ^ 64)).any (fun t => decide (t.toNat < 2)) = true := by
    rcases ht with ht | ht <;> rw [ht] <;> rfl
  have hnone : s.groups.any (fun g => decide (g.id.kind = .ordinary) && !g.ended) = false := by
    simpa [List.any_eq_false] using hidle
  refine succeeds_of h (t := { s with
    ctxPool := some { pbase := x % 2 ^ 64, vbase := BitVec.ofNat 64 (x / 2 ^ 64), nimg := x / 2 ^ 160 % 2 ^ 32, nsave := x / 2 ^ 192 }
    images := []
    saves := [] }) rfl ?_ rfl rfl (fun _ _ => ⟨rfl, rfl⟩)
  have hnimg : bitsOf x 191 160 = x / 2 ^ 160 % 2 ^ 32 := rfl
  simp only [hx, hin, h1, hhigh, hmid, hpbase, hvbase, hnsave, hnimg, himg, hvmod, hpmod, htier, hnone, Nat.add_zero, Bool.true_eq_false,
    Bool.false_eq_true, ne_eq, not_true_eq_false, or_self, if_false]

/-! ### ERR_RING and ATTEST (R330, R333) -/

theorem errRing_succeeds {n : BitVec 4} {s : State} {e : Submission} (wf : Memory.wf s.mem = true) (h : Claims.Submitted s n 0xD e)
    (h0 : e.arg0 < 16) (h1 : e.arg1 % 4096 = 0) (hin : inMemory e.arg1 (64 + 32 * 1024) = true) :
    Claims.Succeeds (.errRing n) s n e 0 (fun t => Claims.Writes s t e.arg1 64 0 ∧ t.g = s.g ∧ t.others = s.others ∧
      (t.dieCtl (BitVec.ofNat 4 e.arg0)).map (fun d => d.ring) = some (some e.arg1)) := by
  generalize hzeros : toBytes 64 0 = zeros
  let u := s.writePhysical e.arg1 zeros
  let die := BitVec.ofNat 4 e.arg0
  let f := fun (d : DieCtl) => { d with ring := some e.arg1 }
  have ht := u.modDie_eq_dies die f
  have hdie := u.dieCtl_modDie die f (fun _ => rfl)
  refine succeeds_of h (t := u.modDie die f) rfl ?_ (congrArg State.pairs ht :) (congrArg State.completions ht :)
    (fun ps cs => ⟨?_, (congrArg State.g ht :), (congrArg State.others ht :), ?_⟩)
  · have hrun : ¬(16 ≤ e.arg0 ∨ e.arg1 % 4096 ≠ 0 ∨ inMemory e.arg1 (64 + 32 * 1024) = false) := by simp [h0, h1, hin]
    rw [if_neg hrun, hzeros]
  · exact writes_of_mem wf (hzeros.symm ▸ (congrArg State.mem ht :))
  · exact congrArg (Option.map (fun d => d.ring)) hdie

theorem errRing_refuses {n : BitVec 4} {s : State} {e : Submission} (h : Claims.Submitted s n 0xD e) (hb : 16 ≤ e.arg0 ∨ e.arg1 % 4096 ≠ 0) :
    Claims.Refuses (.errRing n) s n e :=
  refuses_of h rfl (if_pos (hb.imp_right .inl))

theorem attest_succeeds {n : BitVec 4} {s : State} {e : Submission} (wf : Memory.wf s.mem = true) (h : Claims.Submitted s n 0xE e)
    (hin : inMemory e.arg1 (s.quote e.arg0).length = true) :
    Claims.Succeeds (.attest n) s n e 0 (fun t => t.g = s.g ∧ t.others = s.others ∧ t.attestLog = s.attestLog ∧
      ∀ k, Memory.read t.mem k = if e.arg1 ≤ k ∧ k < e.arg1 + (s.quote e.arg0).length then (s.quote e.arg0).getD (k - e.arg1) 0
        else Memory.read s.mem k) := by
  refine succeeds_of h (t := s.writePhysical e.arg1 (s.quote e.arg0)) rfl ?_ rfl rfl (fun ps cs => ⟨rfl, rfl, rfl, fun k => ?_⟩)
  · simp only [hin, Bool.true_eq_false, if_false]
  · show Memory.read (Memory.writeBytes s.mem e.arg1 (s.quote e.arg0)) k = _
    generalize s.quote e.arg0 = bs
    by_cases hk : e.arg1 ≤ k ∧ k < e.arg1 + bs.length
    · have hlt : k - e.arg1 < bs.length := by omega
      rw [if_pos hk, Memory.read_writeBytes wf, if_pos hk.1, List.getD_eq_getElem _ _ hlt, List.getD_eq_getElem _ _ hlt]
    · rw [if_neg hk, Memory.read_writeBytes_outside wf]
      omega

/-- Settles O45: a lemma for each command. -/
theorem memoryCommandsRun : Obligations.MemoryCommandsRun := by
  unfold Obligations.MemoryCommandsRun
  exact fun n s e wf => ⟨invalidate_succeeds, poolAdd_succeeds, fun r pool => regionDel_succeeds, regionDel_refuses, handlerSet_succeeds,
    ctxPool_succeeds rfl, errRing_succeeds wf, errRing_refuses, attest_succeeds wf⟩

end Sys2Proof.Machine
end

section
/-! PROOF. O51: how a migration is taken up, copies its page, and moves the contents and the entry. -/

namespace Sys2Proof.Machine

/-! ### Numbers in memory (R4) -/

theorem ofBytes_toBytes (n v : Nat) : ofBytes (toBytes n v) = v % 256 ^ n := by
  induction n generalizing v with
  | zero => simp [toBytes, ofBytes, Nat.mod_one]
  | succ n ih =>
    have hpow : 256 ^ (n + 1) = 256 * 256 ^ n := Nat.pow_succ'
    rw [toBytes, ofBytes, ih, BitVec.toNat_ofNat, hpow, Nat.mod_mul]

theorem Memory.readBytes_writeBytes_same {m : Mem} (w : Memory.wf m = true) (a : Nat) (bs : List Byte) :
    Memory.readBytes (Memory.writeBytes m a bs) a bs.length = bs := by
  induction bs generalizing m a with
  | nil => rfl
  | cons b bs ih =>
    have hw := Memory.write_wf a b w
    rw [List.length_cons, Memory.readBytes, Memory.writeBytes, ih hw, Memory.read_writeBytes_outside hw _ _ _ (.inl (Nat.lt_succ_self a)),
      Memory.read_write w, if_pos rfl]

theorem Memory.readNat_writeNat_same {m : Mem} (w : Memory.wf m = true) (a n v : Nat) :
    Memory.readNat (Memory.writeNat m a n v) a n = v % 256 ^ n := by
  have h := Memory.readBytes_writeBytes_same w a (toBytes n v)
  rw [length_toBytes] at h
  rw [Memory.readNat, Memory.writeNat, h, ofBytes_toBytes]

/-! ### Storage keys (R173) -/

theorem tierOf_eq_zero {a : Nat} : tierOf a = some 0 ↔ a < 2 ^ 40 := by
  unfold tierOf
  split
  · next h => exact ⟨fun _ => by omega, fun _ => rfl⟩
  · next h =>
    refine ⟨fun he => ?_, fun hlt => by omega⟩
    split at he
    · exact absurd he (by decide)
    · split at he
      · exact absurd he (by decide)
      · cases he

/-- R173: the address that has a stack and a stack-local part under an interleave code: `localOf` and `stackOf` joined again. -/
def joinStack (code : BitVec 3) (st l : Nat) : Nat :=
  if code.toNat < 4 then l % 2 ^ (2 * code.toNat + 8) + st * 2 ^ (2 * code.toNat + 8) + l / 2 ^ (2 * code.toNat + 8) * 2 ^ (2 * code.toNat + 8 + 4)
  else l + st * 2 ^ 36

/-- R173: runs of `b` bytes, one stack after the other, split into a stack and a stack-local part and joined again. -/
theorem runs_join (b pa : Nat) :
    (pa % b + pa / (b * 16) * b) % b + pa / b % 16 * b + (pa % b + pa / (b * 16) * b) / b * (b * 16) = pa := by
  rcases Nat.eq_zero_or_pos b with rfl | hb
  · simp
  · have hlow : pa % b < b := Nat.mod_lt _ hb
    rw [Nat.add_mul_mod_self_right, Nat.mod_mod, Nat.add_mul_div_right _ _ hb, Nat.div_eq_of_lt hlow, Nat.zero_add, ← Nat.div_div_eq_div_mul]
    calc pa % b + pa / b % 16 * b + pa / b / 16 * (b * 16) = pa % b + b * (pa / b % 16 + 16 * (pa / b / 16)) := by ring
      _ = pa := by rw [Nat.mod_add_div, Nat.mod_add_div]

theorem runs_split {b st l : Nat} (hb : 0 < b) (hs : st < 16) :
    let pa := l % b + st * b + l / b * (b * 16)
    pa / b % 16 = st ∧ pa % b + pa / (b * 16) * b = l := by
  have hpa : l % b + st * b + l / b * (b * 16) = l % b + (st + 16 * (l / b)) * b := by ring
  have hlow : l % b < b := Nat.mod_lt _ hb
  have hrun : (l % b + (st + 16 * (l / b)) * b) / b = st + 16 * (l / b) := by
    rw [Nat.add_mul_div_right _ _ hb, Nat.div_eq_of_lt hlow, Nat.zero_add]
  simp only [hpa]
  refine ⟨by rw [hrun]; omega, ?_⟩
  have hquot : (st + 16 * (l / b)) / 16 = l / b := by omega
  rw [Nat.add_mul_mod_self_right, Nat.mod_mod, ← Nat.div_div_eq_div_mul, hrun, hquot, Nat.mul_comm, Nat.mod_add_div]

theorem stackOf_run {code : BitVec 3} (h : code.toNat < 4) (pa : Nat) : stackOf code pa = pa / 2 ^ (2 * code.toNat + 8) % 16 := by
  have hwidth : 2 * code.toNat + 11 + 1 - (2 * code.toNat + 8) = 4 := by omega
  rw [stackOf, if_pos h, bitsOf, hwidth]
  rfl

theorem localOf_run {code : BitVec 3} (h : code.toNat < 4) (pa : Nat) : localOf code pa =
    pa % 2 ^ (2 * code.toNat + 8) + pa / (2 ^ (2 * code.toNat + 8) * 16) * 2 ^ (2 * code.toNat + 8) := by
  rw [localOf, if_pos h, Nat.pow_add 2 (2 * code.toNat) 12, Nat.pow_add 2 (2 * code.toNat) 8, Nat.mul_assoc]

theorem joinStack_run {code : BitVec 3} (h : code.toNat < 4) (st l : Nat) : joinStack code st l =
    l % 2 ^ (2 * code.toNat + 8) + st * 2 ^ (2 * code.toNat + 8) + l / 2 ^ (2 * code.toNat + 8) * (2 ^ (2 * code.toNat + 8) * 16) := by
  rw [joinStack, if_pos h, Nat.pow_add 2 (2 * code.toNat + 8) 4]

theorem stackOf_lt (code : BitVec 3) (pa : Nat) : stackOf code pa < 16 := by
  by_cases h : code.toNat < 4
  · rw [stackOf_run h]
    exact Nat.mod_lt _ (by norm_num)
  · rw [stackOf, if_neg h]
    exact Nat.mod_lt _ (by norm_num)

/-- R173: a run is a part of a stack's 2^36 bytes. -/
theorem exists_run_mul {code : BitVec 3} (h : code.toNat < 4) : ∃ n, 2 ^ 36 = n * 2 ^ (2 * code.toNat + 8) :=
  ⟨2 ^ (28 - 2 * code.toNat), by rw [← Nat.pow_add]; congr 1; omega⟩

theorem localOf_lt (code : BitVec 3) {pa : Nat} (hpa : pa < 2 ^ 40) : localOf code pa < 2 ^ 36 := by
  by_cases h : code.toNat < 4
  · obtain ⟨n, hn⟩ := exists_run_mul h
    rw [localOf_run h]
    generalize 2 ^ (2 * code.toNat + 8) = b at *
    have hb : 0 < b := Nat.pos_of_ne_zero fun h0 => by simp [h0] at hn
    have hlow : pa % b < b := Nat.mod_lt _ hb
    have hrun : pa / (b * 16) < n := by
      rw [Nat.div_lt_iff_lt_mul (by omega)]
      have : n * (b * 16) = n * b * 16 := by ring
      omega
    calc pa % b + pa / (b * 16) * b < b + pa / (b * 16) * b := by omega
      _ = (pa / (b * 16) + 1) * b := by ring
      _ ≤ n * b := Nat.mul_le_mul_right _ hrun
      _ = 2 ^ 36 := hn.symm
  · rw [localOf, if_neg h]
    exact Nat.mod_lt _ (by norm_num)

theorem joinStack_of (code : BitVec 3) {pa : Nat} (hpa : pa < 2 ^ 40) : joinStack code (stackOf code pa) (localOf code pa) = pa := by
  by_cases h : code.toNat < 4
  · rw [joinStack_run h, stackOf_run h, localOf_run h]
    exact runs_join _ pa
  · have hstack : stackOf code pa = pa / 2 ^ 36 % 16 := if_neg h
    have hlocal : localOf code pa = pa % 2 ^ 36 := if_neg h
    rw [joinStack, if_neg h, hstack, hlocal]
    omega

theorem joinStack_lt (code : BitVec 3) {st l : Nat} (hs : st < 16) (hl : l < 2 ^ 36) : joinStack code st l < 2 ^ 40 := by
  by_cases h : code.toNat < 4
  · obtain ⟨n, hn⟩ := exists_run_mul h
    rw [joinStack_run h]
    generalize 2 ^ (2 * code.toNat + 8) = b at *
    have hb : 0 < b := Nat.pos_of_ne_zero fun h0 => by simp [h0] at hn
    have hlow : l % b < b := Nat.mod_lt _ hb
    have hrun : l / b < n := by
      rw [Nat.div_lt_iff_lt_mul hb]
      omega
    calc l % b + st * b + l / b * (b * 16) < (1 + st) * b + l / b * (b * 16) := by rw [Nat.add_mul]; omega
      _ ≤ 16 * b + l / b * (b * 16) := Nat.add_le_add_right (Nat.mul_le_mul_right _ (by omega)) _
      _ = (l / b + 1) * b * 16 := by ring
      _ ≤ n * b * 16 := Nat.mul_le_mul_right _ (Nat.mul_le_mul_right _ hrun)
      _ = 2 ^ 40 := by rw [← hn]; norm_num
  · rw [joinStack, if_neg h]
    omega

theorem joinStack_parts (code : BitVec 3) {st l : Nat} (hs : st < 16) (hl : l < 2 ^ 36) :
    stackOf code (joinStack code st l) = st ∧ localOf code (joinStack code st l) = l := by
  by_cases h : code.toNat < 4
  · rw [stackOf_run h, localOf_run h, joinStack_run h]
    exact runs_split (by positivity) hs
  · have hstack : stackOf code (joinStack code st l) = joinStack code st l / 2 ^ 36 % 16 := if_neg h
    have hlocal : localOf code (joinStack code st l) = joinStack code st l % 2 ^ 36 := if_neg h
    rw [hstack, hlocal, joinStack, if_neg h]
    omega

/-- R173: the key of a stack and a stack-local address: runs of 256 bytes, one stack after the other. -/
def keyOfParts (st l : Nat) : Nat := l % 256 + 256 * st + 4096 * (l / 256)

theorem keyOfParts_parts {st l : Nat} (hs : st < 16) (hl : l < 2 ^ 36) :
    keyOfParts st l < 2 ^ 40 ∧ keyOfParts st l % 256 + 256 * (keyOfParts st l / 4096) = l ∧ keyOfParts st l / 256 % 16 = st := by
  unfold keyOfParts
  omega

theorem storageKey_low {code : BitVec 3} {pa : Nat} (h : pa < 2 ^ 40) : storageKey code pa = keyOfParts (stackOf code pa) (localOf code pa) :=
  if_pos (tierOf_eq_zero.2 h)

theorem storageKey_high {code : BitVec 3} {pa : Nat} (h : ¬pa < 2 ^ 40) : storageKey code pa = pa := if_neg (mt tierOf_eq_zero.1 h)

theorem physicalOf_low {code : BitVec 3} {k : Nat} (h : k < 2 ^ 40) :
    physicalOf code k = joinStack code (k / 256 % 16) (k % 256 + 256 * (k / 4096)) := if_pos (tierOf_eq_zero.2 h)

theorem physicalOf_high {code : BitVec 3} {k : Nat} (h : ¬k < 2 ^ 40) : physicalOf code k = k := if_neg (mt tierOf_eq_zero.1 h)

/-- R173: an interleave code permutes device memory. -/
theorem physicalOf_storageKey (code : BitVec 3) (pa : Nat) : physicalOf code (storageKey code pa) = pa := by
  by_cases h : pa < 2 ^ 40
  · obtain ⟨hlt, hlocal, hstack⟩ := keyOfParts_parts (stackOf_lt code pa) (localOf_lt code h)
    rw [storageKey_low h, physicalOf_low hlt, hlocal, hstack, joinStack_of code h]
  · rw [storageKey_high h, physicalOf_high h]

theorem storageKey_physicalOf (code : BitVec 3) (k : Nat) : storageKey code (physicalOf code k) = k := by
  by_cases h : k < 2 ^ 40
  · have hs : k / 256 % 16 < 16 := Nat.mod_lt _ (by norm_num)
    have hl : k % 256 + 256 * (k / 4096) < 2 ^ 36 := by omega
    obtain ⟨hstack, hlocal⟩ := joinStack_parts code hs hl
    rw [physicalOf_low h, storageKey_low (joinStack_lt code hs hl), hstack, hlocal, keyOfParts]
    omega
  · rw [physicalOf_high h, storageKey_high h]

/-! ### A page that lies in memory, moved (R186) -/

theorem Memory.wfFrom_filter {lo : Nat} (p : Nat × Byte → Bool) {m : Mem} (w : Memory.wfFrom lo m = true) : Memory.wfFrom lo (m.filter p) = true := by
  induction m generalizing lo with
  | nil => rfl
  | cons x m ih =>
    simp only [Memory.wfFrom, Bool.and_eq_true, decide_eq_true_eq] at w
    obtain ⟨⟨hlo, hne⟩, w⟩ := w
    rw [List.filter_cons]
    split
    · simpa [Memory.wfFrom, hlo, ih w] using hne
    · exact Memory.wfFrom_mono (by omega) (ih w)

theorem Memory.le_of_mem_keys {lo x : Nat} {m : Mem} (w : Memory.wfFrom lo m = true) (h : x ∈ m.map Prod.fst) : lo ≤ x := by
  induction m generalizing lo with
  | nil => simp at h
  | cons c m ih =>
    simp only [Memory.wfFrom, Bool.and_eq_true, decide_eq_true_eq] at w
    obtain ⟨⟨hlo, -⟩, w⟩ := w
    rcases List.mem_cons.1 h with rfl | h
    · exact hlo
    · exact (Nat.le_succ_of_le hlo).trans (ih w h)

theorem Memory.read_of_not_mem {m : Mem} {x : Nat} (h : x ∉ m.map Prod.fst) : Memory.read m x = 0 := by
  induction m with
  | nil => rfl
  | cons c m ih =>
    rw [List.map_cons, List.mem_cons, not_or] at h
    rw [Memory.read, if_neg (Ne.symm h.1), ih h.2]

/-- Bytes of a memory, each written at the place that a map of keys gives it, if any. -/
theorem Memory.foldl_write_wf (f : Nat → Nat) (l : List (Nat × Byte)) {m : Mem} (w : Memory.wf m = true) :
    Memory.wf (l.foldl (fun mm x => Memory.write mm (f x.1) x.2) m) = true := by
  induction l generalizing m with
  | nil => exact w
  | cons x l ih => exact ih (Memory.write_wf _ _ w)

/-- R173: a storage key lies at an offset of the old page just where the page has it. -/
theorem Migration.offsetOf_eq_some {m : Migration} {x o : Nat} : m.offsetOf x = some o ↔ x = m.oldKey o ∧ o < m.cmd.size := by
  unfold Migration.offsetOf Migration.oldKey
  constructor
  · intro h
    simp only at h
    split at h
    · next hin =>
      obtain rfl := Option.some.inj h
      refine ⟨?_, by omega⟩
      rw [Nat.add_sub_cancel' hin.1, storageKey_physicalOf]
    · cases h
  · rintro ⟨rfl, ho⟩
    simp only [physicalOf_storageKey, if_pos (show m.oldPhys ≤ m.oldPhys + o ∧ m.oldPhys + o < m.oldPhys + m.cmd.size by omega),
      Nat.add_sub_cancel_left]

theorem Migration.newKey_inj {m : Migration} {o p : Nat} (h : m.newKey o = m.newKey p) : o = p := by
  have hpa := congrArg (physicalOf m.cmd.newCode) h
  rw [Migration.newKey, Migration.newKey, physicalOf_storageKey, physicalOf_storageKey] at hpa
  omega

/-- R186: the bytes of the old page that a memory lists, written to the new one. -/
theorem Migration.read_moving (m : Migration) {off : Nat} (ho : off < m.cmd.size) {lo : Nat} {c acc : Mem} (w : Memory.wfFrom lo c = true)
    (wa : Memory.wf acc = true) :
    Memory.read ((c.filterMap (fun x => (m.offsetOf x.1).map (fun o => (o, x.2)))).foldl (fun mm x => Memory.write mm (m.newKey x.1) x.2) acc)
        (m.newKey off) =
      if m.oldKey off ∈ c.map Prod.fst then Memory.read c (m.oldKey off) else Memory.read acc (m.newKey off) := by
  have hoff : m.offsetOf (m.oldKey off) = some off := Migration.offsetOf_eq_some.2 ⟨rfl, ho⟩
  induction c generalizing lo acc with
  | nil => simp
  | cons x c ih =>
    obtain ⟨y, b⟩ := x
    simp only [Memory.wfFrom, Bool.and_eq_true, decide_eq_true_eq] at w
    obtain ⟨⟨-, -⟩, w⟩ := w
    by_cases hy : y = m.oldKey off
    · subst hy
      have hlater : m.oldKey off ∉ c.map Prod.fst := fun h => absurd (Memory.le_of_mem_keys w h) (by omega)
      simp only [List.filterMap_cons, hoff, Option.map_some, List.foldl_cons]
      rw [ih w (Memory.write_wf _ _ wa), if_neg hlater, Memory.read_write wa, if_pos rfl, if_pos (by simp), Memory.read, if_pos rfl]
    · have hmem : m.oldKey off ∈ ((y, b) :: c).map Prod.fst ↔ m.oldKey off ∈ c.map Prod.fst := by simp [Ne.symm hy]
      have hread : Memory.read ((y, b) :: c) (m.oldKey off) = Memory.read c (m.oldKey off) := by rw [Memory.read, if_neg hy]
      simp only [hmem, hread, List.filterMap_cons]
      cases hyo : m.offsetOf y with
      | none => exact ih w wa
      | some o =>
        have hne : m.newKey o ≠ m.newKey off := by
          intro he
          obtain rfl := Migration.newKey_inj he
          exact hy (Migration.offsetOf_eq_some.1 hyo).1
        simp only [Option.map_some, List.foldl_cons]
        rw [ih w (Memory.write_wf _ _ wa), Memory.read_write wa, if_neg hne]

theorem Migration.inNew_newKey {m : Migration} {off : Nat} (ho : off < m.cmd.size) : m.inNew (m.newKey off) = true := by
  simp [Migration.inNew, Migration.newKey, physicalOf_storageKey, ho]

theorem Migration.movedMem_wf (m : Migration) {c : Mem} (w : Memory.wf c = true) : Memory.wf (m.movedMem c) = true :=
  Memory.foldl_write_wf m.newKey _ (Memory.wfFrom_filter _ w)

/-- R186: the new page holds what the old one held. -/
theorem Migration.read_movedMem (m : Migration) {off : Nat} (ho : off < m.cmd.size) {c : Mem} (w : Memory.wf c = true) :
    Memory.read (m.movedMem c) (m.newKey off) = Memory.read c (m.oldKey off) := by
  have hgone : m.newKey off ∉ (c.filter (fun x => !(m.inNew x.1))).map Prod.fst := by
    intro h
    obtain ⟨x, hx, hk⟩ := List.mem_map.1 h
    have hin : m.inNew x.1 = true := hk ▸ Migration.inNew_newKey ho
    simp [hin] at hx
  rw [Migration.movedMem, m.read_moving ho w (Memory.wfFrom_filter _ w), Memory.read_of_not_mem hgone]
  split
  · rfl
  · next hnone => exact (Memory.read_of_not_mem hnone).symm

/-- R186: what a move of good memory leaves of the state. -/
theorem State.moveMemory_sound {s : State} (hs : s.Sound) (m : Migration) :
    (s.moveMemory m).mem = m.movedMem s.mem ∧ (s.moveMemory m).migs = s.migs ∧ (s.moveMemory m).tlb = s.tlb ∧
      (s.moveMemory m).g.regs = s.g.regs ∧ (s.moveMemory m).g.modes = s.g.modes := by
  unfold State.moveMemory
  rw [State.unreadable_sound hs]
  split <;> exact ⟨rfl, rfl, rfl, rfl, rfl⟩

/-- R184: what the switch of an entry leaves of the state. -/
theorem State.switchLeaf_leaves (s : State) (m : Migration) (pte : Nat) :
    (s.switchLeaf m pte).mem = Memory.writeNat s.mem m.pte 8 pte ∧ (s.switchLeaf m pte).tlb = s.tlb.filter (fun e => !(e.leaf.pte == m.pte)) ∧
      (s.switchLeaf m pte).g.regs = s.g.regs ∧ (s.switchLeaf m pte).g.modes = s.g.modes := by
  exact ⟨rfl, rfl, (apply_ite Group.regs _ _ _).trans (ite_self _), (apply_ite Group.modes _ _ _).trans (ite_self _)⟩

/-! ### The new entry (R164, R184) -/

theorem tierOf_lt {a : Nat} {t : BitVec 2} (h : tierOf a = some t) : a < 2 ^ 47 ∧ t ≠ 3 := by
  unfold tierOf at h
  split at h
  · obtain rfl := Option.some.inj h
    exact ⟨by omega, by decide⟩
  · split at h
    · obtain rfl := Option.some.inj h
      exact ⟨by omega, by decide⟩
    · split at h
      · obtain rfl := Option.some.inj h
        exact ⟨by omega, by decide⟩
      · cases h

theorem newLeaf_mapped {c : MigCommand} (old : Nat) (ht : c.newTier ≠ 3) (ha : c.newPhys % 256 = 0) (hlt : c.newPhys < 2 ^ 47) :
    newLeaf old c = c.newCode.toNat * 2 ^ 61 + c.newPhys + old / 2 % 16 * 2 + 1 ∧ newLeaf old c < 2 ^ 64 := by
  have hcode := c.newCode.isLt
  have hbits : bitsOf old 4 1 = old / 2 % 16 := rfl
  have hpage : c.newPhys / 256 * 256 = c.newPhys := by omega
  have hleaf : newLeaf old c = c.newCode.toNat * 2 ^ 61 + c.newPhys + old / 2 % 16 * 2 + 1 := by
    rw [newLeaf, if_neg ht, hbits, hpage]
  exact ⟨hleaf, by omega⟩

/-! ### MIGRATION_SWITCHOVER of a page in memory (R184-R186) -/

theorem State.fromNvme_empty {s : State} (h : s.nvmeAt = []) (m : Migration) : s.fromNvme m = false := by
  simp [State.fromNvme, State.nvmePlace, h]

/-- R184-R186: the switch-over between two places in memory. -/
theorem exec_switchover {s : State} {m : Migration} (hm : s.migs = [m]) (hb : m.cmd.block = none) (hn : m.cmd.newTier ≠ 3) (hv : s.nvmeAt = []) :
    exec (.migrationSwitchover m.id) s = .next (if !m.window && !m.full then s
      else (s.moveMemory m).switchLeaf m (newLeaf (Memory.readNat s.mem m.pte 8) m.cmd)) := by
  have hfind : s.migs.find? (fun x => x.id == m.id) = some m := by simp [hm]
  show execMigrationSwitchover m.id s = _
  unfold execMigrationSwitchover
  simp only [hfind, hb, hn, State.fromNvme_empty hv, Bool.false_eq_true, if_false]

theorem switchover_moves {s : State} {m : Migration} {new : BitVec 2} (hm : s.migs = [m]) (hb : m.cmd.block = none)
    (hw : m.window = true ∨ m.full = true) (hv : s.nvmeAt = []) (hs : s.Sound) (wf : Memory.wf s.mem = true)
    (hsize : m.cmd.size = 65536 ∨ m.cmd.size = 2 ^ 21 ∨ m.cmd.size = 2 ^ 30) (ha : m.cmd.newPhys % m.cmd.size = 0)
    (ht : tierOf m.cmd.newPhys = some new) (hn : m.cmd.newTier = new) :
    ∃ t, exec (.migrationSwitchover m.id) s = .next t ∧ t.migs = [] ∧ t.g.regs = s.g.regs ∧ t.g.modes = s.g.modes ∧
      Memory.readNat t.mem m.pte 8 = m.cmd.newCode.toNat * 2 ^ 61 + m.cmd.newPhys + Memory.readNat s.mem m.pte 8 / 2 % 16 * 2 + 1 ∧
      (∀ e ∈ t.tlb, e.root = m.cmd.root → e.leaf.pte ≠ m.pte) ∧
      ∀ off, off < m.cmd.size →
        let k := storageKey m.cmd.newCode (m.cmd.newPhys + off)
        (k < m.pte ∨ m.pte + 8 ≤ k) → Memory.read t.mem k = Memory.read s.mem (storageKey m.oldCode (m.oldPhys + off)) := by
  obtain ⟨hlt, hthree⟩ := tierOf_lt ht
  have hpage : m.cmd.newPhys % 256 = 0 := by
    rcases hsize with h | h | h <;> rw [h] at ha <;> omega
  obtain ⟨hleaf, hword⟩ := newLeaf_mapped (Memory.readNat s.mem m.pte 8) (hn ▸ hthree) hpage hlt
  obtain ⟨hmem, hmigs, htlb, hregs, hmodes⟩ := State.moveMemory_sound hs m
  obtain ⟨hmem', htlb', hregs', hmodes'⟩ := (s.moveMemory m).switchLeaf_leaves m (newLeaf (Memory.readNat s.mem m.pte 8) m.cmd)
  have hgo : (!m.window && !m.full) = false := by rcases hw with h | h <;> simp [h]
  refine ⟨_, exec_switchover hm hb (hn ▸ hthree) hv, ?_⟩
  rw [hgo, if_neg Bool.false_ne_true]
  refine ⟨?_, hregs'.trans hregs, hmodes'.trans hmodes, ?_, fun e he _ => ?_, fun off ho hk => ?_⟩
  · refine ((s.moveMemory m).switchLeaf_link m _).2.2.trans ?_
    rw [hmigs, hm]
    simp
  · rw [hmem', hmem, Memory.readNat_writeNat_same (m.movedMem_wf wf), Nat.mod_eq_of_lt (hword.trans_eq (by norm_num)), hleaf]
  · rw [htlb'] at he
    simpa using (List.mem_filter.1 he).2
  · rw [hmem', hmem, Memory.writeNat, Memory.read_writeBytes_outside (m.movedMem_wf wf) _ _ _ (by rwa [length_toBytes])]
    exact m.read_movedMem ho wf

/-! ### MIGRATION_COMMAND (R184, R185) -/

/-- R185: the copy of good sectors changes memory and halos alone. -/
theorem State.carry_sound {s : State} (hs : s.Sound) (m : Migration) (off : Nat) :
    ∃ mem xs, s.carry m off = { s with mem := mem, halos := xs } := by
  obtain ⟨hp, hf⟩ := hs
  have hnone (old new : Nat) : carryMark old new [] = [] := rfl
  unfold State.carry State.carrySector
  generalize Memory.writeBytes _ _ _ = mem
  simp only [hp, hf, hnone]
  exact ⟨mem, _, rfl⟩

theorem State.poisoned_sound {s : State} (hs : s.Sound) (l : Loc) : s.poisoned l = false := by
  obtain ⟨hp, hf⟩ := hs
  unfold State.poisoned
  split <;> simp [hp, hf]

/-- R185: a sector of a line is copied; of one that cannot be read a record is posted. -/
def State.copySector (m : Migration) (i : Nat) (s : State) (n : Nat) : State :=
  let off := 128 * i + 32 * n
  let bad := s.poisoned (.mem (m.oldKey off))
  let s := s.carry m off
  if bad then s.memoryError 0 3 (m.cmd.va.toNat + off) (m.oldPhys + off) (m.oldKey off) else s

theorem State.copySector_sound {s : State} (hs : s.Sound) (m : Migration) (i n : Nat) :
    ∃ mem xs, s.copySector m i n = { s with mem := mem, halos := xs } := by
  rw [State.copySector, State.poisoned_sound hs]
  exact State.carry_sound hs m _

/-- R185: the sectors of a line, copied one after the other. -/
theorem State.copySectors_sound {s : State} (hs : s.Sound) (m : Migration) (i : Nat) (l : List Nat) :
    ∃ mem xs, l.foldl (State.copySector m i) s = { s with mem := mem, halos := xs } := by
  induction l generalizing s with
  | nil => exact ⟨s.mem, s.halos, rfl⟩
  | cons n l ih =>
    obtain ⟨mem, xs, hfirst⟩ := State.copySector_sound hs m i n
    have hs' : State.Sound { s with mem := mem, halos := xs } := hs
    obtain ⟨mem', xs', hrest⟩ := ih hs'
    exact ⟨mem', xs', by rw [List.foldl_cons, hfirst, hrest]⟩

/-- R185: a further occurrence of the command takes the next step of its move. -/
theorem exec_migrationCommand_goes {s : State} {m : Migration} (hm : s.migs = [m]) (hw : m.window = false) :
    exec (.migrationCommand m.queue m.cmd) s = .next (s.copyLine m) := by
  have hfind : s.migs.find? (fun x => x.cmd.root == m.cmd.root && decide (x.cmd.va = m.cmd.va)) = some m := by simp [hm]
  show execMigrationCommand m.queue m.cmd s = _
  unfold execMigrationCommand
  simp only [hfind, hw]
  simp

theorem copyLine_begins {s : State} {m : Migration} (hm : s.migs = [m]) {i : Nat} (hc : m.copying = none)
    (hi : (List.range m.lines).find? (fun j => !(m.bitmap.testBit j)) = some i) :
    s.copyLine m = { s with migs := [{ m with copying := some i }] } := by
  unfold State.copyLine
  simp only [hc, hi]
  simp [updateWhere, hm]

theorem State.copyLine_copying {s : State} {m : Migration} {i : Nat} (hc : m.copying = some i) :
    let t := (List.range 4).foldl (State.copySector m i) s
    s.copyLine m = { t with
      migs := updateWhere (fun x => x.id == m.id) (fun x => { x with copying := none, bitmap := Nat.lor x.bitmap (2 ^ i) }) t.migs } := by
  rw [State.copyLine, hc]
  rfl

theorem copyLine_ends {s : State} {m : Migration} (hm : s.migs = [m]) (hs : s.Sound) {i : Nat} (hc : m.copying = some i) :
    ∃ mem xs, s.copyLine m = { s with
      mem := mem, halos := xs, migs := [{ m with copying := none, bitmap := Nat.lor m.bitmap (2 ^ i) }] } := by
  obtain ⟨mem, xs, hcopy⟩ := State.copySectors_sound hs m i (List.range 4)
  refine ⟨mem, xs, ?_⟩
  rw [State.copyLine_copying hc, hcopy]
  simp [updateWhere, hm]

/-- R184: the move that an engine takes up for a page in memory. -/
def State.moveOf (s : State) (q : BitVec 5) (cmd : MigCommand) (pte : Nat) (l : Leaf) : Migration :=
  { id := s.nextUid, queue := q, cmd := cmd, pte := pte, oldPhys := l.page, oldCode := l.code
    window := decide (2 ≤ cmd.newTier.toNat) || (match tierOf l.page with
      | some t => decide (2 ≤ t.toNat)
      | none => true)
    bitmap := 0, copying := none }

theorem exec_migrationCommand_takes {s : State} (q : BitVec 5) {cmd : MigCommand} {pte : Nat} {l : Leaf}
    (hpte : entryFrom s.mem cmd.va.toNat cmd.size walkLevels cmd.root = some pte) (hl : walk s.mem cmd.root cmd.va.toNat = .ok l)
    (hsame : l.size = cmd.size) (hm : s.migs = []) (hr : s.regions = []) (hb : cmd.block = none)
    (hsize : cmd.size = 65536 ∨ cmd.size = 2 ^ 21 ∨ cmd.size = 2 ^ 30) (hva : cmd.va.toNat % cmd.size = 0) (hlt : cmd.va.toNat < 2 ^ 56)
    (ha : cmd.newPhys % cmd.size = 0) (ht : tierOf cmd.newPhys = some cmd.newTier) :
    let m := s.moveOf q cmd pte l
    let t : State := { s with migs := [m], nextUid := s.nextUid + 1 }
    exec (.migrationCommand q cmd) s = .next (if m.window then t.openMig pte else t) := by
  have hfits : (decide (cmd.size ∈ [65536, 2 ^ 21, 2 ^ 30]) && decide (cmd.va.toNat % cmd.size = 0) && decide (cmd.va.toNat < 2 ^ 56) &&
      (decide (cmd.newTier = 3) || (decide (cmd.newPhys % cmd.size = 0) && decide (tierOf cmd.newPhys = some cmd.newTier)))) = true := by
    simp only [hva, hlt, ha, ht, decide_true, Bool.and_true, Bool.or_true]
    simpa using hsize
  have hregion : (s.regionAt cmd.root cmd.va.toNat).isSome = false := by simp [State.regionAt, hr]
  show execMigrationCommand q cmd s = _
  unfold execMigrationCommand State.takeMigration
  simp only [hm, List.find?_nil, hb, Option.isSome_none, Bool.false_eq_true, if_false, hpte, hfits, Bool.not_true, hregion, Bool.or_self, hl, hsame,
    ne_eq, not_true_eq_false, List.nil_append]
  rfl

theorem migrationCommand_takes {s : State} (q : BitVec 5) {cmd : MigCommand} {pte : Nat} {l : Leaf}
    (hpte : entryFrom s.mem cmd.va.toNat cmd.size walkLevels cmd.root = some pte) (hl : walk s.mem cmd.root cmd.va.toNat = .ok l)
    (hsame : l.size = cmd.size) (hm : s.migs = []) (hr : s.regions = []) (hb : cmd.block = none)
    (hsize : cmd.size = 65536 ∨ cmd.size = 2 ^ 21 ∨ cmd.size = 2 ^ 30) (hva : cmd.va.toNat % cmd.size = 0) (hlt : cmd.va.toNat < 2 ^ 56)
    (ha : cmd.newPhys % cmd.size = 0) (ht : tierOf cmd.newPhys = some cmd.newTier) :
    ∃ t m, exec (.migrationCommand q cmd) s = .next t ∧ t.migs = [m] ∧ m.cmd = cmd ∧ m.pte = pte ∧ m.oldPhys = l.page ∧ m.oldCode = l.code ∧
      m.bitmap = 0 ∧ m.copying = none ∧ t.g = s.g ∧ t.others = s.others ∧
      (cmd.newTier.toNat < 2 → (∃ x, tierOf l.page = some x ∧ x.toNat < 2) → m.window = false ∧ t.mem = s.mem ∧ t.tlb = s.tlb) ∧
      (2 ≤ cmd.newTier.toNat ∨ (∃ x, tierOf l.page = some x ∧ 2 ≤ x.toNat) → m.window = true ∧ (∀ e ∈ t.tlb, e.root = cmd.root → e.leaf.pte ≠ pte) ∧
        (Memory.wf s.mem = true → Claims.Writes s t pte 8 (Nat.lor (Memory.readNat s.mem pte 8) 32))) := by
  have hexec := exec_migrationCommand_takes q hpte hl hsame hm hr hb hsize hva hlt ha ht
  cases hw : (s.moveOf q cmd pte l).window with
  | false =>
    simp only [hw, Bool.false_eq_true, if_false] at hexec
    refine ⟨_, s.moveOf q cmd pte l, hexec, rfl, rfl, rfl, rfl, rfl, rfl, rfl, rfl, rfl, fun _ _ => ⟨hw, rfl, rfl⟩, fun hfar => ?_⟩
    have hopen : (s.moveOf q cmd pte l).window = true := by
      rcases hfar with h | ⟨x, hx, h⟩
      · simp [State.moveOf, h]
      · simp [State.moveOf, hx, h]
    exact absurd (hw.symm.trans hopen) Bool.false_ne_true
  | true =>
    simp only [hw, if_true] at hexec
    refine ⟨_, s.moveOf q cmd pte l, hexec, rfl, rfl, rfl, rfl, rfl, rfl, rfl, rfl, rfl, fun hnew hold => ?_, fun _ =>
      ⟨hw, fun e he _ => by simpa using (List.mem_filter.1 he).2, fun wf => writes_of_mem wf rfl⟩⟩
    obtain ⟨x, hx, h⟩ := hold
    have hshut : (s.moveOf q cmd pte l).window = false := by simp [State.moveOf, hx, hnew, h]
    exact absurd (hshut.symm.trans hw) Bool.false_ne_true

/-- Settles O51: a move is taken up, copies its lines, and switches over. -/
theorem pagesMigrate : Obligations.PagesMigrate := by
  unfold Obligations.PagesMigrate
  refine ⟨fun s q cmd pte l => migrationCommand_takes q, fun s m hm hw hp hf => ⟨fun i hc hi => ?_, fun i hc => ?_, fun hb hv hn hfull => ?_⟩,
    fun s m old new hm hb hw hv hp hf wf hsize _ ha _ ht hn => switchover_moves hm hb hw hv ⟨hp, hf⟩ wf hsize ha ht hn⟩
  · rw [exec_migrationCommand_goes hm hw, copyLine_begins hm hc hi]
  · obtain ⟨mem, xs, hcopy⟩ := copyLine_ends hm ⟨hp, hf⟩ hc
    exact ⟨_, (exec_migrationCommand_goes hm hw).trans (congrArg _ hcopy), rfl, rfl, rfl, rfl⟩
  · rw [exec_switchover hm hb hn hv, hw, hfull]
    rfl

end Sys2Proof.Machine
end

section
/-! PROOF. O18: what the coalescer leaves of a store; stores as they issue: their entries, and the records of the lanes that fail. -/

namespace Sys2Proof.Machine

/-! ### The coalescer (R214) -/

theorem Loc.add_zero (l : Loc) : l.add 0 = l := by cases l <;> rfl

/-- The unit of one byte of a unit. -/
def StoreUnit.byte (u : StoreUnit) (i : Nat) : StoreUnit :=
  { u with off := u.off + i, va := u.va + i, loc := u.loc.add i, size := 1, data := u.data / 256 ^ i % 256 }

/-- A unit of a higher lane writes a byte of `x`. -/
def StoreUnit.hitBy (us : List StoreUnit) (x : StoreUnit) : Bool :=
  us.any (fun v => decide (x.lane < v.lane) && overlap x.loc x.size v.loc v.size)

theorem StoreUnit.hitBy_eq_false {us : List StoreUnit} {x : StoreUnit} :
    x.hitBy us = false ↔ ∀ w ∈ us, x.lane < w.lane → overlap x.loc x.size w.loc w.size = false := by
  simp [StoreUnit.hitBy, List.any_eq_false]

theorem coalesce_cons (u : StoreUnit) (us : List StoreUnit) : coalesce (u :: us) =
    (if u.hitBy us then ((List.range u.size).map u.byte).filter (fun x => !x.hitBy us) else [u]) ++ coalesce us := by
  rw [coalesce]
  simp only
  change (if u.hitBy us = true then _ else _) = _
  split <;> rfl

/-- What the coalescer leaves: a unit that no higher lane touches, or a byte that none writes. -/
theorem mem_coalesce_cons {u v : StoreUnit} {us : List StoreUnit} : v ∈ coalesce (u :: us) ↔
    v ∈ coalesce us ∨ v.hitBy us = false ∧ (v = u ∨ u.hitBy us = true ∧ ∃ i, i < u.size ∧ v = u.byte i) := by
  rw [coalesce_cons, List.mem_append, or_comm]
  refine or_congr_right ?_
  cases hu : u.hitBy us with
  | false =>
    simp only [Bool.false_eq_true, if_false, List.mem_singleton, false_and, or_false]
    exact ⟨fun h => ⟨h ▸ hu, h⟩, fun h => h.2⟩
  | true =>
    simp only [if_true, List.mem_filter, List.mem_map, List.mem_range, Bool.not_eq_true', true_and]
    constructor
    · rintro ⟨⟨i, hi, rfl⟩, hfree⟩
      exact ⟨hfree, .inr ⟨i, hi, rfl⟩⟩
    · rintro ⟨hfree, rfl | ⟨i, hi, rfl⟩⟩
      · exact absurd (hu.symm.trans hfree) Bool.noConfusion
      · exact ⟨⟨i, hi, rfl⟩, hfree⟩

/-- A unit that the coalescer leaves is one of its units, or a byte of one. -/
theorem coalesce_of_mem {us : List StoreUnit} {v : StoreUnit} (h : v ∈ coalesce us) : ∃ u ∈ us, v = u ∨ ∃ i, i < u.size ∧ v = u.byte i := by
  induction us with
  | nil => simp [coalesce] at h
  | cons u us ih =>
    rcases mem_coalesce_cons.1 h with h | ⟨-, h⟩
    · obtain ⟨w, hw, hv⟩ := ih h
      exact ⟨w, List.mem_cons_of_mem _ hw, hv⟩
    · exact ⟨u, List.mem_cons_self, h.imp_right And.right⟩

theorem coalesce_lane {us : List StoreUnit} {v : StoreUnit} (h : v ∈ coalesce us) : ∃ u ∈ us, v.lane = u.lane := by
  obtain ⟨u, hu, rfl | ⟨i, -, rfl⟩⟩ := coalesce_of_mem h
  · exact ⟨v, hu, rfl⟩
  · exact ⟨u, hu, rfl⟩

/-- R214: no unit that is left shares a byte with one of a higher lane. -/
theorem coalesce_apart {us : List StoreUnit} (h : us.Pairwise (fun x y => x.lane ≤ y.lane)) :
    ∀ v ∈ coalesce us, ∀ w ∈ us, v.lane < w.lane → overlap v.loc v.size w.loc w.size = false := by
  induction us with
  | nil => simp [coalesce]
  | cons u us ih =>
    obtain ⟨hfirst, hrest⟩ := List.pairwise_cons.1 h
    intro v hv w hw hlt
    rcases mem_coalesce_cons.1 hv with hlater | ⟨hfree, hunit⟩
    · rcases List.mem_cons.1 hw with rfl | hw
      · obtain ⟨x, hx, hlane⟩ := coalesce_lane hlater
        have := hfirst x hx
        omega
      · exact ih hrest v hlater w hw hlt
    · have hlane : v.lane = u.lane := by
        rcases hunit with rfl | ⟨-, i, -, rfl⟩ <;> rfl
      rcases List.mem_cons.1 hw with rfl | hw
      · omega
      · exact StoreUnit.hitBy_eq_false.1 hfree w hw hlt

/-- R214: a byte that no higher lane writes is still written. -/
theorem coalesce_keeps {us : List StoreUnit} : ∀ u ∈ us, ∀ k, k < u.size →
    (∀ w ∈ us, u.lane < w.lane → overlap (u.loc.add k) 1 w.loc w.size = false) →
    ∃ v ∈ coalesce us, ∃ j, v.lane = u.lane ∧ j < v.size ∧ v.loc.add j = u.loc.add k ∧ v.data / 256 ^ j % 256 = u.data / 256 ^ k % 256 := by
  induction us with
  | nil => simp
  | cons x us ih =>
    intro u hu k hk hfree
    have hrest : ∀ w ∈ us, u.lane < w.lane → overlap (u.loc.add k) 1 w.loc w.size = false := fun w hw => hfree w (List.mem_cons_of_mem _ hw)
    rcases List.mem_cons.1 hu with rfl | hu
    · cases hhit : u.hitBy us with
      | false => exact ⟨u, mem_coalesce_cons.2 (.inr ⟨hhit, .inl rfl⟩), k, rfl, hk, rfl, rfl⟩
      | true =>
        refine ⟨u.byte k, mem_coalesce_cons.2 (.inr ⟨StoreUnit.hitBy_eq_false.2 hrest, .inr ⟨hhit, k, hk, rfl⟩⟩), 0, rfl, Nat.one_pos,
          Loc.add_zero _, ?_⟩
        simp [StoreUnit.byte]
    · obtain ⟨v, hv, j, hv'⟩ := ih u hu k hk hrest
      exact ⟨v, mem_coalesce_cons.2 (.inl hv), j, hv'⟩

/-! ### Effects with pages of regions left aside (R197, R199) -/

/-- `t` is what `Sends` says of it, but for the regions. -/
def SendsAside (s t : State) (new : List Entry) (flights : List InFlight) : Prop := Sends s { t with regions := s.regions } new flights

theorem SendsAside.exists_eq {s t : State} {new : List Entry} {fl : List InFlight} (h : SendsAside s t new fl) : ∃ tlb uid, t = { s with
    tlb := tlb, nextUid := uid, regions := t.regions, g := { s.g with outq := s.g.outq ++ new, inflight := s.g.inflight ++ fl } } := by
  obtain ⟨tlb, uid, h⟩ := Sends.exists_eq h
  exact ⟨tlb, uid, congrArg (fun u : State => { u with regions := t.regions }) h⟩

theorem Sends.aside {s t : State} {rs : List Region} {new : List Entry} {fl : List InFlight} (h : Sends { s with regions := rs } t new fl) :
    SendsAside s t new fl ∧ t.regions = rs := by
  obtain ⟨tlb, uid, rfl⟩ := h.exists_eq
  exact ⟨rfl, rfl⟩

theorem settle_run_begun {i : Instr} {s t : State} {new : List Entry} {fl : List InFlight} (h : Clear i s) (e : SendsAside s t new fl) :
    let u := s.settle i (usesOf (s.g.streamAt s.port) i) (.run t)
    Claims.Begun i s u ∧ u.regions = t.regions ∧ u.g.modes = s.g.modes ∧ u.g.outq = s.g.outq ++ new ∧ u.g.inflight = s.g.inflight ++ fl := by
  obtain ⟨hstarted, hmodes, houtq, hflight⟩ := settle_run_started h e
  obtain ⟨hmemory, hothers, hid, hregs, hstack, hqueues, hsteps⟩ := hstarted.toBegun
  exact ⟨⟨hmemory, hothers, hid, hregs, hstack, hqueues, hsteps⟩, rfl, hmodes, houtq, hflight⟩

theorem laneFault_sendsAside {i : Instr} {s t : State} {new : List Entry} {fl : List InFlight} {recs : List (Nat × Cause × BitVec 64 × Bool)}
    (h : Claims.plainSlot s) (e : SendsAside s t new fl) (hr : recs ≠ []) :
    let u := s.laneFault t i (usesOf (s.g.streamAt s.port) i) recs
    Claims.LanesFail i s u recs ∧ u.regions = t.regions ∧ u.pools = s.pools ∧ u.g.modes = s.g.modes ∧ u.g.outq = s.g.outq ++ new ∧
      u.g.inflight = s.g.inflight ++ fl := by
  obtain ⟨hp, hk, hc⟩ := h
  obtain ⟨tlb, uid, ht⟩ := e.exists_eq
  have hkt : t.g.id.kind = .ordinary := by rw [ht]; exact hk
  have heq := State.laneFault_unchained (s := s) (t := t) i (usesOf (s.g.streamAt s.port) i) recs hp hc hkt
  have heq' := State.laneFault_unchained (s := s) (t := { t with regions := s.regions }) i (usesOf (s.g.streamAt s.port) i) recs hp hc hkt
  obtain ⟨⟨hmemory, hothers, hid, hregs, hstack, hqueues, hpath, hother, hmask, htrap, hwait⟩, -, hmodes, houtq, hflight⟩ :=
    laneFault_sends (i := i) ⟨hp, hk, hc⟩ e hr
  have hg : (s.laneFault t i (usesOf (s.g.streamAt s.port) i) recs) =
      { s.laneFault { t with regions := s.regions } i (usesOf (s.g.streamAt s.port) i) recs with regions := t.regions } := by
    rw [heq, heq']
  intro u
  have hu : u = _ := hg
  have hpools : u.pools = s.pools := (congrArg State.pools heq :).trans (by rw [ht])
  clear_value u
  subst hu
  exact ⟨⟨hmemory, hothers, hid, hregs, hstack, hqueues, hpath, hother, hmask, htrap, hwait⟩, rfl, hpools, hmodes, houtq, hflight⟩

/-! ### Pages that a store lights (R196, R197, R199) -/

theorem State.mapLit_self {s : State} {f : Region → LitPage → LitPage} (h : ∀ r ∈ s.regions, ∀ p ∈ r.lit, f r p = p) : s.mapLit f = s := by
  have hregions : s.regions.map (fun r => { r with lit := r.lit.map (f r) }) = s.regions := by
    refine (List.map_congr_left fun r hr => ?_).trans (List.map_id _)
    have hlit : r.lit.map (f r) = r.lit := (List.map_congr_left (h r hr)).trans (List.map_id _)
    rw [hlit]
    rfl
  rw [State.mapLit, hregions]

theorem Region.litPage_isSome {r : Region} {p : LitPage} (h : p ∈ r.lit) : (r.litPage p.index).isSome = true :=
  List.find?_isSome.2 ⟨p, h, beq_self_eq_true _⟩

/-- R197: a store that has lit no page claims none. -/
theorem State.claimLit_self (s : State) (uid : Nat) : s.claimLit s uid = s := by
  refine State.mapLit_self fun r hr p hp => if_pos ?_
  rw [List.any_eq_true]
  exact ⟨r, hr, by simp [Region.same, Region.litPage_isSome hp]⟩

/-- R199: where no page waits for a store of the group, a store leaves the marks of the pages as they are. -/
theorem State.noteLeft_idle {s : State} {uid : Nat} (h : ∀ r ∈ s.regions, ∀ p ∈ r.lit, p.lighter ≠ some uid) (us : List StoreUnit) :
    s.noteLeft s uid us = s := by
  rw [State.noteLeft, State.claimLit_self]
  exact State.mapLit_self fun r hr p hp => if_pos (h r hr p hp)

/-- A change of the marks of lit pages that leaves each at its index leaves the dark pages dark, and makes no others. -/
theorem State.darkPage_mapLit_none {s : State} {f : Region → LitPage → LitPage} (h : ∀ r p, (f r p).index = p.index) {root va : Nat}
    (hd : s.darkPage root va = none) : (s.mapLit f).darkPage root va = none := by
  have hfind : (s.mapLit f).regionOf root va = (s.regionOf root va).map (fun r => { r with lit := r.lit.map (f r) }) := by
    rw [State.regionOf, State.mapLit, List.find?_map]
    rfl
  rw [State.darkPage] at hd ⊢
  rw [hfind]
  cases hr : s.regionOf root va with
  | none => rfl
  | some r =>
    have hlit : Region.litPage { r with lit := r.lit.map (f r) } (r.pageOf va) = (r.litPage (r.pageOf va)).map (f r) := by
      rw [Region.litPage, List.find?_map]
      exact congrArg (fun q => (r.lit.find? q).map (f r)) (funext fun p => by rw [Function.comp, h])
    have hpage : Region.pageOf { r with lit := r.lit.map (f r) } va = r.pageOf va := rfl
    simp only [hr] at hd
    simp only [Option.map_some, hpage, hlit, Option.isNone_map]
    split at hd
    · cases hd
    · next hlitSome => rw [if_neg hlitSome]

/-- What `noteLeft` does where the store has lit no page: marks of pages change, and no page goes dark. -/
theorem State.noteLeft_marks (s : State) (uid : Nat) (us : List StoreUnit) :
    ∃ rs, s.noteLeft s uid us = { s with regions := rs } ∧
      ∀ root va, s.darkPage root va = none → State.darkPage { s with regions := rs } root va = none := by
  rw [State.noteLeft, State.claimLit_self]
  refine ⟨_, rfl, fun root va h => State.darkPage_mapLit_none (fun r p => ?_) h⟩
  simp only
  split
  · rfl
  · split <;> rfl

/-! ### Units that go to memory or to a lit page, outside every window (R196, R225) -/

/-- A unit lies in no reduction window and on no dark page. -/
structure StoreUnit.Lands (s : State) (u : StoreUnit) : Prop where
  outside : s.windowAt u.va.toNat = none
  lit : Claims.isLit s u.loc

theorem StoreUnit.Lands.mergeSlotOf {s : State} {u : StoreUnit} (h : u.Lands s) : s.mergeSlotOf u = none := by
  unfold State.mergeSlotOf State.mergeSlotAt
  rw [h.outside]
  split <;> rfl

theorem StoreUnit.Lands.stays {s : State} {u : StoreUnit} (h : u.Lands s) : s.stays u = false := by
  have hlit := h.lit
  unfold State.stays
  rw [h.mergeSlotOf]
  cases hloc : u.loc with
  | mem k => rfl
  | spad t off => rfl
  | region root va =>
    rw [hloc] at hlit
    have hlit : s.darkPage root va = none := hlit
    simp [hlit]

/-- R196: what goes to memory or to lit pages allocates none. -/
theorem State.allocateFor_lands {s : State} {us : List StoreUnit} (h : ∀ u ∈ us, u.Lands s) : s.allocateFor us = (s, [], false) := by
  unfold State.allocateFor
  refine List.foldlRecOn us _ (motive := fun acc => acc = (s, [], false)) rfl fun acc hacc u hu => ?_
  subst hacc
  have hlit := (h u hu).lit
  simp only [(h u hu).mergeSlotOf, Option.isSome_none, Bool.false_eq_true, if_false]
  cases hloc : u.loc with
  | mem k => rfl
  | spad t off => rfl
  | region root va =>
    rw [hloc] at hlit
    have hlit : s.darkPage root va = none := hlit
    simp [hlit]

theorem State.storeUnits_lands {s : State} {ls : List LaneStore} (n : Nat) (h : ∀ u ∈ coalesce (ls.flatMap LaneStore.units), u.Lands s) :
    s.storeUnits (n + 1) ls = (s, coalesce (ls.flatMap LaneStore.units), [], false) := by
  rw [State.storeUnits]
  simp [State.allocateFor_lands h]

/-- What is read of the entry of a store, with the window that it contributes to. -/
def Entry.storeMergeView (e : Entry) : Nat × Nat × EntryKind × Loc × Nat × Nat × Option (Nat × Nat) :=
  (e.lane, e.byteOff, e.kind, e.loc, e.size, e.data.toNat, e.win)

/-- The view of the entry that a unit has. -/
def StoreUnit.view (u : StoreUnit) : Nat × Nat × EntryKind × Loc × Nat × Nat × Option (Nat × Nat) :=
  (u.lane, u.off, .store, u.loc, u.size, u.data % 2 ^ 64, none)

/-- The entry of a unit of a store enters the out-queue, unless it stays out of it. -/
def State.sendUnit (rel : Option (BitVec 3)) (full : StoreUnit → Bool) (s : State) (u : StoreUnit) : State :=
  if s.stays u then s
  else s.addEntry u.lane u.off .store u.loc u.va.toNat u.size (BitVec.ofNat 64 u.data) 0 none rel (full u) (s.mergeSlotOf u)

theorem sends_sendUnit {s : State} {u : StoreUnit} (h : u.Lands s) (rel : Option (BitVec 3)) (full : StoreUnit → Bool) :
    ∃ e, Sends s (s.sendUnit rel full u) [e] [] ∧ e.storeMergeView = u.view ∧ (rel.isSome = true → e.rel.isSome = true) := by
  rw [State.sendUnit, h.stays, if_neg Bool.false_ne_true, h.mergeSlotOf]
  exact ⟨_, sends_addEntry .., by simp [Entry.storeMergeView, StoreUnit.view, Group.entry], s.g.writeScope_isSome s.port rel⟩

/-- Whether a unit lands depends on the regions and the windows alone. -/
theorem StoreUnit.Lands.of_sends {s t : State} {u : StoreUnit} {new : List Entry} {fl : List InFlight} (h : u.Lands s) (e : Sends s t new fl) :
    u.Lands t := by
  obtain ⟨tlb, uid, rfl⟩ := e.exists_eq
  exact ⟨h.outside, h.lit⟩

/-- R175, R213: units that land have an entry each. -/
theorem sends_units {us : List StoreUnit} {s : State} (h : ∀ u ∈ us, u.Lands s) (rel : Option (BitVec 3)) (full : StoreUnit → Bool) :
    ∃ new, Sends s (us.foldl (State.sendUnit rel full) s) new [] ∧ new.map Entry.storeMergeView = us.map StoreUnit.view ∧
      (rel.isSome = true → ∀ e ∈ new, e.rel.isSome = true) := by
  induction us generalizing s with
  | nil => exact ⟨[], sends_refl s, rfl, by simp⟩
  | cons u us ih =>
    obtain ⟨e, hfirst, hview, hrel⟩ := sends_sendUnit (h u List.mem_cons_self) rel full
    obtain ⟨new, hrest, hviews, hrels⟩ := ih (s := s.sendUnit rel full u) (fun v hv => (h v (List.mem_cons_of_mem _ hv)).of_sends hfirst)
    refine ⟨e :: new, hfirst.trans hrest, by rw [List.map_cons, List.map_cons, hview, hviews], fun hr x hx => ?_⟩
    rcases List.mem_cons.1 hx with rfl | hx
    · exact hrel hr
    · exact hrels hr x hx

theorem sends_rememberLanes (ls : List LaneStore) (s : State) : Sends s (ls.foldl (fun s l => s.rememberAll l.ts) s) [] [] := by
  induction ls generalizing s with
  | nil => exact sends_refl s
  | cons l ls ih => exact (sends_rememberAll s l.ts).trans (ih _)

/-! ### The checks of a store (R184, R240, R266) -/

/-- The write-protect windows and the closed reduction windows that a lane finds are those of its pieces. -/
theorem State.targeted_mig {s : State} {ps : List Piece} (h : ∀ p ∈ ps, Claims.writable s p) :
    (ps.filterMap (s.targeted .write)).any (fun t => t.2.mig) = false := by
  rw [List.any_filterMap, List.any_eq_false]
  intro p hp
  unfold State.targeted
  cases ht : s.translate (some s.g.id.core) s.g.id.root p.va .write with
  | error c => simp
  | ok t => simp [(h p hp).1 t ht]

theorem State.windows_open {s : State} {ps : List Piece} (h : ∀ p ∈ ps, Claims.writable s p) :
    (ps.filterMap (fun p => s.windowAt p.va.toNat)).any (fun w => w.closed) = false := by
  rw [List.any_filterMap, List.any_eq_false]
  intro p hp
  cases hw : s.windowAt p.va.toNat with
  | none => simp
  | some w => simp [(h p hp).2 w hw]

theorem State.windows_turn (s : State) (takes : Window → Bool) (ps : List Piece) :
    (ps.filterMap (fun p => s.windowAt p.va.toNat)).any (fun w => !w.closed && !takes w) = ps.any (s.turnsAway takes) := by
  rw [List.any_filterMap]
  rfl

/-- R266: a lane of a store passes its checks, or fails with the first cause that applies. -/
theorem State.check_write {s : State} {ps : List Piece} (h : ∀ p ∈ ps, Claims.writable s p) (takes : Window → Bool) (a : Int) (size : Option Nat) :
    s.check s.g .write a size takes false ps =
      Checked.judged (Claims.lapse s .write takes false size a ps) (ps.filterMap (s.targeted .write)) := by
  have haddress : ((2 ^ 56 : Nat) : Int) = 2 ^ 56 := by norm_num
  simp only [State.check, lapse_eq, State.targets_eq, haddress]
  by_cases hva : a < 0 ∨ 2 ^ 56 ≤ a
  · rw [if_pos hva, if_pos hva]; rfl
  · rw [if_neg hva, if_neg hva]
    by_cases hal : (size >>= fun n => pure (n : Int)).any (fun n => decide (a % n ≠ 0)) = true
    · rw [if_pos hal, if_pos hal]; rfl
    · rw [if_neg hal, if_neg hal]
      cases ps.findSome? (s.walkCause .write) with
      | some c => rfl
      | none =>
        simp only [State.targeted_mig h, State.windows_open h, s.windows_turn takes, decide_true, Bool.and_false, Bool.true_and, Bool.false_and,
          Bool.false_eq_true, false_and, true_and, if_false, Option.isSome_none]
        split <;> rfl

/-- R266: where no piece lies in a window, no window turns a lane away. -/
theorem lapse_takes {s : State} {ps : List Piece} (h : ∀ p ∈ ps, s.windowAt p.va.toNat = none) (takes takes' : Window → Bool) (size : Option Nat)
    (a : Int) : Claims.lapse s .write takes false size a ps = Claims.lapse s .write takes' false size a ps := by
  have hnone (f : Window → Bool) : ps.any (s.turnsAway f) = false := by
    rw [List.any_eq_false]
    intro p hp
    simp [State.turnsAway, h p hp]
  rw [lapse_eq, lapse_eq, hnone, hnone]

/-- R165: a lane passes the checks of a write. -/
theorem lapse_write_none {s : State} {a : Int} {size : Option Nat} {ps : List Piece} {loc : Int → Loc} (takes : Window → Bool) (h0 : 0 ≤ a)
    (h1 : a < 2 ^ 56) (hal : ∀ n, size = some n → a % (n : Int) = 0) (hpos : ∀ p ∈ ps, 0 < p.size)
    (hp : ∀ p ∈ ps, Claims.passes s .write p (loc p.va)) : Claims.lapse s .write takes false size a ps = none := by
  have hsize : (size >>= fun n => pure (n : Int)).any (fun n => decide (a % n ≠ 0)) = false := by
    cases size with
    | none => rfl
    | some n => simpa using hal n rfl
  have hwalk : ps.findSome? (s.walkCause .write) = none := by
    rw [List.findSome?_eq_none_iff]
    intro p hps
    obtain ⟨t, ht, -⟩ := hp p hps
    simp [State.walkCause, ht]
  have hturn : ps.any (s.turnsAway takes) = false := by
    rw [List.any_eq_false]
    intro p hps
    obtain ⟨t, -, -, -, hw⟩ := hp p hps
    have hwindow := (hw rfl).2 0 (hpos p hps)
    rw [Nat.add_zero] at hwindow
    simp [State.turnsAway, hwindow]
  rw [lapse_eq, if_neg (by omega), if_neg (by rw [hsize]; exact Bool.false_ne_true), hwalk, hturn]
  simp

theorem writable_of_passes {s : State} {p : Piece} {l : Loc} (hpos : 0 < p.size) (h : Claims.passes s .write p l) : Claims.writable s p := by
  obtain ⟨t, ht, -, -, hw⟩ := h
  obtain ⟨hmig, hwindow⟩ := hw rfl
  have hnone := hwindow 0 hpos
  rw [Nat.add_zero] at hnone
  refine ⟨fun u hu => ?_, fun w hw => ?_⟩
  · rw [ht] at hu
    cases hu
    exact hmig
  · rw [hnone] at hw
    cases hw

theorem State.translate_nonneg {s : State} {core : Option (BitVec 10)} {root : Nat} {va : Int} {acc : Access} {t : Target}
    (h : s.translate core root va acc = .ok t) : 0 ≤ va := by
  by_contra hneg
  rw [State.translate, if_pos (.inl (by omega))] at h
  cases h

/-- The unit of a piece at its place. -/
def unitOf (l : Nat) (p : Piece) (loc : Loc) : StoreUnit := StoreUnit.mk l p.off p.va loc p.size p.data

/-- R225: what the coalescer leaves of pieces that pass on lit pages lands. -/
theorem coalesced_lands {s : State} {us : List StoreUnit} {loc : Int → Loc}
    (h : ∀ u ∈ us, ∃ l p, u = unitOf l p (loc p.va) ∧ 0 < p.size ∧ Claims.passes s .write p (loc p.va) ∧
      ∀ k, k < p.size → Claims.isLit s ((loc p.va).add k)) : ∀ v ∈ coalesce us, v.Lands s := by
  intro v hv
  obtain ⟨u, hu, hunit⟩ := coalesce_of_mem hv
  obtain ⟨l, p, rfl, hpos, ⟨t, ht, -, -, hw⟩, hlit⟩ := h u hu
  obtain ⟨-, hwindow⟩ := hw rfl
  rcases hunit with rfl | ⟨i, hi, rfl⟩
  · refine ⟨hwindow 0 hpos, ?_⟩
    have := hlit 0 hpos
    rwa [Loc.add_zero] at this
  · refine ⟨?_, hlit i hi⟩
    have hva := State.translate_nonneg ht
    have hbyte : (p.va + (i : Int)).toNat = p.va.toNat + i := by omega
    show s.windowAt (p.va + (i : Int)).toNat = none
    rw [hbyte]
    exact hwindow i hi

/-! ### The lanes of a store (R263, R266, R268) -/

/-- R266: why a lane of a store fails. -/
def StoreOp.fails (o : StoreOp) (s : State) (l : Nat) : Option Cause :=
  Claims.lapse s .write (fun w => o.contributes && o.size.any (fun n => w.takesStore n)) false o.size (o.addr l) (o.pieces l)

/-- The lanes of a store that write. -/
def StoreOp.lanes (o : StoreOp) (s : State) : List Nat := (Claims.lanesAt s).filter (fun l => !(o.pieces l).isEmpty)

/-- The lanes that pass. -/
def StoreOp.good (o : StoreOp) (s : State) : List Nat := (o.lanes s).filter (fun l => (o.fails s l).isNone)

/-- R265, R268: the records of those that do not. -/
def StoreOp.records (o : StoreOp) (s : State) : List (Nat × Cause × BitVec 64 × Bool) :=
  ((o.lanes s).filter (fun l => (o.fails s l).isSome)).map (fun l => Claims.failRecord l ((o.fails s l).getD 0) (o.addr l))

/-- A lane with the targets of its pieces. -/
def StoreOp.laneStore (o : StoreOp) (s : State) (l : Nat) : LaneStore :=
  { lane := l, addr := o.addr l, ts := (o.pieces l).filterMap (s.targeted .write) }

/-- R266, R268: what a store does for a lane. -/
def StoreOp.step (o : StoreOp) (s : State) (acc : List LaneStore × List (Nat × Cause × BitVec 64 × Bool) × List Nat × Bool) (l : Nat) :
    List LaneStore × List (Nat × Cause × BitVec 64 × Bool) × List Nat × Bool :=
  let ps := o.pieces l
  if ps.isEmpty then acc
  else match s.check s.g .write (o.addr l) o.size (fun w => o.contributes && o.size.any (fun n => w.takesStore n)) false ps with
    | .ok ts => (acc.1 ++ [{ lane := l, addr := o.addr l, ts := ts }], acc.2)
    | .bad c => (acc.1, acc.2.1 ++ [laneRecord l c (o.addr l)], acc.2.2)
    | .migrating => (acc.1, acc.2.1, acc.2.2.1 ++ [l], acc.2.2.2)
    | .waits => (acc.1, acc.2.1, acc.2.2.1, true)

theorem StoreOp.step_empty {o : StoreOp} {s : State} {l : Nat} (h : (o.pieces l).isEmpty = true)
    (acc : List LaneStore × List (Nat × Cause × BitVec 64 × Bool) × List Nat × Bool) : o.step s acc l = acc := if_pos h

theorem StoreOp.step_judged {o : StoreOp} {s : State} {l : Nat} (h : (o.pieces l).isEmpty = false) (hw : ∀ p ∈ o.pieces l, Claims.writable s p)
    (ls : List LaneStore) (recs : List (Nat × Cause × BitVec 64 × Bool)) : o.step s (ls, recs, [], false) l =
      match o.fails s l with
      | none => (ls ++ [o.laneStore s l], recs, [], false)
      | some c => (ls, recs ++ [Claims.failRecord l c (o.addr l)], [], false) := by
  have hcheck := State.check_write hw (fun w => o.contributes && o.size.any (fun n => w.takesStore n)) (o.addr l) o.size
  change _ = Checked.judged (o.fails s l) _ at hcheck
  rw [StoreOp.step, if_neg (by rw [h]; exact Bool.false_ne_true), hcheck]
  cases o.fails s l with
  | none => rfl
  | some c => simp only [Checked.judged, laneRecord_eq]

theorem StoreOp.foldl_step (o : StoreOp) {s : State} (ls : List Nat) (hw : ∀ l ∈ ls, ∀ p ∈ o.pieces l, Claims.writable s p)
    (acc : List LaneStore) (recs : List (Nat × Cause × BitVec 64 × Bool)) :
    let lanes := ls.filter (fun l => !(o.pieces l).isEmpty)
    ls.foldl (o.step s) (acc, recs, [], false) = (acc ++ (lanes.filter (fun l => (o.fails s l).isNone)).map (o.laneStore s),
      recs ++ (lanes.filter (fun l => (o.fails s l).isSome)).map (fun l => Claims.failRecord l ((o.fails s l).getD 0) (o.addr l)), [], false) := by
  induction ls generalizing acc recs with
  | nil => simp
  | cons l ls ih =>
    have hrest := fun m hm => hw m (List.mem_cons_of_mem l hm)
    rw [List.foldl_cons]
    cases hl : (o.pieces l).isEmpty with
    | true =>
      rw [StoreOp.step_empty hl, ih hrest]
      simp [hl]
    | false =>
      rw [StoreOp.step_judged hl (hw l List.mem_cons_self)]
      cases hf : o.fails s l with
      | none => simp only [ih hrest]; simp [hl, hf]
      | some c => simp only [ih hrest]; simp [hl, hf]

/-- R266, R268: the lanes that pass, and the records of the others. -/
theorem storeLanes_spec (o : StoreOp) {s : State} (hw : ∀ l ∈ o.lanes s, ∀ p ∈ o.pieces l, Claims.writable s p) :
    s.storeLanes o = ((o.good s).map (o.laneStore s), o.records s, [], false) := by
  have hall : ∀ l ∈ Claims.lanesAt s, ∀ p ∈ o.pieces l, Claims.writable s p := fun l hl p hp =>
    hw l (List.mem_filter.2 ⟨hl, by simpa using List.ne_nil_of_mem hp⟩) p hp
  exact (o.foldl_step (Claims.lanesAt s) hall [] []).trans (by simp [StoreOp.good, StoreOp.records, StoreOp.lanes])

/-- The records of a store come in the order of their lanes. -/
theorem lanesAt_pairwise (s : State) : (Claims.lanesAt s).Pairwise (· ≤ ·) := by
  unfold Claims.lanesAt
  split
  · exact List.pairwise_singleton _ _
  · exact (List.pairwise_le_range (n := 64)).filter _

theorem sortBy_of_pairwise {α : Type} {le : α → α → Bool} {l : List α} (h : l.Pairwise (fun a b => le a b = true)) : sortBy le l = l := by
  rw [sortBy_eq]
  exact h.insertionSort_eq

theorem StoreOp.sortBy_records (o : StoreOp) (s : State) : sortBy (fun x y => decide (x.1 ≤ y.1)) (o.records s) = o.records s := by
  refine sortBy_of_pairwise (List.pairwise_map.2 ?_)
  refine (((lanesAt_pairwise s).filter _).filter _).imp fun h => ?_
  simpa [Claims.failRecord] using h

/-! ### A store as it issues (R175, R213, R467) -/

/-- R175, R199, R213: what a store leaves that lit no page: marks of pages, translations that are kept, its entries and its flight. -/
def StoreOp.sent (o : StoreOp) (s : State) (us : List StoreUnit) (good : List LaneStore) : State :=
  (us.foldl (State.sendUnit o.rel (coversSector us)) (good.foldl (fun s l => s.rememberAll l.ts) (s.noteLeft s s.g.id.uid us))).onGroup (fun g =>
    g.addFlight (s.g.launched s.port (some 1) .store .none (lanesOf (fun j => good.any (fun l => l.lane == j))) true))

/-- R201, R268: the records of the lanes that are refused a page, with the others. -/
def StoreOp.allRecords (o : StoreOp) (recs : List (Nat × Cause × BitVec 64 × Bool)) (refused : List Nat) : List (Nat × Cause × BitVec 64 × Bool) :=
  sortBy (fun x y => decide (x.1 ≤ y.1)) (recs ++ refused.map (fun l => laneRecord l Cause.shadeFull (o.addr l)))

section
variable {o : StoreOp} {s : State} {ls : List LaneStore} {recs : List (Nat × Cause × BitVec 64 × Bool)} {us : List StoreUnit} {refused : List Nat}
  (hc : s.g.counter 1 < 255) (hlanes : s.storeLanes o = (ls, recs, [], false)) (hunits : s.storeUnits 65 ls = (s, us, refused, false))
include hc hlanes hunits

/-- R263, R467: the act of a store that waits for nothing and lights no page. -/
theorem State.store_eq (hs : s.port ≠ .setter ∨ o.allRecords recs refused = []) : s.store o =
    if o.allRecords recs refused = [] then .run (o.sent s us (ls.filter (fun l => !refused.contains l.lane)))
    else .fault (o.sent s us (ls.filter (fun l => !refused.contains l.lane))) (o.allRecords recs refused) := by
  rw [State.store, Group.counterFull_false hc, if_neg Bool.false_ne_true]
  simp only [hlanes]
  rw [hunits]
  simp only [Bool.false_eq_true, if_false]
  change (match s.port, o.allRecords recs refused, ([] : List Nat) with
    | .setter, (_, c, a, out) :: _, _ => Act.refused (s.noteLeft s s.g.id.uid []) c a out
    | .setter, [], _ :: _ => .wait .migrating s
    | _, recs, mig => _) = _
  split
  · next hport hrecs => exact absurd hport (hs.resolve_right (by rw [hrecs]; simp))
  · next hmig => cases hmig
  · simp only [List.isEmpty_nil, Bool.not_true, Bool.false_eq_true, if_false, List.isEmpty_iff]
    rfl

/-- R265: the act of a setter's store of which a lane fails. -/
theorem State.store_setter {l : Nat} {c : Cause} {a : BitVec 64} {out : Bool} {rest : List (Nat × Cause × BitVec 64 × Bool)} (hp : s.port = .setter)
    (hrecs : o.allRecords recs refused = (l, c, a, out) :: rest) : s.store o = .refused (s.noteLeft s s.g.id.uid []) c a out := by
  rw [State.store, Group.counterFull_false hc, if_neg Bool.false_ne_true]
  simp only [hlanes]
  rw [hunits]
  simp only [Bool.false_eq_true, if_false]
  rw [StoreOp.allRecords] at hrecs
  simp only [hp, hrecs]

end

/-- R175, R213: the entries and the flight of a store whose units land. -/
theorem sent_sends (o : StoreOp) {s : State} {us : List StoreUnit} (good : List LaneStore) (hland : ∀ u ∈ us, u.Lands s) :
    ∃ new, SendsAside s (o.sent s us good)
        new [s.g.launched s.port (some 1) .store .none (lanesOf (fun j => good.any (fun l => l.lane == j))) true] ∧
      (Claims.NoneLighting s → (o.sent s us good).regions = s.regions) ∧ new.map Entry.storeMergeView = us.map StoreUnit.view ∧
      (o.rel.isSome = true → ∀ e ∈ new, e.rel.isSome = true) := by
  obtain ⟨rs, hmarks, hdark⟩ := s.noteLeft_marks s.g.id.uid us
  have hland' : ∀ u ∈ us, u.Lands { s with regions := rs } := fun u hu => by
    obtain ⟨houtside, hlit⟩ := hland u hu
    refine ⟨houtside, ?_⟩
    cases hloc : u.loc with
    | mem k => trivial
    | spad t off => trivial
    | region root va =>
      rw [hloc] at hlit
      exact hdark root va hlit
  have hremember := sends_rememberLanes good { s with regions := rs }
  obtain ⟨new, hsend, hview, hrel⟩ := sends_units (fun u hu => (hland' u hu).of_sends hremember) o.rel (coversSector us)
  obtain ⟨haside, hregions⟩ := Sends.aside ((hremember.trans hsend).trans (sends_addFlight _
    (s.g.launched s.port (some 1) .store .none (lanesOf (fun j => good.any (fun l => l.lane == j))) true)))
  rw [StoreOp.sent, hmarks]
  refine ⟨new, by simpa using haside, fun hidle => hregions.trans ?_, hview, hrel⟩
  exact congrArg State.regions (hmarks.symm.trans (State.noteLeft_idle hidle us))

/-- What the coalescer takes: the pieces of the lanes that pass. -/
def StoreOp.taken (o : StoreOp) (s : State) : List StoreUnit := ((o.good s).map (o.laneStore s)).flatMap LaneStore.units

/-- R174, R467: the flight of a store. -/
def StoreOp.flight (o : StoreOp) (s : State) : InFlight :=
  s.g.launched s.port (some 1) .store .none (lanesOf (fun j => (o.good s).contains j)) true

/-- R175, R263, R266: a store whose units land, with room in its counter: the lanes that pass go in flight, and the others stop the stream. -/
theorem store_spec {o : StoreOp} {s : State} (hc : s.g.counter 1 < 255) (hw : ∀ l ∈ o.lanes s, ∀ p ∈ o.pieces l, Claims.writable s p)
    (hland : ∀ u ∈ coalesce (o.taken s), u.Lands s) (hs : s.port ≠ .setter ∨ o.records s = []) :
    ∃ t new, s.store o = (if o.records s = [] then .run t else .fault t (o.records s)) ∧ SendsAside s t new [o.flight s] ∧
      (Claims.NoneLighting s → t.regions = s.regions) ∧ new.map Entry.storeMergeView = (coalesce (o.taken s)).map StoreUnit.view ∧
      (o.rel.isSome = true → ∀ e ∈ new, e.rel.isSome = true) := by
  have hrecs : o.allRecords (o.records s) [] = o.records s := by
    rw [StoreOp.allRecords, List.map_nil, List.append_nil, o.sortBy_records s]
  have hstore := State.store_eq hc (storeLanes_spec o hw) (State.storeUnits_lands 64 hland) (hrecs.symm ▸ hs)
  have hgood : ((o.good s).map (o.laneStore s)).filter (fun l => !([] : List Nat).contains l.lane) = (o.good s).map (o.laneStore s) :=
    List.filter_eq_self.2 fun l _ => by simp
  have hflight : (fun j => ((o.good s).map (o.laneStore s)).any (fun l => l.lane == j)) = fun j => (o.good s).contains j := by
    funext j
    rw [List.any_map]
    exact List.any_beq'
  obtain ⟨new, hsends, hregions, hview, hrel⟩ := sent_sends o ((o.good s).map (o.laneStore s)) hland
  rw [hflight] at hsends
  rw [hrecs, hgood] at hstore
  exact ⟨_, new, hstore, hsends, hregions, hview, hrel⟩

/-- R456, R467, R468: the store that a form stands for. -/
def storeOpOf (x : Claims.StoreForm) (contributes : Bool) : StoreOp where
  pieces := x.pieces
  addr := x.addr
  size := x.size
  contributes := contributes
  rel := x.rel

theorem exec_storeForm {i : Instr} {s : State} {x : Claims.StoreForm} (h : Claims.storeForm s i = some x) (hc : Clear i s) :
    ∃ c, (c = true ∨ x.size = none) ∧
      exec i s = .next (s.settle i (usesOf (s.g.streamAt s.port) i) (s.store (storeOpOf x c))) := by
  unfold Claims.storeForm at h
  split at h
  · cases h
    exact ⟨true, .inl rfl, congrArg Host.Outcome.next (issue_of_clear hc _)⟩
  · cases h
    exact ⟨true, .inl rfl, congrArg Host.Outcome.next (issue_of_clear hc _)⟩
  · cases h
    exact ⟨false, .inr rfl, congrArg Host.Outcome.next (issue_of_clear hc _)⟩
  · cases h
    exact ⟨false, .inr rfl, congrArg Host.Outcome.next (issue_of_clear hc _)⟩
  · exact absurd h (by simp)

theorem piecesOf_pos {va : Int} {ty : BitVec 3} {data : Nat} : ∀ p ∈ piecesOf va (memSize ty) data, 0 < p.size := by
  intro p hp
  unfold piecesOf at hp
  split at hp
  · rw [List.mem_singleton.1 hp]
    exact Nat.two_pow_pos _
  · obtain ⟨i, -, rfl⟩ := List.mem_map.1 hp
    exact Nat.one_pos

theorem maskedPieces_pos {va : Int} {data mask : Nat} : ∀ p ∈ maskedPieces va data mask, 0 < p.size := by
  intro p hp
  obtain ⟨i, -, rfl⟩ := List.mem_map.1 hp
  exact Nat.one_pos

theorem storeForm_pieces_pos {i : Instr} {s : State} {x : Claims.StoreForm} (h : Claims.storeForm s i = some x) (l : Nat) :
    ∀ p ∈ x.pieces l, 0 < p.size := by
  unfold Claims.storeForm at h
  split at h
  · cases h; exact piecesOf_pos
  · cases h; exact piecesOf_pos
  · cases h; exact piecesOf_pos
  · cases h; exact maskedPieces_pos
  · exact absurd h (by simp)

/-! ### Stores away from dark pages (R175, R213, R265-R269) -/

/-- A piece of a store passes, on lit pages. -/
def PassesLit (s : State) (loc : Int → Loc) (p : Piece) : Prop :=
  Claims.passes s .write p (loc p.va) ∧ ∀ k, k < p.size → Claims.isLit s ((loc p.va).add k)

/-- The units of the pieces of some lanes, at their places. -/
def placedUnits (x : Claims.StoreForm) (loc : Int → Loc) (ls : List Nat) : List StoreUnit :=
  ls.flatMap (fun l => (x.pieces l).map (fun p => unitOf l p (loc p.va)))

theorem placedUnits_filter (x : Claims.StoreForm) (loc : Int → Loc) (ls : List Nat) :
    placedUnits x loc (ls.filter (fun l => !(x.pieces l).isEmpty)) = placedUnits x loc ls := by
  unfold placedUnits
  induction ls with
  | nil => rfl
  | cons l ls ih =>
    rw [List.filter_cons, List.flatMap_cons, ← ih]
    split
    · rw [List.flatMap_cons]
    · next hempty =>
      have hnil : x.pieces l = [] := by simpa using hempty
      rw [hnil, List.map_nil, List.nil_append]

theorem taken_storeOpOf {s : State} {x : Claims.StoreForm} {c : Bool} {loc : Int → Loc}
    (h : ∀ l ∈ (storeOpOf x c).good s, ∀ p ∈ x.pieces l, PassesLit s loc p) :
    (storeOpOf x c).taken s = placedUnits x loc ((storeOpOf x c).good s) := by
  rw [StoreOp.taken, placedUnits, List.flatMap_map]
  refine List.flatMap_congr fun l hl => ?_
  exact State.targeted_places (fun p y => unitOf l p y) fun p hp =>
    let ⟨⟨t, ht, hloc, _⟩, _⟩ := h l hl p hp
    ⟨t, ht, hloc⟩

theorem placedUnits_land {i : Instr} {s : State} {x : Claims.StoreForm} {loc : Int → Loc} (hx : Claims.storeForm s i = some x) {ls : List Nat}
    (h : ∀ l ∈ ls, ∀ p ∈ x.pieces l, PassesLit s loc p) : ∀ u ∈ coalesce (placedUnits x loc ls), u.Lands s := by
  refine coalesced_lands (loc := loc) fun u hu => ?_
  obtain ⟨l, hl, hu⟩ := List.mem_flatMap.1 hu
  obtain ⟨p, hp, rfl⟩ := List.mem_map.1 hu
  obtain ⟨hpass, hlit⟩ := h l hl p hp
  exact ⟨l, p, rfl, storeForm_pieces_pos hx l p hp, hpass, hlit⟩

/-- R237: whether a window takes a store goes by the element size. -/
theorem fails_storeOpOf {x : Claims.StoreForm} {c : Bool} (hc : c = true ∨ x.size = none) (s : State) (l : Nat) : (storeOpOf x c).fails s l =
    Claims.lapse s .write (fun w => x.size.any (fun n => w.takesStore n)) false x.size (x.addr l) (x.pieces l) := by
  have htakes : (fun w : Window => c && x.size.any (fun n => w.takesStore n)) = fun w => x.size.any (fun n => w.takesStore n) := by
    funext w
    rcases hc with rfl | hnone
    · rfl
    · rw [hnone, Option.any_none, Bool.and_false]
  show Claims.lapse s .write (fun w => c && x.size.any (fun n => w.takesStore n)) false x.size (x.addr l) (x.pieces l) = _
  rw [htakes]

/-- R175: a store whose lanes all pass. -/
theorem store_passes {i : Instr} {s : State} {x : Claims.StoreForm} {loc : Int → Loc} (hx : Claims.storeForm s i = some x) (h : Clear i s)
    (hc : s.g.counter 1 < 255)
    (hp : ∀ l ∈ Claims.lanesAt s, x.pieces l ≠ [] → 0 ≤ x.addr l ∧ x.addr l < 2 ^ 56 ∧ (∀ n, x.size = some n → x.addr l % (n : Int) = 0) ∧
      ∀ p ∈ x.pieces l, PassesLit s loc p) :
    ∃ t, exec i s = .next t ∧ Claims.Begun i s t ∧ t.g.modes = s.g.modes ∧ (Claims.NoneLighting s → t.regions = s.regions) ∧
      Claims.Flies s t (some 1) .store .none (lanesOf (fun j => (Claims.lanesAt s).any (fun l => l == j && !(x.pieces l).isEmpty))) true ∧
      ∃ new, t.g.outq = s.g.outq ++ new ∧
        new.map Entry.storeMergeView = (coalesce (placedUnits x loc (Claims.lanesAt s))).map StoreUnit.view ∧
        (x.rel.isSome = true → ∀ e ∈ new, e.rel.isSome = true) := by
  obtain ⟨c, hcontributes, hexec⟩ := exec_storeForm hx h
  let o := storeOpOf x c
  have hpieces : ∀ l ∈ o.lanes s, 0 ≤ x.addr l ∧ x.addr l < 2 ^ 56 ∧ (∀ n, x.size = some n → x.addr l % (n : Int) = 0) ∧
      ∀ p ∈ x.pieces l, PassesLit s loc p := fun l hl => by
    obtain ⟨hat, hsome⟩ := List.mem_filter.1 hl
    exact hp l hat fun hnil => by rw [show o.pieces l = [] from hnil] at hsome; exact absurd hsome (by decide)
  have hfails : ∀ l ∈ o.lanes s, o.fails s l = none := fun l hl => by
    obtain ⟨h0, h1, hal, hpass⟩ := hpieces l hl
    rw [fails_storeOpOf hcontributes]
    exact lapse_write_none _ h0 h1 hal (storeForm_pieces_pos hx l) fun p hps => (hpass p hps).1
  have hgood : o.good s = o.lanes s := filter_isNone_eq hfails
  have hrecs : o.records s = [] := by
    rw [StoreOp.records, List.map_eq_nil_iff, List.filter_eq_nil_iff]
    exact fun l hl => by simp [hfails l hl]
  have hlit : ∀ l ∈ o.good s, ∀ p ∈ x.pieces l, PassesLit s loc p := fun l hl => (hpieces l (hgood ▸ hl)).2.2.2
  have htaken : o.taken s = placedUnits x loc (Claims.lanesAt s) := by
    rw [taken_storeOpOf hlit, hgood]
    exact placedUnits_filter x loc _
  have hland : ∀ u ∈ coalesce (o.taken s), u.Lands s := by
    rw [taken_storeOpOf hlit]
    exact placedUnits_land hx hlit
  obtain ⟨u, new, hstore, hsends, hregions, hview, hrel⟩ := store_spec (o := o) hc
    (fun l hl p hps => writable_of_passes (storeForm_pieces_pos hx l p hps) ((hpieces l hl).2.2.2 p hps).1) hland (.inr hrecs)
  rw [hstore, if_pos hrecs] at hexec
  obtain ⟨hbegun, hregions', hmodes, houtq, hflight⟩ := settle_run_begun h hsends
  refine ⟨_, hexec, hbegun, hmodes, fun hidle => hregions'.trans (hregions hidle), ?_, new, houtq, htaken ▸ hview, hrel⟩
  have hlanes : (fun j => (o.good s).contains j) = fun j => (Claims.lanesAt s).any (fun l => l == j && !(x.pieces l).isEmpty) := by
    funext j
    rw [hgood, Bool.eq_iff_iff, List.contains_iff_mem, List.any_eq_true, StoreOp.lanes, List.mem_filter]
    exact ⟨fun ⟨hj, hsome⟩ => ⟨j, hj, (Bool.and_eq_true _ _).mpr ⟨beq_self_eq_true j, hsome⟩⟩, fun ⟨l, hl, hand⟩ => by
      obtain ⟨hlj, hsome⟩ := (Bool.and_eq_true _ _).mp hand
      obtain rfl := eq_of_beq hlj
      exact ⟨hl, hsome⟩⟩
  rw [← hlanes]
  exact flies_launched hflight

/-- R263, R266: a store of which some lanes fail. -/
theorem store_lanes_fail {i : Instr} {s : State} {x : Claims.StoreForm} {loc : Int → Loc} (hx : Claims.storeForm s i = some x) (h : Clear i s)
    (hc : s.g.counter 1 < 255) :
    let takes := fun w : Window => x.size.any (fun n => w.takesStore n)
    let fail := fun l => Claims.lapse s .write takes false x.size (x.addr l) (x.pieces l)
    let lanes := (Claims.lanesAt s).filter (fun l => !(x.pieces l).isEmpty)
    let bad := lanes.filter (fun l => (fail l).isSome)
    let good := lanes.filter (fun l => (fail l).isNone)
    (∀ l ∈ lanes, ∀ p ∈ x.pieces l, Claims.writable s p) → Claims.plainSlot s → bad ≠ [] →
    (∀ l ∈ good, ∀ p ∈ x.pieces l, PassesLit s loc p) →
    ∃ t, exec i s = .next t ∧ Claims.LanesFail i s t (bad.map (fun l => Claims.failRecord l ((fail l).getD 0) (x.addr l))) ∧
      (Claims.NoneLighting s → t.regions = s.regions) ∧ t.g.modes = s.g.modes ∧
      Claims.Flies s t (some 1) .store .none (lanesOf (fun j => good.contains j)) true ∧
      ∃ new, t.g.outq = s.g.outq ++ new ∧ new.map Entry.storeMergeView = (coalesce (placedUnits x loc good)).map StoreUnit.view := by
  intro takes fail lanes bad good hw hs hbad hlit
  obtain ⟨c, hcontributes, hexec⟩ := exec_storeForm hx h
  let o := storeOpOf x c
  have hfails : o.fails s = fail := funext (fails_storeOpOf hcontributes s)
  have hgood : o.good s = good := by rw [StoreOp.good, hfails]; rfl
  have hrecs : o.records s = bad.map (fun l => Claims.failRecord l ((fail l).getD 0) (x.addr l)) := by rw [StoreOp.records, hfails]; rfl
  have hsome : o.records s ≠ [] := by rw [hrecs]; exact fun e => hbad (List.map_eq_nil_iff.1 e)
  have hlit' : ∀ l ∈ o.good s, ∀ p ∈ x.pieces l, PassesLit s loc p := fun l hl => hlit l (hgood ▸ hl)
  have htaken : o.taken s = placedUnits x loc good := by rw [taken_storeOpOf hlit', hgood]
  obtain ⟨u, new, hstore, hsends, hregions, hview, -⟩ := store_spec (o := o) hc hw (htaken ▸ placedUnits_land hx hlit) (.inl hs.1)
  rw [hstore, if_neg hsome] at hexec
  obtain ⟨hfail, hregions', -, hmodes, houtq, hflight⟩ := laneFault_sendsAside (i := i) hs hsends hsome
  refine ⟨_, hexec, hrecs ▸ hfail, fun hidle => hregions'.trans (hregions hidle), hmodes, ?_, new, houtq, htaken ▸ hview⟩
  rw [← hgood]
  exact flies_launched hflight

/-- R263, R265: the trap of a setter whose store is refused, with marks of pages that may change. -/
theorem setterFails_refused {i : Instr} {s t : State} {c : Cause} {a : Int} {out : Bool} {o : StoreOp} {us : List StoreUnit}
    (hk : s.g.id.kind = .ordinary) (hp : s.port = .setter) (hmarks : t = s.noteLeft s s.g.id.uid us)
    (hexec : exec i s = .next (s.settle i (usesOf (s.g.streamAt s.port) i) (s.store o)))
    (hstore : s.store o = .refused t c (BitVec.ofNat 64 (a % 2 ^ 56).toNat) out) : Claims.SetterFails i s c a := by
  obtain ⟨rs, hrs, -⟩ := s.noteLeft_marks s.g.id.uid us
  rw [hstore] at hexec
  rw [hrs] at hmarks
  subst hmarks
  obtain ⟨htrap, hrest, hregs, hmodes, houtq, hflight, hqueues⟩ := refuse_traps (s := { s with regions := rs }) (usesOf (s.g.streamAt s.port) i) c
    (BitVec.ofNat 64 (a % 2 ^ 56).toNat) out [] hk (by rw [show ({ s with regions := rs } : State).port = .setter from hp]; rfl)
  refine ⟨_, hexec, htrap, ?_, ?_, hregs, hmodes, hqueues hp, houtq, hflight, ?_⟩
  all_goals exact (congrArg _ hrest).trans rfl

/-- R265: a store of the setter that fails. -/
theorem store_setter_refused {i : Instr} {s : State} {x : Claims.StoreForm} {c : Cause} (hx : Claims.storeForm s i = some x) (h : Clear i s)
    (hk : s.g.id.kind = .ordinary) (hc : s.g.counter 1 < 255) (hp : s.port = .setter)
    (hlanes : (Claims.lanesAt s).filter (fun l => !(x.pieces l).isEmpty) = [0]) (hw : ∀ p ∈ x.pieces 0, Claims.writable s p)
    (hfail : Claims.lapse s .write (fun w => x.size.any (fun n => w.takesStore n)) false x.size (x.addr 0) (x.pieces 0) = some c) :
    Claims.SetterFails i s c (x.addr 0) := by
  obtain ⟨contributes, hcontributes, hexec⟩ := exec_storeForm hx h
  let o := storeOpOf x contributes
  have hlanes : o.lanes s = [0] := hlanes
  have hfails : o.fails s 0 = some c := (fails_storeOpOf hcontributes s 0).trans hfail
  have hgood : o.good s = [] := by simp [StoreOp.good, hlanes, hfails]
  have hrecs : o.records s = [Claims.failRecord 0 c (x.addr 0)] := by
    simp only [StoreOp.records, hlanes, List.filter_singleton, hfails, Option.isSome_some, cond_true, List.map_cons, List.map_nil, Option.getD_some]
    rfl
  have hjudged := storeLanes_spec o (s := s) (fun l hl => by rw [hlanes] at hl; obtain rfl := List.mem_singleton.1 hl; exact hw)
  rw [hgood, hrecs] at hjudged
  have hunits : s.storeUnits 65 [] = (s, [], [], false) := State.storeUnits_lands 64 (ls := []) (by simp [coalesce])
  exact setterFails_refused hk hp rfl hexec (State.store_setter hc hjudged hunits hp rfl)

/-! ### SHADE_FULL (R196, R197, R201) -/

theorem State.allocate_refused {s : State} {r : Region} {pool : Pool} (page : Nat)
    (hp : s.pools.find? (fun q => decide (q.num = r.pool)) = some pool) (hfree : pool.free = []) (hnone : s.candidates r.pool = []) :
    s.allocate r page = .refused s := by
  have hlight : s.light r page = none := by simp [State.light, hp, hfree]
  simp only [State.allocate, hlight, hnone, State.makeRoom]

/-- R197: a lane that is refused its page leaves the store, and nothing of it is written. -/
theorem State.storeUnits_refused {s : State} {l : LaneStore} (n : Nat) (h : s.allocateFor (coalesce l.units) = (s, [l.lane], false)) :
    s.storeUnits (n + 2) [l] = (s, [], [l.lane], false) := by
  have hrest : s.storeUnits (n + 1) [] = (s, [], [], false) := State.storeUnits_lands n (ls := []) (by simp [coalesce])
  have hone : [l].flatMap LaneStore.units = l.units := by simp
  rw [State.storeUnits, hone]
  simp only [h]
  simp [hrest]

/-- R266: the lane of a store of one piece, where the checks that stand before its page let it pass. -/
theorem storeLanes_one {s : State} {x : Claims.StoreForm} {l : Nat} {p : Piece} {y : Target} (hl : Claims.lanesAt s = [l]) (hps : x.pieces l = [p])
    (hpass : Claims.lapse s .write (fun _ => false) false x.size (x.addr l) (x.pieces l) = none) (hw : Claims.writable s p)
    (hwindow : s.windowAt p.va.toNat = none) (hy : s.translate (some s.g.id.core) s.g.id.root p.va .write = .ok y) (c : Bool) :
    s.storeLanes (storeOpOf x c) = ([{ lane := l, addr := x.addr l, ts := [(p, y)] }], [], [], false) := by
  let o := storeOpOf x c
  have hone : o.pieces l = [p] := hps
  have hlanes : o.lanes s = [l] := by
    rw [StoreOp.lanes, hl, List.filter_singleton, hone]
    rfl
  have hfails : o.fails s l = none := by
    refine (lapse_takes (fun q hq => ?_) _ _ _ _).trans hpass
    rw [hone, List.mem_singleton] at hq
    exact hq ▸ hwindow
  have hlane : o.laneStore s l = { lane := l, addr := x.addr l, ts := [(p, y)] } := by
    rw [StoreOp.laneStore, hone]
    simp [State.targeted, hy, o, storeOpOf]
  refine (storeLanes_spec o fun m hm q hq => ?_).trans ?_
  · rw [hlanes, List.mem_singleton] at hm
    subst hm
    rw [hone, List.mem_singleton] at hq
    exact hq ▸ hw
  · simp [StoreOp.good, StoreOp.records, hlanes, hfails, hlane]

/-- R196, R201: a lane of other bytes than the shade on a dark page, for which its pool has none. -/
theorem storeUnits_dark {s : State} {l va : Nat} {a : Int} {p : Piece} {r : Region} {y : Target} {pool : Pool}
    (hwindow : s.windowAt p.va.toNat = none) (hloc : y.loc = .region r.root va) (hdark : s.darkPage r.root va = some (r, r.pageOf va))
    (hshade : r.isShade va p.size p.data = false) (hpool : s.pools.find? (fun q => decide (q.num = r.pool)) = some pool) (hfree : pool.free = [])
    (hnone : s.candidates r.pool = []) : s.storeUnits 65 [{ lane := l, addr := a, ts := [(p, y)] }] = (s, [], [l], false) := by
  have hmerge : s.mergeSlotAt p.va.toNat = none := by rw [State.mergeSlotAt, hwindow]
  have hunit : coalesce (LaneStore.units { lane := l, addr := a, ts := [(p, y)] }) = [unitOf l p (.region r.root va)] := by
    rw [← hloc]
    simp [LaneStore.units, coalesce, unitOf]
  refine State.storeUnits_refused 63 (l := { lane := l, addr := a, ts := [(p, y)] }) ?_
  rw [hunit, State.allocateFor]
  simp [unitOf, State.mergeSlotOf, hmerge, hdark, hshade, State.allocate_refused _ hpool hfree hnone]

theorem allRecords_shadeFull (x : Claims.StoreForm) (c : Bool) (l : Nat) :
    (storeOpOf x c).allRecords [] [l] = [Claims.failRecord l Cause.shadeFull (x.addr l)] := by
  rw [← laneRecord_eq]
  rfl

section
variable {i : Instr} {s : State} {x : Claims.StoreForm} {l : Nat} {ts : List (Piece × Target)}
  (hx : Claims.storeForm s i = some x) (h : Clear i s) (hc : s.g.counter 1 < 255)
  (hlanes : ∀ c, s.storeLanes (storeOpOf x c) = ([{ lane := l, addr := x.addr l, ts := ts }], [], [], false))
  (hunits : s.storeUnits 65 [{ lane := l, addr := x.addr l, ts := ts }] = (s, [], [l], false))
include hx h hc hlanes hunits

/-- R197: a store of one lane that is refused its page. -/
theorem store_shadeFull (hs : Claims.plainSlot s) :
    ∃ t, exec i s = .next t ∧ Claims.LanesFail i s t [Claims.failRecord l Cause.shadeFull (x.addr l)] ∧
      (Claims.NoneLighting s → t.regions = s.regions) ∧ t.pools = s.pools ∧ t.g.modes = s.g.modes ∧
      Claims.Flies s t (some 1) .store .none 0 true ∧ t.g.outq = s.g.outq := by
  obtain ⟨c, -, hexec⟩ := exec_storeForm hx h
  have hstore := State.store_eq hc (hlanes c) hunits (.inl hs.1)
  have hgood : [({ lane := l, addr := x.addr l, ts := ts } : LaneStore)].filter (fun m => !([l].contains m.lane)) = [] := by simp
  rw [allRecords_shadeFull, if_neg (List.cons_ne_nil _ _), hgood] at hstore
  rw [hstore] at hexec
  obtain ⟨new, hsends, hregions, hview, -⟩ := sent_sends (storeOpOf x c) (s := s) (us := []) [] (by simp)
  obtain rfl : new = [] := by simpa using congrArg List.length hview
  obtain ⟨hfail, hregions', hpools, hmodes, houtq, hflight⟩ := laneFault_sendsAside (i := i) hs hsends
    (List.cons_ne_nil (Claims.failRecord l Cause.shadeFull (x.addr l)) [])
  refine ⟨_, hexec, hfail, fun hidle => hregions'.trans (hregions hidle), hpools, hmodes, ?_, houtq.trans (List.append_nil _)⟩
  have hzero : lanesOf (fun j => ([] : List LaneStore).any (fun m => m.lane == j)) = 0 := by decide
  rw [hzero] at hflight
  exact flies_launched hflight

theorem store_shadeFull_setter (hk : s.g.id.kind = .ordinary) (hp : s.port = .setter) : Claims.SetterFails i s Cause.shadeFull (x.addr l) := by
  obtain ⟨c, -, hexec⟩ := exec_storeForm hx h
  exact setterFails_refused hk hp rfl hexec (State.store_setter hc (hlanes c) hunits hp (allRecords_shadeFull x c l))

end

/-- Settles O18: the coalescer, unit by unit; a store whose units land by what it sends; a page that its pool cannot give. -/
theorem storesIssue : Obligations.StoresIssue := by
  unfold Obligations.StoresIssue
  refine ⟨fun us hus => ⟨coalesce_apart hus, coalesce_keeps⟩, fun i s x loc hx h hc hp => store_passes hx h hc hp, ?_, ?_⟩
  · intro i s x loc hx h hk hc takes fail lanes bad good hw
    refine ⟨store_lanes_fail hx h hc hw, fun c hp hlanes hfail => ?_⟩
    exact store_setter_refused hx h hk hc hp hlanes (hw 0 (hlanes.symm ▸ List.mem_singleton_self 0)) hfail
  · intro i s x l va p r y pool hx h hk hc hl hps hpass hw hwindow hy hloc hdark hshade hpool hfree hnone
    have hlanes := storeLanes_one hl hps hpass hw hwindow hy
    have hunits := storeUnits_dark (l := l) (a := x.addr l) hwindow hloc hdark hshade hpool hfree hnone
    exact ⟨store_shadeFull hx h hc hlanes hunits, store_shadeFull_setter hx h hc hlanes hunits hk⟩

end Sys2Proof.Machine
end

section
/-! PROOF. O30: pages of shade regions are held, lit and let go. -/

namespace Sys2Proof.Machine

/-! ### Refused traps in either stream (R263, R265) -/

/-- R80: a stream outside a latch chain; the setter has none. -/
def State.Unchained (s : State) : Prop := s.port = .setter ∨ (s.g.slot s.port).chain = none

theorem State.Unchained.chain {s : State} (h : s.Unchained) : (s.g.slot s.port).chain = none := by
  rcases h with h | h
  · rw [h]
    rfl
  · exact h

/-- R263: an instruction whose own check refuses it stops its stream, and the module is as it was but for the trap. -/
theorem exec_refused_stops {i : Instr} {s : State} {u : Uses} {c : Cause} (hk : s.g.id.kind = .ordinary) (hf : s.Unchained)
    (h : exec i s = .next (s.refuse u c)) :
    ∃ t, exec i s = .next t ∧ Trapped s t c 0 0 ∧ t = { s with g := t.g, nextTrap := t.nextTrap } ∧ t.g.regs = s.g.regs ∧
      t.g.modes = s.g.modes ∧ t.g.outq = s.g.outq := by
  obtain ⟨htrap, hrest, hregs, hmodes, houtq, -⟩ := refuse_traps u c 0 false [] hk hf.chain
  exact ⟨_, h, htrap, hrest, hregs, hmodes, houtq⟩

/-! ### An instruction whose park is a group switch (R79, R192) -/

/-- What is read of the module beside the group at the port. -/
theorem OnlyGroup.reads {s t : State} {α : Type} (h : OnlyGroup s t) (f : State → α) (hf : ∀ g, f { s with g := g } = f s) : f t = f s :=
  (congrArg f h).trans (hf _)

@[simp] theorem Group.unlatch_path (g : Group) (p : Port) : ((g.unlatch p).slot p).path = (g.slot p).path := by cases p <;> rfl
@[simp] theorem Group.unlatch_pcAt (g : Group) (p : Port) : (g.unlatch p).pcAt p = g.pcAt p := by cases p <;> rfl

/-- R79, R358: an act that leaves its group alone, with a group switch of its slot, moves past its instruction. -/
theorem settle_run_unlatched {i : Instr} {s t : State} (h : Clear i s) (hg : t.g = s.g) :
    let u := s.settle i (usesOf (s.g.streamAt s.port) i) (.run (t.onGroup (fun g => g.unlatch s.port)))
    OnlyGroup t u ∧ Steps i s u ∧ u.g.regs = s.g.regs := by
  intro u
  have hu : u.g = s.g.retire (s.g.unlatch s.port) s.port i (usesOf (s.g.streamAt s.port) i) none false := by
    show s.g.retire (t.g.unlatch s.port) s.port i (usesOf (s.g.streamAt s.port) i) none false = _
    rw [hg]
  refine ⟨rfl, ?_, ?_⟩
  · rw [Steps, hu, Group.retire_pcAt _ _ _ _ _ _ _ (by rw [Group.unlatch_path]; exact h.here), Group.unlatch_pcAt]
    rfl
  · rw [hu, Group.retire_regs, Group.unlatch_regs]

/-! ### The lit pages of a region and the free pages of a pool (R190, R195) -/

theorem Region.same_self (r : Region) : r.same r = true := by simp [Region.same]

theorem State.find_setLit (s : State) (r : Region) (f : List LitPage → List LitPage) :
    (s.setLit r f).regions.find? (fun q => q.same r) = (s.regions.find? (fun q => q.same r)).map (fun q => { q with lit := f q.lit }) :=
  find?_updateWhere s.regions (fun q => q.same r) (fun q => { q with lit := f q.lit }) (fun _ h => h)

theorem State.regionOf_setLit {s : State} {r : Region} {root va : Nat} (f : List LitPage → List LitPage) (h : s.regionOf root va = some r) :
    (s.setLit r f).regionOf root va = some { r with lit := f r.lit } := by
  have hpred : ((fun q : Region => q.root == root && decide (q.base ≤ va) && decide (va < q.base + q.size)) ∘
      fun q : Region => if q.same r then { q with lit := f q.lit } else q) =
      fun q : Region => q.root == root && decide (q.base ≤ va) && decide (va < q.base + q.size) := by
    funext q
    simp only [Function.comp]
    split <;> rfl
  rw [State.regionOf] at h
  rw [State.regionOf, State.setLit, List.find?_map, hpred, h]
  simp [Region.same_self]

theorem pageNow_setLit {s : State} {r q : Region} (f : List LitPage → List LitPage) (h : s.regions.find? (fun x => x.same r) = some q) (i : Nat) :
    Claims.pageNow (s.setLit r f) r i = Region.litPage { q with lit := f q.lit } i := by
  rw [Claims.pageNow, State.find_setLit, h]
  rfl

theorem Region.litPage_updated {q : Region} {l : List LitPage} {i : Nat} {f : LitPage → LitPage} (hf : ∀ x, (f x).index = x.index) :
    Region.litPage { q with lit := updateWhere (fun x => x.index == i) f l } i = (Region.litPage { q with lit := l } i).map f :=
  find?_updateWhere l (fun x => x.index == i) f (fun x h => by rwa [hf x])

theorem Region.litPage_removed (q : Region) (l : List LitPage) (i : Nat) :
    Region.litPage { q with lit := l.filter (fun x => x.index != i) } i = none := by
  simp [Region.litPage]

theorem Region.litPage_added {q : Region} (p : LitPage) (h : q.litPage p.index = none) :
    Region.litPage { q with lit := q.lit ++ [p] } p.index = some p := by
  rw [Region.litPage] at h ⊢
  rw [List.find?_append, h]
  simp

theorem State.find_setFree (s : State) (n : BitVec 8) (f : List Nat → List Nat) :
    (s.setFree n f).pools.find? (fun p => decide (p.num = n)) =
      (s.pools.find? (fun p => decide (p.num = n))).map (fun p => { p with free := f p.free }) := by
  have h := find?_updateWhere s.pools (fun p => decide (p.num = n)) (fun p => { p with free := f p.free }) (fun _ h => h)
  simp only [updateWhere, decide_eq_true_eq] at h
  exact h

theorem State.poolCode_setFree (s : State) (n m : BitVec 8) (f : List Nat → List Nat) : (s.setFree n f).poolCode m = s.poolCode m := by
  have hpred : ((fun p : Pool => p.num == m) ∘ fun p : Pool => if p.num = n then { p with free := f p.free } else p) =
      fun p : Pool => p.num == m := by
    funext p
    simp only [Function.comp]
    split <;> rfl
  rw [State.poolCode, State.setFree, List.find?_map, hpred, State.poolCode]
  cases s.pools.find? (fun p => p.num == m) with
  | none => rfl
  | some p =>
    simp only [Option.map_some]
    split <;> rfl

/-! ### Holding a page (R204) -/

/-- A lit page, held or let go. -/
def LitPage.hold (held : Bool) (p : LitPage) : LitPage := { p with held := held, candidate := p.candidate && !held }

theorem State.holdPage_eq (s : State) (r : Region) (i : Nat) (held : Bool) :
    s.holdPage r i held = s.setLit r (updateWhere (fun x => x.index == i) (LitPage.hold held)) := rfl

@[simp] theorem State.holdPage_mem (s : State) (r : Region) (i : Nat) (held : Bool) : (s.holdPage r i held).mem = s.mem := rfl

theorem pageNow_holdPage {s : State} {r q : Region} (h : s.regions.find? (fun x => x.same r) = some q) (i : Nat) (held : Bool) :
    Claims.pageNow (s.holdPage r i held) r i = (q.litPage i).map (LitPage.hold held) := by
  rw [State.holdPage_eq, pageNow_setLit _ h]
  exact Region.litPage_updated fun _ => rfl

/-! ### Lighting a page (R196) -/

/-- A page that has just been lit. -/
def freshPage (i phys : Nat) : LitPage := { index := i, phys := phys, held := false, candidate := false, lighter := none }

/-- R196: the state in which a page of a region has taken a page of its pool. -/
def State.lightOn (s : State) (r : Region) (i phys : Nat) : State :=
  ((s.setFree r.pool (fun f => f.drop 1)).fillPage r phys).setLit r (fun l => l ++ [freshPage i phys])

theorem State.light_takes {s : State} {r : Region} {pool : Pool} {f : Nat} {rest : List Nat} (i : Nat)
    (hpool : s.pools.find? (fun p => decide (p.num = r.pool)) = some pool) (hfree : pool.free = f :: rest) :
    s.light r i = some (s.lightOn r i f) := by
  simp only [State.light, hpool, Option.bind_some, hfree, List.head?_cons]
  rfl

theorem pageNow_lightOn_hold {s : State} {r q : Region} (h : s.regions.find? (fun x => x.same r) = some q) {i : Nat}
    (hdark : q.litPage i = none) (phys : Nat) (held : Bool) :
    Claims.pageNow ((s.lightOn r i phys).holdPage r i held) r i = some ((freshPage i phys).hold held) := by
  have hfind : (s.lightOn r i phys).regions.find? (fun x => x.same r) = some { q with lit := q.lit ++ [freshPage i phys] } := by
    have hlit := State.find_setLit ((s.setFree r.pool (fun f => f.drop 1)).fillPage r phys) r (fun l => l ++ [freshPage i phys])
    rw [show ((s.setFree r.pool (fun f => f.drop 1)).fillPage r phys).regions = s.regions from rfl, h] at hlit
    exact hlit
  rw [pageNow_holdPage hfind]
  exact congrArg (Option.map _) (Region.litPage_added (freshPage i phys) hdark)

/-- Filtering keys out of a memory makes their bytes 0 and leaves the others. -/
theorem Memory.read_filter_keys (q : Nat → Bool) (m : Mem) (k : Nat) :
    Memory.read (m.filter (fun c => !(q c.1))) k = if q k then 0 else Memory.read m k := by
  induction m with
  | nil => simp [Memory.read]
  | cons c m ih =>
    rw [List.filter_cons, Memory.read]
    by_cases hk : c.1 = k
    · subst hk
      cases hq : q c.1 with
      | true => simpa [hq] using ih
      | false => simp [Memory.read]
    · cases hq : q c.1 with
      | true => simpa [hk] using ih
      | false => simpa [Memory.read, hk] using ih

/-- R189, R196: a page that is lit in a region of shade zero reads 0, and every other byte as before. -/
theorem State.read_lightOn {s : State} {r : Region} (hr : r.shade = 0) (i phys k : Nat) :
    Memory.read (s.lightOn r i phys).mem k = if inPage (s.poolCode r.pool) phys k then 0 else Memory.read s.mem k := by
  have hmem : (s.lightOn r i phys).mem = s.mem.filter (fun c => !(inPage (s.poolCode r.pool) phys c.1)) := by
    simp only [State.lightOn, State.setLit, State.fillPage, State.renew, hr, if_true, State.poolCode_setFree]
    rfl
  rw [hmem, Memory.read_filter_keys]

/-! ### Fading a page (R200) -/

/-- R200: a fade step of a clean page that nothing holds: the page is dark, and its page of the pool is free again. -/
theorem State.fade_clean {s : State} {r : Region} {l : List LitPage} {i : Nat} {p : LitPage}
    (hr : s.regions.find? (fun q => q.same r) = some { r with lit := l }) (hp : Region.litPage { r with lit := l } i = some p)
    (hclean : s.pageClean { r with lit := l } p = true) (hheld : p.held = false) :
    let t := s.fade r i
    t = { s with regions := t.regions, pools := t.pools } ∧ Claims.pageNow t r i = none ∧
      ∀ pool, s.pools.find? (fun x => decide (x.num = r.pool)) = some pool →
        (t.pools.find? (fun x => decide (x.num = r.pool))).map (fun x => x.free) = some (pool.free ++ [p.phys]) := by
  intro t
  have ht : t = (s.setLit r (fun l => l.filter (fun x => x.index != i))).setFree r.pool (fun f => f ++ [p.phys]) := by
    show s.fade r i = _
    simp only [State.fade, hr, hp, hclean, hheld, Bool.not_false, Bool.and_self, if_true]
    rfl
  refine ⟨by rw [ht]; rfl, ?_, fun pool hpool => ?_⟩
  · rw [ht]
    exact (pageNow_setLit _ hr i).trans (Region.litPage_removed { r with lit := l } l i)
  · rw [ht, State.find_setFree]
    exact (congrArg (fun x : Option Pool => (x.map _).map _) hpool).trans rfl

/-- R199, R200: the fade step of a candidate of an eager region. -/
theorem fadeStep_fades {s : State} {r : Region} {i : Nat} {p : LitPage} (hregions : s.regions = [r]) (hgone : r.gone = false)
    (hp : r.litPage i = some p) (hfade : r.fade = 0) (hcandidate : p.candidate = true) (hheld : p.held = false)
    (hbusy : s.pageBusy r i = false) : exec (.fadeStep r.root r.base i) s = .next (s.fade r i) := by
  have hfind : s.regions.find? (fun q => q.root == r.root && q.base == r.base && !q.gone) = some r := by simp [hregions, hgone]
  show execFadeStep r.root r.base i s = _
  simp [execFadeStep, hfind, hp, hfade, hcandidate, hheld, hbusy]

/-! ### The page steps of one page (R194, R204) -/

theorem Region.pageOf_base (r : Region) (i : Nat) : r.pageOf (r.base + 65536 * i) = i := by
  unfold Region.pageOf
  omega

theorem State.darkPage_one {s : State} {va : Nat} {r : Region} (h : Claims.OnePage s va r) :
    s.darkPage r.root (r.base + 65536 * r.pageOf va) = if (r.litPage (r.pageOf va)).isNone then some (r, r.pageOf va) else none := by
  simp only [State.darkPage, h.only, Region.pageOf_base]

theorem State.lightPages_lit {s : State} {va : Nat} {r : Region} {p : LitPage} (h : Claims.OnePage s va r)
    (hp : r.litPage (r.pageOf va) = some p) : s.lightPages r 1 (r.pageOf va) = .done (s.holdPage r (r.pageOf va) true) := by
  simp [State.lightPages, State.darkPage_one h, hp]

theorem State.lightPages_dark {s : State} {va : Nat} {r : Region} {pool : Pool} {f : Nat} {rest : List Nat} (h : Claims.OnePage s va r)
    (hp : r.litPage (r.pageOf va) = none) (hpool : s.pools.find? (fun p => decide (p.num = r.pool)) = some pool) (hfree : pool.free = f :: rest) :
    s.lightPages r 1 (r.pageOf va) = .done ((s.lightOn r (r.pageOf va) f).holdPage r (r.pageOf va) true) := by
  simp [State.lightPages, State.darkPage_one h, hp, State.allocate, State.light_takes _ hpool hfree]

theorem State.lightPages_refused {s : State} {va : Nat} {r : Region} {pool : Pool} (h : Claims.OnePage s va r)
    (hp : r.litPage (r.pageOf va) = none) (hpool : s.pools.find? (fun p => decide (p.num = r.pool)) = some pool) (hfree : pool.free = [])
    (hnone : s.candidates r.pool = []) : s.lightPages r 1 (r.pageOf va) = .refused s := by
  simp [State.lightPages, State.darkPage_one h, hp, State.allocate_refused _ hpool hfree hnone]

/-- A region with its page of an index let go. -/
def Region.letGo (r : Region) (i : Nat) : Region := { r with lit := updateWhere (fun x => x.index == i) (LitPage.hold false) r.lit }

/-- R204: what a page step of `shfade` finds once it has let its page go. -/
theorem State.holdPage_finds {s : State} {va : Nat} {r : Region} {p : LitPage} (h : Claims.OnePage s va r)
    (hp : r.litPage (r.pageOf va) = some p) :
    let t := s.holdPage r (r.pageOf va) false
    t.regions.find? (fun q => q.same r) = some (r.letGo (r.pageOf va)) ∧
      t.regionOf r.root (r.base + 65536 * r.pageOf va) = some (r.letGo (r.pageOf va)) ∧
      (r.letGo (r.pageOf va)).litPage (r.pageOf va) = some (p.hold false) := by
  refine ⟨?_, State.regionOf_setLit _ h.only, ?_⟩
  · rw [State.holdPage_eq, State.find_setLit, h.first]
    rfl
  · exact (Region.litPage_updated (q := r) (f := LitPage.hold false) fun _ => rfl).trans (congrArg (Option.map _) hp)

/-- R199: whether a page is clean depends neither on what is lit nor on who holds it. -/
theorem State.pageClean_holdPage (s : State) (r : Region) (i : Nat) (p : LitPage) :
    (s.holdPage r i false).pageClean r (p.hold false) = s.pageClean r p := rfl

theorem State.pageClean_letGo (s : State) (r : Region) (i : Nat) (p : LitPage) : s.pageClean (r.letGo i) p = s.pageClean r p := rfl

theorem State.fadePages_unclean {s : State} {va : Nat} {r : Region} {p : LitPage} (h : Claims.OnePage s va r)
    (hp : r.litPage (r.pageOf va) = some p) (hclean : s.pageClean r p = false) :
    s.fadePages r 1 (r.pageOf va) false = .done (s.holdPage r (r.pageOf va) false) := by
  obtain ⟨-, hregion, hlit⟩ := State.holdPage_finds h hp
  have hstep : s.fadePage r (r.pageOf va) false = (s.holdPage r (r.pageOf va) false, true) := by
    simp [State.fadePage, hregion, hlit, State.pageClean_holdPage, hclean]
  simp [State.fadePages, hstep]

theorem State.fadePages_clean {s : State} {va : Nat} {r : Region} {p : LitPage} (h : Claims.OnePage s va r)
    (hp : r.litPage (r.pageOf va) = some p) (hclean : s.pageClean r p = true) (hbusy : s.pageBusy r (r.pageOf va) = false) :
    s.fadePages r 1 (r.pageOf va) false = .done ((s.holdPage r (r.pageOf va) false).fade r (r.pageOf va)) := by
  obtain ⟨-, hregion, hlit⟩ := State.holdPage_finds h hp
  have hidle : (s.holdPage r (r.pageOf va) false).pageBusy r (r.pageOf va) = false := hbusy
  have hstep : s.fadePage r (r.pageOf va) false = ((s.holdPage r (r.pageOf va) false).fade r (r.pageOf va), true) := by
    simp [State.fadePage, hregion, hlit, State.pageClean_holdPage, hclean, hidle]
  simp [State.fadePages, hstep]

/-! ### `shlit` and `shfade` as they issue (R192, R194, R204) -/

theorem State.pageRange_one {s : State} {va : Nat} {r : Region} (h : Claims.OnePage s va r) : s.pageRange va 1 = .ok (r, r.pageOf va) := by
  have hin : ¬ r.base + r.size < va + 65536 * 1 := by
    have := h.inside
    omega
  simp only [State.pageRange, h.aligned, h.found, hin, ne_eq, not_true_eq_false, if_false]

section
variable {i : Instr} {a b : BitVec 8} {s : State} {steps : Region → Nat → Nat → Bool → State → Pages} (h : Clear i s)
include h

theorem State.pageSteps_refused {c : Cause} (hwait : s.pagesWait = none)
    (hrange : s.pageRange (s.shadeVa a) (s.g.operandFull s.port b) = .error c) :
    s.pageSteps i a b steps = s.refuse (usesOf (s.g.streamAt s.port) i) c := by
  rw [State.pageSteps, issue_of_clear h]
  simp only [hwait, hrange]
  rfl

variable {r : Region} (hone : Claims.OnePage s (s.shadeVa a) r) (hn : s.g.operandFull s.port b = 1)
  (hfirst : Claims.firstStep s r (r.pageOf (s.shadeVa a)))
include hone hn hfirst

theorem State.pageSteps_done {t : State} (hsteps : steps r 1 (r.pageOf (s.shadeVa a)) false s = .done t) :
    s.pageSteps i a b steps = s.settle i (usesOf (s.g.streamAt s.port) i) (.run (t.onGroup (fun g => g.unlatch s.port))) := by
  obtain ⟨hwait, hmay⟩ := hfirst
  rw [State.pageSteps, issue_of_clear h]
  simp only [hwait, State.pageRange_one hone, hn, Nat.mul_one, hmay, Bool.not_true, Bool.false_eq_true, if_false, hsteps]

theorem State.pageSteps_full (hsteps : steps r 1 (r.pageOf (s.shadeVa a)) false s = .refused s) :
    s.pageSteps i a b steps = s.refuse (usesOf (s.g.streamAt s.port) i) Cause.shadeFull := by
  obtain ⟨hwait, hmay⟩ := hfirst
  rw [State.pageSteps, issue_of_clear h]
  simp only [hwait, State.pageRange_one hone, hn, Nat.mul_one, hmay, Bool.not_true, Bool.false_eq_true, if_false, hsteps]
  rfl

/-- R204: one page step that is taken leaves the group alone, but for the step past the instruction. -/
theorem pageSteps_steps {t : State} (hsteps : steps r 1 (r.pageOf (s.shadeVa a)) false s = .done t) (hg : t.g = s.g) :
    let u := s.pageSteps i a b steps
    OnlyGroup t u ∧ Steps i s u ∧ u.g.regs = s.g.regs := by
  rw [State.pageSteps_done h hone hn hfirst hsteps]
  exact settle_run_unlatched h hg

end

/-- R204: `shlit` of a lit page holds it. -/
theorem shlit_holds {a b : BitVec 8} {s : State} {r : Region} {p : LitPage} (h : Clear (.shlit a b) s) (hone : Claims.OnePage s (s.shadeVa a) r)
    (hn : s.g.operandFull s.port b = 1) (hfirst : Claims.firstStep s r (r.pageOf (s.shadeVa a)))
    (hp : r.litPage (r.pageOf (s.shadeVa a)) = some p) :
    ∃ t q, exec (.shlit a b) s = .next t ∧ t.mem = s.mem ∧ Steps (.shlit a b) s t ∧ t.pools = s.pools ∧ t.g.regs = s.g.regs ∧
      Claims.pageNow t r (r.pageOf (s.shadeVa a)) = some q ∧ q.phys = p.phys ∧ q.held = true := by
  obtain ⟨hrest, hsteps, hregs⟩ := pageSteps_steps (steps := fun r n page _ s => s.lightPages r n page) h hone hn hfirst
    (State.lightPages_lit hone hp) rfl
  refine ⟨_, p.hold true, rfl, ?_, hsteps, ?_, hregs, ?_, rfl, rfl⟩
  · exact hrest.reads State.mem fun _ => rfl
  · exact hrest.reads State.pools fun _ => rfl
  · exact (hrest.reads (Claims.pageNow · r _) fun _ => rfl).trans ((pageNow_holdPage hone.first _ true).trans (congrArg (Option.map _) hp))

/-- R196, R204: `shlit` of a dark page lights and holds it. -/
theorem shlit_lights {a b : BitVec 8} {s : State} {r : Region} {pool : Pool} {f : Nat} {rest : List Nat} (h : Clear (.shlit a b) s)
    (hone : Claims.OnePage s (s.shadeVa a) r) (hn : s.g.operandFull s.port b = 1) (hfirst : Claims.firstStep s r (r.pageOf (s.shadeVa a)))
    (hp : r.litPage (r.pageOf (s.shadeVa a)) = none) (hpool : s.pools.find? (fun p => decide (p.num = r.pool)) = some pool)
    (hfree : pool.free = f :: rest) :
    ∃ t q, exec (.shlit a b) s = .next t ∧ Steps (.shlit a b) s t ∧ t.g.regs = s.g.regs ∧
      Claims.pageNow t r (r.pageOf (s.shadeVa a)) = some q ∧ q.phys = f ∧ q.held = true ∧
      (t.pools.find? (fun p => decide (p.num = r.pool))).map (fun p => p.free) = some rest ∧
      (r.shade = 0 → ∀ k, Memory.read t.mem k = if inPage (s.poolCode r.pool) f k then 0 else Memory.read s.mem k) := by
  obtain ⟨hrest, hsteps, hregs⟩ := pageSteps_steps (steps := fun r n page _ s => s.lightPages r n page) h hone hn hfirst
    (State.lightPages_dark hone hp hpool hfree) rfl
  refine ⟨_, (freshPage (r.pageOf (s.shadeVa a)) f).hold true, rfl, hsteps, hregs, ?_, rfl, rfl, ?_, fun hr k => ?_⟩
  · exact (hrest.reads (Claims.pageNow · r _) fun _ => rfl).trans (pageNow_lightOn_hold hone.first hp f true)
  · have hpools := State.find_setFree s r.pool (fun f => f.drop 1)
    rw [hpool] at hpools
    rw [hrest.reads State.pools fun _ => rfl]
    exact (congrArg (Option.map (fun p : Pool => p.free)) hpools).trans (by simp [hfree])
  · rw [hrest.reads State.mem fun _ => rfl, State.holdPage_mem]
    exact State.read_lightOn hr _ f k

/-- R200, R204: `shfade` of a clean page with no access under way darkens it. -/
theorem shfade_fades {a b : BitVec 8} {s : State} {r : Region} {p : LitPage} (h : Clear (.shfade a b) s)
    (hone : Claims.OnePage s (s.shadeVa a) r) (hn : s.g.operandFull s.port b = 1) (hfirst : Claims.firstStep s r (r.pageOf (s.shadeVa a)))
    (hp : r.litPage (r.pageOf (s.shadeVa a)) = some p) (hclean : s.pageClean r p = true)
    (hbusy : s.pageBusy r (r.pageOf (s.shadeVa a)) = false) :
    ∃ t, exec (.shfade a b) s = .next t ∧ t.mem = s.mem ∧ Steps (.shfade a b) s t ∧ t.g.regs = s.g.regs ∧
      Claims.pageNow t r (r.pageOf (s.shadeVa a)) = none ∧
      ∀ pool, s.pools.find? (fun x => decide (x.num = r.pool)) = some pool →
        (t.pools.find? (fun x => decide (x.num = r.pool))).map (fun x => x.free) = some (pool.free ++ [p.phys]) := by
  obtain ⟨hfind, -, hlit⟩ := State.holdPage_finds hone hp
  have hstays := (State.pageClean_letGo _ r (r.pageOf (s.shadeVa a)) _).trans ((s.pageClean_holdPage r (r.pageOf (s.shadeVa a)) p).trans hclean)
  obtain ⟨hframe, hdark, hfreed⟩ := State.fade_clean hfind hlit hstays rfl
  obtain ⟨hrest, hsteps, hregs⟩ := pageSteps_steps (steps := fun r n page begun s => s.fadePages r n page begun) h hone hn hfirst
    (State.fadePages_clean hone hp hclean hbusy) (by rw [hframe]; rfl)
  refine ⟨_, rfl, ?_, hsteps, hregs, ?_, fun pool hpool => ?_⟩
  · exact (hrest.reads State.mem fun _ => rfl).trans (by rw [hframe, State.holdPage_mem])
  · exact (hrest.reads (Claims.pageNow · r _) fun _ => rfl).trans hdark
  · rw [hrest.reads State.pools fun _ => rfl]
    exact hfreed pool hpool

/-- R204: `shfade` of a page that is not clean lets it go, and it stays lit. -/
theorem shfade_lets_go {a b : BitVec 8} {s : State} {r : Region} {p : LitPage} (h : Clear (.shfade a b) s)
    (hone : Claims.OnePage s (s.shadeVa a) r) (hn : s.g.operandFull s.port b = 1) (hfirst : Claims.firstStep s r (r.pageOf (s.shadeVa a)))
    (hp : r.litPage (r.pageOf (s.shadeVa a)) = some p) (hclean : s.pageClean r p = false) :
    ∃ t q, exec (.shfade a b) s = .next t ∧ t.mem = s.mem ∧ Steps (.shfade a b) s t ∧ t.pools = s.pools ∧ t.g.regs = s.g.regs ∧
      Claims.pageNow t r (r.pageOf (s.shadeVa a)) = some q ∧ q.phys = p.phys ∧ q.held = false := by
  obtain ⟨hrest, hsteps, hregs⟩ := pageSteps_steps (steps := fun r n page begun s => s.fadePages r n page begun) h hone hn hfirst
    (State.fadePages_unclean hone hp hclean) rfl
  refine ⟨_, p.hold false, rfl, ?_, hsteps, ?_, hregs, ?_, rfl, rfl⟩
  · exact hrest.reads State.mem fun _ => rfl
  · exact hrest.reads State.pools fun _ => rfl
  · exact (hrest.reads (Claims.pageNow · r _) fun _ => rfl).trans ((pageNow_holdPage hone.first _ false).trans (congrArg (Option.map _) hp))

/-- R199, R200: the fade step of an eager region's clean candidate darkens it. -/
theorem fadeStep_darkens {s : State} {r : Region} {i : Nat} {p : LitPage} (hregions : s.regions = [r]) (hgone : r.gone = false)
    (hp : r.litPage i = some p) (hfade : r.fade = 0) (hcandidate : p.candidate = true) (hheld : p.held = false)
    (hbusy : s.pageBusy r i = false) (hclean : s.pageClean r p = true) :
    ∃ t, exec (.fadeStep r.root r.base i) s = .next t ∧ t.mem = s.mem ∧ t.g = s.g ∧ Claims.pageNow t r i = none ∧
      ∀ pool, s.pools.find? (fun x => decide (x.num = r.pool)) = some pool →
        (t.pools.find? (fun x => decide (x.num = r.pool))).map (fun x => x.free) = some (pool.free ++ [p.phys]) := by
  have hfirst : s.regions.find? (fun q => q.same r) = some r := by simp [hregions, Region.same_self]
  obtain ⟨hframe, hdark, hfreed⟩ := State.fade_clean hfirst hp hclean hheld
  exact ⟨_, fadeStep_fades hregions hgone hp hfade hcandidate hheld hbusy, by rw [hframe], by rw [hframe], hdark, hfreed⟩

/-! ### What stops `shlit` and `shfade` (R194, R197) -/

/-- The two instructions take their page steps alike. -/
theorem exec_pageSteps {i : Instr} {a b : BitVec 8} (hi : i = .shlit a b ∨ i = .shfade a b) (s : State) :
    ∃ steps, exec i s = .next (s.pageSteps i a b steps) := by
  rcases hi with rfl | rfl
  · exact ⟨_, rfl⟩
  · exact ⟨_, rfl⟩

theorem State.pageRange_unaligned {s : State} {va : Nat} (n : Nat) (h : va % 65536 ≠ 0) : s.pageRange va n = .error Cause.shadeArg := if_pos h

theorem State.pageRange_nowhere {s : State} {va : Nat} (n : Nat) (h : va % 65536 = 0) (hr : s.regionAt s.g.id.root va = none) :
    s.pageRange va n = .error Cause.regionNone := by
  simp [State.pageRange, h, hr]

theorem State.pageRange_leaves {s : State} {va n : Nat} {r : Region} (h : va % 65536 = 0) (hr : s.regionAt s.g.id.root va = some r)
    (hout : r.base + r.size < va + 65536 * n) : s.pageRange va n = .error Cause.shadeArg := by
  simp [State.pageRange, h, hr, hout]

/-- R263: a page step that is refused: its stream has stopped on a cause, and no page has changed. -/
theorem pageSteps_stops {i : Instr} {s t : State} {u : Uses} {c : Cause} (hk : s.g.id.kind = .ordinary) (hf : s.Unchained)
    (ht : exec i s = .next t) (h : t = s.refuse u c) :
    ∃ t, exec i s = .next t ∧ Trapped s t c 0 0 ∧ t.mem = s.mem ∧ t.regions = s.regions ∧ t.pools = s.pools ∧ t.g.regs = s.g.regs ∧
      t.g.modes = s.g.modes := by
  obtain ⟨t, hexec, htrap, hrest, hregs, hmodes, -⟩ := exec_refused_stops hk hf (ht.trans (congrArg _ h))
  exact ⟨t, hexec, htrap, by rw [hrest], by rw [hrest], by rw [hrest], hregs, hmodes⟩

/-- Settles O30: a page step holds, lights, lets go or fades its page, and each cause that stops one refuses it before it changes anything. -/
theorem pagesLightAndFade : Obligations.PagesLightAndFade := by
  unfold Obligations.PagesLightAndFade
  refine ⟨fun a b s r => ⟨fun h hone hn hfirst => ⟨fun p hp => ?_, fun pool f rest hp hpool hfree => ?_⟩,
    fun p h hone hn hfirst hp _ => ⟨fun hclean hbusy => ?_, fun hclean => ?_⟩,
    fun i p hregions hgone hp hfade hcandidate hheld hbusy hclean => ?_⟩, fun i a b s hi h hk hf hwait => ?_⟩
  · exact shlit_holds h hone hn hfirst hp
  · obtain ⟨t, q, hexec, hsteps, hregs, hnow, hphys, hheld, hpools, hmem⟩ := shlit_lights h hone hn hfirst hp hpool hfree
    exact ⟨t, q, hexec, hsteps, hregs, hnow, hphys, hheld, hpools, fun hr k _ => hmem hr k⟩
  · exact shfade_fades h hone hn hfirst hp hclean hbusy
  · exact shfade_lets_go h hone hn hfirst hp hclean
  · exact fadeStep_darkens hregions hgone hp hfade hcandidate hheld hbusy hclean
  · obtain ⟨steps, hexec⟩ := exec_pageSteps hi s
    refine ⟨fun hva => ?_, fun hva hr => ?_, fun r hva hr hout => ?_, fun r pool hlit hone hn hfirst hp hpool hfree hnone => ?_⟩
    · exact pageSteps_stops hk hf hexec (State.pageSteps_refused h hwait (State.pageRange_unaligned _ hva))
    · exact pageSteps_stops hk hf hexec (State.pageSteps_refused h hwait (State.pageRange_nowhere _ hva hr))
    · exact pageSteps_stops hk hf hexec (State.pageSteps_refused h hwait (State.pageRange_leaves hva hr hout))
    · subst hlit
      exact pageSteps_stops hk hf rfl (State.pageSteps_full h hone hn hfirst (State.lightPages_refused hone hp hpool hfree hnone))

end Sys2Proof.Machine
end

section
/-! PROOF. O31: `shmap` adds a region. -/

namespace Sys2Proof.Machine

/-! ### Descriptors of regions (R188, R193) -/

/-- R188: a region as its descriptor gives it has every page dark, and is in use. -/
theorem regionOfDesc_new {x root : Nat} {creator : Option (BitVec 40)} {q : Region} (h : regionOfDesc x root creator = some q) :
    q.lit = [] ∧ q.gone = false := by
  unfold regionOfDesc at h
  dsimp only at h
  split at h
  · cases h
    exact ⟨rfl, rfl⟩
  · cases h

/-- R193: no translation of the range of a region that is added stays. -/
theorem State.addRegion_tlb (s : State) (q : Region) :
    ∀ e ∈ (s.addRegion q).tlb, e.root = q.root → q.base + q.size ≤ e.base ∨ e.base + e.leaf.size ≤ q.base := by
  intro e he hroot
  obtain ⟨-, hout⟩ := List.mem_filter.1 (show e ∈ s.tlb.filter _ from he)
  simpa [hroot, Bool.and_eq_false_iff] using hout

/-! ### `shmap` (R192, R193, R205) -/

/-- R193, R205: what `shmap` does with the descriptor that it has read. -/
def State.mapRegion (s : State) : Option Region → Act
  | none => .no Cause.regionDesc
  | some q =>
    if s.regionClash q then .no Cause.regionDesc
    else if !(s.mayWrite s.port (.region q.root q.base) q.size) then .later
    else .run ((s.addRegion q).onGroup (fun g => g.unlatch s.port))

theorem State.mapRegion_adds {s : State} {q : Region} (hclash : s.regionClash q = false)
    (hmay : s.mayWrite s.port (.region q.root q.base) q.size = true) :
    s.mapRegion (some q) = .run ((s.addRegion q).onGroup (fun g => g.unlatch s.port)) := by
  simp [State.mapRegion, hclash, hmay]

theorem State.mapRegion_refuses {s : State} {r : Option Region} {q : Region} (h : r = none ∨ r = some q ∧ s.regionClash q = true) :
    s.mapRegion r = .no Cause.regionDesc := by
  rcases h with rfl | ⟨rfl, hclash⟩
  · rfl
  · simp [State.mapRegion, hclash]

section
variable {a : BitVec 8} {s : State} (h : Clear (.shmap a) s)
include h

theorem shmap_private (hg : s.mayManage = false) :
    exec (.shmap a) s = .next (s.refuse (usesOf (s.g.streamAt s.port) (.shmap a)) Cause.regionPriv) := by
  show Host.Outcome.next (s.issue _ _) = _
  rw [issue_of_clear h]
  simp only [hg, Bool.not_false, if_true]
  rfl

theorem shmap_misplaced (hg : s.mayManage = true)
    (hoff : s.g.operandFull s.port a % 64 ≠ 0 ∨ s.windowSize s.g < s.g.operandFull s.port a + 64) :
    exec (.shmap a) s = .next (s.refuse (usesOf (s.g.streamAt s.port) (.shmap a)) Cause.regionDesc) := by
  show Host.Outcome.next (s.issue _ _) = _
  rw [issue_of_clear h]
  simp only [hg, hoff, Bool.not_true, Bool.false_eq_true, if_true, if_false]
  rfl

/-- R192: a descriptor in its place is read. -/
theorem shmap_reads (hg : s.mayManage = true) (hal : s.g.operandFull s.port a % 64 = 0)
    (hin : s.g.operandFull s.port a + 64 ≤ s.windowSize s.g)
    (hread : s.g.pendingOn s.port (.spad s.g.id.team (s.g.operandFull s.port a)) 64 = false) :
    exec (.shmap a) s = .next (s.settle (.shmap a) (usesOf (s.g.streamAt s.port) (.shmap a))
      (s.mapRegion (regionOfDesc (ofBytes (s.spadBytes s.g (s.g.operandFull s.port a) 64)) s.g.id.root (some s.g.ownTask)))) := by
  have hplace : ¬(s.g.operandFull s.port a % 64 ≠ 0 ∨ s.windowSize s.g < s.g.operandFull s.port a + 64) := by omega
  show Host.Outcome.next (s.issue _ _) = _
  rw [issue_of_clear h]
  simp only [hg, hplace, hread, Bool.not_true, Bool.false_eq_true, if_false]
  rfl

end

/-- R193: an instruction that adds a region, with a group switch of its slot. -/
theorem settle_adds {i : Instr} {s : State} (h : Clear i s) (q : Region) :
    let t := s.settle i (usesOf (s.g.streamAt s.port) i) (.run ((s.addRegion q).onGroup (fun g => g.unlatch s.port)))
    t.mem = s.mem ∧ t.g.regs = s.g.regs ∧ Steps i s t ∧ t.regions = s.regions ++ [q] ∧
      ∀ e ∈ t.tlb, e.root = q.root → q.base + q.size ≤ e.base ∨ e.base + e.leaf.size ≤ q.base := by
  intro t
  obtain ⟨hrest, hsteps, hregs⟩ := settle_run_unlatched (t := s.addRegion q) h rfl
  refine ⟨hrest.reads State.mem fun _ => rfl, hregs, hsteps, hrest.reads State.regions fun _ => rfl, ?_⟩
  rw [hrest.reads State.tlb fun _ => rfl]
  exact s.addRegion_tlb q

/-- R263: an instruction that is refused leaves the regions as they are. -/
theorem refused_keeps_regions {i : Instr} {s : State} {u : Uses} {c : Cause} (hk : s.g.id.kind = .ordinary) (hf : s.Unchained)
    (h : exec i s = .next (s.refuse u c)) :
    ∃ t, exec i s = .next t ∧ Trapped s t c 0 0 ∧ t.regions = s.regions ∧ t.g.regs = s.g.regs := by
  obtain ⟨t, hexec, htrap, hrest, hregs, -⟩ := exec_refused_stops hk hf h
  exact ⟨t, hexec, htrap, by rw [hrest], hregs⟩

end Sys2Proof.Machine
end

section
/-! PROOF. O31: `litscan` leaves its block in the out-queue. -/

namespace Sys2Proof.Machine

/-! ### Words and their bytes (R4) -/

theorem length_flatMap_toBytes (n : Nat) (ws : List Nat) : (ws.flatMap (toBytes n)).length = n * ws.length := by
  simp [List.length_flatMap, length_toBytes, Nat.mul_comm]

/-- The bytes behind some words are those of the words behind them. -/
theorem drop_flatMap_toBytes (n k : Nat) (ws : List Nat) : (ws.flatMap (toBytes n)).drop (n * k) = (ws.drop k).flatMap (toBytes n) := by
  induction k generalizing ws with
  | zero => rfl
  | succ k ih =>
    cases ws with
    | nil => simp
    | cons w ws =>
      rw [List.flatMap_cons, List.drop_succ_cons, ← ih, Nat.mul_succ, Nat.add_comm, ← List.drop_drop,
        List.drop_left' (length_toBytes n w)]

theorem take_flatMap_toBytes (n k : Nat) (ws : List Nat) : (ws.flatMap (toBytes n)).take (n * k) = (ws.take k).flatMap (toBytes n) := by
  induction k generalizing ws with
  | zero => simp
  | succ k ih =>
    cases ws with
    | nil => simp
    | cons w ws =>
      rw [List.flatMap_cons, List.take_succ_cons, List.flatMap_cons, ← ih, Nat.mul_succ, Nat.add_comm, List.take_add,
        List.take_left' (length_toBytes n w), List.drop_left' (length_toBytes n w)]

theorem ofBytes_append (l m : List Byte) : ofBytes (l ++ m) = ofBytes l + 256 ^ l.length * ofBytes m := by
  induction l with
  | nil => simp [ofBytes]
  | cons b l ih =>
    rw [List.cons_append, ofBytes, ih, ofBytes, List.length_cons, Nat.pow_succ', Nat.mul_add, Nat.mul_assoc, Nat.add_assoc]

/-- The first two words of a list, in the bytes of those that there are. -/
theorem ofBytes_two_words (ws : List Nat) :
    ofBytes ((ws.take 2).flatMap (toBytes 4)) = ws.getD 0 0 % 2 ^ 32 + ws.getD 1 0 % 2 ^ 32 * 2 ^ 32 := by
  match ws with
  | [] => rfl
  | [w] => simp [ofBytes_toBytes]
  | w :: v :: ws => simp [ofBytes_append, ofBytes_toBytes, length_toBytes, Nat.mul_comm]

/-- The unit of eight bytes at a place of some bytes, the last one of those that there are. -/
def unitAt (bs : List Byte) (k : Nat) : List Byte := (bs.drop (8 * k)).take 8

/-- Two words, or the last one, make a unit. -/
theorem unitAt_words (ws : List Nat) (k : Nat) : unitAt (ws.flatMap (toBytes 4)) k = ((ws.drop (2 * k)).take 2).flatMap (toBytes 4) := by
  rw [← take_flatMap_toBytes, ← drop_flatMap_toBytes, unitAt, ← Nat.mul_assoc]

theorem ofBytes_unitAt_words (ws : List Nat) (k : Nat) :
    ofBytes (unitAt (ws.flatMap (toBytes 4)) k) = ws.getD (2 * k) 0 % 2 ^ 32 + ws.getD (2 * k + 1) 0 % 2 ^ 32 * 2 ^ 32 := by
  rw [unitAt_words, ofBytes_two_words]
  simp

theorem length_unitAt_words (ws : List Nat) {k : Nat} (h : 2 * k < ws.length) :
    (unitAt (ws.flatMap (toBytes 4)) k).length = if 2 * k + 1 < ws.length then 8 else 4 := by
  rw [unitAt_words, length_flatMap_toBytes, List.length_take, List.length_drop]
  split <;> omega

/-! ### Store entries of a block (R203, R213) -/

/-- R213: an entry of the instruction at the port that writes a unit of a block to the scratchpad. -/
structure Posted (s : State) (off : Nat) (bs : List Byte) (k : Nat) (e : Entry) : Prop where
  kind : e.kind = .store
  serial : e.serial = s.g.serial
  loc : e.loc = .spad s.g.id.team (off + 8 * k)
  win : e.win = none
  size : e.size = (unitAt bs k).length
  data : e.data = BitVec.ofNat 64 (ofBytes (unitAt bs k))

/-- R203: a block is posted unit by unit. -/
theorem State.postSpad_posts (s : State) (off : Nat) (bs : List Byte) : ∃ new, Sends s (s.postSpad off bs) new [] ∧
    new.length = (bs.length + 7) / 8 ∧ ∀ k e, new[k]? = some e → Posted s off bs k e := by
  unfold State.postSpad
  induction (bs.length + 7) / 8 with
  | zero => exact ⟨[], sends_refl s, rfl, by simp⟩
  | succ n ih =>
    obtain ⟨new, hsends, hlength, hposted⟩ := ih
    rw [List.range_succ, List.foldl_append]
    refine ⟨_, hsends.trans (sends_addEntry _ _ _ _ _ _ _ _ _ _ _ _ _), by rw [List.length_append, hlength]; rfl, fun k e he => ?_⟩
    rcases Nat.lt_or_ge k n with hk | hk
    · rw [List.getElem?_append_left (hlength ▸ hk)] at he
      exact hposted k e he
    · rw [List.getElem?_append_right (hlength ▸ hk), List.getElem?_singleton] at he
      split at he
      · next hlast =>
        obtain rfl : k = n := by omega
        cases he
        exact ⟨rfl, (congrArg Group.serial hsends.g_eq).trans rfl,
          (congrArg (fun g : Group => Loc.spad g.id.team (off + 8 * k)) hsends.g_eq).trans rfl, rfl, rfl, rfl⟩
      · cases he

/-! ### A stream that waits at an instruction that has issued (R79) -/

theorem settle_wait_eq (i : Instr) (s t : State) (u : Uses) {w : Wait} (hw : w.parksGroup = false) : s.settle i u (.wait w t) =
    t.onGroup (fun g => ((g.popAll s.port u.pops).park s.port u w).setSlot s.port
      { ((g.popAll s.port u.pops).park s.port u w).slot s.port with held := s.g.poppedBy s.port u }) := by
  unfold State.settle
  cases hport : s.port with
  | setter => simp [hw, Group.setSlot]
  | slot0 => simp [hw]
  | slot1 => simp [hw]

/-- R79: a stream waits at an instruction that has issued, and stands at it; of its group the streams alone have changed since the act. -/
theorem settle_wait_parks (i : Instr) (s t : State) (u : Uses) {w : Wait} (hw : w.parksGroup = false) :
    let v := s.settle i u (.wait w t)
    OnlyGroup t v ∧ StreamsOnly t.g v.g ∧ v.g.waitAt s.port = w ∧ v.g.pcAt s.port = t.g.pcAt s.port := by
  intro v
  have hstreams : StreamsOnly t.g v.g := by
    rw [show v = _ from settle_wait_eq i s t u hw]
    exact ((streamsOnly_popAll _ _ _).trans (streamsOnly_park _ _ _ _)).trans (streamsOnly_setSlot _ _ _)
  by_cases hp : s.port = .setter
  · have hv : v = t.onGroup (fun g => { g.popAll .setter u.pops with setWait := w }) := by
      rw [show v = _ from settle_wait_eq i s t u hw, hp]
      rfl
    refine ⟨by rw [hv]; rfl, hstreams, ?_, ?_⟩
    · rw [hv, hp]
      rfl
    · rw [hv, hp]
      exact Group.popAll_setPc t.g .setter u.pops
  · obtain ⟨honly, -, -, hwait, hpc⟩ := settle_wait_stands (s := s) (i := i) u t hp hw
    exact ⟨honly, hstreams, hwait, hpc⟩

/-- R203, R213: an instruction posts a block to the scratchpad and waits. -/
theorem settle_wait_posts (i : Instr) (s : State) (u : Uses) (off : Nat) (bs : List Byte) {w : Wait} (hw : w.parksGroup = false) :
    let v := s.settle i u (.wait w ((s.postSpad off bs).onGroup (fun g => { g with serial := g.serial + 1 })))
    ∃ new, v.mem = s.mem ∧ v.bufs = s.bufs ∧ v.teams = s.teams ∧ v.others = s.others ∧ v.regions = s.regions ∧ v.g.regs = s.g.regs ∧
      v.g.modes = s.g.modes ∧ v.g.waitAt s.port = w ∧ v.g.pcAt s.port = s.g.pcAt s.port ∧ v.g.outq = s.g.outq ++ new ∧
      new.length = (bs.length + 7) / 8 ∧ ∀ k e, new[k]? = some e → Posted s off bs k e := by
  intro v
  obtain ⟨new, hsends, hlength, hposted⟩ := s.postSpad_posts off bs
  obtain ⟨tlb, uid, hsent⟩ := hsends.exists_eq
  obtain ⟨honly, hstreams, hwait, hpc⟩ := settle_wait_parks i s ((s.postSpad off bs).onGroup (fun g => { g with serial := g.serial + 1 })) u hw
  change OnlyGroup _ v at honly
  change StreamsOnly _ v.g at hstreams
  change v.g.pcAt s.port = _ at hpc
  rw [hsent] at honly hstreams hpc
  refine ⟨new, ?_, ?_, ?_, ?_, ?_, hstreams.regs, hstreams.modes, hwait, hpc.trans (by cases s.port <;> rfl), hstreams.outq, hlength, hposted⟩
  · exact honly.reads State.mem fun _ => rfl
  · exact honly.reads State.bufs fun _ => rfl
  · exact honly.reads State.teams fun _ => rfl
  · exact honly.reads State.others fun _ => rfl
  · exact honly.reads State.regions fun _ => rfl

/-! ### `litscan` as it issues (R192, R203, R205) -/

/-- R203: the entry of a lit page in a scan block. -/
def State.scanEntry (s : State) (r : Region) (p : LitPage) : Nat :=
  (if p.held then 2 ^ 31 else 0) + (if s.pageClean r p then 2 ^ 30 else 0) + p.index

/-- R203: the words that `litscan` writes behind its header. -/
def State.scanWords (s : State) (r : Region) (first cap : Nat) : List Nat :=
  [(r.litFrom first).length, min cap (r.litFrom first).length] ++ ((r.litFrom first).take cap).map (s.scanEntry r)

theorem State.scanBlock_words (s : State) (r : Region) (first cap : Nat) : let b := s.scanBlock r first cap
    toBytes 4 b.1 ++ toBytes 4 b.2.1 ++ b.2.2 = (s.scanWords r first cap).flatMap (toBytes 4) := by
  simp only [State.scanBlock, State.scanWords, List.cons_append, List.nil_append, List.flatMap_cons, List.flatMap_map, List.length_take,
    List.append_assoc]
  rfl

/-- R203: the header of a `litscan`, as its stream reads it: CAP in the low word, FIRST above it. -/
def State.scanHeader (s : State) (b : BitVec 8) : Nat := ofBytes (s.spadBytes s.g (s.g.operandFull s.port b) 16)

/-- R203: the header of a `litscan` lies in the window and is read as it issues. -/
structure ScanReads (s : State) (b : BitVec 8) : Prop where
  aligned : s.g.operandFull s.port b % 16 = 0
  inside : s.g.operandFull s.port b + 16 ≤ s.windowSize s.g
  ready : s.g.pendingOn s.port (.spad s.g.id.team (s.g.operandFull s.port b)) 16 = false

theorem bitsOf_cap (x : Nat) : bitsOf x 31 0 = x % 2 ^ 32 := by simp [bitsOf]
theorem bitsOf_first (x : Nat) : bitsOf x 63 32 = x / 2 ^ 32 % 2 ^ 32 := rfl

section
variable {a b : BitVec 8} {s : State} (h : Clear (.litscan a b) s)
include h

theorem litscan_misplaced (hoff : s.g.operandFull s.port b % 16 ≠ 0 ∨ s.windowSize s.g < s.g.operandFull s.port b + 16) :
    exec (.litscan a b) s = .next (s.refuse (usesOf (s.g.streamAt s.port) (.litscan a b)) Cause.shadeArg) := by
  show Host.Outcome.next (s.issue _ _) = _
  rw [issue_of_clear h]
  simp only [hoff, if_true]
  rfl

variable (hr : ScanReads s b)
include hr

theorem litscan_overflows (hcap : s.windowSize s.g < s.g.operandFull s.port b + 16 + 4 * (s.scanHeader b % 2 ^ 32)) :
    exec (.litscan a b) s = .next (s.refuse (usesOf (s.g.streamAt s.port) (.litscan a b)) Cause.shadeArg) := by
  obtain ⟨hal, hin, hready⟩ := hr
  have hplace : ¬(s.g.operandFull s.port b % 16 ≠ 0 ∨ s.windowSize s.g < s.g.operandFull s.port b + 16) := by omega
  show Host.Outcome.next (s.issue _ _) = _
  rw [issue_of_clear h]
  rw [State.scanHeader] at hcap
  simp only [hplace, hready, bitsOf_cap, hcap, Bool.false_eq_true, if_true, if_false]
  rfl

variable (hcap : s.g.operandFull s.port b + 16 + 4 * (s.scanHeader b % 2 ^ 32) ≤ s.windowSize s.g)
include hcap

theorem litscan_nowhere (hregion : s.regionAt s.g.id.root (s.shadeVa a) = none) :
    exec (.litscan a b) s = .next (s.refuse (usesOf (s.g.streamAt s.port) (.litscan a b)) Cause.regionNone) := by
  obtain ⟨hal, hin, hready⟩ := hr
  have hplace : ¬(s.g.operandFull s.port b % 16 ≠ 0 ∨ s.windowSize s.g < s.g.operandFull s.port b + 16) := by omega
  show Host.Outcome.next (s.issue _ _) = _
  rw [issue_of_clear h]
  rw [State.scanHeader] at hcap
  simp only [hplace, hready, bitsOf_cap, Nat.not_lt.2 hcap, hregion, Bool.false_eq_true, if_false]
  rfl

/-- R203, R205: the block of a region goes into the out-queue, and the stream waits for it. -/
theorem litscan_posts {r : Region} (hregion : s.regionAt s.g.id.root (s.shadeVa a) = some r)
    (hmay : s.g.mayAccess s.port (.region r.root r.base) r.size .load = true) :
    exec (.litscan a b) s = .next (s.settle (.litscan a b) (usesOf (s.g.streamAt s.port) (.litscan a b)) (.wait (.scan s.g.serial)
      ((s.postSpad (s.g.operandFull s.port b + 8) ((s.scanWords r (s.scanHeader b / 2 ^ 32 % 2 ^ 32) (s.scanHeader b % 2 ^ 32)).flatMap
        (toBytes 4))).onGroup (fun g => { g with serial := g.serial + 1 })))) := by
  obtain ⟨hal, hin, hready⟩ := hr
  have hplace : ¬(s.g.operandFull s.port b % 16 ≠ 0 ∨ s.windowSize s.g < s.g.operandFull s.port b + 16) := by omega
  show Host.Outcome.next (s.issue _ _) = _
  rw [issue_of_clear h, ← State.scanBlock_words]
  rw [State.scanHeader] at hcap ⊢
  simp only [hplace, hready, bitsOf_cap, bitsOf_first, Nat.not_lt.2 hcap, hregion, hmay, Bool.not_true, Bool.false_eq_true, if_false]

/-- R203: the entries that a `litscan` leaves, in the order of its words. -/
theorem litscan_scans {r : Region} (hregion : s.regionAt s.g.id.root (s.shadeVa a) = some r)
    (hmay : s.g.mayAccess s.port (.region r.root r.base) r.size .load = true) :
    let off := s.g.operandFull s.port b
    let words := s.scanWords r (s.scanHeader b / 2 ^ 32 % 2 ^ 32) (s.scanHeader b % 2 ^ 32)
    ∃ t new, exec (.litscan a b) s = .next t ∧ t.mem = s.mem ∧ t.bufs = s.bufs ∧ t.teams = s.teams ∧ t.others = s.others ∧
      t.regions = s.regions ∧ t.g.regs = s.g.regs ∧ t.g.modes = s.g.modes ∧ t.g.waitAt s.port = .scan s.g.serial ∧
      t.g.pcAt s.port = s.g.pcAt s.port ∧ t.g.outq = s.g.outq ++ new ∧ new.length = (words.length + 1) / 2 ∧
      ∀ k e, new[k]? = some e → e.kind = .store ∧ e.serial = s.g.serial ∧ e.loc = .spad s.g.id.team (off + 8 + 8 * k) ∧ e.win = none ∧
        e.size = (if 2 * k + 1 < words.length then 8 else 4) ∧
        e.data.toNat = words.getD (2 * k) 0 % 2 ^ 32 + words.getD (2 * k + 1) 0 % 2 ^ 32 * 2 ^ 32 := by
  intro off words
  obtain ⟨new, hmem, hbufs, hteams, hothers, hregions, hregs, hmodes, hwait, hpc, houtq, hlength, hposted⟩ :=
    settle_wait_posts (.litscan a b) s (usesOf (s.g.streamAt s.port) (.litscan a b)) (off + 8) (words.flatMap (toBytes 4))
      (w := .scan s.g.serial) rfl
  rw [length_flatMap_toBytes] at hlength
  refine ⟨_, new, litscan_posts h hr hcap hregion hmay, hmem, hbufs, hteams, hothers, hregions, hregs, hmodes, hwait, hpc, houtq, by omega,
    fun k e he => ?_⟩
  obtain ⟨hkind, hserial, hloc, hwin, hsize, hdata⟩ := hposted k e he
  have hk : k < new.length := (List.getElem?_eq_some_iff.1 he).1
  refine ⟨hkind, hserial, hloc, hwin, hsize.trans (length_unitAt_words words (by omega)), ?_⟩
  rw [hdata, BitVec.toNat_ofNat, ofBytes_unitAt_words]
  omega

end

end Sys2Proof.Machine
end

section
/-! PROOF. O31: the stream of a `litscan` goes on; the obligation. -/

namespace Sys2Proof.Machine

/-! ### The last entry of a scan performs (R203, R213) -/

theorem Group.retire_waitAt (g0 g : Group) (p : Port) (i : Instr) (u : Uses) (r : Option Wide) (j : Bool) :
    (g0.retire g p i u r j).waitAt p = .running := by
  have hend : ∀ x : Slot, x.endReplay.wait = x.wait := fun x => by
    unfold Slot.endReplay
    split
    · split <;> rfl
    · rfl
  by_cases hp : p = .setter
  · subst hp
    rfl
  · rw [Group.waitAt_hitter _ hp, Group.retire_slot _ _ _ _ _ _ _ hp, hend]

/-- R203: where no entry of a `litscan` is left, the stream that waits for them goes on. -/
theorem State.InHand.scanSettled {s : State} (h : s.InHand) {n : Nat} {p : Port} (hp : s.g.portWhere (fun w => decide (w = .scan n)) = some p)
    (hout : ∀ x ∈ s.g.outq, x.serial ≠ n) :
    s.scanSettled s.g.id.uid n = { s with g := s.g.retire s.g p (.litscan 0 0) {} none false } := by
  have hnone : s.g.outq.any (fun e => e.serial == n) = false := List.any_eq_false.2 fun x hx => by simp [hout x hx]
  have hvisit : s.visit s.g.id.uid p (fun s => s.onGroup (fun g => g.retire g p (.litscan 0 0) {} none false)) =
      { s with g := s.g.retire s.g p (.litscan 0 0) {} none false } :=
    State.visit_port (congrArg Ident.uid (Group.retire_id _ _ _ _ _ _ _))
  have hmirror := (h.of_performs (resumes_of_group (streamsOnly_retire s.g p (.litscan 0 0))).performs).mirrorStep p .none 0
  have huid : (s.g.retire s.g p (.litscan 0 0) {} none false).id.uid = s.g.id.uid := congrArg Ident.uid (Group.retire_id _ _ _ _ _ _ _)
  simp only [huid] at hmirror
  unfold State.scanSettled
  rw [State.group_port h.present]
  simp only [Option.bind_some, hnone, Bool.false_eq_true, if_false, hp]
  show (s.visit s.g.id.uid p (fun s => s.onGroup (fun g => g.retire g p (.litscan 0 0) {} none false))).mirrorStep _ _ _ _ = _
  rw [hvisit]
  exact hmirror

/-- R213: a store outside every window performs, where no debug block records it: it is in the buffer of its group, and its entry has left. -/
def State.afterStore (s : State) (e : Entry) : State :=
  (s.bufferWrite s.g e.serial e.loc e.va e.size e.data e.full (e.rel.map s.g.tag)).modGroup s.g.id.uid (fun g => g.leaves e)

theorem performStore_stores {s : State} {e : Entry} (hr : Claims.Ready s e) (hu : Claims.Unwatched s) (hk : e.kind = .store) (hw : e.win = none)
    (hm : s.releaseMay s.g e = true) : exec (.performStore e.id) s = .next ((s.afterStore e).scanSettled s.g.id.uid e.serial) := by
  obtain ⟨-, hfound, hmay⟩ := hr
  obtain ⟨hrecorders, -, -⟩ := hu
  have hobserve := State.observeAccess_unrecorded (s := s.afterStore e) hrecorders s.g.id.uid e.serial e.loc e.va true false
  show execPerformStore e.id s = _
  unfold execPerformStore
  simp only [hfound, hmay, hm, hk, State.contribute, hw, Bool.and_self, Bool.not_true, Bool.false_eq_true, if_false]
  exact congrArg (fun t : State => Host.Outcome.next (t.scanSettled s.g.id.uid e.serial)) hobserve

/-- R203: the last entry of a `litscan` performs, and its stream goes on. -/
theorem performStore_ends_scan {s : State} {e : Entry} {p : Port} (hr : Claims.Ready s e) (hu : Claims.Unwatched s) (hk : e.kind = .store)
    (hw : e.win = none) (hm : s.releaseMay s.g e = true) (hport : s.g.portWhere (fun w => decide (w = .scan e.serial)) = some p)
    (hlast : ∀ x ∈ s.g.outq, x.serial = e.serial → x.id = e.id) (hp : p = .setter ∨ (s.g.slot p).path.isSome = true) :
    ∃ t, exec (.performStore e.id) s = .next t ∧ t.g.waitAt p = .running ∧ t.g.pcAt p = s.g.pcAt p + 4 ∧ t.g.regs = s.g.regs ∧
      t.port = s.port := by
  have hg : (s.afterStore e).g = s.g.leaves e := State.modGroup_g _ rfl _
  have hslot : (s.g.leaves e).slot p = s.g.slot p := (steady_leaves e).slot s.g p
  have hpc : (s.g.leaves e).pcAt p = s.g.pcAt p := by cases p <;> rfl
  have hhand : (s.afterStore e).InHand := by
    obtain ⟨-, -, hunhandled⟩ := hu
    have hbuffered : (s.bufferWrite s.g e.serial e.loc e.va e.size e.data e.full (e.rel.map s.g.tag)).InHand := ⟨hr.here, hunhandled⟩
    exact hbuffered.of_performs (performs_modGroup _ (steady_leaves e) rfl)
  have hout : ∀ x ∈ (s.afterStore e).g.outq, x.serial ≠ e.serial := by
    intro x hx hserial
    rw [hg, Group.leaves_outq] at hx
    obtain ⟨y, hy, rfl⟩ := List.mem_map.1 hx
    obtain ⟨hmem, hne⟩ := List.mem_filter.1 hy
    rw [Entry.behind_serial] at hserial
    simp [hlast y hmem hserial] at hne
  have hsettled := hhand.scanSettled (n := e.serial) (p := p) (by rw [hg]; exact hport) hout
  rw [show (s.afterStore e).g.id.uid = s.g.id.uid by rw [hg]; rfl] at hsettled
  refine ⟨_, (performStore_stores hr hu hk hw hm).trans (congrArg _ hsettled), Group.retire_waitAt _ _ _ _ _ _ _, ?_, ?_, rfl⟩
  · show ((s.afterStore e).g.retire (s.afterStore e).g p (.litscan 0 0) {} none false).pcAt p = _
    rw [hg, Group.retire_pcAt _ _ _ _ _ _ _ (by rwa [hslot]), hpc]
    rfl
  · rw [Group.retire_regs, hg]
    rfl

/-! ### The obligation -/

/-- R263: a `litscan` that is refused posts nothing. -/
theorem refused_posts_nothing {i : Instr} {s : State} {u : Uses} {c : Cause} (h : exec i s = .next (s.refuse u c))
    (hk : s.g.id.kind = .ordinary) (hf : s.Unchained) :
    ∃ t, exec i s = .next t ∧ Trapped s t c 0 0 ∧ t.teams = s.teams ∧ t.g.outq = s.g.outq ∧ t.g.regs = s.g.regs := by
  obtain ⟨t, hexec, htrap, hrest, hregs, -, houtq⟩ := exec_refused_stops hk hf h
  exact ⟨t, hexec, htrap, by rw [hrest], houtq, hregs⟩

/-- Settles O31: `shmap` by what it reads, `litscan` by the words that it posts, and the last entry of a scan. -/
theorem regionsMapAndScan : Obligations.RegionsMapAndScan := by
  unfold Obligations.RegionsMapAndScan
  refine ⟨fun a s h => ⟨fun q hg hal hin hread hr hclash hmay => ?_, fun hk hf hg => ?_, fun hk hf hg hoff => ?_,
    fun q hk hf hg hal hin hread hbad => ?_⟩, fun a b s h => ⟨fun r hread hcap hregion hmay => ?_, fun hoff => ?_, fun hread hcap => ?_,
    fun hread hcap hregion => ?_⟩, fun s e p hr hu hk hw hm hport hlast hp => ?_⟩
  · obtain ⟨hmem, hregs, hsteps, hregions, htlb⟩ := settle_adds h q
    obtain ⟨hlit, hgone⟩ := regionOfDesc_new hr
    refine ⟨_, (shmap_reads h hg hal hin hread).trans ?_, hmem, hregs, hsteps, hregions, hlit, hgone, htlb⟩
    rw [hr, State.mapRegion_adds hclash hmay]
  · exact refused_keeps_regions hk hf (shmap_private h hg)
  · exact refused_keeps_regions hk hf (shmap_misplaced h hg hoff)
  · have hexec := shmap_reads h hg hal hin hread
    rw [State.mapRegion_refuses hbad] at hexec
    exact refused_keeps_regions hk hf hexec
  · obtain ⟨hal, hin, hready⟩ := hread
    exact litscan_scans h ⟨hal, hin, hready⟩ hcap hregion hmay
  · exact refused_posts_nothing (litscan_misplaced h hoff)
  · obtain ⟨hal, hin, hready⟩ := hread
    exact refused_posts_nothing (litscan_overflows h ⟨hal, hin, hready⟩ hcap)
  · obtain ⟨hal, hin, hready⟩ := hread
    exact refused_posts_nothing (litscan_nowhere h ⟨hal, hin, hready⟩ hcap hregion)
  · exact performStore_ends_scan hr hu hk hw hm hport hlast hp

end Sys2Proof.Machine
end
